-- ==== Sys2Proof/Word.lean ====
section
/-! DEFINITION. Word types of the chip: bytes, the 32-bit words of a tile's scalar registers, the 64-bit words of
registers, device time and tile instructions. Everything a repair could touch (field extraction, byte order, sign
extension) stands in Sys2Proof/Machine/Bits.lean. -/
namespace Sys2Proof

/-- One byte of memory (R9, R12). -/
abbrev Byte := BitVec 8

/-- A tile scalar register's word (R120). -/
abbrev W32 := BitVec 32

/-- A register of register space, an instruction word, a device time (R34, R123, R9). -/
abbrev W64 := BitVec 64

end Sys2Proof
end

