-- ==== Sys2Proof/OperandTypes.lean ====
section
/-! DEFINITION. The types of the commands' operands. -/
namespace Sys2Proof

/-- Instructions that enter a queue of a tile have two kinds of step: the sequencer issues them, and their unit makes the next move
of the instruction at the head of its queue (R117, R156). -/
inductive Phase where
  | issue | unit
  deriving DecidableEq, Repr

/-- Who makes an access (R34, R294, R401, R563): the control node over Efnil, a Lantern core, a unit that works for a region,
another chip, or the debug port.
DESIGN CHOICE (log entry 7). -/
inductive Origin where
  | efnil
  | core (i : Nat)
  | region (g : Nat)
  | chip (n : Nat)
  deriving DecidableEq, Repr

/-- What the codes on stored data found during a step (R532-R537): nothing; a correctable error of so many symbols, in T2 of device
`device % 16` of subchannel `device / 16` (15 when no device is attributed); an uncorrectable word; bad parity at the storage boundary. -/
inductive Ecc where
  | clean
  | fixed (symbols device : Nat)
  | lost
  | parity
  deriving DecidableEq, Repr

/-- What another chip answered to one access of a step: the address asked for, the status, the location a HOME_MOVED names, and the
data.
DESIGN CHOICE (log entry 6). -/
structure NetAns where
  addr : Nat
  status : Nat
  moved : Nat
  data : List (BitVec 8)
  deriving DecidableEq, Repr

/-- Who makes an aperture write (R108): the partition and the chip it carries, and the tile when a tile of this chip writes. -/
structure Writer where
  partition : Nat
  chip : Nat
  tile : Option Nat
  deriving DecidableEq, Repr

/-- KV pages that Lantern firmware has allocated for a sequence at a step boundary (R390): the sequence, the region of its model, the address
of its page list, the bytes of a page, and the addresses of the pages. -/
structure PageGrant where
  seq : Nat
  region : Nat
  list : Nat
  size : Nat
  pages : List Nat
  deriving DecidableEq, Repr

/-- What Lantern firmware brings to a step boundary: page allocations, the sequences of earlier steps whose runs lie in a section that has
faulted (R390), and what other chips answer to the copies of veil pages.
DESIGN CHOICE (log entry 7). -/
structure StepIn where
  grants : List PageGrant
  faulted : List Nat
  net : List NetAns
  deriving DecidableEq, Repr

/-- The clock domains (Table 18.1), with the unit each one belongs to. -/
inductive ClockDomain where
  | array (n : Nat)
  | dieStore (n : Nat)
  | hbm (n : Nat)
  | ddr (n : Nat)
  | mdCore (m : Nat)
  | odCore (k : Nat)
  | portTx (p : Nat)
  | portRx (e : Nat)
  | hub
  | efnil (l : Nat)
  | alwaysOn
  deriving DecidableEq, Repr

/-- What the sensors read (R581), in degrees Celsius: the hottest sensor of each compute die, each HBM stack, the hottest of HD, MD0, MD1
and the optical dies, and each DIMM. -/
structure Temps where
  cd : List Nat
  hbm : List Nat
  hd : Nat
  md0 : Nat
  md1 : Nat
  od : Nat
  dimm : List Nat
  deriving DecidableEq, Repr

/-- Why a link goes down (R456): loss of light, loss of lane lock or alignment, too many uncorrectable codewords, or a remote fault. -/
inductive LinkCause where
  | light | lock | codewords | remoteFault
  deriving DecidableEq, Repr

/-- The debug facilities (R563): the JTAG port, the debug module of the Lantern cores, the breakpoint and single-step registers of a tile, and a
register of the SEC_DBG window. -/
inductive DebugUnit where
  | jtag | module
  | tile (t : Nat)
  | window (off : Nat)
  deriving DecidableEq, Repr

/-- A request over I3C (R589): an MCTP base control message, or a PLDM reading of a sensor of Table 21.7. -/
inductive I3cReq where
  | control (command : Nat)
  | reading (sensor : Nat)
  deriving DecidableEq, Repr

/-- The atomic memory operations of the A extension. -/
inductive AmoKind where
  | swap | add | and | or | xor | min | max | minu | maxu
  deriving DecidableEq, Repr

/-- What a Lantern core does with memory (R401): a load of `len` bytes, a store of bytes, or an atomic of the A extension of `len` bytes with its
operand. A load-reserved is a load; a store-conditional that succeeds is a store, and one that fails makes no access. -/
inductive LanternAct where
  | load (len : Nat)
  | store (data : List (BitVec 8))
  | amo (kind : AmoKind) (len : Nat) (v : BitVec 64)
  deriving DecidableEq, Repr

/-- Parity in the caches of a Lantern core during an access (R400, Table 19.2): right; wrong in the instruction cache or on a clean line of the data
cache; wrong on a dirty line. -/
inductive CacheParity where
  | right | clean | dirty
  deriving DecidableEq, Repr

/-- An access of a Lantern core, with the parity that it meets in the caches. -/
structure LanternOp where
  act : LanternAct
  parity : CacheParity
  deriving DecidableEq, Repr

/-- How the run ends that gives the logits of a sequence: they stand in hub SRAM at offset `off` (R392), or a section of the run has faulted
(R390). -/
inductive RunEnd where
  | logits (off : Nat)
  | faulted
  deriving DecidableEq, Repr

end Sys2Proof
end

