-- ==== Sys2Proof/Syntax.lean ====
section
/-! DEFINITION. The commands of the block: one constructor per row of spec/opcode_table.json, in the table's order. A command is
an operation or an event of a unit of the chip; its operands say where it happens and carry what comes from outside the chip. -/
namespace Sys2Proof

/-- The commands of the chip (spec/opcode_table.json, spec/95_what_each_step_holds.md). -/
inductive Instr where
  /-- REGISTER_WRITE (R35): A write to a register that has no row of its own is applied in arrival order, or refused with PARAM_RANGE, TILE_BUSY, REG_DENIED or another access status. -/
  | registerWrite (who : Origin) (off : Nat) (len : Nat) (v : BitVec 64)
  /-- RC_READ (R16): A read of an RC field returns its value and clears it in the same access; additions made in that cycle remain. -/
  | rcRead (who : Origin) (off : Nat) (len : Nat)
  /-- CHIP_NUMBER_WRITE (R38): A write to HUB_CHIP.CHIP_NUMBER is recorded and takes effect at once, or waits while START_SECTION is held chip-wide. -/
  | chipNumberWrite (v : BitVec 64)
  /-- CHIP_NUMBER_TAKES_EFFECT (R38): At the first instant with no section RUNNING or ENDING, the pending chip number comes into force. -/
  | chipNumberTakesEffect
  /-- PKGNET_LINK_FAIL (R31): A package network link fails retry 16 times in a row; a fatal record is written and every region of the chip is fenced and reset. -/
  | pkgnetLinkFail (link : Nat) (die : Nat)
  /-- TILE_RING_CFG_WRITE (R592): A TILE_RING_CFG write is judged against the load limits, then applied with HEAD, TAIL and both wrap bits reset to 0, or refused. -/
  | tileRingCfgWrite (t : Nat) (c : Nat) (r : Nat) (v : BitVec 64)
  /-- TILE_APT_WIN_WRITE (R592): A TILE_APT_WIN write is judged against the window limits and the context share, then applied or refused with SPAD_RANGE. -/
  | tileAptWinWrite (t : Nat) (c : Nat) (a : Nat) (v : BitVec 64)
  /-- TILE_APT_SRC_WRITE (R592): A TILE_APT_SRC write is applied, or refused with APT_CFG for KIND 0b11. -/
  | tileAptSrcWrite (t : Nat) (c : Nat) (a : Nat) (v : BitVec 64)
  /-- TILE_CTX_PSTORE_WRITE (R592): A TILE_CTX_PSTORE write is refused with PARAM_RANGE or PSTORE_OVERLAP, or applied. -/
  | tileCtxPstoreWrite (t : Nat) (c : Nat) (v : BitVec 64)
  /-- TILE_CTX_SPAD_WRITE (R592): A TILE_CTX_SPAD write is refused with PARAM_RANGE or SPAD_RANGE, or applied. -/
  | tileCtxSpadWrite (t : Nat) (c : Nat) (v : BitVec 64)
  /-- TILE_FPCTL_WRITE (R69): A TILE_FPCTL write is applied, or refused with FP_MODE_RESERVED when RM holds a reserved code. -/
  | tileFpctlWrite (t : Nat) (c : Nat) (v : BitVec 64)
  /-- CD_TILE_PARK_WRITE (R115): A CD_TILE_PARK write starts parking or unparking tiles; bits of dark tiles are ignored, and bits of tiles in use are ignored with TILE_IN_USE. -/
  | cdTileParkWrite (n : Nat) (k : Nat) (v : BitVec 64)
  /-- PARK_CHANGE_DONE (R115): A requested park change reaches TILE_STATE.STATE within 2 µs. -/
  | parkChangeDone (t : Nat)
  /-- APERTURE_WRITE (R107): A T0 write that arrives at a tile is accepted into an open aperture, appended to a bound ring, or refused with APERTURE_ALIGN, APERTURE_MISS or RING_FULL. -/
  | apertureWrite (w : Writer) (off : Nat) (data : List (BitVec 8))
  /-- TILE_INTERNAL_ERROR (R539): An uncorrectable scratchpad or program store word, or bad parity inside a tile's logic, is detected and darkens the tile. -/
  | tileInternalError (t : Nat) (k : Nat) (off : Nat)
  /-- NOP (R127): NOP takes one issue cycle and has no effect. -/
  | nop (t : Nat)
  /-- ADD (R129): ADD writes SRC1 + SRC2 modulo 2^32 to DST. -/
  | add (t : Nat)
  /-- SUB (R129): SUB writes SRC1 − SRC2 modulo 2^32 to DST. -/
  | sub (t : Nat)
  /-- AND (R129): AND writes the bitwise AND of two registers to DST. -/
  | and (t : Nat)
  /-- OR (R129): OR writes the bitwise OR of two registers to DST. -/
  | or (t : Nat)
  /-- XOR (R129): XOR writes the bitwise XOR of two registers to DST. -/
  | xor (t : Nat)
  /-- SLL (R129): SLL shifts SRC1 left by SRC2[4:0]. -/
  | sll (t : Nat)
  /-- SRL (R129): SRL shifts SRC1 right logically by SRC2[4:0]. -/
  | srl (t : Nat)
  /-- SRA (R129): SRA shifts SRC1 right arithmetically by SRC2[4:0]. -/
  | sra (t : Nat)
  /-- MUL (R129): MUL writes the low 32 bits of the product to DST after 3 cycles. -/
  | mul (t : Nat)
  /-- MINS (R129): MINS writes the signed minimum of two registers. -/
  | mins (t : Nat)
  /-- MAXS (R129): MAXS writes the signed maximum of two registers. -/
  | maxs (t : Nat)
  /-- MINU (R129): MINU writes the unsigned minimum of two registers. -/
  | minu (t : Nat)
  /-- MAXU (R129): MAXU writes the unsigned maximum of two registers. -/
  | maxu (t : Nat)
  /-- ADDI (R129): ADDI writes SRC1 + IMM modulo 2^32 to DST. -/
  | addi (t : Nat)
  /-- LI (R129): LI writes IMM to DST. -/
  | li (t : Nat)
  /-- ANDI (R129): ANDI writes SRC1 AND IMM to DST. -/
  | andi (t : Nat)
  /-- ORI (R129): ORI writes SRC1 OR IMM to DST. -/
  | ori (t : Nat)
  /-- MFS (R131): MFS copies a length, loop counter, coordinate, context, epoch or ring credit value into DST. -/
  | mfs (t : Nat)
  /-- LDX (R132): LDX waits until TAIL has passed 4 B at HEAD + offset of a ring, then loads them into DST without popping. -/
  | ldx (t : Nat)
  /-- PCMP (R130): PCMP compares two registers and writes the result to a predicate. -/
  | pcmp (t : Nat)
  /-- PLOG (R130): PLOG combines two predicates into a third. -/
  | plog (t : Nat)
  /-- PCMPI (R130): PCMPI compares a register with IMM and writes the result to a predicate. -/
  | pcmpi (t : Nat)
  /-- SELX (R129): SELX writes one of two registers to DST, as a predicate selects. -/
  | selx (t : Nat)
  /-- SELECT (R152): SELECT copies N bytes from one of two rings to a destination ring, as a predicate selects, and pops both sources. -/
  | select (t : Nat) (ph : Phase)
  /-- MMA (R135): MMA is checked at issue and placed in the array queue with its masks fixed. -/
  | mma (t : Nat)
  /-- MMA_FIRST_READ (R138): At its first operand read, an MMA checks mode and kind against the live set and replaces that set's mask image. -/
  | mmaFirstRead (t : Nat)
  /-- MMA_KBLOCK_READ (R137): An MMA waits until both rings hold the next K-block, reads and accumulates it, and pops its panels after the last read. -/
  | mmaKblockRead (t : Nat)
  /-- SWAP (R140): SWAP enters the accumulator control queue. -/
  | swap (t : Nat)
  /-- SWAP_EXECUTE (R83): At the queue head, with the shadow set READY and earlier MMAs accumulated, SWAP exchanges the live and shadow sets in one cycle. -/
  | swapExecute (t : Nat)
  /-- DRAIN (R141): DRAIN enters the accumulator control queue. -/
  | drain (t : Nat)
  /-- DRAIN_START (R142): At the queue head, DRAIN checks the shadow state and its rings, then starts read-out or raises an exception. -/
  | drainStart (t : Nat)
  /-- DRAIN_READOUT (R91): Read-out of one array waits for destination credit and then runs the drain path to the ring, advancing TAIL after the whole record. -/
  | drainReadout (t : Nat)
  /-- FILL (R143): FILL enters the accumulator control queue. -/
  | fill (t : Nat)
  /-- FILL_START (R144): At the queue head, FILL checks the shadow state and its rings, then starts filling or raises an exception. -/
  | fillStart (t : Nat)
  /-- FILL_ARRAY_WRITE (R85): Once its sources are present and the array has been read out, the fill writes one array; after the last array the set is READY and the records are popped. -/
  | fillArrayWrite (t : Nat)
  /-- RFU (R146): An RFU instruction is checked and queued to apply its row function over N rows. -/
  | rfu (t : Nat)
  /-- RFU_ROW_READ (R151): An RFU row is read once its sources and destination credit allow, and its result is written L + 1 cycles later. -/
  | rfuRowRead (t : Nat)
  /-- PUSH (R162): PUSH reserves 32 B of ring credit and writes eight registers into the ring. -/
  | push (t : Nat) (ph : Phase)
  /-- POP (R163): POP waits until a ring holds N bytes, then advances HEAD by N. -/
  | pop (t : Nat) (ph : Phase)
  /-- RCOPY (R164): RCOPY moves N bytes between rings in chunks, each waiting for source bytes and destination credit. -/
  | rcopy (t : Nat) (ph : Phase)
  /-- STRM (R165): STRM is checked and divided into stream pieces for reading into or writing from a ring. -/
  | strm (t : Nat)
  /-- STREAM_PIECE_ISSUE (R166): A stream piece issues when a tag is free and, for a read, the ring has credit. -/
  | streamPieceIssue (t : Nat) (pieces : Nat)
  /-- STREAM_PIECE_ARRIVAL (R167): A read piece's bytes arrive in the ring, zeros beyond the extent, and TAIL and any relay tokens advance. -/
  | streamPieceArrival (t : Nat) (id : Nat) (net : List NetAns)
  /-- STREAM_WRITE_PIECE_COMPLETE (R168): The home returns OK for a write piece, and its tag is freed. -/
  | streamWritePieceComplete (t : Nat) (id : Nat)
  /-- REARM (R170): REARM sets a binding's base for later STRMs of the run. -/
  | rearm (t : Nat) (ph : Phase)
  /-- SEND (R172): SEND queues N/64 data tokens from a ring for a route. -/
  | send (t : Nat)
  /-- SENDC (R173): SENDC sends one control token carrying a register value when the route has a credit. -/
  | sendc (t : Nat) (ph : Phase)
  /-- TOKEN_SEND (R172): A token leaves its tile on its route once the ring bytes and a route credit are present. -/
  | tokenSend (t : Nat)
  /-- TOKEN_ARRIVAL (R203): A token reaches its receiving tile and is placed in its queue, or is dropped as a stray. -/
  | tokenArrival (t : Nat) (c : Nat) (r : Nat) (badParity : Bool)
  /-- CREDIT_ARRIVAL (R176): A credit returned by a dequeue reaches the sending route. -/
  | creditArrival (t : Nat) (c : Nat) (r : Nat)
  /-- RECV (R174): RECV moves data tokens from a queue into a ring, relaying each one when RELAY is set. -/
  | recv (t : Nat) (ph : Phase)
  /-- RECVC (R175): RECVC takes one control token from a queue into a register. -/
  | recvc (t : Nat)
  /-- STEER (R177): STEER passes data tokens onward, each as directed by its paired control token. -/
  | steer (t : Nat) (ph : Phase)
  /-- STEER_PAIR_FORM (R208): A control token and a data token meet at the pairing slot; equal SEQs form a pair, and unequal SEQs raise STEER_PAIR. -/
  | steerPairForm (t : Nat)
  /-- LOOP (R179): LOOP fixes its trip count and repeats its body, generating masks when MASKGEN is set. -/
  | loop (t : Nat)
  /-- OPEN_APERTURE (R183): OPEN_APERTURE checks the descriptor and opens the aperture from the next cycle. -/
  | openAperture (t : Nat)
  /-- CLOSE_APERTURE (R184): CLOSE_APERTURE closes the aperture for writes that arrive from the next cycle. -/
  | closeAperture (t : Nat)
  /-- FENCE (R185): FENCE holds issue until the selected conditions hold for the context. -/
  | fence (t : Nat)
  /-- END (R186): END holds issue until every FENCE condition holds and the drain path has finished. -/
  | endInstr (t : Nat)
  /-- END_REPORT (R186): The tile reports the end of its part of the section, with XCODE, to its command processor. -/
  | endReport (t : Nat)
  /-- LOAD_SECTION (R195): The lead die checks a section image and refuses it, or accepts the load. -/
  | loadSection (g : Nat) (c : Nat) (net : List NetAns)
  /-- SECTION_LOADED (R196): An accepted load finishes writing tiles, routes and bindings, and the context becomes LOADED. -/
  | sectionLoaded (g : Nat) (c : Nat)
  /-- START_SECTION (R408): START_SECTION is held while the section runs, then checked for its epoch, state, dark tiles and residue. -/
  | startSection (g : Nat) (c : Nat)
  /-- SECTION_START (R212): Once no tile of the section runs another context, the section starts and every tile resets its run state and fetches PC 0. -/
  | sectionStart (g : Nat) (c : Nat)
  /-- SECTION_END (R214): An ENDING section with no token in flight closes its apertures, becomes LOADED and posts its completion with the residue. -/
  | sectionEnd (g : Nat) (c : Nat)
  /-- SECTION_FAULTED (R216): Once no token of the faulted run is in flight, the state becomes FAULTED and the completion is posted with STATUS FAULT. -/
  | sectionFaulted (g : Nat) (c : Nat)
  /-- WATCHDOG_FIRE (R219): After 4,096 quiet cycles with tokens queued, the wait graph is built and its cycle queues are spilled, or the sections fault with DEADLOCK. -/
  | watchdogFire (g : Nat)
  /-- SPILL_MOVE (R220): A spill engine moves a queue's head token to its segment and returns a credit. -/
  | spillMove (t : Nat) (c : Nat) (q : Nat)
  /-- REINJECT (R220): The oldest spilled token lands in the queue's front slot, and the queue leaves the spill state when its segment empties. -/
  | reinject (t : Nat) (c : Nat) (q : Nat)
  /-- PRISM_DOORBELL (R241): A PRISM_DOORBELL write posts a Prism job, or is refused with PRISM_BUSY or PRISM_OFF. -/
  | prismDoorbell (n : Nat) (v : BitVec 64)
  /-- PRISM_JOB_START (R243): At the front of the queue, a Prism job is checked; it then starts, or waits for its trigger. -/
  | prismJobStart (n : Nat)
  /-- PRISM_TRIGGER (R243): The completion of the triggering section starts a waiting Prism job, or ends it with SOURCE_FAULT. -/
  | prismTrigger (n : Nat)
  /-- PRISM_JOB_END (R252): A Prism job finishes selection, capacity allocation and output, updates the expert status fields and posts its completion. -/
  | prismJobEnd (n : Nat) (net : List NetAns)
  /-- TINT_DOORBELL (R263): A TINT_DOORBELL write posts a tint job, or is refused with TINT_BUSY or TINT_OFF. -/
  | tintDoorbell (n : Nat) (v : BitVec 64)
  /-- TINT_JOB_START (R265): At the front of the queue, a tint job is checked; it then starts, or waits for its trigger. -/
  | tintJobStart (n : Nat) (net : List NetAns)
  /-- TINT_TRIGGER (R265): A section completion, or the flag word equalling FLAG_VALUE, starts a waiting tint job. -/
  | tintTrigger (n : Nat) (net : List NetAns)
  /-- TINT_CACHE_FILL (R275): A tint cache miss fetches factor lines, or ends the job with FACTOR_FAULT. -/
  | tintCacheFill (n : Nat) (net : List NetAns)
  /-- TINT_RECORD_WRITE (R267): A finished delta record is written as one aperture write to its tile, or refused and held for retry. -/
  | tintRecordWrite (n : Nat) (net : List NetAns)
  /-- TINT_RECORD_RETRY (R267): Every 64 cycles a refused record is tried again. -/
  | tintRecordRetry (n : Nat)
  /-- TINT_DELIVERY_TIMEOUT (R267): A record still refused 1 ms after its first attempt ends the job with DELIVERY_FAULT. -/
  | tintDeliveryTimeout (n : Nat)
  /-- TINT_JOB_END (R277): A tint job ends, updates the tint table status fields and posts its completion. -/
  | tintJobEnd (n : Nat)
  /-- TINT_CTL_WRITE (R275): A TINT_CTL write is judged; a change of the cache fields invalidates every cache line for the next job. -/
  | tintCtlWrite (n : Nat) (v : BitVec 64)
  /-- SRV_VEIL_PRIME (R279): A write of a veil index starts priming, or is refused with VEIL_BUSY or VEIL_INVALID. -/
  | srvVeilPrime (w : BitVec 64)
  /-- VEIL_PRIMED (R279): Priming ends: MODEL_GEN and PRIMED_AT are written and STATE becomes READY, or STATE becomes FAILED. -/
  | veilPrimed (v : Nat) (m : Nat) (ok : Bool)
  /-- MEMORY_REQUEST (R293): A request to spaces 0x1–0x3 is checked in order at its target chip and then performed, forwarded, held or refused. -/
  | memoryRequest (o : Origin) (span : Nat) (op : Nat) (addr : Nat) (len : Nat) (data : List (BitVec 8)) (ecc : Ecc)
  /-- CD_DS_CARVE_WRITE (R296): A die store carve-out write is applied or refused with PARAM_RANGE, CARVE_OVERLAP, CARVE_BUSY or CARVE_SPILL. -/
  | cdDsCarveWrite (n : Nat) (g : Nat) (v : BitVec 64)
  /-- CD_T1_CARVE_WRITE (R296): A T1 carve-out write is applied or refused under Table 10.5. -/
  | cdT1CarveWrite (n : Nat) (g : Nat) (v : BitVec 64)
  /-- MEM_T2_CARVE_WRITE (R296): A T2 carve-out write is applied or refused under Table 10.5. -/
  | memT2CarveWrite (g : Nat) (v : BitVec 64)
  /-- MEM_T2_CFG_WRITE (R297): A MEM_T2_CFG write is judged as a whole and applied, or refused with T2_MAP_BAD. -/
  | memT2CfgWrite (v : BitVec 64)
  /-- MEM_COPY_DOORBELL (R306): A doorbell write posts a copy job, or is refused with COPY_BUSY. -/
  | memCopyDoorbell (v : BitVec 64)
  /-- COPY_JOB_END (R306): A copy job finishes or stops at its first refused access, and posts its completion. -/
  | copyJobEnd (net : List NetAns)
  /-- MEM_LOAN_WRITE (R312): A write to MEM_LOAN_RANGE or MEM_LOAN_PEER is applied, or refused with LOAN_BUSY when the slot is not FREE. -/
  | memLoanWrite (k : Nat) (peer : Bool) (v : BitVec 64)
  /-- GRANT (R313): GRANT makes a FREE loan slot ACTIVE, or is refused with LOAN_RANGE or LOAN_OVERLAP. -/
  | grant (k : Nat)
  /-- RECALL (R314): RECALL makes an ACTIVE slot RECALLING and sends a loan-recall notice to the borrower. -/
  | recall (k : Nat)
  /-- LOAN_GRACE_EXPIRY (R314): When GRACE passes, or a release arrives, the slot becomes SCRUBBING and refuses the borrower. -/
  | loanGraceExpiry (k : Nat)
  /-- LOAN_SCRUB_DONE (R314): The scrub has zeroed the range, and the slot becomes FREE. -/
  | loanScrubDone (k : Nat)
  /-- AFTERGLOW_END (R324): 100 µs after the flip, the old home stops forwarding and answers HOME_MOVED. -/
  | afterglowEnd (tier : Nat) (g : Nat)
  /-- REDIRECT_FLUSH (R326): A write of 1 to CD_REDIRECT_FLUSH clears the die's redirect cache. -/
  | redirectFlush (n : Nat) (v : BitVec 64)
  /-- MEM_HOMETAB_WRITE (R322): A home table base write is applied, or refused with MOVE_BUSY while a move is held or an entry is MOVING_IN. -/
  | memHometabWrite (tier : Nat) (v : BitVec 64)
  /-- MEM_MOVE_DOORBELL (R328): A doorbell write posts a move job into a move slot, or is refused with MOVE_BUSY. -/
  | memMoveDoorbell (v : BitVec 64)
  /-- MOVE_JOB_START (R329): A move job is checked and refused, or sends its move-begin operation. -/
  | moveJobStart (slot : Nat)
  /-- MOVE_BEGIN_ACK (R330): The destination accepts the begin, and the source enters MOVING_OUT and starts copy pass 0. -/
  | moveBeginAck (slot : Nat)
  /-- MOVE_COPY_ACK (R330): A copy block is acknowledged; at the end of a pass the move recopies dirty blocks or freezes. -/
  | moveCopyAck (slot : Nat)
  /-- MOVE_FLIP (R330): After every copy is OK, the source writes MOVED, reaches the flip point, then sends the commit and forwards the held operations. -/
  | moveFlip (slot : Nat)
  /-- MOVE_COMMIT_ACK (R330): The destination acknowledges the commit, and the source posts the move completion. -/
  | moveCommitAck (slot : Nat)
  /-- FREEZE_TIMEOUT (R332): A freeze that lasts FREEZE_MAX aborts the move before the flip point. -/
  | freezeTimeout (slot : Nat)
  /-- HOME_BUSY_REISSUE (R331): 20 µs after a HOME_BUSY refusal the request is reissued, until 2 ms have passed. -/
  | homeBusyReissue (t : Nat) (id : Nat)
  /-- MOVING_IN_QUERY (R335): A MOVING_IN entry idle for 2 ms sends a move-query every 1 ms and resolves from the answer. -/
  | movingInQuery (tier : Nat) (g : Nat)
  /-- RECLAIM (R336): MEM_HOME_CMD RECLAIM returns a MOVED entry past afterglow to HOME, or is refused with MOVE_STATE. -/
  | reclaim (tier : Nat) (g : Nat)
  /-- SET_RO (R341): MEM_HOME_CMD SET_RO sets RO on a HOME entry. -/
  | setRo (tier : Nat) (g : Nat)
  /-- CLEAR_RO (R341): MEM_HOME_CMD CLEAR_RO clears RO on a HOME entry. -/
  | clearRo (tier : Nat) (g : Nat)
  /-- RESOLVE (R343): MEM_HOME_CMD RESOLVE sets a MOVING_IN entry to HOME. -/
  | resolve (tier : Nat) (g : Nat)
  /-- ABORT_OUT (R343): MEM_HOME_CMD ABORT_OUT sets a MOVING_OUT entry to HOME after a reset and sends move-abort to its PEER. -/
  | abortOut (tier : Nat) (g : Nat)
  /-- OPERATION_TIMEOUT (R340): An operation without a response 2 ms after first issue completes with HOME_LOST. -/
  | operationTimeout (id : Nat)
  /-- SRV_PKG_DOORBELL (R350): A doorbell write posts a package job, or is refused with PKG_BUSY. -/
  | srvPkgDoorbell (v : BitVec 64)
  /-- PKG_JOB_START (R351): A package job reads the model entry and header and checks them in order. -/
  | pkgJobStart
  /-- INSTALL (R353): INSTALL sets the generation words to WRITING, copies the share and checks the digest, then marks the model READY, or TORN on failure. -/
  | install
  /-- VERIFY (R352): VERIFY hashes the package and enters it in the verified list, or ends with PKG_DIGEST. -/
  | verify
  /-- PKG_SWAP_LAYER (R359): Once no run reads layer l, its word becomes WRITING, its parts are copied, and its word is set to GEN, releasing the barrier. -/
  | pkgSwapLayer
  /-- CHAIN_CHUNK (R355): A chain chunk arrives in a stage slot; the chip copies its share and passes the chunk to its successor. -/
  | chainChunk (slot : Nat)
  /-- CHAIN_LOST (R355): A predecessor silent for 2 ms ends the chain job with CHAIN_LOST. -/
  | chainLost
  /-- PKG_JOB_END (R354): A package job ends and posts its completion. -/
  | pkgJobEnd
  /-- SERVING_FRAME_BAD (R367): An inbound serving frame that breaks the header rules is dropped, counted and answered with FRAME_BAD. -/
  | servingFrameBad
  /-- REQUEST (R371): The intake checks a REQUEST in order and either refuses it or charges it, takes a sequence entry, enters the echo filter and answers. -/
  | request
  /-- CANCEL (R375): A CANCEL marks its sequence for ending at the next boundary, or is answered DONE or NOT_FOUND. -/
  | cancel
  /-- FETCH (R376): A FETCH is answered with a RESULT frame of held tokens, or with NOT_FOUND. -/
  | fetch
  /-- SERVE_ENABLE (R399): A write of SRV_CTL.ENABLE starts or stops the engine, or is refused with DIE_NOT_READY before SERVE. -/
  | serveEnable (v : BitVec 64)
  /-- STEP_BOUNDARY (R386): At each step start the boundary work runs, followed by the decode plan, admission and the prefill plan. -/
  | stepBoundary (x : StepIn)
  /-- PREFILL_CHUNK_START (R386): After the decode runs, prefill chunks start in plan order while before the cutoff. -/
  | prefillChunkStart (g : Nat) (net : List NetAns)
  /-- PREFILL_CUTOFF (R389): At T + CUTOFF, unstarted prefill chunks leave the plan for the next step. -/
  | prefillCutoff
  /-- SAMPLE (R392): When a sequence's logits reach hub SRAM, the mask unit and the sampler choose a token and update the sequence. -/
  | sample (i : Nat) (off : RunEnd) (net : List NetAns)
  /-- STEP_EMISSION (R395): When every run of the step has ended, one STEP frame per destination is built and sent in fragments. -/
  | stepEmission
  /-- STEP_DEADLINE (R386): At T + PERIOD, fragments not handed to a MAC are dropped, and unstarted decode runs yield no token. -/
  | stepDeadline (unstarted : List Nat) (going : Bool)
  /-- HEARTBEAT (R398): A write of SRV_HEARTBEAT records a heartbeat. -/
  | heartbeat (v : BitVec 64)
  /-- HEARTBEAT_TIMEOUT (R398): With HB_ARM set and no heartbeat for 2 s, Hold is entered at the next step boundary. -/
  | heartbeatTimeout
  /-- HOLD_RESUME (R398): A write of SRV_CTL.RESUME leaves Hold at the next boundary, or is refused with HOLD. -/
  | holdResume
  /-- ECHO_EXPIRY (R377): WINDOW seconds after its sequence ends, a pair expires from the echo filter. -/
  | echoExpiry (tenant : Nat) (id : Nat)
  /-- CMDQ_POST (R404): A CD_CMDQ_POST write posts a command list, or is refused with CMDQ_NOT_LEAD, PARAM_RANGE or CMDQ_FULL. -/
  | cmdqPost (n : Nat) (g : Nat) (c : Nat) (v : BitVec 64)
  /-- CMDQ_RESUME (R406): A write of RESUME leaves STOPPED and continues with the next record. -/
  | cmdqResume (g : Nat) (c : Nat)
  /-- CMDQ_FLUSH (R404): FLUSH lets the current command complete, discards the held lists with FLUSHED events and clears STOPPED. -/
  | cmdqFlush (g : Nat) (c : Nat)
  /-- SET_LENGTH (R407): SET_LENGTH records length values for the next start of the context. -/
  | setLength (g : Nat) (c : Nat)
  /-- REARM_COMMAND (R409): The REARM command records a binding base for the next start, or is refused with REARM_BAD. -/
  | rearmCommand (g : Nat) (c : Nat)
  /-- DISPATCH (R412): DISPATCH sends a buffer to another chip as an Ouvuth dispatch operation. -/
  | dispatch (g : Nat) (c : Nat)
  /-- FENCE_COMMAND (R410): The FENCE command waits for every earlier command and run and, in MODE 1 or 2, for its flag condition. -/
  | fenceCommand (g : Nat) (c : Nat)
  /-- FENCE_FLAG_POLL (R410): Every 1 µs the command processor reads the FENCE flag word. -/
  | fenceFlagPoll (g : Nat) (c : Nat)
  /-- SIGNAL (R411): SIGNAL writes a value to an address and posts a SIGNAL event. -/
  | signal (g : Nat) (c : Nat)
  /-- TABLE_SYNC (R420): TABLE_SYNC is checked and starts purging old copies of the named entries. -/
  | tableSync (g : Nat) (c : Nat)
  /-- TABLE_SYNC_COMPLETE (R420): No cache holds an old copy of the entries any more, and the command completes. -/
  | tableSyncComplete (g : Nat) (c : Nat)
  /-- LANTERN_ACCESS (R401): A Lantern core load, store or atomic is performed, or raises an access fault recorded in HUB_LAN_FAULT. -/
  | lanternAccess (i : Nat) (pa : Nat) (a : LanternOp)
  /-- EVQ_CFG_WRITE (R415): A HUB_EVQ_CFG or HUB_MBOX_CFG write is applied, or refused with EVQ_BUSY while the ring holds entries. -/
  | evqCfgWrite (mbox : Bool) (k : Nat) (v : BitVec 64)
  /-- CD_REGION_TILES_WRITE (R421): A region membership write is applied, or refused with REGION_OVERLAP, REGION_BUSY or BUSY_EPOCH. -/
  | cdRegionTilesWrite (n : Nat) (g : Nat) (k : Nat) (v : BitVec 64)
  /-- HUB_REGION_WRITE (R422): A HUB_REGION write is applied, or refused with SPAN_LIT, SPAN_NONE or REGION_BUSY. -/
  | hubRegionWrite (g : Nat) (v : BitVec 64)
  /-- REGION_RESET (R425): A region reset fences the region, discards work in flight, empties its contexts and discards its command lists. -/
  | regionReset (g : Nat)
  /-- REGION_RESET_DONE (R425): The region reset completes and RESETTING reads 0. -/
  | regionResetDone (g : Nat)
  /-- EFN_BAD_FRAME (R428): An Efnil frame with a bad CRC, an unexpected LSEQ or a wrong length is discarded and a NAK is sent. -/
  | efnBadFrame (f : List (BitVec 8))
  /-- LINK (R429): A LINK frame's acknowledgement, credits and NAK are applied, possibly triggering a replay. -/
  | link (f : List (BitVec 8))
  /-- EFN_ACK_DUE (R429): Within 1 µs of a waiting acknowledgement or credit, a LINK frame is sent. -/
  | efnAckDue
  /-- EFN_REPLAY_TIMEOUT (R429): REPLAY_US passes with no new LACK, and the sender replays every frame after LACK. -/
  | efnReplayTimeout
  /-- REG_READ (R431): An Efnil REG_READ reads a register, locally or on another chip, and returns its data and status. -/
  | regRead (f : List (BitVec 8))
  /-- REG_WRITE (R431): An Efnil REG_WRITE writes a register, locally or on another chip. -/
  | regWrite (f : List (BitVec 8))
  /-- BULK_READ (R431): An Efnil BULK_READ returns memory in frames of at most 4,096 B. -/
  | bulkRead (f : List (BitVec 8))
  /-- BULK_WRITE (R431): An Efnil BULK_WRITE writes data to memory. -/
  | bulkWrite (f : List (BitVec 8))
  /-- DOORBELL (R431): An Efnil DOORBELL writes its data, then writes VALUE to a register. -/
  | doorbell (f : List (BitVec 8))
  /-- TIME_READ (R431): TIME READ returns the receive and send times and the PTP state. -/
  | timeRead (f : List (BitVec 8))
  /-- TIME_SET (R527): TIME SET sets device time, or is refused with TIME_LOCKED or PARAM_RANGE. -/
  | timeSet (f : List (BitVec 8))
  /-- BOOT_PUSH (R501): A BOOT_PUSH frame writes image units while receipt is open, or is refused. -/
  | bootPush (f : List (BitVec 8))
  /-- EVENT (R414): Forwarded ring entries are sent to the control node in an EVENT frame when event credits allow. -/
  | event
  /-- EFN_LANE_LOSS (R426): An Efnil lane that loses lock or exceeds the error rate is taken out of use, and the port runs at half rate. -/
  | efnLaneLoss (l : Nat)
  /-- EFN_LANE_REJOIN (R426): A retrained lane rejoins at the next frame boundary. -/
  | efnLaneRejoin (l : Nat)
  /-- EFN_LINK_DOWN (R429): The Efnil link goes down; replay buffers empty and the sequence and credit state are reset. -/
  | efnLinkDown
  /-- EFN_LINK_UP (R430): The Efnil link retrains and credits are granted afresh. -/
  | efnLinkUp
  /-- ETH_FRAME_RECEIVE (R442): A frame received on a sub-port is filtered by address and VLAN, checked, classified and passed on or dropped and counted. -/
  | ethFrameReceive (e : Nat) (f : List (BitVec 8)) (corr : Nat) (uncorr : Nat)
  /-- NEIGHBOR_SOLICITATION (R445): A Neighbor Solicitation for the sub-port's address is answered with a Neighbor Advertisement. -/
  | neighborSolicitation
  /-- PFC (R448): A received PFC frame pauses or resumes the named traffic classes. -/
  | pfc
  /-- PFC_PAUSE_EXPIRY (R448): A received pause time runs out, and the class may send again. -/
  | pfcPauseExpiry (e : Nat) (c : Nat)
  /-- PFC_REFRESH (R448): Every half pause time, a class above XON repeats its PFC frame, or sends quanta 0 once below XON. -/
  | pfcRefresh (e : Nat) (c : Nat)
  /-- EGRESS_FRAME_SEND (R447): The sub-port starts the next queued frame in class order, unless a pause or drain prevents it. -/
  | egressFrameSend (e : Nat)
  /-- PORT_CFG_WRITE (R438): A PORT_CFG write sets MODE and ENABLE, starting training, or is refused with PARAM_RANGE or PORT_BUSY. -/
  | portCfgWrite (p : Nat) (v : BitVec 64)
  /-- FULL (R455): A write of PORT_CFG.FULL starts full training of the port. -/
  | full (p : Nat)
  /-- PORT_TRAIN_DONE (R455): Training finishes; a successful full training stores its set and marks it VALID. -/
  | portTrainDone (p : Nat) (ok : Bool)
  /-- FAST_RETRAIN_TIMEOUT (R455): A fast retrain that has not locked after 5 ms falls back to full training. -/
  | fastRetrainTimeout (p : Nat)
  /-- PORT_LINK_UP (R456): Every lane is locked and aligned with no fault for 10 µs, and the sub-port's link comes up. -/
  | portLinkUp (e : Nat)
  /-- PORT_LINK_DOWN (R457): On loss of light, lock or alignment, a high error ratio, a remote fault or disable, the link goes down and egress is dropped. -/
  | portLinkDown (e : Nat) (cause : LinkCause)
  /-- LASER_FEED_LOW (R435): A laser wavelength below +13 dBm for 10 µs sets FEED_LOW and stops the port's transmitters. -/
  | laserFeedLow (p : Nat)
  /-- LASER_FEED_RESTORED (R435): After 1 ms of good feed, FEED_LOW clears and the port retrains. -/
  | laserFeedRestored (p : Nat)
  /-- PORT_SA_WRITE (R451): A MACsec key, salt, SSCI, PN or ENABLE write is applied, or refused with SA_IN_USE. -/
  | portSaWrite (e : Nat) (sa : Nat) (r : Nat) (v : BitVec 64)
  /-- PORT_SUB_SEC_WRITE (R451): A write of TX_AN takes effect from the next frame to begin encryption. -/
  | portSubSecWrite (e : Nat) (v : BitVec 64)
  /-- PTP_SYNC (R526): A Sync with its Follow_Up on the SLAVE sub-port gives an offset that steps or slews device time and updates lock. -/
  | ptpSync
  /-- PTP_DELAY_REQ (R528): A received Delay_Req or Pdelay_Req is answered as the delay mechanism requires. -/
  | ptpDelayReq
  /-- PTP_SYNC_TIMER (R528): A MASTER sub-port sends Sync and Follow_Up every 2^SYNC_LOG s. -/
  | ptpSyncTimer (e : Nat)
  /-- PTP_ANNOUNCE_TIMER (R528): A MASTER sub-port sends Announce every 2^ANNOUNCE_LOG s. -/
  | ptpAnnounceTimer (e : Nat)
  /-- PTP_DELAY_TIMER (R528): A requesting sub-port sends Delay_Req or Pdelay_Req every 2^DELAY_LOG s. -/
  | ptpDelayTimer (e : Nat)
  /-- PTP_SYNC_TIMEOUT (R526): No Sync for 4 Sync intervals clears LOCKED. -/
  | ptpSyncTimeout
  /-- OUV_READ (R468): An Ouvuth READ request is accepted under the stream window and performed at the home. -/
  | ouvRead
  /-- OUV_WRITE (R468): An Ouvuth WRITE request is accepted and performed at the home. -/
  | ouvWrite
  /-- OUV_ATOMIC (R470): An Ouvuth ATOMIC is performed indivisibly on an aligned word, returning the old value. -/
  | ouvAtomic
  /-- MOVE_BEGIN (R330): A move-begin sets the destination entry to MOVING_IN, or is refused. -/
  | moveBegin (ro : Bool)
  /-- MOVE_COMMIT (R332): A move-commit or forwarded operation sets a MOVING_IN entry to HOME. -/
  | moveCommit
  /-- MOVE_ABORT (R332): A move-abort returns the destination entry to HOME. -/
  | moveAbort
  /-- MOVE_QUERY (R470): A move-query is answered with the source entry's STATE and PEER. -/
  | moveQuery
  /-- OUV_DISPATCH (R412): A received dispatch posts a command list to a queue or a message to a mailbox, or is refused. -/
  | ouvDispatch
  /-- MCAST (R482): An MCAST on an enabled tree from its parent is copied to the children and applied locally by KIND. -/
  | mcast
  /-- LOAN_RECALL (R487): A loan-recall notice is stored in a recall record with its deadline, and RECALL is posted. -/
  | loanRecall
  /-- LOAN_RELEASE (R314): A loan-release notice at the lender ends the borrower's admission and starts the scrub. -/
  | loanRelease
  /-- RESYNC (R477): A RESYNC completes the outstanding operations with OUV_PEER_RESET and sends SYNC. -/
  | resync
  /-- UNREACHABLE (R485): An UNREACHABLE notice raises the stream's salt so that later transmissions take new paths. -/
  | unreachable
  /-- ACK (R475): An ACK releases the covered frames, adjusts CWND and may trigger fast retransmission. -/
  | ack
  /-- ACK_TIMER (R473): 2 µs after the first frame not yet acknowledged, the receiver sends an ACK. -/
  | ackTimer (k : Nat)
  /-- HELLO (R483): A hello is judged against the digest and chip number and moves the link's neighbour state. -/
  | hello
  /-- HELLO_TIMER (R483): A hello is sent every 1 ms or 100 ms, as the neighbour state requires. -/
  | helloTimer (e : Nat)
  /-- NEIGHBOUR_TIMEOUT (R483): No hello for 350 ms returns a KNOWN link to PROBING. -/
  | neighbourTimeout (e : Nat)
  /-- SYNC (R477): A SYNC with a new INC resets the receive state for its source and is answered. -/
  | sync
  /-- OUV_RESPONSE (R469): A response arrives and completes its operation, freeing the tag. -/
  | ouvResponse
  /-- OUV_TRANSIT (R480): A frame for another chip is forwarded with HOPS decremented, or dropped with UNREACHABLE. -/
  | ouvTransit
  /-- TRANSIT_AGE (R480): A transit frame not begun 100 µs after arrival is dropped. -/
  | transitAge (e : Nat)
  /-- OUV_RETRANSMIT (R475): RTO_US after its last transmission, an unacknowledged frame is retransmitted with RETX set. -/
  | ouvRetransmit (k : Nat)
  /-- RETRY_LIMIT (R476): A frame sent 1 + RETRIES times without an ACK makes the sender declare the chip lost. -/
  | retryLimit (k : Nat)
  /-- RESET_QUIET_END (R477): 4 ms after a reset, the chip may send sequenced frames, beginning with SYNC. -/
  | resetQuietEnd
  /-- OUV_LOST_CLEAR (R486): A write of OUV_LOST_CLEAR clears a chip's lost mark. -/
  | ouvLostClear (v : BitVec 64)
  /-- OUV_MANIFEST (R485): A write of OUV_MANIFEST starts hashing the manifest, or is refused with OUV_BUSY. -/
  | ouvManifest (v : BitVec 64)
  /-- MANIFEST_HASH_DONE (R485): The digest is ready; BUSY clears, MEAS_MANIFEST is extended and every link is judged again. -/
  | manifestHashDone
  /-- RELEASE (R487): A write of RELEASE to a recall record sends LOAN_RELEASE to the lender. -/
  | release (k : Nat)
  /-- RECALL_DEADLINE (R487): At DEADLINE a recall record's VALID clears. -/
  | recallDeadline (k : Nat)
  /-- RESET_COLD_N (R491): RESET_COLD_N held low for at least 1 µs causes a cold reset. -/
  | resetColdN
  /-- RESET_WARM_N (R491): RESET_WARM_N held low for at least 1 µs causes a warm reset. -/
  | resetWarmN
  /-- HUB_RESET_WARM (R492): A HUB_RESET write with KIND WARM schedules a warm reset 1 ms later. -/
  | hubResetWarm
  /-- HUB_RESET_COLD (R492): A HUB_RESET write with KIND COLD schedules a cold reset 1 ms later. -/
  | hubResetCold
  /-- WARM_RESET (R494): A warm reset fences every region, completes the accepted writes, puts memory in self-refresh and resets the logic. -/
  | warmReset
  /-- COLD_RESET (R499): A cold reset starts the cold bring-up from the always-on domain and the boot ROM. -/
  | coldReset
  /-- WARM_BRINGUP (R508): Warm bring-up fast-retrains the functions from snapshots and settles the loan slots. -/
  | warmBringup
  /-- FUNCTION_READY (R496): A function's state machine completes and sets its readiness bit. -/
  | functionReady (i : Nat) (cap : Nat)
  /-- TRAINING_FAILED (R498): A function fails its third attempt, sets its HUB_TRAIN_FAIL bit and writes a fatal record. -/
  | trainingFailed (i : Nat)
  /-- IMAGE_VERIFY (R503): A complete image is checked once SEC is set, then started on every core with LANTERN set, or cleared for a new attempt. -/
  | imageVerify
  /-- RESTART (R503): A write of HUB_BOOT_CTL.RESTART abandons the image attempt, or is refused with BOOT_CLOSED. -/
  | restart
  /-- APPLY (R506): A write of HUB_DARK_CTL.APPLY darkens every tile of the dark list. -/
  | apply
  /-- PWR_CD_CLK_WRITE (R577): A PWR_CD_CLK write starts a DVFS change of the die's array clock. -/
  | pwrCdClkWrite (n : Nat) (v : BitVec 64)
  /-- DVFS_CHANGE_DONE (R577): The new frequency is in force within 50 µs. -/
  | dvfsChangeDone (n : Nat)
  /-- DOMAIN_STOP (R522): A domain stops at its stop point while its wake input reads low. -/
  | domainStop (d : ClockDomain)
  /-- DOMAIN_WAKE (R522): A rising wake input restarts a stopped domain. -/
  | domainWake (d : ClockDomain)
  /-- TIME_MARK (R524): Every 160 reference ticks, each die's replica of device time reloads from the always-on value. -/
  | timeMark
  /-- PPS_EDGE (R531): A rising edge of PPS is stamped into HUB_PPS_STAMP. -/
  | ppsEdge
  /-- SCRUB (R533): Patrol scrub reads a code word, correcting it or recording an error. -/
  | scrub (space : Nat) (off : Nat) (ecc : Ecc)
  /-- CORRECTED_RECORD_FLUSH (R545): 1 ms after its first occurrence, or at COUNT 0xFFFF, an open corrected record is written. -/
  | correctedRecordFlush
  /-- ERROR_STORE_DRAIN (R544): Once the log is usable, the records waiting in the always-on store are written in order. -/
  | errorStoreDrain
  /-- HUB_ERR_INJECT (R543): A write of HUB_ERR_INJECT logs a firmware record stamped with TIME and SEQ, or is refused with PARAM_RANGE. -/
  | hubErrInject (v : BitVec 64)
  /-- MEM_ERASE_CLEAR (R535): A write of 0 to a MEM_ERASE VALID bit ends the erasure. -/
  | memEraseClear (n : Nat) (v : BitVec 64)
  /-- GLARE_PACKAGE_VERIFY (R549): A complete glare package is verified, and STATE becomes READY or BAD. -/
  | glarePackageVerify
  /-- GLARE_START (R551): A write of HUB_GLARE_CTL.START begins a glare run, or is refused. -/
  | glareStart (v : BitVec 64)
  /-- GLARE_ABORT (R554): An abort stops the glare run, restores nominal and posts GLARE_ABORT. -/
  | glareAbort
  /-- GLARE_POINT_SETTLED (R552): 100 µs after the margins are set, a point's heating or verdict runs begin. -/
  | glarePointSettled
  /-- GLARE_TJ_REACHED (R552): The hottest sensor of every affected die reads TJ, and the dwell begins. -/
  | glareTjReached
  /-- GLARE_DWELL_END (R552): DWELL_MS passes and the verdict runs of the point begin. -/
  | glareDwellEnd
  /-- GLARE_TEMPLATE_RUN_END (R552): A template run completes; failing tiles become SUSPECT, and the next run, point or the end of the run follows. -/
  | glareTemplateRunEnd
  /-- GLARE_TIMEOUT (R552): A tile without END after TIMEOUT_US fails, and the target regions are reset. -/
  | glareTimeout
  /-- ATTEST_START (R562): A write of START takes a snapshot for an attestation report, or is refused. -/
  | attestStart (v : BitVec 64)
  /-- ATTEST_REPORT_DONE (R562): The signed report is complete, and ATTEST_BUSY clears. -/
  | attestReportDone
  /-- BLOW (R564): A write of BLOW closes every debug facility and starts burning DBG_DISABLE. -/
  | blow (o : Origin) (v : BitVec 64)
  /-- BLOW_DONE (R564): The DBG_DISABLE burn ends, and BLOWING clears. -/
  | blowDone
  /-- SEC_FLOOR_CTL_WRITE (R558): A SEC_FLOOR_CTL write starts burning a higher rollback floor, or is refused with PARAM_RANGE. -/
  | secFloorCtlWrite (o : Origin) (v : BitVec 64)
  /-- FLOOR_BURNT (R558): The floor fuses are burnt, and the new floor applies. -/
  | floorBurnt
  /-- DEBUG_ACCESS (R563): A debug access is served, or refused after the fuse is blown, and sets DEBUG_USED. -/
  | debugAccess (o : Origin) (u : DebugUnit) (write : Bool)
  /-- PWR_TARGET_DIM (R573): A write of PWR_CTL.TARGET DIM starts entering Dim, or is refused with PWR_BUSY. -/
  | pwrTargetDim
  /-- DIM_ENTERED (R573): The last clock stops, and the device is in Dim. -/
  | dimEntered
  /-- PWR_TARGET_LIT (R575): A write of PWR_CTL.TARGET LIT starts leaving Dim. -/
  | pwrTargetLit
  /-- DIM_LEFT (R575): Every domain runs again, and the state reads LIT. -/
  | dimLeft
  /-- INPUT_SHUTDOWN (R571): Input below the shutdown limits turns every rail off. -/
  | inputShutdown
  /-- INPUT_RESTART (R571): Input above 42 V for 10 ms restarts the module with a cold reset. -/
  | inputRestart
  /-- PWRWARN_FALL (R578): PWRWARN_N falls, and package power is cut to WARN_W within 20 µs. -/
  | pwrwarnFall
  /-- PWRWARN_RISE (R578): PWRWARN_N returns high, and power may rise under the ramp limiter. -/
  | pwrwarnRise
  /-- EJECT (R588): EJECT_N low for 100 µs sets PWR_STAT.EJECT and enters Hold at the next step boundary. -/
  | eject
  /-- POWER_SAMPLE (R578): Every 1 µs, package power is measured and the cap, ramp limit, warning cap and ballast floor are enforced. -/
  | powerSample (w : Nat) (dv : Nat) (input : Nat)
  /-- THERMAL_SAMPLE (R581): Every 10 µs the sensors are read, and alerts, throttles or a trip are applied. -/
  | thermalSample (t : Temps)
  /-- I3C_REQUEST (R589): An MCTP or PLDM request over I3C is answered with sensor readings. -/
  | i3cRequest (q : I3cReq)
  /-- LIGHT_RESTORED (R457): Received light returns on the lanes of a sub-port whose link went down for loss of light, and Cavor retrains the port from the last equalisation set used. -/
  | lightRestored (e : Nat)
  /-- DEVICE_TIME_COMPARATOR (R403): A comparator of device time reaches its set time and interrupts the Lantern cores. -/
  | deviceTimeComparator (i : Nat)
  /-- GLARE_RUN_END (R552): 100 µs after the affected dies are restored to their former rail and DVFS point after the last point, context 7 is left EMPTY and the GLARE event is posted. -/
  | glareRunEnd
  deriving DecidableEq, Repr

end Sys2Proof
end

