-- ==== Sys2Proof/Machine/Sparse.lean ====
section
/-! DEFINITION. Sparse maps with numeric keys, in ONE canonical form: keys strictly rising and no entry equal to what an
unlisted key reads as. Memory, scratchpads, program stores and register files are such maps, so equal contents are equal data.
`d k` is what the unlisted key `k` reads as. -/
namespace Sys2Proof.Machine

/-- What key `k` reads as. -/
def Sparse.get {α : Type} (d : Nat → α) : List (Nat × α) → Nat → α
  | [], k => d k
  | (j, v) :: m, k => if j = k then v else Sparse.get d m k

/-- An entry for key `k` put into its place. -/
def Sparse.insert {α : Type} (k : Nat) (v : α) : List (Nat × α) → List (Nat × α)
  | [] => [(k, v)]
  | (j, w) :: m => if j < k then (j, w) :: Sparse.insert k v m else if j = k then (k, v) :: m else (k, v) :: (j, w) :: m

/-- The map with key `k` set to `v`; setting the unlisted value removes the entry. -/
def Sparse.put {α : Type} [DecidableEq α] (d : Nat → α) (m : List (Nat × α)) (k : Nat) (v : α) : List (Nat × α) :=
  if v = d k then m.filter (fun e => e.1 != k) else Sparse.insert k v m

/-- Sets `n` keys from `k` up to the values of the list. -/
def Sparse.putList {α : Type} [DecidableEq α] (d : Nat → α) : List (Nat × α) → Nat → List α → List (Nat × α)
  | m, _, [] => m
  | m, k, v :: vs => Sparse.putList d (Sparse.put d m k v) (k + 1) vs

/-- The values of `n` keys from `k` up. -/
def Sparse.getList {α : Type} (d : Nat → α) (m : List (Nat × α)) : Nat → Nat → List α
  | _, 0 => []
  | k, n + 1 => Sparse.get d m k :: Sparse.getList d m (k + 1) n

/-- The map with every key in [lo, hi) back at its unlisted value. -/
def Sparse.clear {α : Type} (m : List (Nat × α)) (lo hi : Nat) : List (Nat × α) :=
  m.filter (fun e => !(decide (lo ≤ e.1) && decide (e.1 < hi)))

/-- The map with only the keys that satisfy `p`. -/
def Sparse.keep {α : Type} (p : Nat → Bool) (m : List (Nat × α)) : List (Nat × α) := m.filter (fun e => p e.1)

/-- Every key of the list lies above `k` and the keys rise strictly. -/
def Sparse.rising {α : Type} : Option Nat → List (Nat × α) → Bool
  | _, [] => true
  | none, (j, _) :: m => Sparse.rising (some j) m
  | some k, (j, _) :: m => decide (k < j) && Sparse.rising (some j) m

/-- The canonical form: keys strictly rising, no entry equal to its unlisted value. -/
def Sparse.wf {α : Type} [DecidableEq α] (d : Nat → α) (m : List (Nat × α)) : Bool :=
  Sparse.rising none m && m.all (fun e => decide (e.2 ≠ d e.1))

end Sys2Proof.Machine
end

