-- ==== Sys2Proof/Machine/TileTypes.lean ====
section
/-! DEFINITION. The data of one tile: scratchpad, program store, the state of its eight contexts, and the units of the running
context ("Inside a Tile", "Tile Instruction Set I" and "II", R73-R209). Registers the spec numbers are kept as words. -/
namespace Sys2Proof.Machine

/-- Who reserves a range of a ring (R158): the drain path, the RFU, an instruction of the ring queue, RECV, STEER, a stream piece, an
aperture write. FENCE asks by producer (R185). -/
inductive Producer where
  | drain | rfu | ring | recv | steer | stream | aperture
  deriving DecidableEq, Repr

/-- One reservation in a ring (R158): `len` bytes of the ring belong to it, `held` of them are taken from the credit,
`done` says that they have been written, and `maker` who reserved them. -/
structure Resv where
  id : Nat
  len : Nat
  held : Nat
  done : Bool
  maker : Producer
  deriving DecidableEq, Repr

def Resv.withHeld (x : Resv) (v : Nat) : Resv := { x with held := v }
def Resv.withDone (x : Resv) (v : Bool) : Resv := { x with done := v }

/-- A ring of a context (R102-R105): TILE_RING_CFG, its pointers with wrap bits, and the reservations not yet passed by TAIL,
oldest first. -/
structure Ring where
  cfg : W64
  head : Nat
  headWrap : Bool
  tail : Nat
  tailWrap : Bool
  resv : List Resv
  nextId : Nat
  deriving DecidableEq, Repr

def Ring.withCfg (x : Ring) (v : W64) : Ring := { x with cfg := v }
def Ring.withHead (x : Ring) (v : Nat) : Ring := { x with head := v }
def Ring.withHeadWrap (x : Ring) (v : Bool) : Ring := { x with headWrap := v }
def Ring.withTail (x : Ring) (v : Nat) : Ring := { x with tail := v }
def Ring.withTailWrap (x : Ring) (v : Bool) : Ring := { x with tailWrap := v }
def Ring.withResv (x : Ring) (v : List Resv) : Ring := { x with resv := v }
def Ring.withNextId (x : Ring) (v : Nat) : Ring := { x with nextId := v }

/-- An aperture of a context: TILE_APT_WIN, TILE_APT_SRC, TILE_APT_CTL (R107-R110). -/
structure Aperture where
  win : W64
  src : W64
  ctl : W64
  deriving DecidableEq, Repr

def Aperture.withWin (x : Aperture) (v : W64) : Aperture := { x with win := v }
def Aperture.withSrc (x : Aperture) (v : W64) : Aperture := { x with src := v }
def Aperture.withCtl (x : Aperture) (v : W64) : Aperture := { x with ctl := v }

/-- A token (R202): control or data, its header fields, its 64 payload bytes, and whether it was stored
poisoned (R537). -/
structure Token where
  control : Bool
  ctx : Nat
  tag : Nat
  seq : Nat
  etag : Nat
  region : Nat
  payload : List Byte
  poison : Bool
  deriving DecidableEq, Repr

def Token.withPoison (x : Token) (v : Bool) : Token := { x with poison := v }

/-- An inbound queue of a context (R203, R204, R220): TILE_QUEUE_CFG, its entries, front slot, spill segment (with the places of its first
block already reinjected, R221) and spill state. -/
structure Queue where
  cfg : W64
  entries : List Token
  front : Option Token
  seg : List Token
  segOff : Nat
  spill : Bool
  deriving DecidableEq, Repr

def Queue.withCfg (x : Queue) (v : W64) : Queue := { x with cfg := v }
def Queue.withEntries (x : Queue) (v : List Token) : Queue := { x with entries := v }
def Queue.withFront (x : Queue) (v : Option Token) : Queue := { x with front := v }
def Queue.withSeg (x : Queue) (v : List Token) : Queue := { x with seg := v }
def Queue.withSegOff (x : Queue) (v : Nat) : Queue := { x with segOff := v }
def Queue.withSpill (x : Queue) (v : Bool) : Queue := { x with spill := v }

/-- A stream binding of a context (R194): whether it is bound, its permissions, descriptor, base and extent. -/
structure Binding where
  bound : Bool
  rd : Bool
  wr : Bool
  desc : Nat
  base : Nat
  extent : Nat
  deriving DecidableEq, Repr

def Binding.withBase (x : Binding) (v : Nat) : Binding := { x with base := v }

/-- What one context holds on one tile (Table 4.2). x0 and p0 are not stored: they read 0 and 1 (R120). -/
structure TileCtx where
  fpctl : W64
  srseed : W64
  fpstat : W64
  pstore : W64
  spad : W64
  x : List (Nat × W32)
  p : List (Nat × Bool)
  lc : List (Nat × W32)
  pc : Nat
  rings : List (Nat × Ring)
  apts : List (Nat × Aperture)
  queues : List (Nat × Queue)
  routes : List (Nat × W64)
  binds : List (Nat × Binding)
  drains : Nat
  deriving DecidableEq, Repr

def TileCtx.withFpctl (x : TileCtx) (v : W64) : TileCtx := { x with fpctl := v }
def TileCtx.withSrseed (x : TileCtx) (v : W64) : TileCtx := { x with srseed := v }
def TileCtx.withFpstat (x : TileCtx) (v : W64) : TileCtx := { x with fpstat := v }
def TileCtx.withPstore (x : TileCtx) (v : W64) : TileCtx := { x with pstore := v }
def TileCtx.withSpad (x : TileCtx) (v : W64) : TileCtx := { x with spad := v }
def TileCtx.withX (x : TileCtx) (v : List (Nat × W32)) : TileCtx := { x with x := v }
def TileCtx.withP (x : TileCtx) (v : List (Nat × Bool)) : TileCtx := { x with p := v }
def TileCtx.withLc (x : TileCtx) (v : List (Nat × W32)) : TileCtx := { x with lc := v }
def TileCtx.withPc (x : TileCtx) (v : Nat) : TileCtx := { x with pc := v }
def TileCtx.withRings (x : TileCtx) (v : List (Nat × Ring)) : TileCtx := { x with rings := v }
def TileCtx.withApts (x : TileCtx) (v : List (Nat × Aperture)) : TileCtx := { x with apts := v }
def TileCtx.withQueues (x : TileCtx) (v : List (Nat × Queue)) : TileCtx := { x with queues := v }
def TileCtx.withRoutes (x : TileCtx) (v : List (Nat × W64)) : TileCtx := { x with routes := v }
def TileCtx.withBinds (x : TileCtx) (v : List (Nat × Binding)) : TileCtx := { x with binds := v }
def TileCtx.withDrains (x : TileCtx) (v : Nat) : TileCtx := { x with drains := v }

/-- One accumulator set of the tile's 512 cells (R80, R81): kind, mode, mask image (8 bits per array) and the values, cell
(a, i, j) at position 64a + 8i + j. -/
structure AccSet where
  unfilled : Bool
  int : Bool
  sharedA : Bool
  rowMask : W64
  colMask : W64
  vals : List W32
  deriving DecidableEq, Repr

def AccSet.withRowMask (x : AccSet) (v : W64) : AccSet := { x with rowMask := v }
def AccSet.withColMask (x : AccSet) (v : W64) : AccSet := { x with colMask := v }
def AccSet.withVals (x : AccSet) (v : List W32) : AccSet := { x with vals := v }

/-- The shadow set's state (Table 3.4). -/
inductive Shadow where
  | empty | held | draining | filling | ready
  deriving DecidableEq, Repr

/-- An MMA in the array queue (R135-R137). `block` counts the K-blocks read. -/
structure MmaOp where
  word : W64
  pc : Nat
  seq : Nat
  k : Nat
  offA : Nat
  offB : Nat
  rowMask : W64
  colMask : W64
  badMask : Bool
  started : Bool
  block : Nat
  deriving DecidableEq, Repr

def MmaOp.withStarted (x : MmaOp) (v : Bool) : MmaOp := { x with started := v }
def MmaOp.withBlock (x : MmaOp) (v : Nat) : MmaOp := { x with block := v }

/-- The three instructions of the accumulator control queue (R82). -/
inductive AccKind where
  | swap | drain | fill
  deriving DecidableEq, Repr

/-- An entry of the accumulator control queue. -/
structure AccOp where
  kind : AccKind
  word : W64
  pc : Nat
  seq : Nat
  deriving DecidableEq, Repr

/-- The drain that has started (R85, R91): the set it reads out as it stood at the start, the next array, its reservation and its
number of R66. A fill changes an array of the set only after that array's read-out, so the copy is what the drain reads. -/
structure DrainRun where
  set : AccSet
  word : W64
  pc : Nat
  next : Nat
  resv : Option Nat
  num : Nat
  deriving DecidableEq, Repr

def DrainRun.withNext (x : DrainRun) (v : Nat) : DrainRun := { x with next := v }
def DrainRun.withResv (x : DrainRun) (v : Option Nat) : DrainRun := { x with resv := v }

/-- The fill that has started (R85): the next array to write, and the BIAS elements read with the first array's lines, as binary32
codes with the flags of their conversion (R93). -/
structure FillRun where
  word : W64
  pc : Nat
  next : Nat
  bias : List (Nat × Nat)
  deriving DecidableEq, Repr

def FillRun.withNext (x : FillRun) (v : Nat) : FillRun := { x with next := v }
def FillRun.withBias (x : FillRun) (v : List (Nat × Nat)) : FillRun := { x with bias := v }

/-- An output run of packed values that grows row by row (R149, R151): the bits of the 32 B chunk not yet complete, how many they
are, and that chunk's reservation. -/
structure OutRun where
  acc : Nat
  bits : Nat
  resv : Option Nat
  deriving DecidableEq, Repr

/-- An RFU or SELECT instruction in the RFU queue (R145-R152). -/
structure RfuOp where
  select : Bool
  word : W64
  pc : Nat
  n : Nat
  row : Nat
  offA : Nat
  offB : Nat
  offC : Nat
  scalar : Nat
  mask : Nat
  psel : Bool
  out : OutRun
  cOut : OutRun
  deriving DecidableEq, Repr

def RfuOp.withRow (x : RfuOp) (v : Nat) : RfuOp := { x with row := v }
def RfuOp.withOut (x : RfuOp) (v : OutRun) : RfuOp := { x with out := v }
def RfuOp.withCOut (x : RfuOp) (v : OutRun) : RfuOp := { x with cOut := v }

/-- An instruction of the ring queue, the send queue, the receive queue or the steer unit (R156): its word, its byte count read
at issue, the bytes done, and the register values it read. -/
structure MoveOp where
  word : W64
  pc : Nat
  n : Nat
  done : Nat
  vals : List W32
  deriving DecidableEq, Repr

def MoveOp.withDone (x : MoveOp) (v : Nat) : MoveOp := { x with done := v }

/-- A STRM or REARM in the stream queue (R165-R170): its offset and length, the bytes whose pieces have issued, the bytes whose
pieces are written (R171), and for REARM the new base. -/
structure StrmOp where
  rearm : Bool
  word : W64
  pc : Nat
  off : Nat
  n : Nat
  issued : Nat
  base : Nat
  id : Nat
  deriving DecidableEq, Repr

def StrmOp.withIssued (x : StrmOp) (v : Nat) : StrmOp := { x with issued := v }

/-- A stream piece that has issued and is outstanding (R166-R168). `reg`, `ctx` and `epoch` name the run that issued it: a piece outlives
that run when its section faults (R216). `off` is its place in the stream, `addr` the global address
of its first byte, `data` the bytes of a write, `bind` the binding as it stood at the issue, `tries` its reissues (R325), `born` its
first issue, `busy` that it waits to be reissued after HOME_BUSY (R331), and `lead` and `place` the first piece of its run toward another
chip and its own place in that run (R309). -/
structure Piece where
  id : Nat
  reg : Nat
  ctx : Nat
  epoch : Nat
  strm : Nat
  write : Bool
  ring : Nat
  resv : Nat
  sb : Nat
  addr : Nat
  off : Nat
  len : Nat
  relay : Option Nat
  data : List Byte
  pc : Nat
  bind : Binding
  tries : Nat
  born : Nat
  busy : Bool
  lead : Nat
  place : Nat
  deriving DecidableEq, Repr

def Piece.withAddr (x : Piece) (v : Nat) : Piece := { x with addr := v }
def Piece.withTries (x : Piece) (v : Nat) : Piece := { x with tries := v }
def Piece.withBusy (x : Piece) (v : Bool) : Piece := { x with busy := v }
def Piece.withLead (x : Piece) (v : Nat) : Piece := { x with lead := v }
def Piece.withPlace (x : Piece) (v : Nat) : Piece := { x with place := v }

/-- A read piece whose bytes wait at the tile's stream arrival port (R171); `tag` says that it still holds a tag of its die, as every
piece does that did not come by an optical die (R307, R308). -/
structure Arrived where
  piece : Piece
  bytes : List Byte
  tag : Bool
  deriving DecidableEq, Repr

/-- The pairing slot of the steer unit (R208): which queue's token is latched, its SEQ, and a control token's value. -/
structure PairSlot where
  control : Bool
  seq : Nat
  value : Nat
  deriving DecidableEq, Repr

/-- A loop that runs (R179-R182): its counter, the first body word, the word after the body, the trip count, and its mask
generation. -/
structure LoopFrame where
  lc : Nat
  start : Nat
  stop : Nat
  trips : Nat
  maskgen : Bool
  cols : Bool
  ts : Nat
  len : Nat
  deriving DecidableEq, Repr

/-- What the sequencer does: nothing; it fetches and issues; it has reported END or waits to report it; or a fault stopped it
(R155, R186, R216). -/
inductive Issue where
  | idle | running | ended | reported | halted
  deriving DecidableEq, Repr

/-- The units of the tile with the work of the running context (Tables 4.1 and 5.1). `port` is the stream arrival port, the piece that
came first in front; `rests` holds the bytes of relaying STRMs, by the STRM's number, that do not make a whole token yet (R171). -/
structure Units where
  issue : Issue
  seqNo : Nat
  loops : List LoopFrame
  arrayQ : List MmaOp
  accQ : List AccOp
  rfuQ : List RfuOp
  ringQ : List MoveOp
  strmQ : List StrmOp
  sendQ : List MoveOp
  recvQ : List MoveOp
  steerQ : List MoveOp
  slot : Option PairSlot
  pair : Option Nat
  live : AccSet
  shadow : AccSet
  shadowSt : Shadow
  drain : Option DrainRun
  fill : Option FillRun
  pieces : List Piece
  port : List Arrived
  rests : List (Nat × List Byte)
  xcode : W32
  deriving DecidableEq, Repr

def Units.withIssue (x : Units) (v : Issue) : Units := { x with issue := v }
def Units.withSeqNo (x : Units) (v : Nat) : Units := { x with seqNo := v }
def Units.withLoops (x : Units) (v : List LoopFrame) : Units := { x with loops := v }
def Units.withArrayQ (x : Units) (v : List MmaOp) : Units := { x with arrayQ := v }
def Units.withAccQ (x : Units) (v : List AccOp) : Units := { x with accQ := v }
def Units.withRfuQ (x : Units) (v : List RfuOp) : Units := { x with rfuQ := v }
def Units.withRingQ (x : Units) (v : List MoveOp) : Units := { x with ringQ := v }
def Units.withStrmQ (x : Units) (v : List StrmOp) : Units := { x with strmQ := v }
def Units.withSendQ (x : Units) (v : List MoveOp) : Units := { x with sendQ := v }
def Units.withRecvQ (x : Units) (v : List MoveOp) : Units := { x with recvQ := v }
def Units.withSteerQ (x : Units) (v : List MoveOp) : Units := { x with steerQ := v }
def Units.withSlot (x : Units) (v : Option PairSlot) : Units := { x with slot := v }
def Units.withPair (x : Units) (v : Option Nat) : Units := { x with pair := v }
def Units.withLive (x : Units) (v : AccSet) : Units := { x with live := v }
def Units.withShadow (x : Units) (v : AccSet) : Units := { x with shadow := v }
def Units.withShadowSt (x : Units) (v : Shadow) : Units := { x with shadowSt := v }
def Units.withDrain (x : Units) (v : Option DrainRun) : Units := { x with drain := v }
def Units.withFill (x : Units) (v : Option FillRun) : Units := { x with fill := v }
def Units.withPieces (x : Units) (v : List Piece) : Units := { x with pieces := v }
def Units.withPort (x : Units) (v : List Arrived) : Units := { x with port := v }
def Units.withRests (x : Units) (v : List (Nat × List Byte)) : Units := { x with rests := v }
def Units.withXcode (x : Units) (v : W32) : Units := { x with xcode := v }

/-- TILE_STATE.STATE (R112). -/
inductive TileSt where
  | active | parked | dark
  deriving DecidableEq, Repr

/-- One tile (R73, R112-R115, R201, R206, R223). `run` is the region and context of the running section. -/
structure Tile where
  st : TileSt
  parkTo : Option Bool
  suspect : Bool
  run : Option (Nat × Nat)
  refused : W64
  qstray : W64
  steerDrop : W64
  stalls : List (Nat × Nat)
  ctxs : List (Nat × TileCtx)
  transit : List (Nat × W64)
  pstore : List (Nat × W64)
  spad : List (Nat × Byte)
  u : Units
  deriving DecidableEq, Repr

def Tile.withSt (x : Tile) (v : TileSt) : Tile := { x with st := v }
def Tile.withParkTo (x : Tile) (v : Option Bool) : Tile := { x with parkTo := v }
def Tile.withSuspect (x : Tile) (v : Bool) : Tile := { x with suspect := v }
def Tile.withRun (x : Tile) (v : Option (Nat × Nat)) : Tile := { x with run := v }
def Tile.withRefused (x : Tile) (v : W64) : Tile := { x with refused := v }
def Tile.withQstray (x : Tile) (v : W64) : Tile := { x with qstray := v }
def Tile.withSteerDrop (x : Tile) (v : W64) : Tile := { x with steerDrop := v }
def Tile.withStalls (x : Tile) (v : List (Nat × Nat)) : Tile := { x with stalls := v }
def Tile.withCtxs (x : Tile) (v : List (Nat × TileCtx)) : Tile := { x with ctxs := v }
def Tile.withTransit (x : Tile) (v : List (Nat × W64)) : Tile := { x with transit := v }
def Tile.withPstore (x : Tile) (v : List (Nat × W64)) : Tile := { x with pstore := v }
def Tile.withSpad (x : Tile) (v : List (Nat × Byte)) : Tile := { x with spad := v }
def Tile.withU (x : Tile) (v : Units) : Tile := { x with u := v }

/-! ## What a reset leaves -/

def Ring.init : Ring := ⟨0, 0, false, 0, false, [], 0⟩
def Aperture.init : Aperture := ⟨0, 0, 0⟩
def Queue.init : Queue := ⟨0, [], none, [], 0, false⟩
def Binding.init : Binding := ⟨false, false, false, 0, 0, 0⟩
/-- DESIGN CHOICE (log entry 17). -/
def TileCtx.init : TileCtx := ⟨0, 0, 0, 0, 0, [], [], [], 0, [], [], [], [], [], 0⟩
/-- An unfilled set: mode shared-B, the floating kind, a mask image of all zeros (R81). -/
def AccSet.init : AccSet := ⟨true, false, false, 0, 0, []⟩
/-- DESIGN CHOICE (log entry 17). -/
def Units.init : Units :=
  ⟨.idle, 0, [], [], [], [], [], [], [], [], [], none, none, AccSet.init, AccSet.init, .empty, none, none, [], [], [], 0⟩
/-- DESIGN CHOICE (log entry 17). -/
def Tile.init : Tile := ⟨.active, none, false, none, 0, 0, 0, [], [], [], [], [], Units.init⟩

end Sys2Proof.Machine
end

