-- ==== Sys2Proof/Machine/SectionTypes.lean ====
section
/-! DEFINITION. The data of sections: images, the section of one context of one region, tokens and credits on the links
("Sections: Spatial Configurations That Run to Their End"). -/
namespace Sys2Proof.Machine

/-- CD_SEC_STATE.STATE (R198). -/
inductive SecSt where
  | empty | loading | loaded | running | ending | faulted
  deriving DecidableEq, Repr

/-- A tile record of an image (R192): its 512 bytes and the words of its program. -/
structure ImgTile where
  t0 : Nat
  raw : List Byte
  prog : List W64
  deriving DecidableEq, Repr

/-- A route record of an image (R193): its fields and the tiles of its path, the sender first. -/
structure ImgRoute where
  src : Nat
  srcRoute : Nat
  dst : Nat
  dstQueue : Nat
  tag : Nat
  dirs : List Nat
  path : List Nat
  deriving DecidableEq, Repr

/-- A binding record of an image (R194). -/
structure ImgBind where
  tile : Nat
  sb : Nat
  bind : Binding
  deriving DecidableEq, Repr

/-- A section image whose load was accepted (R195, R196). -/
structure Image where
  tiles : List ImgTile
  routes : List ImgRoute
  binds : List ImgBind
  spill : Nat
  deriving DecidableEq, Repr

/-- The first fault of a run (R215, R216): CAUSE, EXC and FAULT_T0. -/
structure SecFault where
  cause : Nat
  exc : Nat
  t0 : Nat
  deriving DecidableEq, Repr

/-- The section of one context of one region (R198, R212-R216, R220, R221): its state and registers, what it named (`spill` the
64 KiB units of its spill area on the lead die), what its tiles reported, its lengths (R121) and the SET_LENGTH and REARM commands that wait for the next start,
and the address of its image. -/
structure Section where
  st : SecSt
  loadStatus : Nat
  epoch : Nat
  image : Option Image
  tiles : List Nat
  passes : List Nat
  report : Nat
  spill : List Nat
  reported : List Nat
  xcode : W32
  xcodeOr : W32
  fault : Option SecFault
  runFires : Nat
  runPeak : Nat
  fires : Nat
  peak : Nat
  startHeld : Bool
  tag : Nat
  lens : List (Nat × W32)
  lenNext : List (Nat × W32)
  rearmNext : List (Nat × Nat × Nat)
  src : Nat
  deriving DecidableEq, Repr

def Section.withSt (x : Section) (v : SecSt) : Section := { x with st := v }
def Section.withLoadStatus (x : Section) (v : Nat) : Section := { x with loadStatus := v }
def Section.withEpoch (x : Section) (v : Nat) : Section := { x with epoch := v }
def Section.withImage (x : Section) (v : Option Image) : Section := { x with image := v }
def Section.withTiles (x : Section) (v : List Nat) : Section := { x with tiles := v }
def Section.withPasses (x : Section) (v : List Nat) : Section := { x with passes := v }
def Section.withReport (x : Section) (v : Nat) : Section := { x with report := v }
def Section.withSpill (x : Section) (v : List Nat) : Section := { x with spill := v }
def Section.withReported (x : Section) (v : List Nat) : Section := { x with reported := v }
def Section.withXcode (x : Section) (v : W32) : Section := { x with xcode := v }
def Section.withXcodeOr (x : Section) (v : W32) : Section := { x with xcodeOr := v }
def Section.withFault (x : Section) (v : Option SecFault) : Section := { x with fault := v }
def Section.withRunFires (x : Section) (v : Nat) : Section := { x with runFires := v }
def Section.withRunPeak (x : Section) (v : Nat) : Section := { x with runPeak := v }
def Section.withFires (x : Section) (v : Nat) : Section := { x with fires := v }
def Section.withPeak (x : Section) (v : Nat) : Section := { x with peak := v }
def Section.withStartHeld (x : Section) (v : Bool) : Section := { x with startHeld := v }
def Section.withTag (x : Section) (v : Nat) : Section := { x with tag := v }
def Section.withLens (x : Section) (v : List (Nat × W32)) : Section := { x with lens := v }
def Section.withLenNext (x : Section) (v : List (Nat × W32)) : Section := { x with lenNext := v }
def Section.withRearmNext (x : Section) (v : List (Nat × Nat × Nat)) : Section := { x with rearmNext := v }
def Section.withSrc (x : Section) (v : Nat) : Section := { x with src := v }

/-- A token on its way (R199, R207): the sending tile, context and route, and the receiving tile; the tile whose transit entry it meets
next, the die-edge queue in which it waits, as the tile entered and the port it enters by (R25), and its place in line there. -/
structure Flight where
  src : Nat
  ctx : Nat
  route : Nat
  dst : Nat
  token : Token
  pos : Nat
  edge : Option (Nat × Nat)
  turn : Nat
  deriving DecidableEq, Repr

def Flight.withPos (x : Flight) (v : Nat) : Flight := { x with pos := v }
def Flight.withEdge (x : Flight) (v : Option (Nat × Nat)) : Flight := { x with edge := v }
def Flight.withTurn (x : Flight) (v : Nat) : Flight := { x with turn := v }

/-- A credit on its way back to a sending route, with the receiving tile that it leaves and the transit tag of the route (R176, R201). -/
structure CreditFlight where
  src : Nat
  ctx : Nat
  route : Nat
  dst : Nat
  tag : Nat
  deriving DecidableEq, Repr

def Section.init : Section :=
  ⟨.empty, 0, 0, none, [], [], 0, [], [], 0, 0, none, 0, 0, 0, 0, false, 0, [], [], [], 0⟩

end Sys2Proof.Machine
end

