-- ==== Sys2Proof/Machine/JobTypes.lean ====
section
/-! DEFINITION. The data of command queues and of the job queues of Prism and the tint units (R241-R244, R263-R267, R404). -/
namespace Sys2Proof.Machine

/-- A command list held by a queue (R404): its offset in space 0x1, its records, the index of the next to carry out, and the bytes
themselves when the list came in a dispatch (R412). -/
structure CmdList where
  off : Nat
  count : Nat
  next : Nat
  inline : List Byte
  deriving DecidableEq, Repr

def CmdList.withNext (x : CmdList) (v : Nat) : CmdList := { x with next := v }

/-- The command in progress of a queue: its 32 bytes and its index in its list; `waits` while it is held (R407-R410). -/
structure CmdRun where
  bytes : List Byte
  idx : Nat
  waits : Bool
  deriving DecidableEq, Repr

def CmdRun.withWaits (x : CmdRun) (v : Bool) : CmdRun := { x with waits := v }

/-- A dispatch not yet acknowledged (R410, R412): its operation, and the command that sent it with its place. -/
structure DispRun where
  id : Nat
  idx : Nat
  off : Nat
  bytes : List Byte
  deriving DecidableEq, Repr

/-- The command queue of (g, c) (R404): held lists, oldest first; STOPPED; the command in progress; FLUSH asked for; dispatches not
yet acknowledged (R410). -/
structure CmdQ where
  lists : List CmdList
  stopped : Bool
  cmd : Option CmdRun
  flush : Bool
  dispatches : List DispRun
  deriving DecidableEq, Repr

def CmdQ.withLists (x : CmdQ) (v : List CmdList) : CmdQ := { x with lists := v }
def CmdQ.withStopped (x : CmdQ) (v : Bool) : CmdQ := { x with stopped := v }
def CmdQ.withCmd (x : CmdQ) (v : Option CmdRun) : CmdQ := { x with cmd := v }
def CmdQ.withFlush (x : CmdQ) (v : Bool) : CmdQ := { x with flush := v }
def CmdQ.withDispatches (x : CmdQ) (v : List DispRun) : CmdQ := { x with dispatches := v }

/-- Where a job stands: posted; checked and waiting for its trigger; or running. -/
inductive JobSt where
  | posted | waiting | running
  deriving DecidableEq, Repr

/-- A Prism job (R241-R244): the descriptor's address, the completion serial when it was posted, its state, and what it read at its
check and at its start. -/
structure PrismJob where
  addr : Nat
  since : Nat
  st : JobSt
  desc : List Byte
  ents : List (List Byte)
  ctl : W64
  base : W64
  deriving DecidableEq, Repr

def PrismJob.withSt (x : PrismJob) (v : JobSt) : PrismJob := { x with st := v }
def PrismJob.withDesc (x : PrismJob) (v : List Byte) : PrismJob := { x with desc := v }
def PrismJob.withEnts (x : PrismJob) (v : List (List Byte)) : PrismJob := { x with ents := v }
def PrismJob.withCtl (x : PrismJob) (v : W64) : PrismJob := { x with ctl := v }
def PrismJob.withBase (x : PrismJob) (v : W64) : PrismJob := { x with base := v }

/-- A finished delta record (R267): its number, aperture address, bytes, and the time of its first attempt once it has been refused. -/
structure TintRec where
  rho : Nat
  addr : Nat
  data : List Byte
  since : Option Nat
  deriving DecidableEq, Repr

def TintRec.withSince (x : TintRec) (v : Option Nat) : TintRec := { x with since := v }

/-- A tint job (R263-R267, R277): as a Prism job, with the token index list, the table entries of its adapters, the next record to
compute, the finished records, what its completion counts, the factor lines still to look up (adapter, address), and those it has. -/
structure TintJob where
  addr : Nat
  since : Nat
  st : JobSt
  desc : List Byte
  ctl : W64
  idx : List Nat
  ents : List (Nat × List Byte)
  next : Nat
  recs : List TintRec
  status : Nat
  flags : Nat
  hits : Nat
  misses : Nat
  missBy : List (Nat × Nat)
  todo : List (Nat × Nat)
  facts : List (Nat × Nat × List Byte)
  base : W64
  deriving DecidableEq, Repr

def TintJob.withSt (x : TintJob) (v : JobSt) : TintJob := { x with st := v }
def TintJob.withDesc (x : TintJob) (v : List Byte) : TintJob := { x with desc := v }
def TintJob.withCtl (x : TintJob) (v : W64) : TintJob := { x with ctl := v }
def TintJob.withIdx (x : TintJob) (v : List Nat) : TintJob := { x with idx := v }
def TintJob.withEnts (x : TintJob) (v : List (Nat × List Byte)) : TintJob := { x with ents := v }
def TintJob.withNext (x : TintJob) (v : Nat) : TintJob := { x with next := v }
def TintJob.withRecs (x : TintJob) (v : List TintRec) : TintJob := { x with recs := v }
def TintJob.withFlags (x : TintJob) (v : Nat) : TintJob := { x with flags := v }
def TintJob.withHits (x : TintJob) (v : Nat) : TintJob := { x with hits := v }
def TintJob.withMisses (x : TintJob) (v : Nat) : TintJob := { x with misses := v }
def TintJob.withMissBy (x : TintJob) (v : List (Nat × Nat)) : TintJob := { x with missBy := v }
def TintJob.withTodo (x : TintJob) (v : List (Nat × Nat)) : TintJob := { x with todo := v }
def TintJob.withFacts (x : TintJob) (v : List (Nat × Nat × List Byte)) : TintJob := { x with facts := v }
def TintJob.withBase (x : TintJob) (v : W64) : TintJob := { x with base := v }

/-- A line of the tint cache (R275): its tag (adapter, GEN, address) and whether its entry is pinned. -/
structure TintLine where
  adapter : Nat
  gen : Nat
  addr : Nat
  pin : Bool
  data : List Byte
  deriving DecidableEq, Repr

/-- A die's tint unit: its jobs and its cache lines, most recently used first; `stale` says that a change of the cache fields
invalidates every line at the next job (R275). -/
structure TintUnit where
  jobs : List TintJob
  lines : List TintLine
  stale : Bool
  deriving DecidableEq, Repr

def TintUnit.withJobs (x : TintUnit) (v : List TintJob) : TintUnit := { x with jobs := v }
def TintUnit.withLines (x : TintUnit) (v : List TintLine) : TintUnit := { x with lines := v }
def TintUnit.withStale (x : TintUnit) (v : Bool) : TintUnit := { x with stale := v }

/-- The last completion of a section context: its serial, epoch and STATUS (R215, R243). -/
structure SecDone where
  serial : Nat
  epoch : Nat
  status : Nat
  deriving DecidableEq, Repr

def CmdQ.init : CmdQ := ⟨[], false, none, false, []⟩
def TintUnit.init : TintUnit := ⟨[], [], false⟩
def SecDone.init : SecDone := ⟨0, 0, 0⟩

end Sys2Proof.Machine
end

