-- ==== Sys2Proof/Machine/NetTypes.lean ====
section
/-! DEFINITION. The data of accesses and operations in flight: memory requests, copy and move jobs, Ouvuth operations and streams, and
the sub-ports ("Three Tiers and Loans", "One Home per Granule", "Co-Packaged Optical Ports", "Ouvuth"). -/
namespace Sys2Proof.Machine

/-- A request to spaces 0x1-0x3 (R292-R294): `op` is 1 read, 2 write, 3 atomic (Table 16.2); `data` the bytes written or the
ATOMIC payload; the partition ID it carries; the requesting chip when it is another; the region of this chip for which the unit
works; the longest length allowed; whether it is a copy write of a move, and whether an old home forwarded it (R323). -/
structure MemReq where
  op : Nat
  addr : Nat
  len : Nat
  data : List Byte
  part : Nat
  chip : Option Nat
  region : Option Nat
  top : Nat
  mover : Bool
  fwd : Bool
  deriving DecidableEq, Repr

def MemReq.withAddr (x : MemReq) (v : Nat) : MemReq := { x with addr := v }
def MemReq.withFwd (x : MemReq) (v : Bool) : MemReq := { x with fwd := v }

/-- Who waits for an operation (R308, R325, R330, R401, R431, R468); a Lantern core with the physical address of its access; a unit that
works in one step, with the request it waits for; the front package job, which passes a chunk on (R355). -/
inductive Client where
  | none
  | unit (r : MemReq)
  | piece (t id : Nat)
  | efnil (cmd : Nat) (kind : Nat)
  | core (i pa : Nat) (amo : Bool)
  | peer (chip die tag : Nat) (req : List Byte)
  | forwarded (chip die tag : Nat) (req : List Byte) (loc : Nat)
  | dispatch (g c : Nat)
  | moveBegin (slot : Nat)
  | moveCopy (slot block : Nat)
  | moveCommit (slot : Nat)
  | query (tier granule : Nat)
  | loan (slot : Nat)
  | release (k : Nat)
  | chain
  deriving DecidableEq, Repr

/-- How an operation was answered: status, data, and the location named by HOME_MOVED or FWD (R324, R325, R468). -/
structure Ans where
  status : Nat
  data : List Byte
  loc : Nat
  fwd : Bool
  deriving DecidableEq, Repr

def Ans.withLoc (x : Ans) (v : Nat) : Ans := { x with loc := v }
def Ans.withFwd (x : Ans) (v : Bool) : Ans := { x with fwd := v }

/-- An operation that waits at a frozen home (R331). -/
structure HeldOp where
  req : MemReq
  client : Client
  deriving DecidableEq, Repr

/-- A copy job (R306, R482): the address of its descriptor, and for MULTICAST whether its frames have been sent. -/
structure CopyJob where
  addr : Nat
  sent : Bool
  lost : Bool
  deriving DecidableEq, Repr

def CopyJob.withSent (x : CopyJob) (v : Bool) : CopyJob := { x with sent := v }
def CopyJob.withLost (x : CopyJob) (v : Bool) : CopyJob := { x with lost := v }

/-- Where a move job stands (R330). -/
inductive MovePh where
  | posted | beginning | copying | frozen | committing
  deriving DecidableEq, Repr

/-- A move job in its slot (R328-R333): descriptor address and bytes, phase, pass, blocks still to copy in the pass, blocks
outstanding, the dirty map, held operations, and what its completion counts. -/
structure MoveJob where
  slot : Nat
  addr : Nat
  desc : List Byte
  ph : MovePh
  pass : Nat
  todo : List Nat
  out : List Nat
  dirty : List Nat
  held : List HeldOp
  heldOps : Nat
  frozenAt : Nat
  frozenBlocks : Nat
  flip : Nat
  deriving DecidableEq, Repr

def MoveJob.withDesc (x : MoveJob) (v : List Byte) : MoveJob := { x with desc := v }
def MoveJob.withPh (x : MoveJob) (v : MovePh) : MoveJob := { x with ph := v }
def MoveJob.withPass (x : MoveJob) (v : Nat) : MoveJob := { x with pass := v }
def MoveJob.withTodo (x : MoveJob) (v : List Nat) : MoveJob := { x with todo := v }
def MoveJob.withOut (x : MoveJob) (v : List Nat) : MoveJob := { x with out := v }
def MoveJob.withDirty (x : MoveJob) (v : List Nat) : MoveJob := { x with dirty := v }
def MoveJob.withHeld (x : MoveJob) (v : List HeldOp) : MoveJob := { x with held := v }
def MoveJob.withHeldOps (x : MoveJob) (v : Nat) : MoveJob := { x with heldOps := v }
def MoveJob.withFrozenAt (x : MoveJob) (v : Nat) : MoveJob := { x with frozenAt := v }
def MoveJob.withFrozenBlocks (x : MoveJob) (v : Nat) : MoveJob := { x with frozenBlocks := v }
def MoveJob.withFlip (x : MoveJob) (v : Nat) : MoveJob := { x with flip := v }

/-- An entry that is MOVING_IN, when it last received an operation from its source, and when it last asked its source (R335). -/
structure MoveIn where
  tier : Nat
  granule : Nat
  last : Nat
  asked : Option Nat
  deriving DecidableEq, Repr

def MoveIn.withLast (x : MoveIn) (v : Nat) : MoveIn := { x with last := v }
def MoveIn.withAsked (x : MoveIn) (v : Option Nat) : MoveIn := { x with asked := v }

/-- An operation of this chip on another chip, or a move's operation on this chip, until its client takes the answer (R308,
R340, R468). `at` is its first issue; `frames` the sequence numbers of its frames not yet acknowledged. -/
structure NetOp where
  id : Nat
  chip : Nat
  die : Nat
  tag : Nat
  op : Nat
  addr : Nat
  len : Nat
  data : List Byte
  span : Nat
  client : Client
  born : Nat
  tries : Nat
  done : Option Ans
  deriving DecidableEq, Repr

def NetOp.withDone (x : NetOp) (v : Option Ans) : NetOp := { x with done := v }

/-- A corrected symbol of a T2 device, kept for the count of R535. -/
structure EccHit where
  chan : Nat
  sub : Nat
  dev : Nat
  word : Nat
  time : Nat
  deriving DecidableEq, Repr

/-- A frame of a stream until an ACK covers it (R475, R479): its sequence number, bytes without the trailer, flow salt, how often
and when it was sent, and the operation whose completion is its acknowledgement (R469). -/
structure TxFrame where
  seq : Nat
  bytes : List Byte
  salt : Nat
  sends : Nat
  last : Nat
  order : Nat
  acks : Option Nat
  tree : Option Nat
  deriving DecidableEq, Repr

def TxFrame.withBytes (x : TxFrame) (v : List Byte) : TxFrame := { x with bytes := v }
def TxFrame.withSalt (x : TxFrame) (v : Nat) : TxFrame := { x with salt := v }
def TxFrame.withSends (x : TxFrame) (v : Nat) : TxFrame := { x with sends := v }
def TxFrame.withLast (x : TxFrame) (v : Nat) : TxFrame := { x with last := v }
def TxFrame.withOrder (x : TxFrame) (v : Nat) : TxFrame := { x with order := v }

/-- The send side of a stream (R472, R475, R477): synced, the SYNCs sent and when, next sequence number, CWND, when CE last cut it,
the stream's salt, frames sent and not acknowledged, and frames that wait. -/
structure TxStream where
  synced : Bool
  syncSends : Nat
  syncAt : Nat
  nextSeq : Nat
  cwnd : Nat
  cutAt : Option Nat
  salt : Nat
  order : Nat
  una : List TxFrame
  wait : List TxFrame
  deriving DecidableEq, Repr

def TxStream.withSynced (x : TxStream) (v : Bool) : TxStream := { x with synced := v }
def TxStream.withSyncSends (x : TxStream) (v : Nat) : TxStream := { x with syncSends := v }
def TxStream.withSyncAt (x : TxStream) (v : Nat) : TxStream := { x with syncAt := v }
def TxStream.withNextSeq (x : TxStream) (v : Nat) : TxStream := { x with nextSeq := v }
def TxStream.withCwnd (x : TxStream) (v : Nat) : TxStream := { x with cwnd := v }
def TxStream.withCutAt (x : TxStream) (v : Option Nat) : TxStream := { x with cutAt := v }
def TxStream.withSalt (x : TxStream) (v : Nat) : TxStream := { x with salt := v }
def TxStream.withOrder (x : TxStream) (v : Nat) : TxStream := { x with order := v }
def TxStream.withUna (x : TxStream) (v : List TxFrame) : TxStream := { x with una := v }
def TxStream.withWait (x : TxStream) (v : List TxFrame) : TxStream := { x with wait := v }

/-- The receive side of a stream (R473, R477). -/
structure RxStream where
  inc : Option Nat
  cum : Nat
  got : List Nat
  fresh : Nat
  due : Bool
  ce : Bool
  resyncAt : Option Nat
  deriving DecidableEq, Repr

def RxStream.withInc (x : RxStream) (v : Option Nat) : RxStream := { x with inc := v }
def RxStream.withCum (x : RxStream) (v : Nat) : RxStream := { x with cum := v }
def RxStream.withGot (x : RxStream) (v : List Nat) : RxStream := { x with got := v }
def RxStream.withFresh (x : RxStream) (v : Nat) : RxStream := { x with fresh := v }
def RxStream.withDue (x : RxStream) (v : Bool) : RxStream := { x with due := v }
def RxStream.withCe (x : RxStream) (v : Bool) : RxStream := { x with ce := v }
def RxStream.withResyncAt (x : RxStream) (v : Option Nat) : RxStream := { x with resyncAt := v }

/-- The kinds of frame that a sub-port sends (R447, R460). -/
inductive OutKind where
  | ouvCtl | ouvData | ptp | nd | pfc | serve
  deriving DecidableEq, Repr

/-- How a frame is tagged (R444): as the sub-port's own tagging says, not at all, or with a tag control field. -/
inductive Tagging where
  | own
  | bare
  | tci (t : Nat)
  deriving DecidableEq, Repr

/-- A frame queued at a sub-port: its class, destination MAC, tagging, UDP destination, flow label, body after the EtherType or UDP header, and for a
transit frame when it arrived (R480). -/
structure OutFrame where
  kind : OutKind
  tc : Nat
  mac : Nat
  vlan : Tagging
  udp : Option (List Byte × Nat)
  flow : Nat
  body : List Byte
  born : Option Nat
  deriving DecidableEq, Repr

def OutFrame.withBody (x : OutFrame) (v : List Byte) : OutFrame := { x with body := v }

/-- The last hello of a link (R483). -/
structure Hello where
  bytes : List Byte
  time : Nat
  deriving DecidableEq, Repr

/-- What a sub-port has gathered of its PTP messages (R453, R526): of the last Sync its sequence number, arrival and correction; the
master time of the last pair of Sync and Follow_Up and the arrival of its Sync; the delay request's sequence number and departure; of the peer's
response its sequence number, arrival, the peer's receipt time and correction; and the measured delay. Arrivals, departures and the delay are in
qns, the master's and the peer's times and corrections in 2^-14 qns, the unit of PTP corrections. -/
structure PtpRx where
  syncSeq : Nat
  syncAt : Option Nat
  syncCorr : Int
  t1 : Option Int
  t2 : Nat
  reqSeq : Nat
  reqAt : Option Nat
  respSeq : Nat
  respAt : Option Nat
  peerIn : Int
  peerCorr : Int
  delay : Option Nat
  deriving DecidableEq, Repr

def PtpRx.withSyncSeq (x : PtpRx) (v : Nat) : PtpRx := { x with syncSeq := v }
def PtpRx.withSyncAt (x : PtpRx) (v : Option Nat) : PtpRx := { x with syncAt := v }
def PtpRx.withSyncCorr (x : PtpRx) (v : Int) : PtpRx := { x with syncCorr := v }
def PtpRx.withT1 (x : PtpRx) (v : Option Int) : PtpRx := { x with t1 := v }
def PtpRx.withT2 (x : PtpRx) (v : Nat) : PtpRx := { x with t2 := v }
def PtpRx.withReqSeq (x : PtpRx) (v : Nat) : PtpRx := { x with reqSeq := v }
def PtpRx.withReqAt (x : PtpRx) (v : Option Nat) : PtpRx := { x with reqAt := v }
def PtpRx.withRespSeq (x : PtpRx) (v : Nat) : PtpRx := { x with respSeq := v }
def PtpRx.withRespAt (x : PtpRx) (v : Option Nat) : PtpRx := { x with respAt := v }
def PtpRx.withPeerIn (x : PtpRx) (v : Int) : PtpRx := { x with peerIn := v }
def PtpRx.withPeerCorr (x : PtpRx) (v : Int) : PtpRx := { x with peerCorr := v }
def PtpRx.withDelay (x : PtpRx) (v : Option Nat) : PtpRx := { x with delay := v }

/-- A sub-port (R438-R462, R483): its egress queues as one list in arrival order; of classes 0 to 5 the one in turn, and the bytes it
has sent in its turn; received pauses with their ends; classes for which it has sent XOFF, with the time of their last PFC frame; the last hello, and
when it last sent one itself; PTP sequence numbers and the time of the last sending by message type, and
departures of PTP messages by message type and sequence number; what it has gathered of PTP; whether it has lost its light;
for sub-port 0 when the last training of the port began (R455), and its fast retrains that failed in a row (R508); and by SA the packet number above which one past the last accepted lies (R450). -/
structure SubPort where
  egress : List OutFrame
  turn : Nat
  spent : Nat
  pauses : List (Nat × Nat)
  xoff : List (Nat × Nat)
  hello : Option Hello
  helloAt : Nat
  ptpSeq : List (Nat × Nat)
  ptpAt : List (Nat × Nat)
  ptpSent : List (Nat × Nat × Nat)
  ptp : PtpRx
  dark : Bool
  trainAt : Nat
  fails : Nat
  lowest : List (Nat × Nat)
  deriving DecidableEq, Repr

def SubPort.withEgress (x : SubPort) (v : List OutFrame) : SubPort := { x with egress := v }
def SubPort.withTurn (x : SubPort) (v : Nat) : SubPort := { x with turn := v }
def SubPort.withSpent (x : SubPort) (v : Nat) : SubPort := { x with spent := v }
def SubPort.withPauses (x : SubPort) (v : List (Nat × Nat)) : SubPort := { x with pauses := v }
def SubPort.withXoff (x : SubPort) (v : List (Nat × Nat)) : SubPort := { x with xoff := v }
def SubPort.withHello (x : SubPort) (v : Option Hello) : SubPort := { x with hello := v }
def SubPort.withHelloAt (x : SubPort) (v : Nat) : SubPort := { x with helloAt := v }
def SubPort.withPtpSeq (x : SubPort) (v : List (Nat × Nat)) : SubPort := { x with ptpSeq := v }
def SubPort.withPtpAt (x : SubPort) (v : List (Nat × Nat)) : SubPort := { x with ptpAt := v }
def SubPort.withPtpSent (x : SubPort) (v : List (Nat × Nat × Nat)) : SubPort := { x with ptpSent := v }
def SubPort.withPtp (x : SubPort) (v : PtpRx) : SubPort := { x with ptp := v }
def SubPort.withDark (x : SubPort) (v : Bool) : SubPort := { x with dark := v }
def SubPort.withTrainAt (x : SubPort) (v : Nat) : SubPort := { x with trainAt := v }
def SubPort.withFails (x : SubPort) (v : Nat) : SubPort := { x with fails := v }
def SubPort.withLowest (x : SubPort) (v : List (Nat × Nat)) : SubPort := { x with lowest := v }

/-- A frame classified on ingress and waiting for its engine (R442): the egress number of its sub-port, its traffic class, the
bytes, for serving frames how it came, when it came, and the bytes of buffer it holds. -/
structure InFrame where
  egress : Nat
  tc : Nat
  src : Nat
  vlan : Option Nat
  udp : Option (List Byte × Nat)
  bytes : List Byte
  time : Nat
  size : Nat
  deriving DecidableEq, Repr

def InFrame.withBytes (x : InFrame) (v : List Byte) : InFrame := { x with bytes := v }

/-- Ouvuth, Ethernet and the memory jobs together. `cut` is the always-on list of entries that are MOVING_OUT or MOVING_IN (R335),
`glow` the MOVED entries in afterglow (R324), both by tier and granule; `wire` the frames that have left, by egress. `unitAns` are the
answers that have come for requests of units that work in one step, `busy` those of their requests that HOME_BUSY has refused, each with
its first issue (R331). `lines` are the index lines of each stream engine by die, most recently used first, each with its address (R304).
`tabs` are the device table entries that Cavor holds, by address, and `oldTabs` those that the serving steps use until the next boundary
(R381, R419). `quiet` holds from a reset, whose time is `resetAt`, until sequenced frames may leave (R477). `turnedAway` counts the refused requests of other chips by optical die (R293), and `recalls` are the loan
notices that have yet to leave: the recall of a slot by its number (R314), the release of a recall record by 64 plus its number (R487). -/
structure NetSt where
  copies : List CopyJob
  moves : List MoveJob
  inbound : List MoveIn
  cut : List (Nat × Nat)
  glow : List (Nat × Nat)
  redirect : List (Nat × List (Nat × Nat))
  ops : List NetOp
  nextOp : Nat
  ecc : List EccHit
  tx : List (Nat × TxStream)
  rx : List (Nat × RxStream)
  ports : List (Nat × SubPort)
  ouvIn : List InFrame
  srvIn : List InFrame
  ptpIn : List InFrame
  ndIn : List InFrame
  pfcIn : List InFrame
  wire : List (Nat × List Byte)
  owed : List (Nat × Nat × List Byte)
  quiet : Bool
  resetAt : Nat
  unreach : List (Nat × Nat × Nat)
  manifest : Option (Nat × Nat)
  grace : List (Nat × Nat)
  recalls : List Nat
  turnedAway : List (Nat × Nat)
  unitAns : List (MemReq × Ans)
  busy : List (MemReq × Nat)
  lines : List (Nat × List (Nat × List Byte))
  tabs : List (Nat × List Byte)
  oldTabs : List (Nat × List Byte)
  deriving DecidableEq, Repr

def NetSt.withCopies (x : NetSt) (v : List CopyJob) : NetSt := { x with copies := v }
def NetSt.withMoves (x : NetSt) (v : List MoveJob) : NetSt := { x with moves := v }
def NetSt.withInbound (x : NetSt) (v : List MoveIn) : NetSt := { x with inbound := v }
def NetSt.withCut (x : NetSt) (v : List (Nat × Nat)) : NetSt := { x with cut := v }
def NetSt.withGlow (x : NetSt) (v : List (Nat × Nat)) : NetSt := { x with glow := v }
def NetSt.withRedirect (x : NetSt) (v : List (Nat × List (Nat × Nat))) : NetSt := { x with redirect := v }
def NetSt.withOps (x : NetSt) (v : List NetOp) : NetSt := { x with ops := v }
def NetSt.withNextOp (x : NetSt) (v : Nat) : NetSt := { x with nextOp := v }
def NetSt.withEcc (x : NetSt) (v : List EccHit) : NetSt := { x with ecc := v }
def NetSt.withTx (x : NetSt) (v : List (Nat × TxStream)) : NetSt := { x with tx := v }
def NetSt.withRx (x : NetSt) (v : List (Nat × RxStream)) : NetSt := { x with rx := v }
def NetSt.withPorts (x : NetSt) (v : List (Nat × SubPort)) : NetSt := { x with ports := v }
def NetSt.withOuvIn (x : NetSt) (v : List InFrame) : NetSt := { x with ouvIn := v }
def NetSt.withSrvIn (x : NetSt) (v : List InFrame) : NetSt := { x with srvIn := v }
def NetSt.withPtpIn (x : NetSt) (v : List InFrame) : NetSt := { x with ptpIn := v }
def NetSt.withNdIn (x : NetSt) (v : List InFrame) : NetSt := { x with ndIn := v }
def NetSt.withPfcIn (x : NetSt) (v : List InFrame) : NetSt := { x with pfcIn := v }
def NetSt.withWire (x : NetSt) (v : List (Nat × List Byte)) : NetSt := { x with wire := v }
def NetSt.withOwed (x : NetSt) (v : List (Nat × Nat × List Byte)) : NetSt := { x with owed := v }
def NetSt.withQuiet (x : NetSt) (v : Bool) : NetSt := { x with quiet := v }
def NetSt.withResetAt (x : NetSt) (v : Nat) : NetSt := { x with resetAt := v }
def NetSt.withUnreach (x : NetSt) (v : List (Nat × Nat × Nat)) : NetSt := { x with unreach := v }
def NetSt.withManifest (x : NetSt) (v : Option (Nat × Nat)) : NetSt := { x with manifest := v }
def NetSt.withGrace (x : NetSt) (v : List (Nat × Nat)) : NetSt := { x with grace := v }
def NetSt.withRecalls (x : NetSt) (v : List Nat) : NetSt := { x with recalls := v }
def NetSt.withTurnedAway (x : NetSt) (v : List (Nat × Nat)) : NetSt := { x with turnedAway := v }
def NetSt.withUnitAns (x : NetSt) (v : List (MemReq × Ans)) : NetSt := { x with unitAns := v }
def NetSt.withBusy (x : NetSt) (v : List (MemReq × Nat)) : NetSt := { x with busy := v }
def NetSt.withLines (x : NetSt) (v : List (Nat × List (Nat × List Byte))) : NetSt := { x with lines := v }
def NetSt.withTabs (x : NetSt) (v : List (Nat × List Byte)) : NetSt := { x with tabs := v }
def NetSt.withOldTabs (x : NetSt) (v : List (Nat × List Byte)) : NetSt := { x with oldTabs := v }

def TxStream.init : TxStream := ⟨false, 0, 0, 1, 4096, none, 0, 0, [], []⟩
def RxStream.init : RxStream := ⟨none, 0, [], 0, false, false, none⟩
def PtpRx.init : PtpRx := ⟨0, none, 0, none, 0, 0, none, 0, none, 0, 0, none⟩
def SubPort.init : SubPort := ⟨[], 0, 0, [], [], none, 0, [], [], [], PtpRx.init, false, 0, 0, []⟩
/-- DESIGN CHOICE (log entry 17). -/
def NetSt.init : NetSt :=
  ⟨[], [], [], [], [], [], [], 1, [], [], [], [], [], [], [], [], [], [], [], true, 0, [], none, [], [], [], [], [], [], [], []⟩

end Sys2Proof.Machine
end

