-- ==== Sys2Proof/Machine/HubTypes.lean ====
section
/-! DEFINITION. The data of the Efnil port and of the boot ROM (R426-R432, R499-R503). -/
namespace Sys2Proof.Machine

/-- An executed request in the command record (R432). -/
structure EfnRec where
  cmd : Nat
  type : Nat
  status : Nat
  data : List Byte
  deriving DecidableEq, Repr

/-- A request whose accesses are not all answered: its command ID and type, how many accesses it made, and
whether it repeats a recorded one (R431, R432). -/
structure EfnOpen where
  cmd : Nat
  type : Nat
  parts : Nat
  dup : Bool
  deriving DecidableEq, Repr

/-- A sent frame that no LACK covers yet: its LSEQ, how often it has been sent again, and its bytes (R426, R429). -/
structure EfnOut where
  lseq : Nat
  replays : Nat
  bytes : List Byte
  deriving DecidableEq, Repr

def EfnOut.withReplays (x : EfnOut) (v : Nat) : EfnOut := { x with replays := v }

/-- The Efnil port: the LSEQ expected next, whether it has asked for a replay, the LSEQ to send next, the replay buffer, frames that wait for room
in it, event credits, the control and bulk credits that the control node holds, credits to return (control, bulk), whether an acknowledgement is
waiting, when the last new LACK came or the oldest frame was last sent, since when no lane is up, the command record, open requests, and the frames
that have left. -/
structure EfnSt where
  rxNext : Nat
  nak : Bool
  txNext : Nat
  replay : List EfnOut
  wait : List (List Byte)
  evCred : Nat
  ctlCred : Nat
  bulkCred : Nat
  dueCtl : Nat
  dueBulk : Nat
  ackDue : Bool
  since : Nat
  dark : Nat
  record : List EfnRec
  opened : List EfnOpen
  sent : List (List Byte)
  deriving DecidableEq, Repr

def EfnSt.withRxNext (x : EfnSt) (v : Nat) : EfnSt := { x with rxNext := v }
def EfnSt.withNak (x : EfnSt) (v : Bool) : EfnSt := { x with nak := v }
def EfnSt.withTxNext (x : EfnSt) (v : Nat) : EfnSt := { x with txNext := v }
def EfnSt.withReplay (x : EfnSt) (v : List EfnOut) : EfnSt := { x with replay := v }
def EfnSt.withWait (x : EfnSt) (v : List (List Byte)) : EfnSt := { x with wait := v }
def EfnSt.withEvCred (x : EfnSt) (v : Nat) : EfnSt := { x with evCred := v }
def EfnSt.withCtlCred (x : EfnSt) (v : Nat) : EfnSt := { x with ctlCred := v }
def EfnSt.withBulkCred (x : EfnSt) (v : Nat) : EfnSt := { x with bulkCred := v }
def EfnSt.withDueCtl (x : EfnSt) (v : Nat) : EfnSt := { x with dueCtl := v }
def EfnSt.withDueBulk (x : EfnSt) (v : Nat) : EfnSt := { x with dueBulk := v }
def EfnSt.withAckDue (x : EfnSt) (v : Bool) : EfnSt := { x with ackDue := v }
def EfnSt.withSince (x : EfnSt) (v : Nat) : EfnSt := { x with since := v }
def EfnSt.withDark (x : EfnSt) (v : Nat) : EfnSt := { x with dark := v }
def EfnSt.withRecord (x : EfnSt) (v : List EfnRec) : EfnSt := { x with record := v }
def EfnSt.withOpened (x : EfnSt) (v : List EfnOpen) : EfnSt := { x with opened := v }
def EfnSt.withSent (x : EfnSt) (v : List (List Byte)) : EfnSt := { x with sent := v }

/-- Whether the chip runs, is held in a warm reset until its bring-up, or has no rails (R494, R571). -/
inductive BootPh where
  | run | held | off
  deriving DecidableEq, Repr

/-- The boot ROM and the resets: where the chip stands; whether image receipt is open, TOTAL of the attempt, and the 32 B units written as
rising ranges (R501); a reset asked for that has not yet come about: whether it is cold, its SOURCE, and the time from which it takes effect
(R491, R492); and whether a warm bring-up has still to settle what the reset cut (R510). -/
structure BootSt where
  ph : BootPh
  opened : Bool
  total : Option Nat
  units : List (Nat × Nat)
  reset : Option (Bool × Nat)
  due : Nat
  settle : Bool
  deriving DecidableEq, Repr

def BootSt.withPh (x : BootSt) (v : BootPh) : BootSt := { x with ph := v }
def BootSt.withOpened (x : BootSt) (v : Bool) : BootSt := { x with opened := v }
def BootSt.withTotal (x : BootSt) (v : Option Nat) : BootSt := { x with total := v }
def BootSt.withUnits (x : BootSt) (v : List (Nat × Nat)) : BootSt := { x with units := v }
def BootSt.withReset (x : BootSt) (v : Option (Bool × Nat)) : BootSt := { x with reset := v }
def BootSt.withDue (x : BootSt) (v : Nat) : BootSt := { x with due := v }
def BootSt.withSettle (x : BootSt) (v : Bool) : BootSt := { x with settle := v }

/-- DESIGN CHOICE (log entry 17). -/
def EfnSt.init : EfnSt := ⟨0, false, 0, [], [], 0, 0, 0, 0, 0, false, 0, 0, [], [], []⟩
def BootSt.init : BootSt := ⟨.run, false, none, [], none, 0, false⟩

end Sys2Proof.Machine
end

