-- ==== Sys2Proof/Machine/ServeTypes.lean ====
section
/-! DEFINITION. The data of package jobs and of the serving engine ("Weight Packages", "The On-Device Serving Engine"). -/
namespace Sys2Proof.Machine

/-- Where a package job stands (R350-R360): posted; checked, a SWAP that waits for its boundary; running; ended with its completion
still to post. -/
inductive PkgPh where
  | posted | waitSwap | running | ended
  deriving DecidableEq, Repr

/-- A package job: its descriptor's address and bytes, the entry and the header it read, the next layer of a SWAP, the next chunk of a
chain, the bytes that have passed (for the digest), and what its completion says. Of a chain also: whether a chunk is being passed on, the writes
to the successor that are outstanding and the first status of one that failed (R355), and when the predecessor was last heard. -/
structure PkgJob where
  addr : Nat
  ph : PkgPh
  desc : List Byte
  entry : List Byte
  header : List Byte
  layer : Nat
  chunk : Nat
  seen : List Byte
  status : Nat
  parts : Nat
  copied : Nat
  failed : Nat
  passing : Bool
  away : Nat
  bad : Nat
  heard : Nat
  deriving DecidableEq, Repr

def PkgJob.withPassing (x : PkgJob) (v : Bool) : PkgJob := { x with passing := v }
def PkgJob.withAway (x : PkgJob) (v : Nat) : PkgJob := { x with away := v }
def PkgJob.withBad (x : PkgJob) (v : Nat) : PkgJob := { x with bad := v }
def PkgJob.withHeard (x : PkgJob) (v : Nat) : PkgJob := { x with heard := v }
def PkgJob.withPh (x : PkgJob) (v : PkgPh) : PkgJob := { x with ph := v }
def PkgJob.withDesc (x : PkgJob) (v : List Byte) : PkgJob := { x with desc := v }
def PkgJob.withEntry (x : PkgJob) (v : List Byte) : PkgJob := { x with entry := v }
def PkgJob.withHeader (x : PkgJob) (v : List Byte) : PkgJob := { x with header := v }
def PkgJob.withLayer (x : PkgJob) (v : Nat) : PkgJob := { x with layer := v }
def PkgJob.withChunk (x : PkgJob) (v : Nat) : PkgJob := { x with chunk := v }
def PkgJob.withSeen (x : PkgJob) (v : List Byte) : PkgJob := { x with seen := v }
def PkgJob.withStatus (x : PkgJob) (v : Nat) : PkgJob := { x with status := v }
def PkgJob.withParts (x : PkgJob) (v : Nat) : PkgJob := { x with parts := v }
def PkgJob.withCopied (x : PkgJob) (v : Nat) : PkgJob := { x with copied := v }
def PkgJob.withFailed (x : PkgJob) (v : Nat) : PkgJob := { x with failed := v }

/-- The layer number that stands for a section image. -/
def imageLayer : Nat := 0xFFFF

/-- A part or section image that a package has placed (R345, R346): its model table index, layer, address, bytes as stored, whether it rests as a
compressed object, and the length map of an image.
DESIGN CHOICE (log entry 73). -/
structure Placed where
  model : Nat
  layer : Nat
  addr : Nat
  bytes : Nat
  comp : Bool
  lmap : List Byte
  deriving DecidableEq, Repr

/-- The package unit: its jobs, oldest first, the verified list, oldest first (R352), what packages have placed, and the section contexts whose runs
are held at barriers, in the order of their plan (R349). -/
structure PkgSt where
  jobs : List PkgJob
  verified : List (Nat × List Byte)
  placed : List Placed
  held : List (Nat × Nat)
  deriving DecidableEq, Repr

def PkgSt.withJobs (x : PkgSt) (v : List PkgJob) : PkgSt := { x with jobs := v }
def PkgSt.withVerified (x : PkgSt) (v : List (Nat × List Byte)) : PkgSt := { x with verified := v }
def PkgSt.withPlaced (x : PkgSt) (v : List Placed) : PkgSt := { x with placed := v }
def PkgSt.withHeld (x : PkgSt) (v : List (Nat × Nat)) : PkgSt := { x with held := v }

/-- A pair of the echo filter (R377): when its sequence ended, if it has. -/
structure Echo where
  tenant : Nat
  id : Nat
  seq : Nat
  gen : Nat
  ended : Option Nat
  deriving DecidableEq, Repr

def Echo.withEnded (x : Echo) (v : Option Nat) : Echo := { x with ended := v }

/-- A prefill chunk of a step: the sequence and how many prompt positions it covers. -/
structure Chunk where
  seq : Nat
  count : Nat
  deriving DecidableEq, Repr

def Chunk.withCount (x : Chunk) (v : Nat) : Chunk := { x with count := v }

/-- What one sequence did in the step (R395). -/
structure StepEnt where
  seq : Nat
  dest : Nat
  id : Nat
  tenant : Nat
  status : Nat
  count : Nat
  index : Nat
  token : Nat
  deriving DecidableEq, Repr

def StepEnt.withStatus (x : StepEnt) (v : Nat) : StepEnt := { x with status := v }

/-- Consecutive frames dropped for a destination (R397). -/
structure Gap where
  dest : Nat
  first : Nat
  step : Nat
  count : Nat
  deriving DecidableEq, Repr

def Gap.withCount (x : Gap) (v : Nat) : Gap := { x with count := v }

/-- The serving engine: SRV_STEP and SRV_STEP_PHASE as in force; the sequence entries that are not FREE; the echo filter; the decode
plan not yet sampled; prefill chunks not yet started, and started; the entries of the step; dropped frames not yet notified; the last
sequence planned by tenant, the last tenant visited; the last heartbeat; whether Hold is entered or left at the next boundary; swaps
whose POLICY is to be applied; the GENs of tenant entries that Cavor holds; sequences that prefill again up to a position count (R358);
sequences of a step that is over whose token is still to come, with that step (R389); the prompt charges of PENDING sequences (R387); the
device time of the next boundary; and whether a step is in progress. -/
structure SrvSt where
  period : Nat
  cutoff : Nat
  phase : Nat
  seqs : List Nat
  echo : List Echo
  decode : List Nat
  chunks : List Chunk
  running : List Chunk
  entries : List StepEnt
  gaps : List Gap
  lastSeq : List (Nat × Nat)
  lastTenant : Nat
  beat : Option Nat
  holdDue : Bool
  resumeDue : Bool
  swaps : List (Nat × Nat × Nat)
  gens : List (Nat × Nat)
  redo : List (Nat × Nat)
  late : List (Nat × Nat)
  charges : List (Nat × Nat)
  due : Nat
  going : Bool
  deriving DecidableEq, Repr

def SrvSt.withPeriod (x : SrvSt) (v : Nat) : SrvSt := { x with period := v }
def SrvSt.withCutoff (x : SrvSt) (v : Nat) : SrvSt := { x with cutoff := v }
def SrvSt.withPhase (x : SrvSt) (v : Nat) : SrvSt := { x with phase := v }
def SrvSt.withSeqs (x : SrvSt) (v : List Nat) : SrvSt := { x with seqs := v }
def SrvSt.withEcho (x : SrvSt) (v : List Echo) : SrvSt := { x with echo := v }
def SrvSt.withDecode (x : SrvSt) (v : List Nat) : SrvSt := { x with decode := v }
def SrvSt.withChunks (x : SrvSt) (v : List Chunk) : SrvSt := { x with chunks := v }
def SrvSt.withRunning (x : SrvSt) (v : List Chunk) : SrvSt := { x with running := v }
def SrvSt.withEntries (x : SrvSt) (v : List StepEnt) : SrvSt := { x with entries := v }
def SrvSt.withGaps (x : SrvSt) (v : List Gap) : SrvSt := { x with gaps := v }
def SrvSt.withLastSeq (x : SrvSt) (v : List (Nat × Nat)) : SrvSt := { x with lastSeq := v }
def SrvSt.withLastTenant (x : SrvSt) (v : Nat) : SrvSt := { x with lastTenant := v }
def SrvSt.withBeat (x : SrvSt) (v : Option Nat) : SrvSt := { x with beat := v }
def SrvSt.withHoldDue (x : SrvSt) (v : Bool) : SrvSt := { x with holdDue := v }
def SrvSt.withResumeDue (x : SrvSt) (v : Bool) : SrvSt := { x with resumeDue := v }
def SrvSt.withSwaps (x : SrvSt) (v : List (Nat × Nat × Nat)) : SrvSt := { x with swaps := v }
def SrvSt.withGens (x : SrvSt) (v : List (Nat × Nat)) : SrvSt := { x with gens := v }
def SrvSt.withRedo (x : SrvSt) (v : List (Nat × Nat)) : SrvSt := { x with redo := v }
def SrvSt.withLate (x : SrvSt) (v : List (Nat × Nat)) : SrvSt := { x with late := v }
def SrvSt.withCharges (x : SrvSt) (v : List (Nat × Nat)) : SrvSt := { x with charges := v }
def SrvSt.withDue (x : SrvSt) (v : Nat) : SrvSt := { x with due := v }
def SrvSt.withGoing (x : SrvSt) (v : Bool) : SrvSt := { x with going := v }

def PkgSt.init : PkgSt := ⟨[], [], [], []⟩
/-- DESIGN CHOICE (log entry 17). -/
def SrvSt.init : SrvSt := ⟨10000, 8000, 0, [], [], [], [], [], [], [], [], 4095, none, false, false, [], [], [], [], [], 0, false⟩

end Sys2Proof.Machine
end

