-- ==== Sys2Proof/Machine/DeviceTypes.lean ====
section
/-! DEFINITION. The data of glare runs, the root of trust, PTP discipline, power and clocks ("Errors, Containment and Glare Runs", "Root of Trust,
Identity and Attestation", "Clock Domains, Crossings and Device Time", "Power, Cooling and the Module"). -/
namespace Sys2Proof.Machine

/-- Where a glare run stands (R552): margins set and settling; heating; dwelling; verdict runs; restored after the last point. -/
inductive GlarePh where
  | settling | heating | dwelling | verdict | restoring
  deriving DecidableEq, Repr

/-- A glare run: target regions; point; phase; the templates still to run, the first in progress; whether the run in progress counts for the
verdict; the tiles tested at the point, those that failed it and those that have the point's
record; the tiles that failed in the whole run and those tested in it; the frequencies to
restore by die; the result so far; since when its phase lasts; and when the template run in progress began. -/
structure GlareRun where
  regions : Nat
  point : Nat
  ph : GlarePh
  todo : List Nat
  counts : Bool
  here : List Nat
  failedHere : List Nat
  marked : List Nat
  failed : List Nat
  tested : List Nat
  former : List (Nat × Nat)
  result : Nat
  since : Nat
  runAt : Nat
  deriving DecidableEq, Repr

def GlareRun.withPoint (x : GlareRun) (v : Nat) : GlareRun := { x with point := v }
def GlareRun.withPh (x : GlareRun) (v : GlarePh) : GlareRun := { x with ph := v }
def GlareRun.withTodo (x : GlareRun) (v : List Nat) : GlareRun := { x with todo := v }
def GlareRun.withCounts (x : GlareRun) (v : Bool) : GlareRun := { x with counts := v }
def GlareRun.withHere (x : GlareRun) (v : List Nat) : GlareRun := { x with here := v }
def GlareRun.withFailedHere (x : GlareRun) (v : List Nat) : GlareRun := { x with failedHere := v }
def GlareRun.withMarked (x : GlareRun) (v : List Nat) : GlareRun := { x with marked := v }
def GlareRun.withFailed (x : GlareRun) (v : List Nat) : GlareRun := { x with failed := v }
def GlareRun.withTested (x : GlareRun) (v : List Nat) : GlareRun := { x with tested := v }
def GlareRun.withResult (x : GlareRun) (v : Nat) : GlareRun := { x with result := v }
def GlareRun.withSince (x : GlareRun) (v : Nat) : GlareRun := { x with since := v }
def GlareRun.withRunAt (x : GlareRun) (v : Nat) : GlareRun := { x with runAt := v }

/-- The glare unit (R549): TOTAL and the written 32 B units of the object in the area, and the run. -/
structure GlareSt where
  total : Option Nat
  units : List (Nat × Nat)
  run : Option GlareRun
  deriving DecidableEq, Repr

def GlareSt.withTotal (x : GlareSt) (v : Option Nat) : GlareSt := { x with total := v }
def GlareSt.withUnits (x : GlareSt) (v : List (Nat × Nat)) : GlareSt := { x with units := v }
def GlareSt.withRun (x : GlareSt) (v : Option GlareRun) : GlareSt := { x with run := v }

/-- The root of trust (R556-R564): FWVER of the running image; the report being assembled, its offset and its first 512 bytes; reports signed; a
floor being burnt; and whether BLOW has closed the debug facilities. -/
structure TrustSt where
  fwver : Nat
  report : Option (Nat × List Byte)
  signed : Nat
  floor : Option Nat
  closed : Bool
  deriving DecidableEq, Repr

def TrustSt.withFwver (x : TrustSt) (v : Nat) : TrustSt := { x with fwver := v }
def TrustSt.withReport (x : TrustSt) (v : Option (Nat × List Byte)) : TrustSt := { x with report := v }
def TrustSt.withSigned (x : TrustSt) (v : Nat) : TrustSt := { x with signed := v }
def TrustSt.withFloor (x : TrustSt) (v : Option Nat) : TrustSt := { x with floor := v }
def TrustSt.withClosed (x : TrustSt) (v : Bool) : TrustSt := { x with closed := v }

/-- The PTP discipline (R524, R526, R529): the integral and the count of good offsets; when the last Sync arrived; the largest device time
reached before the first lock; and the value that the replicas loaded at the last mark. -/
structure PtpSt where
  integral : Int
  good : Nat
  lastSync : Option Nat
  most : Nat
  mark : Nat
  ticks : Nat
  deriving DecidableEq, Repr

def PtpSt.withIntegral (x : PtpSt) (v : Int) : PtpSt := { x with integral := v }
def PtpSt.withGood (x : PtpSt) (v : Nat) : PtpSt := { x with good := v }
def PtpSt.withLastSync (x : PtpSt) (v : Option Nat) : PtpSt := { x with lastSync := v }
def PtpSt.withMost (x : PtpSt) (v : Nat) : PtpSt := { x with most := v }
def PtpSt.withMark (x : PtpSt) (v : Nat) : PtpSt := { x with mark := v }
def PtpSt.withTicks (x : PtpSt) (v : Nat) : PtpSt := { x with ticks := v }

/-- Power and clocks (R522, R570-R590): stopped domains; a target of LIT that waits for Dim; DVFS changes on the way, by die; dies
that throttle, with the time of their last rise; whether HD, MD or OD throttles; package power of the last 10 µs by microsecond, newest first,
and P of the last 100 µs; since when every reading has been cool; whether THERM_TRIP_N is low; module input power; what I3C has answered. -/
structure PwrSt where
  stopped : List ClockDomain
  wantLit : Bool
  changing : List Nat
  hot : List (Nat × Nat)
  hotOther : Bool
  samples : List Nat
  history : List Nat
  coolSince : Option Nat
  trip : Bool
  inputW : Nat
  i3c : List (I3cReq × Option Nat)
  deriving DecidableEq, Repr

def PwrSt.withStopped (x : PwrSt) (v : List ClockDomain) : PwrSt := { x with stopped := v }
def PwrSt.withWantLit (x : PwrSt) (v : Bool) : PwrSt := { x with wantLit := v }
def PwrSt.withChanging (x : PwrSt) (v : List Nat) : PwrSt := { x with changing := v }
def PwrSt.withHot (x : PwrSt) (v : List (Nat × Nat)) : PwrSt := { x with hot := v }
def PwrSt.withHotOther (x : PwrSt) (v : Bool) : PwrSt := { x with hotOther := v }
def PwrSt.withSamples (x : PwrSt) (v : List Nat) : PwrSt := { x with samples := v }
def PwrSt.withHistory (x : PwrSt) (v : List Nat) : PwrSt := { x with history := v }
def PwrSt.withCoolSince (x : PwrSt) (v : Option Nat) : PwrSt := { x with coolSince := v }
def PwrSt.withTrip (x : PwrSt) (v : Bool) : PwrSt := { x with trip := v }
def PwrSt.withInputW (x : PwrSt) (v : Nat) : PwrSt := { x with inputW := v }
def PwrSt.withI3c (x : PwrSt) (v : List (I3cReq × Option Nat)) : PwrSt := { x with i3c := v }

def GlareSt.init : GlareSt := ⟨none, [], none⟩
def TrustSt.init : TrustSt := ⟨0, none, 0, none, false⟩
def PtpSt.init : PtpSt := ⟨0, 0, none, 0, 0, 0⟩
def PwrSt.init : PwrSt := ⟨[], false, [], [], false, [], [], none, false, 0, []⟩

end Sys2Proof.Machine
end

