-- ==== Sys2Proof/Config.lean ====
section
/-! DEFINITION. What an implementation fixes, and the free values: everything the spec names and gives no value for.
Each is an opaque constant without a body, so that a statement about it holds for every value. Each has its entry in
notes/assumptions. -/
namespace Sys2Proof.Config

/-- The value an RFU function that is not correctly rounded gives for a finite binary32 code (Table 3.9; log entry 10).
The first argument is the function's code of Table 4.13 (0x09 RSQRT, 0x0A EXP, 0x0B LOG, 0x0C TANH, 0x0D SILU, 0x0E GELU). -/
opaque rfuValue : Nat → BitVec 32 → BitVec 32

/-- Whether that function raises UF on that operand (Table 3.9, the note after R72; log entry 10). -/
opaque rfuTiny : Nat → BitVec 32 → Bool

/-- A fresh free value: the `n`-th value that the spec leaves open (log entry 3). -/
opaque freeWord : Nat → BitVec 64

/-- Values fused or derived per device, per stepping or per die (R36, R461, R531, R569, R590; log entry 5), by the offset of
their register in register space. -/
opaque perDevice : Nat → BitVec 64

/-- The region that a descriptor on another chip names: its address and the time at which it is looked at (R296; log entry 36).
DESIGN CHOICE (log entry 3). -/
opaque farRegion : Nat → Nat → BitVec 8

/-- The flow hash of R479 before it is reduced: a CRC-32C whose input's layout the spec does not give. The arguments are SRC_CHIP,
DST_CHIP, ADDR[49:12] and the salt (log entry 11). -/
opaque flowHash : Nat → Nat → Nat → Nat → BitVec 32

/-- SHA3-512 of a byte string (R344, R485, R556, R561; FIPS 202, log entry 12). -/
opaque sha3 : List (BitVec 8) → BitVec 512

/-- Whether an ML-DSA-87 signature verifies: the key's index, the context string, the message and the signature (R556; FIPS 204, log
entry 12).
DESIGN CHOICE (log entry 12). -/
opaque mlDsaVerify : Nat → List (BitVec 8) → List (BitVec 8) → List (BitVec 8) → Bool

/-- The ML-DSA-87 signature of a report's message under the identity key, with the `n`-th draw of randomness (R556, R560, R562; log
entry 12).
DESIGN CHOICE (log entry 12). -/
opaque mlDsaSign : Nat → List (BitVec 8) → List (BitVec 8)

/-- The plain text that GCM-AES-XPN-256 recovers from a protected frame: key, salt and SSCI, packet number, associated data, cipher
text with ICV; none when the ICV does not verify (R449, R450; IEEE 802.1AE, log entry 12). -/
opaque gcmOpen : BitVec 256 → BitVec 128 → Nat → List (BitVec 8) → List (BitVec 8) → Option (List (BitVec 8))

/-- The cipher text with ICV of a frame that is sent protected (R449; IEEE 802.1AE, log entry 12). -/
opaque gcmSeal : BitVec 256 → BitVec 128 → Nat → List (BitVec 8) → List (BitVec 8) → List (BitVec 8)

/-- The content of a compressed frame; none when the frame breaks RFC 8878 or the restrictions of R303 (log entry 12). -/
opaque zstdDecode : List (BitVec 8) → Option (List (BitVec 8))

/-- A compressed frame for a logical block (R306: the encoder's choices are free; log entry 12). -/
opaque zstdEncode : List (BitVec 8) → List (BitVec 8)

/-- The array rail in mV that compute die n's fused voltage-frequency curve gives at a frequency in 25 MHz units (R577; log entry 5). -/
opaque railMv : Nat → Nat → BitVec 16

end Sys2Proof.Config
end

