-- ==== Sys2Proof/Machine/Bits.lean ====
section
/-! DEFINITION. Bit fields, byte order and small list helpers, shared by every unit of the chip. R11: a bit range is
[high:low], bit 0 least significant. R12: device memory and register space are little endian, frames big endian. -/
namespace Sys2Proof.Machine

/-- The `w` bits of `n` that start at bit `lo`. -/
def bitsAt (n lo w : Nat) : Nat := n / 2 ^ lo % 2 ^ w

/-- Field [hi:lo] of a 64-bit word, as a number (R11). -/
def fld (x : W64) (hi lo : Nat) : Nat := bitsAt x.toNat lo (hi + 1 - lo)

/-- Bit `i` of a 64-bit word. -/
def bit (x : W64) (i : Nat) : Bool := x.getLsbD i

/-- `n` with the `w` bits that start at bit `lo` replaced by `v`. -/
def putBits (n lo w v : Nat) : Nat :=
  n % 2 ^ lo + (v % 2 ^ w) * 2 ^ lo + n / 2 ^ (lo + w) * 2 ^ (lo + w)

/-- The word with field [hi:lo] set to `v`. -/
def setFld (x : W64) (hi lo v : Nat) : W64 := BitVec.ofNat 64 (putBits x.toNat lo (hi + 1 - lo) v)

/-- The word with bit `i` set to `b`. -/
def setBit (x : W64) (i : Nat) (b : Bool) : W64 := setFld x i i b.toNat

/-- Field [hi:lo] of a 32-bit word. -/
def fld32 (x : W32) (hi lo : Nat) : Nat := bitsAt x.toNat lo (hi + 1 - lo)

/-- A number read from bytes, least significant byte first (R12). -/
def leNat : List Byte → Nat
  | [] => 0
  | b :: bs => b.toNat + 256 * leNat bs

/-- The `n` least significant bytes of a number, least significant first (R12). -/
def toLe : Nat → Nat → List Byte
  | 0, _ => []
  | n + 1, v => BitVec.ofNat 8 v :: toLe n (v / 256)

/-- A number read from bytes, most significant byte first, as in frames (R12). -/
def beNat (bs : List Byte) : Nat := bs.foldl (fun a b => 256 * a + b.toNat) 0

/-- The `n` bytes of a number, most significant first (R12). -/
def toBe (n v : Nat) : List Byte := (toLe n v).reverse

/-- `n` bytes of a list from position `o`; bytes past its end read 0. -/
def slice (bs : List Byte) (o n : Nat) : List Byte :=
  let t := (bs.drop o).take n
  t ++ List.replicate (n - t.length) 0

/-- Little-endian field of `n` bytes at position `o` of a record. -/
def leAt (bs : List Byte) (o n : Nat) : Nat := leNat (slice bs o n)

/-- A big-endian header field of `n` bytes at position `o` of a frame. -/
def beAt (bs : List Byte) (o n : Nat) : Nat := beNat (slice bs o n)

/-- `bs` with the bytes from position `o` replaced by `new`. -/
def overlay (bs : List Byte) (o : Nat) (new : List Byte) : List Byte :=
  slice bs 0 o ++ new ++ bs.drop (o + new.length)

/-- Quotient rounded up; 0 for a divisor of 0. -/
def ceilDiv (a b : Nat) : Nat := if b = 0 then 0 else (a + b - 1) / b

/-- The next multiple of `b` at or above `a`. -/
def roundUp (a b : Nat) : Nat := ceilDiv a b * b

/-- Addition that saturates at `top`, as counters do. -/
def satAdd (a b top : Nat) : Nat := min (a + b) top

/-- The signed value of the low `w` bits of `n`, two's complement. -/
def sext (w n : Nat) : Int :=
  let m := n % 2 ^ w
  if m < 2 ^ (w - 1) then (m : Int) else (m : Int) - (2 ^ w : Nat)

/-- The low `w` bits of an integer, two's complement. -/
def wrapInt (w : Nat) (v : Int) : Nat := (v % (2 ^ w : Nat)).toNat

/-- How many bits of `n` below position `w` are 1. -/
def popCount : Nat → Nat → Nat
  | 0, _ => 0
  | w + 1, n => n % 2 + popCount w (n / 2)

/-- The list without its element at position `i`. -/
def dropAt {α : Type} : List α → Nat → List α
  | [], _ => []
  | _ :: xs, 0 => xs
  | x :: xs, i + 1 => x :: dropAt xs i

/-- The list with the element at position `i` replaced. -/
def setAt {α : Type} : List α → Nat → α → List α
  | [], _, _ => []
  | _ :: xs, 0, v => v :: xs
  | x :: xs, i + 1, v => x :: setAt xs i v

/-- The position of the first element that satisfies `p`. -/
def findPos {α : Type} (p : α → Bool) : List α → Option Nat
  | [] => none
  | x :: xs => if p x then some 0 else (findPos p xs).map (· + 1)

/-- Inserts a number in a rising list without repeats. -/
def insertNat (n : Nat) : List Nat → List Nat
  | [] => [n]
  | x :: xs => if n < x then n :: x :: xs else if n = x then x :: xs else x :: insertNat n xs

end Sys2Proof.Machine
end

