-- ==== Sys2Proof/Machine/RegTable.lean ====
section
/-! DEFINITION. The register tables of the HD, CD[n] and OD[k] blocks: for each offset of register space that holds a
register, its fields with their access codes and reset values (R15, R18, R32). A bit that no field holds is reserved (R17). The
tile windows (R112) are in Sys2Proof/Machine/TileRegs.lean. -/
namespace Sys2Proof.Machine

/-- The access codes (Table 0.4). -/
inductive Acc where
  | ro | rw | wo | w1c | rc
  deriving DecidableEq, Repr

/-- A field: its lowest bit, width, access code and reset value. -/
structure Fld where
  lo : Nat
  w : Nat
  acc : Acc
  rst : Nat
  deriving DecidableEq, Repr

def Fld.withLo (x : Fld) (v : Nat) : Fld := { x with lo := v }
def Fld.withW (x : Fld) (v : Nat) : Fld := { x with w := v }

/-- A register: its fields, and whether it survives a warm reset: only where the spec marks it so (R18, Table 17.2).
DEDUCED (log entry 53). -/
structure RegDesc where
  fields : List Fld
  warm : Bool
  deriving DecidableEq, Repr

def fRo (lo w : Nat) (r : Nat := 0) : Fld := ⟨lo, w, .ro, r⟩
def fRw (lo w : Nat) (r : Nat := 0) : Fld := ⟨lo, w, .rw, r⟩
def fWo (lo w : Nat) : Fld := ⟨lo, w, .wo, 0⟩
def fW1 (lo w : Nat) : Fld := ⟨lo, w, .w1c, 0⟩
def fRc (lo w : Nat) : Fld := ⟨lo, w, .rc, 0⟩

/-- The index of offset `o` in an array of `n` registers that begins at `base` with the given stride. -/
def arrIdx (o base stride n : Nat) : Option Nat :=
  if base ≤ o ∧ (o - base) % stride = 0 ∧ (o - base) / stride < n then some ((o - base) / stride) else none

/-- `arrIdx` as a condition. -/
def inArr (o base stride n : Nat) : Bool := (arrIdx o base stride n).isSome

def lost (fs : List Fld) : Option RegDesc := some ⟨fs, false⟩
def kept (fs : List Fld) : Option RegDesc := some ⟨fs, true⟩

/-- HD: identity, bring-up, and the maps of R513 (Tables of R36, R37, R495, R513). -/
def hdBringReg (o : Nat) : Option RegDesc :=
  if o = 0x0 then kept [fRo 0 16 0x2548, fRo 16 8 1, fRo 24 8 (fld (Config.perDevice 0) 7 0), fRo 32 16 0xFFFF, fRo 48 2 3, fRo 50 6 0x3F]
  else if o = 0x8 then kept [fRw 0 14 0x3FFF, fRo 14 1]
  else if o = 0x10000 then lost [fRo 0 6, fRo 16 16, fRo 32 16, fRo 48 16]
  else if o = 0x10008 then lost [fRo 0 36]
  else if o = 0x10010 then lost [fRo 0 6, fRo 16 16, fRo 32 16, fRo 48 16]
  else if o = 0x10018 then lost [fRo 0 36]
  else if o = 0x10020 then lost [fWo 0 2, fWo 8 8]
  else if o = 0x10028 then kept [fRo 0 1, fRo 1 3, fRo 4 1, fRo 16 16]
  else if o = 0x10030 then lost [fRo 0 3, fRo 3 2, fRo 5 3, fRo 8 9, fRo 17 15, fRo 32 26]
  else if o = 0x10038 then lost [fWo 0 1, fRw 1 1 1]
  else if o = 0x10040 then lost [fWo 0 1, fRo 1 1]
  else if o = 0x10048 then lost [fRo 0 16]
  else if inArr o 0x10100 8 36 then lost [fRw 0 64]
  else if inArr o 0x10300 8 36 then kept [fRo 0 64]
  else if inArr o 0x10500 8 16 then lost [fRo 0 10]
  else none

/-- HD: serving engine, veils and packages (R283, R364, R385, R399). -/
def hdServeReg (o : Nat) : Option RegDesc :=
  if o = 0x30000 then lost [fRw 0 1, fRo 1 1, fWo 2 1, fRw 3 1]
  else if o = 0x30008 then kept [fRw 0 20 10000, fRw 20 20 8000]
  else if o = 0x30010 then kept [fRw 0 64]
  else if o = 0x30018 then lost [fRo 0 64]
  else if o = 0x30020 ∨ o = 0x30028 ∨ o = 0x30038 ∨ o = 0x30048 ∨ o = 0x30060 ∨ o = 0x30068 ∨ o = 0x30070 then kept [fRw 0 64]
  else if o = 0x30030 ∨ o = 0x30040 ∨ o = 0x30050 then lost [fRw 0 13]
  else if o = 0x30058 then kept [fRw 0 10 600]
  else if o = 0x30078 then kept [fRw 0 16 0x88B6, fRw 16 16 0x5EB0, fRw 32 1 1, fRw 33 1]
  else if o = 0x30080 then lost [fWo 0 64]
  else if o = 0x30088 then lost [fRc 0 32, fRc 32 16, fRc 48 16]
  else if o = 0x30090 then lost [fRc 0 16, fRc 16 16, fRc 32 16, fRc 48 16]
  else if o = 0x30098 then lost [fRo 0 15, fRo 16 17]
  else if o = 0x30400 then lost [fRw 0 64]
  else if o = 0x30408 then lost [fRw 0 13]
  else if o = 0x30410 then lost [fWo 0 12]
  else if o = 0x30500 then kept [fRw 0 64]
  else if o = 0x30508 then kept [fRw 0 11]
  else if o = 0x30510 then lost [fWo 0 64]
  else if o = 0x30518 then lost [fRo 0 4, fRo 4 1, fRo 8 12, fRc 32 16, fRc 48 16]
  else if inArr o 0x31000 8 1024 then kept [fRw 0 18, fRw 20 4 4, fRw 32 21]
  else none

/-- HD: memory tiers, loans and homing (R295, R297, R312, R343). -/
def hdMemReg (o : Nat) : Option RegDesc :=
  if o = 0x40000 then kept [fRw 0 16, fRo 16 5, fRw 24 12, fRw 63 1]
  else if o = 0x40008 then lost [fRw 0 64]
  else if o = 0x40010 then lost [fRw 0 17]
  else if o = 0x40018 then lost [fWo 0 64]
  else if inArr o 0x40100 8 16 then kept [fRw 0 22, fRw 24 23]
  else if inArr o 0x41000 0x20 64 then kept [fRw 0 22, fRw 24 22, fRw 48 1]
  else if inArr o 0x41008 0x20 64 then kept [fRw 0 14, fRw 16 4, fRw 32 16 1000]
  else if inArr o 0x41010 0x20 64 then kept [fRo 0 2, fWo 8 1, fWo 9 1]
  else if inArr o 0x41018 0x20 64 then kept [fRc 0 32, fRc 32 32]
  else if o = 0x42000 ∨ o = 0x42008 then kept [fRw 0 64]
  else if o = 0x42010 then kept [fRw 0 8 64, fRw 16 16 50]
  else if o = 0x42018 then kept [fRo 0 5, fRo 8 5, fRo 16 13, fRc 32 16, fRc 48 16]
  else if o = 0x42020 then lost [fWo 0 64]
  else if o = 0x42028 then lost [fWo 0 22, fWo 22 1, fWo 24 3]
  else none

/-- HD: event rings, mailboxes, Lantern faults, regions, Efnil (R413-R415, R422, R433). -/
def hdHubReg (o : Nat) : Option RegDesc :=
  if inArr o 0x50000 0x20 32 then kept [fRw 0 14, fRw 16 5 6, fRw 21 1, fRw 22 1, fRw 23 1]
  else if inArr o 0x50008 0x20 32 then lost [fRw 0 32, fRo 32 32]
  else if inArr o 0x50010 0x20 32 then lost [fRc 0 32, fW1 32 1]
  else if o = 0x50400 then kept [fRw 0 5, fRw 8 5, fRw 16 5, fRw 24 5, fRw 32 5, fRw 40 5]
  else if inArr o 0x50500 0x10 8 then kept [fRw 0 14, fRw 16 8]
  else if inArr o 0x50508 0x10 8 then lost [fRw 0 32, fRo 32 32]
  else if inArr o 0x50600 0x10 32 then kept [fRc 0 8]
  else if inArr o 0x50608 0x10 32 then kept [fRo 0 48]
  else if inArr o 0x51000 0x10 16 then kept [fRw 0 12 0xFFF, fRw 12 1, fRw 16 32]
  else if inArr o 0x51008 0x10 16 then lost [fWo 0 1, fRo 1 1]
  else if o = 0x60000 then kept [fRw 0 6 16, fRw 16 8 10, fRw 24 1 1, fRw 25 1 1]
  else if o = 0x60008 then lost [fRo 0 1, fRo 1 1, fRo 2 1, fRo 3 1, fRc 16 16, fRc 32 16, fRc 48 16]
  else if o = 0x60010 then lost [fRc 0 32, fRc 32 16]
  else none

/-- HD: Ouvuth (R489, R490). -/
def hdOuvReg (o : Nat) : Option RegDesc :=
  if o = 0x70000 then kept [fRw 0 16 0x88B5, fRw 16 16 0x5EB1, fRw 32 1, fRw 33 1, fRw 34 5, fRw 40 8 100, fRw 48 5 15]
  else if o = 0x70008 then kept [fRw 0 12 0xFFF, fRw 32 32]
  else if o = 0x70010 then lost [fWo 0 26, fRo 26 1, fWo 32 24]
  else if inArr o 0x70018 8 4 then lost [fRo 0 64]
  else if o = 0x70038 then kept [fRw 0 64]
  else if o = 0x70040 then lost [fWo 0 14]
  else if o = 0x70048 then kept [fRw 0 8, fRw 8 8, fRw 16 8]
  else if o = 0x70050 then kept [fRw 0 9, fRw 9 9, fRw 18 9, fRw 27 9, fRw 36 9, fRw 45 9]
  else if o = 0x70058 then lost [fRo 0 32 (fld (Config.perDevice 0x70058) 31 0)]
  else if o = 0x70060 then lost [fRc 0 32, fRc 32 16, fRc 48 16]
  else if o = 0x70068 then lost [fRc 0 16, fRc 16 16, fRc 32 16, fRc 48 16]
  else if o = 0x70070 then lost [fRc 0 16, fRc 16 16, fRc 32 16, fRc 48 16]
  else if o = 0x70078 then lost [fRc 0 16]
  else if inArr o 0x70100 0x20 16 then kept [fRw 0 1, fRw 1 1, fRw 2 9, fRw 11 5]
  else if inArr o 0x70108 0x20 16 ∨ inArr o 0x70110 0x20 16 ∨ inArr o 0x70118 0x20 16 then kept [fRw 0 54]
  else if inArr o 0x71000 0x20 64 then lost [fRo 0 1, fWo 1 1, fRo 2 6, fRo 8 1, fRo 16 14]
  else if inArr o 0x71008 0x20 64 then lost [fRo 0 32, fRo 32 32]
  else if inArr o 0x71010 0x20 64 then lost [fRo 0 64]
  else if inArr o 0x74000 8 256 then lost [fRo 0 64]
  else if inArr o 0x100000 8 16384 then kept [fRw 0 9, fRw 9 9, fRw 18 9, fRw 27 9, fRw 36 3, fRw 39 1]
  else if inArr o 0xA0000 0x20 288 then kept [fRw 0 48, fRw 48 1]
  else if inArr o 0xA0008 0x20 288 ∨ inArr o 0xA0010 0x20 288 then kept [fRw 0 64]
  else if inArr o 0xA0018 0x20 288 then lost [fRo 0 2, fRo 4 4, fRo 8 14, fRo 22 1, fRo 32 32]
  else none

/-- HD: device time, errors and glare runs (R531, R555). -/
def hdTimeReg (o : Nat) : Option RegDesc :=
  if o = 0x90000 then lost [fRo 0 64]
  else if o = 0x90008 then kept [fRo 0 64 0x000000199999999A]
  else if o = 0x90010 then kept [fRw 0 4 0xD, fRw 4 4, fRw 8 4, fRw 16 9 200]
  else if o = 0x90018 then lost [fRo 0 32, fRo 32 1, fRo 33 1, fRo 34 9, fRc 48 8, fRc 56 8]
  else if o = 0x90020 then kept [fRo 0 32, fRo 32 32]
  else if o = 0x90028 then kept [fRw 0 8 128, fRw 8 8 128, fRw 16 8 248, fRw 24 8 0xFE, fRw 32 16 0xFFFF, fRw 48 16]
  else if o = 0x90030 then kept [fRw 0 64]
  else if o = 0x90038 then kept [fRw 0 16, fRw 16 8 0xA0, fRw 24 6]
  else if o = 0x90040 then kept [fRw 0 64 (Config.perDevice 0x90040).toNat]
  else if o = 0x90048 then kept [fRo 0 64]
  else if o = 0x90050 then lost [fW1 0 25]
  else if o = 0x90058 then kept [fRo 0 32]
  else if inArr o 0x90100 0x10 16 ∨ inArr o 0x90108 0x10 16 then lost [fRo 0 64]
  else if o = 0xB0000 then kept [fRw 0 64]
  else if o = 0xB0008 then kept [fRw 0 5 16, fRw 5 1, fRw 6 1 1, fRw 7 1, fRw 8 5]
  else if o = 0xB0010 then kept [fRw 0 32, fRo 32 32]
  else if o = 0xB0018 then lost [fRc 0 16, fRc 16 16, fRo 32 8, fRc 40 16, fW1 56 1]
  else if o = 0xB0020 then lost [fWo 0 64]
  else if inArr o 0xB0100 8 32 then kept [fRo 0 64]
  else if o = 0xB0200 then kept [fRw 0 16 24]
  else if inArr o 0xB0300 8 16 then kept [fRo 0 4, fRw 4 1, fRo 8 4, fRw 12 1]
  else if o = 0xB1000 then lost [fRw 0 16, fWo 16 1, fWo 17 1]
  else if o = 0xB1008 then lost [fRo 0 3, fRo 3 3, fRo 8 8, fRo 16 6, fRo 32 16, fRc 48 16]
  else if o = 0xB1010 then lost [fRo 0 32, fRo 32 32]
  else if inArr o 0xB1100 8 36 then kept [fRo 0 64]
  else if inArr o 0xB1400 8 64 then lost [fRo 0 16, fRo 16 16, fRo 32 1]
  else none

/-- HD: security and power (R569, R590). -/
def hdSecReg (o : Nat) : Option RegDesc :=
  if o = 0xC0000 then
    lost [fRo 0 1 (fld (Config.perDevice o) 0 0), fRo 1 1, fRo 2 1, fRo 3 2, fRo 8 8 (fld (Config.perDevice o) 15 8),
      fRo 16 4 (fld (Config.perDevice o) 19 16)]
  else if o = 0xC0008 then lost [fWo 0 26, fWo 26 1]
  else if inArr o 0xC0010 8 8 then lost [fRw 0 64]
  else if o = 0xC0050 then lost [fWo 0 1, fWo 8 8, fRo 16 1]
  else if o = 0xC0058 then lost [fWo 0 8, fWo 8 8]
  else if o = 0xC0060 then kept [fRw 0 64]
  else if o = 0xC0068 then kept [fRw 0 15]
  else if o = 0xC0070 then lost [fRc 0 32, fRc 32 32]
  else if o = 0xC0078 ∨ o = 0xC0080 then kept [fRo 0 64 (Config.perDevice o).toNat]
  else if inArr o 0xC0100 8 8 ∨ inArr o 0xC0140 8 8 ∨ inArr o 0xC0180 8 8 then lost [fRo 0 64]
  else if o = 0xC01C0 then lost [fRo 0 8, fRo 8 8, fRo 16 8]
  else if inArr o 0xC1000 8 324 then kept [fRo 0 64 (Config.perDevice o).toNat]
  else if o = 0xD0000 then lost [fRw 0 1]
  else if o = 0xD0008 then lost [fRo 0 3, fRo 3 1, fRo 4 1, fRo 5 1, fRo 6 1, fRo 7 1, fRo 16 13, fRo 32 10]
  else if o = 0xD0010 then kept [fRw 0 13 4800, fRw 16 13 1920]
  else if o = 0xD0018 then kept [fRw 0 13 200, fRw 16 13]
  else if o = 0xD0020 then kept [fRw 0 8 100, fRw 8 8 90]
  else if o = 0xD0028 then lost [fRc 0 32, fRc 32 16, fRc 48 16]
  else if inArr o 0xD0100 8 16 then kept [fRw 0 8 132, fRo 8 8 132, fRo 16 16 (Config.railMv ((o - 0xD0100) / 8) 132).toNat]
  else if inArr o 0xD0200 8 16 then lost [fRo 0 8, fRc 8 8, fRo 16 8]
  else if o = 0xD0280 then lost [fRo 0 8, fRo 8 8, fRo 16 8, fRo 24 8]
  else if inArr o 0xD0300 8 16 then lost [fRo 0 8]
  else none

/-- The registers of the HD block by their offset (R32). -/
def hdReg (o : Nat) : Option RegDesc :=
  if o < 0x30000 then hdBringReg o
  else if o < 0x40000 then hdServeReg o
  else if o < 0x50000 then hdMemReg o
  else if o < 0x70000 then hdHubReg o
  else if o < 0x90000 ∨ (0xA0000 ≤ o ∧ o < 0xB0000) ∨ 0x100000 ≤ o then hdOuvReg o
  else if o < 0xC0000 then hdTimeReg o
  else hdSecReg o

/-- The die registers of a CD[n] block (R114, R198, R211, R260, R275, R295, R311, R343, R404, R421). -/
def cdReg (o : Nat) : Option RegDesc :=
  if o = 0x100 ∨ o = 0x108 then lost [fRw 0 64]
  else if o = 0x110 then lost [fRw 0 16]
  else if inArr o 0x1F00 8 16 then kept [fRo 0 32]
  else if inArr o 0x2000 0x20 128 then lost [fRo 0 3, fRo 8 8, fRo 16 12]
  else if inArr o 0x2008 0x20 128 then lost [fRo 0 32]
  else if inArr o 0x2010 0x20 128 then lost [fRo 0 10, fRc 16 10, fRc 32 16]
  else if o = 0x3000 then lost [fRw 0 1, fRw 1 1, fRw 2 1]
  else if o = 0x3008 then lost [fRw 0 64]
  else if o = 0x3010 then lost [fRw 0 17]
  else if o = 0x3018 then lost [fWo 0 64]
  else if o = 0x3020 then lost [fRo 0 4, fRo 4 1, fRo 5 1]
  else if o = 0x3028 then lost [fW1 0 1, fRc 16 16]
  else if o = 0x3400 then lost [fRw 0 1, fRw 16 9 384, fRw 32 10 128]
  else if o = 0x3408 then lost [fRw 0 64]
  else if o = 0x3410 then lost [fRw 0 17]
  else if o = 0x3418 then lost [fWo 0 64]
  else if o = 0x3420 then lost [fRo 0 4, fRo 4 1, fRo 5 1, fRc 16 16, fRc 32 32]
  else if inArr o 0x3800 0x10 16 then kept [fRw 0 9, fRw 16 10]
  else if inArr o 0x3808 0x10 16 then kept [fRw 0 15, fRw 16 15]
  else if o = 0x3900 then lost [fRo 0 13, fRc 16 13, fRc 32 32]
  else if o = 0x3910 then lost [fWo 0 1]
  else if inArr o 0x4000 0x20 128 then lost [fWo 0 30, fWo 32 12]
  else if inArr o 0x4008 0x20 128 then lost [fWo 0 1, fWo 1 1, fRw 8 5]
  else if inArr o 0x4010 0x20 128 then lost [fRo 0 5, fRo 5 1, fRo 6 1, fRo 8 8, fRo 16 12, fRc 32 32]
  else if inArr o 0x5000 8 48 then
    (if (o - 0x5000) / 8 % 3 = 2 then kept [fRw 0 16] else kept [fRw 0 64])
  else none

/-- The registers of one port block of an OD (R460, R461), by the offset in the port block. `p` is the offset of the whole
register in register space, for values fused per device. -/
def portReg (p o : Nat) : Option RegDesc :=
  if o = 0x0 then kept [fRw 0 2, fRw 2 1, fWo 3 1]
  else if o = 0x8 then kept [fRo 0 8, fRo 8 8, fRo 16 1, fRo 17 3]
  else if o = 0x10 then kept [fRw 0 3, fRo 8 8]
  else if o = 0x18 then kept [fRw 0 16 4096, fRw 16 16 3072, fRw 32 8, fRw 40 16 4096]
  else if o = 0x20 then kept [fRw 0 3 7, fRw 4 3 6, fRw 8 3, fRw 12 3 2, fRw 16 3 6]
  else if o < 0x1000 ∨ 0x9000 ≤ o then none
  else
    let q := o % 0x1000
    if q = 0x0 then kept [fRw 0 14 9216, fRw 16 1, fRw 17 1, fRw 18 1, fRw 19 1 1, fRw 20 2, fRw 24 8, fRw 32 8 64, fRw 40 16 64]
    else if q = 0x8 then lost [fRo 0 1, fRo 1 1, fRo 2 1, fRo 3 1, fW1 4 1, fRc 32 32]
    else if q = 0x10 then kept [fRw 0 48 (fld (Config.perDevice p) 47 0)]
    else if q = 0x18 then kept [fRw 0 12, fRw 12 1, fRw 13 1]
    else if q = 0x20 ∨ q = 0x28 then kept [fRw 0 64]
    else if q = 0x30 then kept [fRw 0 2, fRw 32 32]
    else if inArr q 0x100 8 18 then kept [fRc 0 48]
    else if inArr q 0x300 8 5 then kept [fRw 0 64]
    else if 0x400 ≤ q ∧ q < 0x900 then
      let r := q % 0x40
      if r = 0x0 then kept [fRw 0 1, fRw 32 32]
      else if r = 0x8 then kept [fRw 0 64]
      else if r = 0x10 ∨ r = 0x18 ∨ r = 0x20 ∨ r = 0x28 ∨ r = 0x30 then kept [fWo 0 64]
      else if r = 0x38 then kept [fWo 0 32]
      else none
    else none

/-- The registers of an OD[k] block (R311, R460). -/
def odReg (p o : Nat) : Option RegDesc :=
  if o = 0x400 then lost [fRo 0 14, fRo 16 14, fRc 32 32]
  else if 0x100000 ≤ o ∧ o < 0x160000 then portReg p ((o - 0x100000) % 0x10000)
  else none

/-- The blocks of register space (Table 1.6). -/
inductive RegBlock where
  | hd | cd (n : Nat) | md (m : Nat) | od (k : Nat)
  deriving DecidableEq, Repr

/-- The block that holds an offset of register space, and the offset within it. -/
def regBlock (o : Nat) : Option (RegBlock × Nat) :=
  let b := o / 0x1000000
  let r := o % 0x1000000
  if b = 0 then some (.hd, r)
  else if b ≤ 16 then some (.cd (b - 1), r)
  else if b ≤ 18 then some (.md (b - 17), r)
  else if b ≤ 24 then some (.od (b - 19), r)
  else none

/-- The register at an offset of register space, outside the tile windows. -/
def regDesc (o : Nat) : Option RegDesc :=
  match regBlock o with
  | some (.hd, r) => hdReg r
  | some (.cd _, r) => cdReg r
  | some (.od _, r) => odReg o r
  | _ => none

/-- The reset value of a register: its fields' reset values (R18).
DESIGN CHOICE (log entry 5). -/
def regReset (o : Nat) : W64 :=
  match regDesc o with
  | some d => d.fields.foldl (fun a f => BitVec.ofNat 64 (putBits a.toNat f.lo f.w f.rst)) 0
  | none => 0

/-- The offset of a CD[n] register in register space. -/
def cdOff (n o : Nat) : Nat := 0x1000000 + (o + 0x1000000 * n)

/-- The offset of an OD[k] register in register space. -/
def odOff (k o : Nat) : Nat := 0x13000000 + (o + 0x1000000 * k)

/-- The offset of a port register (R460). -/
def portOff (p o : Nat) : Nat := odOff (p / 6) (0x100000 + (o + 0x10000 * (p % 6)))

/-- The offset of a register of sub-port `sub` of port `p` (R461). -/
def subOff (p sub o : Nat) : Nat := portOff p (0x1000 + (o + 0x1000 * sub))

end Sys2Proof.Machine
end

