-- ==== Sys2Proof/Machine/State.lean ====
section
/-! DEFINITION. The state of the chip, what a reset leaves, and the reasons a step can stop. -/
namespace Sys2Proof.Machine

/-- Why a step stops with a fault. -/
inductive Fault where
  /-- A command names a tile, die, region or other unit that the package does not hold (R13, R14, R21, R22). Raised by the
  meanings' range checks. Safe: the chip has no such unit, so nothing could happen on it. -/
  | noSuchUnit (what : String)
  deriving DecidableEq, Repr

/-- Why a step is refused. -/
inductive Refusal where
  /-- The command has no meaning in the model. Raised by an arm of `exec`. Safe: nothing is claimed of it. -/
  | notModelled (mnemonic : String)
  deriving DecidableEq, Repr

/-- The completion of the last access or command that a sender made: its status (R34, R416) and the data returned. -/
structure Reply where
  status : Nat
  data : List Byte
  deriving DecidableEq, Repr

/-- Error records and events on their way (R413, R414, R544, R545): the always-on store, the open corrected records, the next
record number, the entries to forward in EVENT frames, and how many entries each ring has had since the reset. -/
structure Logs where
  store : List (List Byte)
  opened : List (List Byte)
  seq : Nat
  forward : List (List Byte)
  posted : List (Nat × Nat)
  deriving DecidableEq, Repr

def Logs.withStore (x : Logs) (v : List (List Byte)) : Logs := { x with store := v }
def Logs.withOpened (x : Logs) (v : List (List Byte)) : Logs := { x with opened := v }
def Logs.withSeq (x : Logs) (v : Nat) : Logs := { x with seq := v }
def Logs.withForward (x : Logs) (v : List (List Byte)) : Logs := { x with forward := v }
def Logs.withPosted (x : Logs) (v : List (Nat × Nat)) : Logs := { x with posted := v }

/-- The whole chip, and the queue of commands that wait. `regs` holds every register of space 0x8 that is not at its reset value, by offset
(RegTable.regReset gives the others); `mem` holds every byte of spaces 0x1-0x3 that is not 0. Lists by key hold what is not at its default. -/
structure State where
  /-- Commands that wait, first in, first out. -/
  pending : List Instr
  /-- The completion that the last sender got (R34, R416). -/
  reply : Reply
  /-- Memory of spaces 0x1-0x3, rising, without zeros (R284-R290). -/
  mem : List (Nat × Byte)
  /-- Code words that read as uncorrectable (R532-R537). -/
  bad : List Nat
  /-- Registers of space 0x8 (R32-R35). -/
  regs : List (Nat × W64)
  /-- Tiles by number (chapter 3). -/
  tiles : List (Nat × Tile)
  /-- Sections by 8·region + context (chapter 6). -/
  secs : List (Nat × Section)
  /-- Command queues by 8·region + context (R404-R412). -/
  cmdqs : List (Nat × CmdQ)
  /-- Jobs of the routing units by compute die (R241-R253). -/
  prism : List (Nat × List PrismJob)
  /-- Tint units by compute die (R263-R278). -/
  tint : List (Nat × TintUnit)
  /-- Last completions of sections, for triggers (R243, R265), with their serial number. -/
  done : List (Nat × SecDone)
  doneSerial : Nat
  /-- Ouvuth, Ethernet, copy and move jobs (chapters 10, 11, 15, 16). -/
  net : NetSt
  /-- Tokens and credits on the mesh (R203, R204, R176). -/
  flight : List Flight
  credits : List CreditFlight
  /-- Epoch of the last run by context (R408). -/
  lastEpoch : List (Nat × Nat)
  /-- Device time, in qns × 2^32 (R523). -/
  time : Nat
  /-- Error records and event entries on their way (R544, R545). -/
  logs : Logs
  /-- The chip number in force (R38). -/
  chipInForce : Nat
  /-- TABLE_SYNC commands that wait (R419). -/
  syncs : List (Nat × Nat × Nat)
  /-- The Efnil link and open requests (R426-R432). -/
  efn : EfnSt
  /-- Bring-up and receipt of images (chapter 17). -/
  boot : BootSt
  /-- Package jobs (chapter 12). -/
  pkg : PkgSt
  /-- The serving engine (chapter 13). -/
  srv : SrvSt
  /-- The glare run (R547-R556). -/
  glare : GlareSt
  /-- Root of trust (chapter 20). -/
  trust : TrustSt
  /-- Device time and PTP (chapter 18). -/
  ptp : PtpSt
  /-- Power, clocks and the module (chapters 18, 21). -/
  pwr : PwrSt
  /-- Fused dark tiles of this device (R116, log entry 5). -/
  fused : List Nat
  /-- Cores that a comparator of device time interrupts (R403). -/
  timerIrq : List Nat
  /-- Spill engines by compute die: one more than the queue served last, as 128·tile + 16·context + queue (R222). -/
  engines : List (Nat × Nat)
  /-- The model's own: how many free values have been taken (log entry 3). -/
  free : Nat
  deriving DecidableEq, Repr

/-- What a step answers. -/
abbrev Out := Host.Outcome State Fault Refusal

/-- The chip right after a cold reset (R18, R493).
DESIGN CHOICE (log entry 17). -/
def State.reset : State :=
  { pending := []
    reply := ⟨0, []⟩
    mem := []
    bad := []
    regs := [(0x90058, 1)]
    tiles := []
    secs := []
    cmdqs := []
    prism := []
    tint := []
    done := []
    doneSerial := 0
    net := NetSt.init
    flight := []
    credits := []
    lastEpoch := []
    time := 0
    logs := ⟨[], [], 0, [], []⟩
    chipInForce := 0x3FFF
    syncs := []
    efn := EfnSt.init
    boot := BootSt.init
    pkg := PkgSt.init
    srv := SrvSt.init
    glare := GlareSt.init
    trust := TrustSt.init
    ptp := PtpSt.init
    pwr := PwrSt.init
    fused := []
    timerIrq := []
    engines := []
    free := 0 }

end Sys2Proof.Machine
end

