-- ==== Sys2Proof/Machine/Status.lean ====
section
/-! DEFINITION. The one-byte status codes of accesses, commands, loads and jobs: Tables 14.6 and 14.11 (R416, R417) and the
tables that extend them (R438, R451, R573, R466, R551, R562). -/
namespace Sys2Proof.Machine

def St.ok : Nat := 0x00
def St.regAlign : Nat := 0x01
def St.regUnmapped : Nat := 0x02
def St.dieNotReady : Nat := 0x03
def St.tileDark : Nat := 0x04
def St.tileParked : Nat := 0x05
def St.tileBusy : Nat := 0x06
def St.regDenied : Nat := 0x07
def St.apertureAlign : Nat := 0x08
def St.apertureMiss : Nat := 0x09
def St.ringFull : Nat := 0x0A
def St.addrSpace : Nat := 0x10
def St.addrRange : Nat := 0x11
def St.addrAlign : Nat := 0x12
def St.memDenied : Nat := 0x13
def St.loanHeld : Nat := 0x14
def St.loanRecalled : Nat := 0x15
def St.homeMoved : Nat := 0x16
def St.homeLost : Nat := 0x17
def St.homeBusy : Nat := 0x18
def St.homeReadonly : Nat := 0x19
def St.decompFault : Nat := 0x1A
def St.memError : Nat := 0x1B
def St.fpModeReserved : Nat := 0x20
def St.tileInUse : Nat := 0x21
def St.carveOverlap : Nat := 0x22
def St.carveBusy : Nat := 0x23
def St.carveSpill : Nat := 0x24
def St.t2MapBad : Nat := 0x25
def St.loanBusy : Nat := 0x26
def St.loanRange : Nat := 0x27
def St.loanOverlap : Nat := 0x28
def St.moveRange : Nat := 0x29
def St.moveState : Nat := 0x2A
def St.moveBusy : Nat := 0x2B
def St.paramRange : Nat := 0x2C
def St.serveBusy : Nat := 0x2D
def St.hold : Nat := 0x2E
def St.veilBusy : Nat := 0x2F
def St.veilInvalid : Nat := 0x30
def St.portBusy : Nat := 0x31
def St.saInUse : Nat := 0x32
def St.pwrDim : Nat := 0x33
def St.pwrBusy : Nat := 0x34
def St.prismBusy : Nat := 0x38
def St.prismOff : Nat := 0x39
def St.tintBusy : Nat := 0x3A
def St.tintOff : Nat := 0x3B
def St.copyBusy : Nat := 0x3C
def St.pkgBusy : Nat := 0x3D
def St.cmdqFull : Nat := 0x3E
def St.cmdqNotLead : Nat := 0x3F
def St.regionOverlap : Nat := 0x40
def St.regionBusy : Nat := 0x41
def St.busyEpoch : Nat := 0x42
def St.spanLit : Nat := 0x43
def St.spanNone : Nat := 0x44
def St.efnType : Nat := 0x45
def St.efnLength : Nat := 0x46
def St.efnClass : Nat := 0x47
def St.efnCmdId : Nat := 0x48
def St.bootClosed : Nat := 0x49
def St.timeLocked : Nat := 0x4A
def St.modelBusy : Nat := 0x4B
def St.pkgLayout : Nat := 0x4C
def St.notVerified : Nat := 0x4D
def St.pkgDigest : Nat := 0x4E
def St.chainLost : Nat := 0x4F
def St.sectionActive : Nat := 0x50
def St.imageBad : Nat := 0x51
def St.tileRegion : Nat := 0x52
def St.epochStale : Nat := 0x53
def St.pstoreOverlap : Nat := 0x54
def St.spadRange : Nat := 0x55
def St.ringCfg : Nat := 0x56
def St.aptCfg : Nat := 0x57
def St.routePath : Nat := 0x58
def St.routeRegion : Nat := 0x59
def St.routeDark : Nat := 0x5A
def St.routeTurn : Nat := 0x5B
def St.routeConflict : Nat := 0x5C
def St.bindingBad : Nat := 0x5D
def St.spillRange : Nat := 0x5E
def St.sectionState : Nat := 0x60
def St.queueResidue : Nat := 0x61
def St.cmdBad : Nat := 0x62
def St.epochMismatch : Nat := 0x63
def St.rearmBad : Nat := 0x64
def St.tableRange : Nat := 0x65
def St.dispatchDenied : Nat := 0x66
def St.mboxFull : Nat := 0x67
def St.regionReset : Nat := 0x68
def St.flushed : Nat := 0x69
def St.evqBusy : Nat := 0x6A
def St.spanUnlit : Nat := 0x6B
def St.pkgDesc : Nat := 0x6C
def St.pkgBad : Nat := 0x6D
def St.modelEntry : Nat := 0x6E
def St.pkgPlace : Nat := 0x6F
def St.ouvOp : Nat := 0x70
def St.ouvLength : Nat := 0x71
def St.ouvUnassigned : Nat := 0x72
def St.ouvPeerReset : Nat := 0x73
def St.ouvNoRoute : Nat := 0x74
def St.ouvBusy : Nat := 0x75
def St.modelTorn : Nat := 0x76
def St.genMismatch : Nat := 0x77
def St.glarePkg : Nat := 0x78
def St.glareScope : Nat := 0x79
def St.glareActive : Nat := 0x7A
def St.glareAbort : Nat := 0x7B
def St.attestBusy : Nat := 0x7C

end Sys2Proof.Machine
end

