-- ==== Sys2Proof/Machine/Ops.lean ====
section
/-! DEFINITION. The named operations over the state: memory, registers, counters, tiles, sections, event rings, the error log.
Every meaning is written over them. -/
namespace Sys2Proof.Machine

/-! ## One field of the state set -/

def State.withPending (x : State) (v : List Instr) : State := { x with pending := v }
def State.withReply (x : State) (v : Reply) : State := { x with reply := v }
def State.withMem (x : State) (v : List (Nat × Byte)) : State := { x with mem := v }
def State.withBad (x : State) (v : List Nat) : State := { x with bad := v }
def State.withRegs (x : State) (v : List (Nat × W64)) : State := { x with regs := v }
def State.withTiles (x : State) (v : List (Nat × Tile)) : State := { x with tiles := v }
def State.withSecs (x : State) (v : List (Nat × Section)) : State := { x with secs := v }
def State.withCmdqs (x : State) (v : List (Nat × CmdQ)) : State := { x with cmdqs := v }
def State.withPrism (x : State) (v : List (Nat × List PrismJob)) : State := { x with prism := v }
def State.withTint (x : State) (v : List (Nat × TintUnit)) : State := { x with tint := v }
def State.withDone (x : State) (v : List (Nat × SecDone)) : State := { x with done := v }
def State.withDoneSerial (x : State) (v : Nat) : State := { x with doneSerial := v }
def State.withNet (x : State) (v : NetSt) : State := { x with net := v }
def State.withFlight (x : State) (v : List Flight) : State := { x with flight := v }
def State.withCredits (x : State) (v : List CreditFlight) : State := { x with credits := v }
def State.withLastEpoch (x : State) (v : List (Nat × Nat)) : State := { x with lastEpoch := v }
def State.withTime (x : State) (v : Nat) : State := { x with time := v }
def State.withLogs (x : State) (v : Logs) : State := { x with logs := v }
def State.withChipInForce (x : State) (v : Nat) : State := { x with chipInForce := v }
def State.withSyncs (x : State) (v : List (Nat × Nat × Nat)) : State := { x with syncs := v }
def State.withEfn (x : State) (v : EfnSt) : State := { x with efn := v }
def State.withBoot (x : State) (v : BootSt) : State := { x with boot := v }
def State.withPkg (x : State) (v : PkgSt) : State := { x with pkg := v }
def State.withSrv (x : State) (v : SrvSt) : State := { x with srv := v }
def State.withGlare (x : State) (v : GlareSt) : State := { x with glare := v }
def State.withTrust (x : State) (v : TrustSt) : State := { x with trust := v }
def State.withPtp (x : State) (v : PtpSt) : State := { x with ptp := v }
def State.withPwr (x : State) (v : PwrSt) : State := { x with pwr := v }
def State.withFused (x : State) (v : List Nat) : State := { x with fused := v }
def State.withTimerIrq (x : State) (v : List Nat) : State := { x with timerIrq := v }
def State.withEngines (x : State) (v : List (Nat × Nat)) : State := { x with engines := v }
def State.withFree (x : State) (v : Nat) : State := { x with free := v }

/-! ## Memory (R284-R292) -/

/-- What a byte that nothing has written reads as (log entry 4). -/
def memD : Nat → Byte := fun _ => 0

/-- The key of byte `off` of a space (R284). Chip-local: a chip's own bytes only. -/
def memKey (space off : Nat) : Nat := 2 ^ 46 * space + off

/-- The key of byte `b` of the die store of CDn (R286). -/
def dieKey (n b : Nat) : Nat := memKey 1 (2 ^ 25 * n + b)

/-- The key of byte `b` of the hub SRAM (R286). -/
def hubKey (b : Nat) : Nat := memKey 1 (2 ^ 29 + b)

/-- The fields of a global address (Table 10.1). -/
def gaChip (a : Nat) : Nat := a / 2 ^ 50 % 2 ^ 14
def gaSpace (a : Nat) : Nat := a / 2 ^ 46 % 16
def gaOff (a : Nat) : Nat := a % 2 ^ 46

/-- The key of a global address of this chip. -/
def gaKey (a : Nat) : Nat := a % 2 ^ 50

/-- `n` bytes of the chip's memory from key `k`. -/
def State.rdMem (s : State) (k n : Nat) : List Byte := Sparse.getList memD s.mem k n

/-- The state with bytes written from key `k`. -/
def State.wrMem (s : State) (k : Nat) (bs : List Byte) : State :=
  s.withMem (Sparse.putList memD s.mem k bs)

/-- The state with the bytes of keys [lo, hi) zero. -/
def State.zeroMem (s : State) (lo hi : Nat) : State := s.withMem (Sparse.clear s.mem lo hi)

/-- A little-endian number of `n` bytes at key `k` (R12). -/
def State.rdLe (s : State) (k n : Nat) : Nat := leNat (s.rdMem k n)

/-- A little-endian number written at key `k`. -/
def State.wrLe (s : State) (k n v : Nat) : State := s.wrMem k (toLe n v)

/-! ## Registers -/

/-- The value a register holds. -/
def State.reg (s : State) (o : Nat) : W64 := Sparse.get regReset s.regs o

/-- The state with a register set, its fields' access codes aside: how the chip itself writes it. -/
def State.setReg (s : State) (o : Nat) (v : W64) : State := s.withRegs (Sparse.put regReset s.regs o v)

/-- Field [hi:lo] of a register. -/
def State.rf (s : State) (o hi lo : Nat) : Nat := fld (s.reg o) hi lo

/-- Bit `i` of a register. -/
def State.rb (s : State) (o i : Nat) : Bool := bit (s.reg o) i

/-- The state with field [hi:lo] of a register set. -/
def State.setRf (s : State) (o hi lo v : Nat) : State := s.setReg o (setFld (s.reg o) hi lo v)

/-- The state with bit `i` of a register set. -/
def State.setRb (s : State) (o i : Nat) (b : Bool) : State := s.setReg o (setBit (s.reg o) i b)

/-- The state with `n` added to a counter field, which saturates (R16). -/
def State.count (s : State) (o hi lo n : Nat) : State :=
  s.setRf o hi lo (satAdd (s.rf o hi lo) n (2 ^ (hi + 1 - lo) - 1))

/-- The state with a peak field raised to at least `v`. -/
def State.raise (s : State) (o hi lo v : Nat) : State := s.setRf o hi lo (max (s.rf o hi lo) v)

/-! ## Completions -/

/-- The state with the completion of an access returned to its sender. -/
def State.answer (s : State) (status : Nat) : State := s.withReply ⟨status, []⟩

/-- The state with a completion that carries data. -/
def State.answerData (s : State) (status : Nat) (d : List Byte) : State := s.withReply ⟨status, d⟩

/-- A fresh free value (log entry 3): the state has moved to the next one. -/
def State.freeVal (s : State) : W64 × State := (Config.freeWord s.free, s.withFree (s.free + 1))

/-! ## Time (R523, R529) -/

/-- Device time in whole qns. -/
def State.now (s : State) : Nat := s.time / 2 ^ 32 % 2 ^ 64

/-- A stamp taken now is uncertain: the PTP bit of the readiness map is 0 (R529). -/
def State.uncertain (s : State) : Bool := !s.rb 0x10000 4

/-! ## Tiles and sections -/

def tileD : Nat → Tile := fun _ => Tile.init
def ctxD : Nat → TileCtx := fun _ => TileCtx.init
def secD : Nat → Section := fun _ => Section.init

/-- The number of tiles of the mesh (R14). -/
def tileCount : Nat := 2304

def tileRow (t : Nat) : Nat := t / 96
def tileCol (t : Nat) : Nat := t % 96

/-- The compute die of a tile (R14). -/
def tileDie (t : Nat) : Nat := 8 * (tileRow t / 12) + tileCol t / 12

/-- The local index of a tile within its die (R14). -/
def tileLocal (t : Nat) : Nat := tileRow t % 12 * 12 + tileCol t % 12

/-- The tile with local index `l` of CDn (R14). -/
def tileAt (n l : Nat) : Nat := 96 * (12 * (n / 8) + l / 12) + 12 * (n % 8) + l % 12

/-- A step from a tile in a direction, 0 N, 1 E, 2 S, 3 W: none past the edge of the mesh (R24). -/
def meshStep (t d : Nat) : Option Nat :=
  match d with
  | 0 => if tileRow t = 0 then none else some (t - 96)
  | 1 => if tileCol t = 95 then none else some (t + 1)
  | 2 => if tileRow t = 23 then none else some (t + 96)
  | _ => if tileCol t = 0 then none else some (t - 1)

/-- TILE_COORD (R112). -/
def tileCoord (t : Nat) : W64 :=
  BitVec.ofNat 64 (tileRow t + 2 ^ 8 * tileCol t + 2 ^ 16 * tileLocal t + 2 ^ 24 * tileDie t + 2 ^ 32 * t)

def State.tile (s : State) (t : Nat) : Tile := Sparse.get tileD s.tiles t
def State.setTile (s : State) (t : Nat) (x : Tile) : State := s.withTiles (Sparse.put tileD s.tiles t x)
def State.updTile (s : State) (t : Nat) (f : Tile → Tile) : State := s.setTile t (f (s.tile t))

def Tile.ctx (x : Tile) (c : Nat) : TileCtx := Sparse.get ctxD x.ctxs c
def Tile.setCtx (x : Tile) (c : Nat) (y : TileCtx) : Tile := x.withCtxs (Sparse.put ctxD x.ctxs c y)
def Tile.updCtx (x : Tile) (c : Nat) (f : TileCtx → TileCtx) : Tile := x.setCtx c (f (x.ctx c))

/-- The key of context c of region g (R198). -/
def secKey (g c : Nat) : Nat := g * 8 + c
def State.sec (s : State) (g c : Nat) : Section := Sparse.get secD s.secs (secKey g c)
def State.setSec (s : State) (g c : Nat) (x : Section) : State :=
  s.withSecs (Sparse.put secD s.secs (secKey g c) x)
def State.updSec (s : State) (g c : Nat) (f : Section → Section) : State := s.setSec g c (f (s.sec g c))

/-- The section holds its context's place: its state is anything but EMPTY (R101). -/
def Section.resident (x : Section) : Bool := decide (x.st ≠ .empty)

/-- The section is RUNNING or ENDING. -/
def Section.active (x : Section) : Bool := decide (x.st = .running ∨ x.st = .ending)

/-- The section names the tile. -/
def Section.names (x : Section) (t : Nat) : Bool := x.tiles.contains t

/-- The regions and contexts: 16 regions of 8 contexts (R198, R295). -/
def regionCount : Nat := 16

/-- The tile belongs to region g (R421). -/
def State.inRegion (s : State) (g t : Nat) : Bool :=
  let l := tileLocal t
  s.rb (cdOff (tileDie t) (0x5000 + 0x18 * g + l / 64 * 8)) (l % 64)

/-- The region of a tile, if it has one (R421: the tile sets are disjoint). -/
def State.regionOf (s : State) (t : Nat) : Option Nat := findPos (fun g => s.inRegion g t) (List.range 16)

/-- Some tile of CDn belongs to region g. -/
def State.regionOnDie (s : State) (g n : Nat) : Bool :=
  decide (s.reg (cdOff n (0x5000 + 0x18 * g)) ≠ 0 ∨ s.reg (cdOff n (0x5008 + 0x18 * g)) ≠ 0
    ∨ s.rf (cdOff n (0x5010 + 0x18 * g)) 15 0 ≠ 0)

/-- The lead die of a region: the lowest-numbered compute die that holds one of its tiles (R195). -/
def State.leadDie (s : State) (g : Nat) : Option Nat := findPos (fun n => s.regionOnDie g n) (List.range 16)

/-- The tiles of a region in ascending T0 index. -/
def State.regionTiles (s : State) (g : Nat) : List Nat := (List.range tileCount).filter (fun t => s.inRegion g t)

/-- The partition ID of a region (R422). -/
def State.partition (s : State) (g : Nat) : Nat := s.rf (0x51000 + 0x10 * g) 11 0

/-- Answered operations whose stream piece is gone leave the list. -/
def State.dropOrphans (s : State) : State :=
  s.withNet (s.net.withOps (s.net.ops.filter (fun o =>
    match o.client with
    | .piece t id => o.done.isNone || (s.tile t).u.pieces.any (fun p => p.lead == id)
    | _ => true)))

/-- The contexts whose resident section names the tile: pairs (g, c). -/
def State.residentsOf (s : State) (t : Nat) : List (Nat × Nat) :=
  ((List.range 128).filter (fun k =>
    let x := Sparse.get secD s.secs k
    x.resident && x.names t)).map (fun k => (k / 8, k % 8))

/-- The tile belongs to a section that is RUNNING or ENDING (R34). -/
def State.tileBusy (s : State) (t : Nat) : Bool :=
  (List.range 128).any (fun k => let x := Sparse.get secD s.secs k; x.active && x.names t)

/-- Some section of the region is RUNNING or ENDING. -/
def State.regionActive (s : State) (g : Nat) : Bool := (List.range 8).any (fun c => (s.sec g c).active)

/-- Some section of the chip is RUNNING or ENDING (R38). -/
def State.anyActive (s : State) : Bool := (List.range 16).any (fun g => s.regionActive g)

/-! ## Event rings (R413, R414) -/

def evqCfg (k : Nat) : Nat := 0x50000 + 0x20 * k
def evqPtr (k : Nat) : Nat := 0x50008 + 0x20 * k
def evqStat (k : Nat) : Nat := 0x50010 + 0x20 * k

/-- Entries or bytes that a ring holds: TAIL − HEAD modulo 2^32. -/
def State.ringHeld (s : State) (ptr : Nat) : Nat := (2 ^ 32 + s.rf ptr 63 32 - s.rf ptr 31 0) % 2 ^ 32

/-- The 32 envelope bytes of a ring entry (Table 14.4). -/
def envelope (kind die queue tag seq : Nat) : List Byte :=
  toLe 1 kind ++ toLe 1 die ++ toLe 1 queue ++ [0] ++ toLe 4 tag ++ toLe 8 seq ++ List.replicate 16 0

/-- A whole 64-byte entry, made from its number in the ring since the reset, written to the ring, or dropped and counted when the ring is full or not enabled (R414).
DEDUCED (log entry 57). -/
def State.postEntry (s : State) (k : Nat) (entry : Nat → List Byte) : State :=
  if s.rb (evqCfg k) 21 && decide (s.ringHeld (evqPtr k) < 2 ^ s.rf (evqCfg k) 20 16) then
    let tail := s.rf (evqPtr k) 63 32
    let n := Sparse.get (fun _ => 0) s.logs.posted k
    let e := entry n
    let s := s.withLogs (s.logs.withPosted (Sparse.put (fun _ => 0) s.logs.posted k (n + 1)))
    let s := s.wrMem (hubKey (4096 * s.rf (evqCfg k) 13 0 + 64 * (tail % 2 ^ s.rf (evqCfg k) 20 16))) e
    let s := s.setRf (evqPtr k) 63 32 (tail + 1)
    if s.rb (evqCfg k) 22 then s.withLogs (s.logs.withForward (s.logs.forward ++ [e])) else s
  else (s.count (evqStat k) 31 0 1).setRb (evqStat k) 32 true

/-- A completion posted to ring `k` with its envelope (R413, R414). -/
def State.postEvent (s : State) (k kind die queue tag : Nat) (comp : List Byte) : State :=
  s.postEntry k (fun seq => slice comp 0 32 ++ envelope kind die queue tag seq)

/-- The ring that HUB_EV_ROUTE names for a kind (R414): 0 PRISM, 1 TINT, 2 COPY, 3 MOVE, 4 PKG, 5 GLARE. -/
def State.evRoute (s : State) (i : Nat) : Nat := s.rf 0x50400 (8 * i + 4) (8 * i)

/-! ## Error records (R539-R545) -/

/-- An error record to be: Table 19.3 without TIME, COUNT, KIND and SEQ, which logging fills in. -/
structure ErrInfo where
  cls : Nat
  source : Nat
  flags : Nat := 0
  who : Option (Nat × Nat) := none
  unit : Nat := 0xFFFF
  addr : Nat := 0
  epoch : Nat := 0
  status : Nat := 0
  exc : Nat := 0
  symbols : Nat := 0
  die : Nat := 16
  detail : Nat := 0
  aux : Nat := 0

def ErrInfo.withCls (x : ErrInfo) (v : Nat) : ErrInfo := { x with cls := v }
def ErrInfo.withSource (x : ErrInfo) (v : Nat) : ErrInfo := { x with source := v }
def ErrInfo.withFlags (x : ErrInfo) (v : Nat) : ErrInfo := { x with flags := v }
def ErrInfo.withUnit (x : ErrInfo) (v : Nat) : ErrInfo := { x with unit := v }
def ErrInfo.withStatus (x : ErrInfo) (v : Nat) : ErrInfo := { x with status := v }
def ErrInfo.withSymbols (x : ErrInfo) (v : Nat) : ErrInfo := { x with symbols := v }
def ErrInfo.withDie (x : ErrInfo) (v : Nat) : ErrInfo := { x with die := v }
def ErrInfo.withAux (x : ErrInfo) (v : Nat) : ErrInfo := { x with aux := v }

/-- The 64 bytes of a record (Table 19.3); `now` are the flags of the moment. -/
def errRecord (time now seq count : Nat) (e : ErrInfo) : List Byte :=
  let who := match e.who with
    | some (g, c) => g + 16 * c + 128
    | none => 0
  let q := match e.who with
    | some (g, c) => g * 8 + c
    | none => 0xFF
  toLe 8 time ++ toLe 1 e.cls ++ toLe 1 e.source ++ toLe 1 (e.flags ||| now) ++ toLe 1 who ++ toLe 2 count ++
    toLe 2 e.unit ++ toLe 8 e.addr ++ toLe 4 e.epoch ++ toLe 1 e.status ++ toLe 1 e.exc ++ toLe 1 e.symbols ++ [0] ++
    toLe 1 0x0A ++ toLe 1 e.die ++ toLe 1 q ++ [0] ++ toLe 4 e.detail ++ toLe 8 seq ++ toLe 8 e.aux ++
    List.replicate 8 0

/-- The error log can take records: ENABLE, and the stack that holds it is ready (R544). -/
def State.logUsable (s : State) : Bool :=
  s.rb 0xB0008 5 && s.rb 0x10000 (32 + s.rf 0xB0000 39 36)

/-- A record appended to the log with its SEQ, copied and forwarded as configured; or counted when the log is full (R544).
DEDUCED (log entry 29). -/
def State.appendRecord (s : State) (r : List Byte) : State :=
  if s.ringHeld 0xB0010 < 2 ^ s.rf 0xB0008 4 0 then
    let tail := s.rf 0xB0010 63 32
    let r := overlay r 40 (toLe 8 s.logs.seq)
    let s := s.wrMem (gaKey (s.reg 0xB0000).toNat + 64 * (tail % 2 ^ s.rf 0xB0008 4 0)) r
    let s := s.setRf 0xB0010 63 32 (tail + 1)
    let s := s.withLogs (s.logs.withSeq (s.logs.seq + 1))
    let s := if s.rb 0xB0008 7 then s.postEntry (s.rf 0xB0008 12 8) (fun _ => r) else s
    if s.rb 0xB0008 6 then s.withLogs (s.logs.withForward (s.logs.forward ++ [r])) else s
  else (s.count 0xB0018 55 40 1).setRb 0xB0018 56 true

/-- The record's class byte. -/
def recClass (r : List Byte) : Nat := leAt r 8 1

/-- A record put into the always-on store of 32 (R544). -/
def State.storeRecord (s : State) (r : List Byte) : State :=
  if s.logs.store.length < 32 then s.withLogs (s.logs.withStore (s.logs.store ++ [r]))
  else
    let s1 := s.count 0xB0018 55 40 1
    match findPos (fun x => decide (recClass x = 0)) s.logs.store with
    | some i => s1.withLogs (s1.logs.withStore (dropAt s1.logs.store i ++ [r]))
    | none => s1

/-- A finished record logged: counted by class, kept in HUB_FATAL when fatal, appended to the log or stored (R539, R544). -/
def State.logRecord (s : State) (r : List Byte) : State :=
  let s := match recClass r with
    | 0 => s.count 0xB0018 15 0 1
    | 1 => s.count 0xB0018 31 16 1
    | _ =>
      let n := s.rf 0xB0018 39 32
      let s := s.count 0xB0018 39 32 1
      (List.range 8).foldl (fun s w => s.setReg (0xB0100 + 0x40 * (n % 4) + w * 8) (BitVec.ofNat 64 (leAt r (8 * w) 8))) s
  if s.logUsable && s.logs.store.isEmpty then s.appendRecord r else s.storeRecord r

/-- FLAGS that every record raised now carries: UNCERTAIN, and GLARE during a glare run (R542). -/
def State.errFlags (s : State) : Nat := s.uncertain.toNat + (if s.glare.run.isSome then 16 else 0)

/-- An error raised now: its record is written (R542). -/
def State.raiseError (s : State) (e : ErrInfo) : State :=
  s.logRecord (errRecord s.now s.errFlags 0 1 e)

end Sys2Proof.Machine
end

