-- ==== Sys2Proof/Machine/Net.lean ====
section
/-! DEFINITION. Ouvuth frames, egress choice, streams and operations: how this chip sends (R465-R481, R486, R594). -/
namespace Sys2Proof.Machine

/-! ## CRC-32C -/

/-- One bit of the reflected CRC with polynomial 0x1EDC6F41. -/
def crcBit (c : Nat) : Nat := if c % 2 = 1 then (c / 2) ^^^ 0x82F63B78 else c / 2

def crcByte (c : Nat) (b : Byte) : Nat :=
  let x := c ^^^ b.toNat
  crcBit (crcBit (crcBit (crcBit (crcBit (crcBit (crcBit (crcBit x)))))))

/-- The CRC register after a byte string. The match makes each step a number before the next byte. -/
def crcList : List Byte → Nat → Nat
  | [], c => c
  | b :: bs, c =>
    match crcByte c b with
    | 0 => crcList bs 0
    | n + 1 => crcList bs (n + 1)

/-- CRC-32C (Castagnoli) of a byte string. -/
def crc32c (bs : List Byte) : Nat := crcList bs 0xFFFFFFFF ^^^ 0xFFFFFFFF

/-! ## Frames (R465, Table 16.1) -/

/-- FLAGS of a header. -/
def Fl.resp : Nat := 32
def Fl.ce : Nat := 16
def Fl.uncertain : Nat := 8
def Fl.fwd : Nat := 4
def Fl.retx : Nat := 2

/-- A header. -/
def ouvHeader (hops op flags len src dst die span status tag seq time addr : Nat) : List Byte :=
  toBe 4 (2 ^ 30 + 2 ^ 25 * (hops % 32) + 2 ^ 17 * (op % 256) + 2 ^ 11 * (flags % 64) + len % 2048) ++
    toBe 4 (2 ^ 18 * (src % 2 ^ 14) + 16 * (dst % 2 ^ 14) + die % 8) ++
    toBe 4 (2 ^ 20 * (span % 4096) + 2 ^ 13 * (status % 128) + tag % 8192) ++ toBe 4 seq ++ toBe 8 time ++ toBe 8 addr

/-- The fields of a frame's header. -/
def hVersion (b : List Byte) : Nat := bitsAt (beAt b 0 4) 30 2
def hHops (b : List Byte) : Nat := bitsAt (beAt b 0 4) 25 5
def hOp (b : List Byte) : Nat := bitsAt (beAt b 0 4) 17 8
def hFlags (b : List Byte) : Nat := bitsAt (beAt b 0 4) 11 6
def hLen (b : List Byte) : Nat := bitsAt (beAt b 0 4) 0 11
def hSrc (b : List Byte) : Nat := bitsAt (beAt b 4 4) 18 14
def hDst (b : List Byte) : Nat := bitsAt (beAt b 4 4) 4 14
def hDie (b : List Byte) : Nat := bitsAt (beAt b 4 4) 0 3
def hSpan (b : List Byte) : Nat := bitsAt (beAt b 8 4) 20 12
def hStatus (b : List Byte) : Nat := bitsAt (beAt b 8 4) 13 7
def hTag (b : List Byte) : Nat := bitsAt (beAt b 8 4) 0 13
def hSeq (b : List Byte) : Nat := beAt b 12 4
def hAddr (b : List Byte) : Nat := beAt b 24 8
def hResp (b : List Byte) : Bool := decide (hFlags b / 32 % 2 = 1)
def hFwd (b : List Byte) : Bool := decide (hFlags b / 4 % 2 = 1)
def hCe (b : List Byte) : Bool := decide (hFlags b / 16 % 2 = 1)

/-- The first word with HOPS and FLAGS replaced. -/
def setHopsFlags (b : List Byte) (hops flags : Nat) : List Byte :=
  overlay b 0 (toBe 4 (putBits (putBits (beAt b 0 4) 25 5 hops) 11 6 flags))

/-- A frame with its trailer, computed with HOPS and CE taken as 0 (R466). -/
def withTrailer (b : List Byte) : List Byte :=
  b ++ toBe 4 (crc32c (setHopsFlags b 0 (hFlags b % 16 + 32 * (hFlags b / 32))))

/-- The trailer of a received frame is right (R466). -/
def trailerOk (f : List Byte) : Bool :=
  let b := f.take (f.length - 4)
  decide (32 ≤ b.length) && (withTrailer b == f)

/-! ## Registers of Ouvuth -/

def State.ouvOn (s : State) : Bool := s.rb 0x70000 32
/-- Boot mode: from SEC until LANTERN, with FABRIC_EN (R502). -/
def State.bootMode (s : State) : Bool := s.rb 0x10038 1 && s.rb 0x10000 1 && !s.rb 0x10000 3
/-- Frames of this chip may be sent (R502, R594). -/
def State.ouvRuns (s : State) : Bool := s.ouvOn || s.bootMode
/-- The chip number that Ouvuth traffic carries (R38). -/
def State.myChip (s : State) : Nat := s.chipInForce
def State.assigned (s : State) : Bool := decide (s.chipInForce ≠ 0x3FFF)
/-- Bit c of OUV_LOST_MAP (R486). -/
def State.isLost (s : State) (c : Nat) : Bool := s.rb (0x74000 + c / 64 * 8) (c % 64)
def State.inc (s : State) : Nat := s.rf 0x70058 31 0
def State.rto (s : State) : Nat := 4000 * s.rf 0x70000 47 40
def State.retries (s : State) : Nat := s.rf 0x70000 52 48

/-- A chip number in an address means this chip (R38, R284). -/
def State.thisChip (s : State) (c : Nat) : Bool := decide (c = 0x3FFF ∨ c = s.chipInForce)

/-- The egress record's register at an offset (Table 16.10). -/
def egReg (e o : Nat) : Nat := 0xA0000 + 0x20 * e + o
/-- A register of egress e's sub-port (R439). -/
def egSub (e o : Nat) : Nat := subOff (e / 8) (e % 8) o

def State.linkUp (s : State) (e : Nat) : Bool := s.rb (egSub e 8) 0
/-- The neighbour state: 0 DOWN, 1 PROBING, 2 KNOWN, 3 QUARANTINED (R483). -/
def State.neigh (s : State) (e : Nat) : Nat := s.rf (egReg e 0x18) 1 0

def subD : Nat → SubPort := fun _ => SubPort.init
def State.sub (s : State) (e : Nat) : SubPort := Sparse.get subD s.net.ports e
def State.setSub (s : State) (e : Nat) (p : SubPort) : State :=
  s.withNet (s.net.withPorts (Sparse.put subD s.net.ports e p))

/-- Port roles (R437). -/
def isFabric (p : Nat) : Bool := decide (p < 32)
def isStorage (p : Nat) : Bool := decide (p = 32 ∨ p = 33)
def isServing (p : Nat) : Bool := decide (p = 34 ∨ p = 35)

/-- The sub-ports that a port's mode uses (Table 15.2). -/
def subCount (mode : Nat) : Nat := if mode = 0 then 1 else if mode = 1 then 2 else 8
def State.portMode (s : State) (p : Nat) : Nat := s.rf (portOff p 0) 1 0
def State.portOn (s : State) (p : Nat) : Bool := s.rb (portOff p 0) 2
def State.subUsed (s : State) (e : Nat) : Bool := decide (e < 288 ∧ e % 8 < subCount (s.portMode (e / 8)))

/-! ## Training (R455) -/

def portStat (p : Nat) : Nat := portOff p 8
def portEq (p : Nat) : Nat := portOff p 0x10

/-- The lanes of a sub-port, as a mask (Table 15.2). -/
def laneMask (mode sub : Nat) : Nat := if mode = 0 then 0xFF else if mode = 1 then 0xF * 2 ^ (4 * sub) else 2 ^ sub

/-- LOS or LOCK of the lanes of sub-port e set to `b`; `lo` is the field's lowest bit. -/
def State.setLanesOf (s : State) (e lo : Nat) (b : Bool) : State :=
  let p := e / 8
  let m := laneMask (s.portMode p) (e % 8)
  let old := s.rf (portStat p) (lo + 7) lo
  s.setRf (portStat p) (lo + 7) lo (if b then old ||| m else old &&& (255 - m))

/-- Every lane of sub-port e is locked (R456). -/
def State.locksAll (s : State) (e : Nat) : Bool :=
  let m := laneMask (s.portMode (e / 8)) (e % 8)
  decide (s.rf (portStat (e / 8)) 15 8 &&& m = m)

/-- Training of the lanes of port p begins for its sub-ports `subs`, whose lanes are locked no more: fast when the set named by PORT_EQ.SET is VALID and FULL was not
written.
DEDUCED (log entry 61). -/
def State.train (s : State) (p : Nat) (subs : List Nat) (full : Bool) : State :=
  let fast := !full && s.rb (portOff p 0x10) (8 + s.rf (portOff p 0x10) 2 0)
  let s := s.setRf (portStat p) 19 17 (if fast then 2 else 1)
  let s := s.setSub (8 * p) ((s.sub (8 * p)).withTrainAt s.now)
  subs.foldl (fun (s : State) k => (s.setLanesOf (8 * p + k) 8 false).count (subOff p k 0x188) 47 0 1) s

/-- The sub-ports in use of port p. -/
def State.subs (s : State) (p : Nat) : List Nat := List.range (subCount (s.portMode p))

/-- MAX_FRAME of an egress suits Ouvuth (R464). -/
def State.roomy (s : State) (e : Nat) : Bool := decide (s.rf (egSub e 0) 13 0 ≥ 4250)

/-- An egress is usable (R464, R478); for frames of discovery and management, `ctl`, also while it is drained (R458). -/
def State.usable (s : State) (e : Nat) (transit ctl : Bool) : Bool :=
  s.linkUp e && decide (s.neigh e = 2) && (ctl || !s.rb (egSub e 0) 17) && s.roomy e && (!transit || isFabric (e / 8))

/-! ## Routes (R479, R481) -/

/-- The egress of a DOR entry: the first dimension to correct, the shorter way, + on a tie; none when the entry has no route. -/
def State.dorEgress (s : State) (c : Nat) : Option Nat :=
  let dx := s.rf 0x70048 7 0
  let dy := s.rf 0x70048 15 8
  let dz := s.rf 0x70048 23 16
  if dx = 0 ∨ dy = 0 ∨ dz = 0 ∨ c ≥ dx * dy * dz then none
  else
    let me := s.myChip
    let dim (d a b plus : Nat) : Option Nat :=
      let fwd := (b + d - a % d) % d
      if fwd = 0 then none
      else some (if fwd ≤ d - fwd then s.rf 0x70050 (plus + 8) plus else s.rf 0x70050 (plus + 17) (plus + 9))
    match dim dx (me % dx) (c % dx) 0, dim dy (me / dx % dy) (c / dx % dy) 18, dim dz (me / (dx * dy)) (c / (dx * dy)) 36 with
    | some e, _, _ => some e
    | none, some e, _ => some e
    | none, none, e => e

/-- The egresses of the forwarding entry of chip c, in entry order; none when the entry has no route. -/
def State.routes (s : State) (c : Nat) : Option (List Nat) :=
  let o := 0x100000 + c * 8
  if s.rb o 39 then (s.dorEgress c).map (fun e => [e])
  else
    let n := s.rf o 38 36
    if n = 0 then none else some ((List.range n).map (fun i => s.rf o (9 * i + 8) (9 * i)))

/-- The frame may pass a quarantined link (R484). -/
def quarantineOk (b : List Byte) (me peer : Nat) : Bool :=
  let op := hOp b
  decide (op = 8 ∨ op = 9 ∨ op = 10) ||
    decide (hSpan b = 0xFFF ∧ (hDst b = me ∨ hDst b = peer ∨ hDst b = 0x3FFF)) ||
    decide (op = 6 ∧ beAt b 32 1 = 2)

/-- A frame of the acknowledgement, discovery and management class (R460).
DEDUCED (log entry 28). -/
def ouvKind (b : List Byte) : OutKind :=
  let op := hOp b
  if op = 7 ∨ op = 8 ∨ op = 9 ∨ op = 10 ∨ hSpan b = 0xFFF then .ouvCtl else .ouvData

/-- The egress of frame `b` of chip `src` for chip c: none when there is no route, `some none` when no egress of it is usable. A frame of discovery or
management may take a drained egress when no other is usable (R458), and what R484 admits the quarantined link to its destination (R478).
DESIGN CHOICE (log entry 11). -/
def State.egressFor (s : State) (c src addr salt : Nat) (transit : Bool) (b : List Byte) : Option (Option Nat) :=
  (s.routes c).map (fun l =>
    let h := (Config.flowHash src c (bitsAt addr 12 38) salt).toNat
    let best := l.filter (fun e => s.usable e transit false)
    let u := if best.isEmpty && ouvKind b == .ouvCtl then l.filter (fun e => s.usable e transit true) else best
    if u.isEmpty then
      l.find? (fun e => s.linkUp e && decide (s.neigh e = 3) && (!transit || isFabric (e / 8)) && decide (s.rf (egReg e 0x18) 21 8 = c) &&
        quarantineOk b s.myChip c)
    else u[h % u.length]?)

/-- The class that PORT_TC gives a kind (R447, R460). -/
def State.classOf (s : State) (e : Nat) (k : OutKind) : Nat :=
  let o := portOff (e / 8) 0x20
  match k with
  | .ptp => s.rf o 2 0
  | .ouvCtl => s.rf o 6 4
  | .ouvData => s.rf o 10 8
  | .serve => s.rf o 14 12
  | .nd => s.rf o 18 16
  | .pfc => 7

/-- A frame queued at an egress, if its sub-port's link is up. -/
def State.queueOut (s : State) (e : Nat) (f : OutFrame) : State :=
  if s.linkUp e then let p := s.sub e; s.setSub e (p.withEgress (p.egress ++ [f])) else s

/-- The multicast group of frames with DST_CHIP 0x3FFF (R463). -/
def ouvGroup : Nat := 0x035EB5000001

/-- An Ouvuth frame queued at egress e in the carriage of the egress (R463); its trailer is added when it is sent. -/
def State.queueOuv (s : State) (e : Nat) (b : List Byte) (salt : Nat) (tc : Option Nat) (born : Option Nat) : State :=
  let k := ouvKind b
  let udp := s.rb (egReg e 0) 48
  s.queueOut e
    { kind := k
      tc := tc.getD (s.classOf e k)
      mac := if hDst b = 0x3FFF then ouvGroup else s.rf (egReg e 0) 47 0
      vlan := .own
      udp := if udp then some (toBe 8 (s.reg (egReg e 8)).toNat ++ toBe 8 (s.reg (egReg e 0x10)).toNat, s.rf 0x70000 31 16)
             else none
      flow := (Config.flowHash (hSrc b) (hDst b) (bitsAt (hAddr b) 12 38) salt).toNat % 2 ^ 20
      body := b
      born := born }

/-! ## Streams (R472, R475, R477) -/

def txD : Nat → TxStream := fun _ => TxStream.init
def rxD : Nat → RxStream := fun _ => RxStream.init
/-- The stream to chip k, or for k ≥ 0x4000 the stream of egress k − 0x4000 for frames with DST_CHIP 0x3FFF. -/
def State.txs (s : State) (k : Nat) : TxStream := Sparse.get txD s.net.tx k
def State.setTx (s : State) (k : Nat) (x : TxStream) : State :=
  s.withNet (s.net.withTx (Sparse.put txD s.net.tx k x))
/-- DEDUCED (log entry 45). -/
def State.rxs (s : State) (k : Nat) : RxStream := Sparse.get rxD s.net.rx k
def State.setRx (s : State) (k : Nat) (x : RxStream) : State :=
  s.withNet (s.net.withRx (Sparse.put rxD s.net.rx k x))

/-- The next sequence number: 2^32 − 1 wraps to 1 (R472). -/
def seqNext (n : Nat) : Nat := if n ≥ 2 ^ 32 - 1 then 1 else n + 1

/-- Where a stream's frames leave now, if anywhere. -/
def State.streamEgress (s : State) (k addr salt : Nat) (b : List Byte) : Option Nat :=
  if k ≥ 0x4000 then
    let e := k - 0x4000
    if s.linkUp e ∧ (s.neigh e ≠ 3 ∨ quarantineOk b s.myChip (s.rf (egReg e 0x18) 21 8)) ∧
        (ouvKind b = .ouvCtl ∨ (s.roomy e ∧ !s.rb (egSub e 0) 17)) then some e else none
  else (s.egressFor k s.myChip addr salt false b).getD none

/-- An unsequenced frame to chip k or on the stream of an egress. -/
def State.sendLoose (s : State) (k : Nat) (b : List Byte) : State :=
  if !s.ouvRuns then s
  else match s.streamEgress k (hAddr b) (s.txs k).salt b with
    | some e => s.queueOuv e b (s.txs k).salt none none
    | none => s

/-- The destination that a stream's headers name. -/
def streamDst (k : Nat) : Nat := if k ≥ 0x4000 then 0x3FFF else k

/-- A header of this chip toward stream k.
DEDUCED (log entry 28). -/
def State.header (s : State) (k op flags len die span status tag seq addr : Nat) : List Byte :=
  ouvHeader 31 op (flags + if s.uncertain then Fl.uncertain else 0) len s.myChip (streamDst k) die span status tag seq s.now addr

/-- SYNC with this chip's INC and the sequence number of the first frame of the stream that is not acknowledged (R477).
DEDUCED (log entry 45). -/
def State.sendSync (s : State) (k : Nat) (resp : Bool) : State :=
  let x := s.txs k
  let first := match x.una ++ x.wait with
    | f :: _ => f.seq
    | [] => x.nextSeq
  let b := s.header k 0x0A (if resp then Fl.resp else 0) 2 0 0xFFF 0 0 0 0 ++ toBe 4 s.inc ++ toBe 4 first
  s.sendLoose k b

/-- Frames that wait on stream k begin transmission while the stream is synced, the window allows and an egress is usable (R475). -/
def State.pump (s : State) (k : Nat) : Nat → State
  | 0 => s
  | n + 1 =>
    let x := s.txs k
    match x.wait with
    | [] => s
    | f :: rest =>
      if !x.synced || s.net.quiet || !s.ouvRuns || decide (x.una.length ≥ min 4096 x.cwnd) then s
      else match s.streamEgress k (hAddr f.bytes) (x.salt + f.salt) f.bytes with
        | none => s
        | some e =>
          let f := f |>.withSends 1 |>.withLast s.now |>.withOrder x.order
          let s := s.setTx k (x |>.withWait rest |>.withUna (x.una ++ [f]) |>.withOrder (x.order + 1))
          State.pump (s.queueOuv e f.bytes (x.salt + f.salt) none none) k n

def State.pumpAll (s : State) (k : Nat) : State := s.pump k (s.txs k).wait.length

/-- A sequenced frame joins stream k; a stream that is not synced begins with SYNC (R477). `acks` names the operation that its
acknowledgement completes, `tree` the multicast tree it belongs to. -/
def State.enqueue (s : State) (k : Nat) (b : List Byte) (acks tree : Option Nat) : State :=
  let x := s.txs k
  let b := overlay b 12 (toBe 4 x.nextSeq)
  let f : TxFrame := ⟨x.nextSeq, b, 0, 0, 0, 0, acks, tree⟩
  let s := s.setTx k (x |>.withNextSeq (seqNext x.nextSeq) |>.withWait (x.wait ++ [f]))
  if !x.synced && decide (x.syncSends = 0) && !s.net.quiet && s.ouvRuns then
    let s := s.sendSync k false
    s.setTx k ((s.txs k) |>.withSyncSends 1 |>.withSyncAt s.now)
  else s.pumpAll k

/-! ## Tags (R308) -/

/-- Tags of optical die d in use: those of operations and those held for responses owed (R474). -/
def State.tagsHeld (s : State) (d : Nat) : List Nat :=
  ((s.net.ops.filter (fun o => o.die == d && o.done.isNone && decide (o.chip ≠ 0x3FFF))).map (·.tag)) ++
    ((s.net.owed.filter (fun o => decide (o.1 / 8192 = d))).map (fun o => o.1 % 8192))

/-- The lowest number from `t` up that is not in `used`, in at most `n` trials. -/
def lowestGap (used : List Nat) : Nat → Nat → Nat
  | 0, t => t
  | n + 1, t => if used.contains t then lowestGap used n (t + 1) else t

/-- The lowest free tag of die d, of 8192. -/
def State.freeTagOf (s : State) (d : Nat) : Option Nat :=
  let used := s.tagsHeld d
  let t := lowestGap used used.length 0
  if t < 8192 then some t else none

/-- A tag from the die of the egress, or from the die with the most free tags when that die has none. -/
def State.freeTag (s : State) (egress : Nat) : Option (Nat × Nat) :=
  let d := egress / 8 / 6
  match s.freeTagOf d with
  | some t => some (d, t)
  | none =>
    let best := (List.range 6).foldl (fun b i => if (s.tagsHeld i).length < (s.tagsHeld b).length then i else b) 0
    (s.freeTagOf best).map (fun t => (best, t))

/-! ## Operations -/

/-- The status with which an operation to chip c under a span ID ends at once: Ouvuth is off, this chip is unassigned and the operation is not
management, c is lost, or it has no route (R38, R479, R486, R594). -/
def State.netBlock (s : State) (c span : Nat) : Option Nat :=
  if !s.ouvOn then some St.ouvNoRoute
  else if !s.assigned && decide (span ≠ 0xFFF) then some St.ouvUnassigned
  else if s.isLost c then some St.homeLost
  else if (s.routes c).isNone then some St.ouvNoRoute
  else none

/-- What became of an operation: answered at once, on its way with its number, or not possible now for want of a tag. -/
inductive Sent where
  | now (a : Ans)
  | out (id : Nat)
  | full

/-- Payload of a request frame. -/
def opPayload (op : Nat) (data : List Byte) : List Byte := if op = 1 then [] else data

/-- An operation of this chip on chip c with the span ID it carries (R308, R468).
DEDUCED (log entry 27). -/
def State.sendOp (s : State) (c op addr len : Nat) (data : List Byte) (span flags : Nat) (client : Client) : Sent × State :=
  match s.netBlock c span with
  | some st => (.now ⟨st, [], 0, false⟩, s)
  | none =>
    let e := ((s.egressFor c s.myChip addr (s.txs c).salt false (s.header c op flags 0 0 span 0 0 0 addr)).getD none).getD (((s.routes c).getD []).headD 0)
    match s.freeTag e with
    | none => (.full, s)
    | some (die, tag) =>
      let id := s.net.nextOp
      let pl := opPayload op data
      let b := s.header c op flags (if op = 1 then len / 4 else pl.length / 4) die span 0 tag 0 addr ++ pl
      let o : NetOp := ⟨id, c, die, tag, op, addr, len, data, span, client, s.now, 0, none⟩
      let s := s.withNet (s.net |>.withOps (s.net.ops ++ [o]) |>.withNextOp (id + 1))
      (.out id, s.enqueue c b (if op = 7 then some id else none) none)

/-- The operation with a number. -/
def State.netOp (s : State) (id : Nat) : Option NetOp := s.net.ops.find? (fun o => o.id == id)

/-- The operations without one of them. -/
def State.dropOp (s : State) (id : Nat) : State :=
  s.withNet (s.net.withOps (s.net.ops.filter (fun o => o.id != id)))

/-- An operation has its answer. -/
def State.setDone (s : State) (id : Nat) (a : Ans) : State :=
  s.withNet (s.net.withOps (s.net.ops.map (fun o => if o.id = id then o.withDone (some a) else o)))

/-- An operation that this chip performs on itself in the course of a move, answered at once. -/
def State.localOp (s : State) (addr : Nat) (client : Client) (a : Ans) : State :=
  let id := s.net.nextOp
  (s.withNet (s.net |>.withOps (s.net.ops ++ [⟨id, 0x3FFF, 0, 0, 0, addr, 0, [], 0, client, s.now, 0, some a⟩]) |>.withNextOp (id + 1)))

/-! ## Events (R488) -/

/-- An OUVUTH event posted to ring OUV_CFG.EVQ. -/
def State.postOuv (s : State) (event reason egress chip : Nat) (serial : List Byte) : State :=
  s.postEvent (s.rf 0x70000 38 34) 0x09 16 0xFF 0
    (toLe 8 s.now ++ toLe 1 event ++ toLe 1 reason ++ toLe 2 egress ++ toLe 2 chip ++ [0, 0] ++ slice serial 0 16)

end Sys2Proof.Machine
end

