-- ==== Sys2Proof/Machine/Num.lean ====
section
/-! DEFINITION. Number formats, the W form, exact values and rounding ("Number Formats, Scales and the Common Internal
Form", R40-R66) and the row functions of the RFU (R94-R97). Finite values are exact dyadic numbers: sign, natural mantissa,
integer exponent. Every rounding goes through `roundTo`. -/
namespace Sys2Proof.Machine

/-- A value of a floating format: finite (−1)^neg × man × 2^exp, an infinity, or a NaN (signalling or quiet). -/
inductive FVal where
  | fin (neg : Bool) (man : Nat) (exp : Int)
  | inf (neg : Bool)
  | nan (sig : Bool)
  deriving DecidableEq, Repr

/-- Rounding: the five IEEE attributes of TILE_FPCTL.RM (R68) and stochastic rounding with its random value (R65). -/
inductive Rm where
  | nearEven | nearAway | up | down | toZero
  | stoch (r : Nat)
  deriving DecidableEq, Repr

/-- Flag bits in TILE_FPSTAT's order (R71). -/
def flIV : Nat := 1
def flDZ : Nat := 2
def flOF : Nat := 4
def flUF : Nat := 8
def flNX : Nat := 16
def flSAT : Nat := 32

/-- The rounding attribute that TILE_FPCTL.RM names (R68). Reserved codes never stand in the register (R69). -/
def rmOf (code : Nat) : Rm :=
  match code with
  | 1 => .nearAway
  | 2 => .up
  | 3 => .down
  | 4 => .toZero
  | _ => .nearEven

/-! ## Formats (Table 2.1) -/

/-- The code names a floating format. -/
def isFloatFmt (f : Nat) : Bool := decide (f ≤ 6)

/-- Element width in bits (R40); reserved codes have none. -/
def fmtWidth (f : Nat) : Nat :=
  match f with
  | 0 => 32 | 1 => 16 | 2 => 16 | 3 => 8 | 4 => 8 | 5 => 6 | 6 => 4 | 7 => 8 | 8 => 4 | 9 => 32 | _ => 0

/-- Fraction width p (R40). -/
def fmtFrac (f : Nat) : Nat :=
  match f with
  | 0 => 23 | 1 => 10 | 2 => 7 | 3 => 3 | 4 => 2 | 5 => 2 | 6 => 1 | _ => 0

/-- Exponent width (R40). -/
def fmtExp (f : Nat) : Nat :=
  match f with
  | 0 => 8 | 1 => 5 | 2 => 8 | 3 => 4 | 4 => 5 | 5 => 3 | 6 => 2 | _ => 0

/-- Bias (R40). -/
def fmtBias (f : Nat) : Nat :=
  match f with
  | 0 => 127 | 1 => 15 | 2 => 127 | 3 => 8 | 4 => 15 | 5 => 3 | 6 => 1 | _ => 0

/-- The format has infinities and IEEE NaN codes (R40). -/
def fmtHasInf (f : Nat) : Bool := decide (f = 0 ∨ f = 1 ∨ f = 2 ∨ f = 4)

/-- The magnitude code of the largest finite value (R48-R51). -/
def fmtMaxCode (f : Nat) : Nat :=
  if fmtHasInf f then (2 ^ fmtExp f - 1) * 2 ^ fmtFrac f - 1 else 2 ^ (fmtWidth f - 1) - 1

/-- Bytes of `n` packed elements of a format (R43). -/
def fmtBytes (f n : Nat) : Nat := ceilDiv (fmtWidth f * n) 8

/-- The value of a floating code (R42, R46, R48). -/
def decodeFloat (f code : Nat) : FVal :=
  let p := fmtFrac f
  let s := decide (code / 2 ^ (fmtWidth f - 1) % 2 = 1)
  let e := code / 2 ^ p % 2 ^ fmtExp f
  let fr := code % 2 ^ p
  if f = 3 ∧ code = 0x80 then .nan false
  else if fmtHasInf f ∧ e = 2 ^ fmtExp f - 1 then
    if fr = 0 then .inf s else .nan (decide (fr / 2 ^ (p - 1) = 0))
  else if e = 0 then .fin s fr (1 - (fmtBias f : Int) - p)
  else .fin s (2 ^ p + fr) ((e : Int) - fmtBias f - p)

/-- The value of an integer code (R52). -/
def decodeInt (f code : Nat) : Int := sext (fmtWidth f) code

/-- The value of any element code. -/
def decodeElem (f code : Nat) : FVal :=
  if isFloatFmt f then decodeFloat f code
  else let v := decodeInt f code; .fin (decide (v < 0)) v.natAbs 0

/-- The canonical quiet NaN of a format (R46); formats without NaN have their Table 2.9 result. -/
def canonNan (f : Nat) : Nat :=
  match f with
  | 0 => 0x7FC00000 | 1 => 0x7E00 | 2 => 0x7FC0 | 3 => 0x80 | 4 => 0x7E | _ => 0

/-! ## The W form (R53, R54) -/

/-- Sign, 10-bit exponent, 12-bit significand. EXP 0x3FF is an infinity (SIG 0) or a NaN. -/
structure W where
  s : Bool
  exp : Nat
  sig : Nat
  deriving DecidableEq, Repr

/-- The value of a W operand (R53). -/
def W.val (w : W) : FVal :=
  if w.exp = 0x3FF then (if w.sig = 0 then .inf w.s else .nan false)
  else .fin w.s w.sig ((w.exp : Int) - 512)

/-- Decoding to W (Table 2.6): one pass, or for binary32 the high and the low half. -/
def toW (f code : Nat) : List W :=
  match decodeElem f code with
  | .inf n => [⟨n, 0x3FF, 0⟩]
  | .nan _ => [⟨decide (code / 2 ^ (fmtWidth f - 1) % 2 = 1), 0x3FF, 1⟩]
  | .fin n man exp =>
    if f = 0 then
      [⟨n, (512 + exp + 12).toNat, man / 4096⟩, ⟨n, (512 + exp).toNat, man % 4096⟩]
    else [⟨n, (512 + exp).toNat, man⟩]

/-! ## Rounding -/

/-- Whether a magnitude lo + rem/2^n is rounded to the larger neighbour (R44, R65). -/
def roundsUp (rm : Rm) (neg : Bool) (lo rem n : Nat) : Bool :=
  match rm with
  | .nearEven => decide (2 * rem > 2 ^ n) || (decide (2 * rem = 2 ^ n) && decide (lo % 2 = 1))
  | .nearAway => decide (2 * rem ≥ 2 ^ n)
  | .up => !neg && decide (rem > 0)
  | .down => neg && decide (rem > 0)
  | .toZero => false
  | .stoch r => decide (2 ^ 16 * rem / 2 ^ n > r)

/-- man × 2^exp as a multiple of 2^q, rounded; and whether it was exact. -/
def roundAt (rm : Rm) (neg : Bool) (man : Nat) (exp q : Int) : Nat × Bool :=
  if q ≤ exp then (man * 2 ^ (exp - q).toNat, true)
  else
    let n := (q - exp).toNat
    let lo := man / 2 ^ n
    let rem := man % 2 ^ n
    (if roundsUp rm neg lo rem n then lo + 1 else lo, decide (rem = 0))

/-- The overflow result's magnitude code (Table 2.9): the largest finite value in the formats without infinities; in the
others an infinity, or the largest finite value when the rounding direction leads away from it. -/
def overflowCode (f : Nat) (rm : Rm) (neg : Bool) : Nat :=
  if fmtHasInf f then
    let keep := match rm with
      | .toZero => true
      | .up => neg
      | .down => !neg
      | _ => false
    if keep then fmtMaxCode f else fmtMaxCode f + 1
  else fmtMaxCode f

/-- A non-zero finite value rounded to a floating format: its code and flags (R45, R57, R64). -/
def roundFin (f : Nat) (rm : Rm) (neg : Bool) (man : Nat) (exp : Int) : Nat × Nat :=
  let p := fmtFrac f
  let emin : Int := 1 - fmtBias f
  let e : Int := exp + Nat.log2 man
  let q : Int := max (e - p) (emin - p)
  let (m, exact) := roundAt rm neg man exp q
  let mag := (q + p + fmtBias f).toNat * 2 ^ p + m - 2 ^ p
  let sgn := if neg then 2 ^ (fmtWidth f - 1) else 0
  if mag > fmtMaxCode f then (sgn + overflowCode f rm neg, flOF + flNX)
  else
    let unb := (roundAt rm neg man exp (e - p)).1
    let tiny := decide (e < emin) && !(decide (e + 1 = emin) && decide (unb = 2 ^ (p + 1)))
    let code := if f = 3 ∧ mag = 0 then 0 else sgn + mag
    (code, if exact then 0 else if tiny then flUF + flNX else flNX)

/-- Conversion of a value to a floating format (R64): its code and flags. -/
def toFloat (f : Nat) (rm : Rm) (v : FVal) : Nat × Nat :=
  let sgn (n : Bool) := if n then 2 ^ (fmtWidth f - 1) else 0
  match v with
  | .nan sig =>
    if f = 5 ∨ f = 6 then (0, flIV) else (canonNan f, if sig then flIV else 0)
  | .inf n =>
    if fmtHasInf f then (sgn n + fmtMaxCode f + 1, 0) else (sgn n + fmtMaxCode f, flOF)
  | .fin n man exp =>
    if man = 0 then (if f = 3 then 0 else sgn n, 0) else roundFin f rm n man exp

/-- Conversion of a value to an integer format: rounded, then range checked (R64). -/
def toInteger (f : Nat) (rm : Rm) (v : FVal) : Nat × Nat :=
  let w := fmtWidth f
  let hi : Int := (2 ^ (w - 1) : Nat) - 1
  let lo : Int := -((2 ^ (w - 1) : Nat) : Int)
  match v with
  | .nan _ => (0, flIV)
  | .inf n => (wrapInt w (if n then lo else hi), flIV)
  | .fin n man exp =>
    let (m, exact) := roundAt rm n man exp 0
    let i : Int := if n then -(m : Int) else m
    if i > hi then (wrapInt w hi, flIV)
    else if i < lo then (wrapInt w lo, flIV)
    else (wrapInt w i, if exact then 0 else flNX)

/-- Conversion to any destination format. -/
def toFmt (f : Nat) (rm : Rm) (v : FVal) : Nat × Nat :=
  if isFloatFmt f then toFloat f rm v else toInteger f rm v

/-! ## binary32 arithmetic (R44-R47) -/

/-- The signed mantissa of a finite value. -/
def sman (neg : Bool) (man : Nat) : Int := if neg then -(man : Int) else man

/-- A binary32 code rounded from an exact signed value; `z` is the sign of an exact zero (R47). -/
def ofExact (rm : Rm) (z : Bool) (m : Int) (e : Int) : Nat × Nat :=
  if m = 0 then (if z then 2 ^ 31 else 0, 0) else roundFin 0 rm (decide (m < 0)) m.natAbs e

/-- Exact sum of two signed dyadic values. -/
def addExact (m1 : Int) (e1 : Int) (m2 : Int) (e2 : Int) : Int × Int :=
  let e := min e1 e2
  (m1 * (2 ^ (e1 - e).toNat : Nat) + m2 * (2 ^ (e2 - e).toNat : Nat), e)

def sigOf : FVal → Bool
  | .nan s => s
  | _ => false

def isNan : FVal → Bool
  | .nan _ => true
  | _ => false

/-- Sum of two values, rounded once to binary32. -/
def addV (rm : Rm) (a b : FVal) : Nat × Nat :=
  match a, b with
  | .nan s, y => (canonNan 0, if s || sigOf y then flIV else 0)
  | x, .nan s => (canonNan 0, if s || sigOf x then flIV else 0)
  | .inf n, .inf k => if n = k then (if n then 0xFF800000 else 0x7F800000, 0) else (canonNan 0, flIV)
  | .inf n, _ => (if n then 0xFF800000 else 0x7F800000, 0)
  | _, .inf n => (if n then 0xFF800000 else 0x7F800000, 0)
  | .fin n1 m1 e1, .fin n2 m2 e2 =>
    let z := if m1 = 0 ∧ m2 = 0 ∧ n1 = n2 then n1 else decide (rm = .down)
    let r := addExact (sman n1 m1) e1 (sman n2 m2) e2
    ofExact rm z r.1 r.2

/-- Product of two values, kept exact; the flags of an invalid product (R55). -/
def mulExact (a b : FVal) : FVal × Nat :=
  match a, b with
  | .nan s, y => (.nan false, if s || sigOf y then flIV else 0)
  | x, .nan s => (.nan false, if s || sigOf x then flIV else 0)
  | .inf n, .inf k => (.inf (n != k), 0)
  | .inf n, .fin k m _ => if m = 0 then (.nan false, flIV) else (.inf (n != k), 0)
  | .fin k m _, .inf n => if m = 0 then (.nan false, flIV) else (.inf (n != k), 0)
  | .fin n1 m1 e1, .fin n2 m2 e2 => (.fin (n1 != n2) (m1 * m2) (e1 + e2), 0)

/-- A value rounded to binary32. -/
def roundV (rm : Rm) (v : FVal) : Nat × Nat := toFloat 0 rm v

def f32 (c : Nat) : FVal := decodeFloat 0 c

def fAdd (rm : Rm) (a b : Nat) : Nat × Nat := addV rm (f32 a) (f32 b)

def fNeg (a : Nat) : Nat := if a / 2 ^ 31 % 2 = 1 then a - 2 ^ 31 else a + 2 ^ 31

def fSub (rm : Rm) (a b : Nat) : Nat × Nat := addV rm (f32 a) (f32 (fNeg b))

def fMul (rm : Rm) (a b : Nat) : Nat × Nat :=
  let r := mulExact (f32 a) (f32 b)
  let q := roundV rm r.1
  (q.1, r.2 ||| q.2)

/-- Fused multiply-add with a single rounding. -/
def fFma (rm : Rm) (a b c : Nat) : Nat × Nat :=
  let r := mulExact (f32 a) (f32 b)
  let q := addV rm r.1 (f32 c)
  (q.1, r.2 ||| q.2)

/-- recip, correctly rounded; 1/±0 = ±∞ with DZ (Table 3.9). The quotient is taken to 40 bits beyond the divisor with a
sticky bit, which rounds as the exact quotient does. -/
def fRecip (rm : Rm) (a : Nat) : Nat × Nat :=
  match f32 a with
  | .nan s => (canonNan 0, if s then flIV else 0)
  | .inf n => (if n then 2 ^ 31 else 0, 0)
  | .fin n man exp =>
    if man = 0 then (if n then 0xFF800000 else 0x7F800000, flDZ)
    else
      let l := Nat.log2 man + 40
      let q := 2 ^ l / man
      let st := if 2 ^ l % man = 0 then 0 else 1
      roundFin 0 rm n (2 * q + st) (-exp - (l : Int) - 1)

/-- Division, correctly rounded, as `fRecip` (R247). -/
def fDiv (rm : Rm) (a b : Nat) : Nat × Nat :=
  match f32 a, f32 b with
  | .nan s, y => (canonNan 0, if s || sigOf y then flIV else 0)
  | x, .nan s => (canonNan 0, if s || sigOf x then flIV else 0)
  | .inf _, .inf _ => (canonNan 0, flIV)
  | .inf n, .fin k _ _ => (if n = k then 0x7F800000 else 0xFF800000, 0)
  | .fin n _ _, .inf k => (if n = k then 0 else 2 ^ 31, 0)
  | .fin n m1 e1, .fin k m2 e2 =>
    if m2 = 0 then (if m1 = 0 then (canonNan 0, flIV) else (if n = k then 0x7F800000 else 0xFF800000, flDZ))
    else if m1 = 0 then (if n = k then 0 else 2 ^ 31, 0)
    else
      let l := Nat.log2 m2 + 40
      let q := m1 * 2 ^ l / m2
      let st := if m1 * 2 ^ l % m2 = 0 then 0 else 1
      roundFin 0 rm (n != k) (2 * q + st) (e1 - e2 - (l : Int) - 1)

/-- Order of two values that are not NaN: the sign of a − b. -/
def cmpV (a b : FVal) : Int :=
  match a, b with
  | .fin n1 m1 e1, .fin n2 m2 e2 => (addExact (sman n1 m1) e1 (sman (!n2) m2) e2).1.sign
  | .inf n, .inf k => if n = k then 0 else if n then -1 else 1
  | .inf n, _ => if n then -1 else 1
  | _, .inf n => if n then 1 else -1
  | _, _ => 0

/-- min and max (Table 3.9): NaN in a lane gives the canonical NaN; min of ±0 is −0 and max is +0. -/
def fMinMax (big : Bool) (a b : Nat) : Nat × Nat :=
  let x := f32 a
  let y := f32 b
  if isNan x || isNan y then (canonNan 0, if sigOf x || sigOf y then flIV else 0)
  else
    let c := cmpV x y
    if c = 0 then
      (if big then (if a / 2 ^ 31 = 1 then b else a) else (if a / 2 ^ 31 = 1 then a else b), 0)
    else (if (decide (c > 0)) = big then a else b, 0)

/-- The RFU comparisons (R146): 1.0 where the condition holds. -/
def fCmp (cond a b : Nat) : Nat × Nat :=
  let x := f32 a
  let y := f32 b
  if isNan x || isNan y then
    (if cond = 1 then 0x3F800000 else 0, if cond ≥ 2 || sigOf x || sigOf y then flIV else 0)
  else
    let c := cmpV x y
    let h := match cond with
      | 0 => decide (c = 0)
      | 1 => decide (c ≠ 0)
      | 2 => decide (c < 0)
      | 3 => decide (c ≤ 0)
      | 4 => decide (c > 0)
      | _ => decide (c ≥ 0)
    (if h then 0x3F800000 else 0, 0)

/-! ## The functions that are not correctly rounded (R94, Table 3.9)

An opaque value is brought within the error that Table 3.9 bounds. The exact result is enclosed between two numbers with 200 bits behind the
point; the bound in units in the last place is counted on the codes of binary32. -/

/-- 1 with 200 fraction bits. -/
def fxOne : Int := 2 ^ 200
/-- ln 2 and 1/√(2π), truncated to 200 fraction bits. -/
def fxLn2 : Int := 1113844574712631719546256151097547306333272293549090750737802
def fxGauss : Int := 641075527840499933413004623679830672196624219171451520342208

/-- Two numbers lo·2^exp ≤ hi·2^exp that enclose an exact result. -/
structure Enclosure where
  lo : Int
  hi : Int
  exp : Int

/-- A value with 200 fraction bits. -/
def fxOf (neg : Bool) (man : Nat) (exp : Int) : Int := sman neg (if exp + 200 ≥ 0 then man * 2 ^ (exp + 200).toNat else man / 2 ^ (-(exp + 200)).toNat)

/-- Σ r^i/i!, terms rounded down. -/
def expSum (r : Int) : Nat → Nat → Int → Int → Int
  | 0, _, _, acc => acc
  | n + 1, i, t, acc => expSum r n (i + 1) (t * r / (fxOne * ((i : Int) + 1))) (acc + t)

/-- e^x. -/
def encExp (x : Int) : Enclosure :=
  if x > 90 * fxOne then ⟨1, 1, 129⟩
  else if x < -120 * fxOne then ⟨0, 1, -170⟩
  else
    let k := x / fxLn2
    let t := expSum (x - k * fxLn2) 50 0 fxOne 0
    ⟨t - 2000, t + 2000, k - 200⟩

/-- e^(−|x|) with 200 fraction bits, below and above. -/
def fxDecay (x : Int) : Int × Int :=
  let e := encExp (-(x.natAbs : Int))
  let n := (-(e.exp + 200)).toNat
  let m := (e.exp + 200).toNat
  (e.lo * 2 ^ m / 2 ^ n, e.hi * 2 ^ m / 2 ^ n + 1)

/-- Σ z^(2i+1)/(2i+1) for z with 200 fraction bits. -/
def atanhSum (z : Int) : Nat → Nat → Int → Int → Int
  | 0, _, _, acc => acc
  | n + 1, i, t, acc => atanhSum z n (i + 1) (t * z / fxOne * z / fxOne) (acc + t / (2 * (i : Int) + 1))

/-- The natural logarithm of man × 2^exp. -/
def encLog (man : Nat) (exp : Int) : Enclosure :=
  let l := Nat.log2 man
  let z := ((man : Int) - 2 ^ l) * fxOne / ((man : Int) + 2 ^ l)
  let v := (exp + l) * fxLn2 + 2 * atanhSum z 70 0 z 0
  ⟨v - 1000, v + 1000, -200⟩

/-- tanh x. -/
def encTanh (x : Int) : Enclosure :=
  let q := fxDecay (2 * x)
  let lo := (fxOne - q.2) * fxOne / (fxOne + q.2)
  let hi := (fxOne - q.1) * fxOne / (fxOne + q.1) + 1
  if x < 0 then ⟨-hi, -lo, -200⟩ else ⟨lo, hi, -200⟩

/-- x / (1 + e^(−x)). -/
def encSilu (x : Int) : Enclosure :=
  let q := fxDecay x
  if x ≥ 0 then ⟨x * fxOne / (fxOne + q.2), x * fxOne / (fxOne + q.1) + 1, -200⟩
  else ⟨-(-x * q.2 / (fxOne + q.2) + 1), -(-x * q.1 / (fxOne + q.1)), -200⟩

/-- Σ (−1)^i x^(2i+1) / (2^i i! (2i+1)). -/
def gaussSum (x : Int) : Nat → Nat → Int → Int → Int
  | 0, _, _, acc => acc
  | n + 1, i, t, acc => gaussSum x n (i + 1) (-(t * x / fxOne * x / (fxOne * (2 * ((i : Int) + 1))))) (acc + t / (2 * (i : Int) + 1))

/-- x Φ(x), Φ the normal distribution. Below −9 it lies between −2^−59 and 0. -/
def encGelu (x : Int) : Enclosure :=
  if x ≥ 9 * fxOne then ⟨x - x / 2 ^ 60 - 1, x, -200⟩
  else if x ≤ -9 * fxOne then ⟨-2 ^ 141, 0, -200⟩
  else
    let phi := fxOne / 2 + fxGauss * gaussSum x 200 0 x 0 / fxOne
    let a := x * (phi - 2 ^ 90) / fxOne
    let b := x * (phi + 2 ^ 90) / fxOne
    ⟨min a b - 1, max a b + 1, -200⟩

/-- The integer square root, bit by bit. -/
def isqrtBits (n : Nat) : Nat → Nat → Nat
  | 0, r => r
  | b + 1, r => isqrtBits n b (if (r + 2 ^ b) ^ 2 ≤ n then r + 2 ^ b else r)

/-- 1/√(man × 2^exp). -/
def encRsqrt (man : Nat) (exp : Int) : Enclosure :=
  let m := if exp % 2 = 0 then man else 2 * man
  let e := if exp % 2 = 0 then exp else exp - 1
  let s : Int := isqrtBits (2 ^ 400 / m) 201 0
  ⟨s, if s * s * m = 2 ^ 400 then s else s + 1, -200 - e / 2⟩

/-- Codes of binary32 as integers in the order of their values. -/
def codeOrd (c : Nat) : Int := if c < 2 ^ 31 then c else -((c - 2 ^ 31 : Nat) : Int)

/-- The order of a value m × 2^exp rounded up or down to binary32. -/
def ordOf (rm : Rm) (m exp : Int) : Int := codeOrd (toFloat 0 rm (.fin (decide (m < 0)) m.natAbs exp)).1

/-- The code nearest to `c` within `n` units in the last place, or within 2^−a, of an enclosed result (R94). A result beyond the largest finite
number is an infinity.
DESIGN CHOICE (log entry 10). -/
def withinBound (n : Nat) (a : Option Nat) (e : Enclosure) (c : Nat) : Nat :=
  let top : Int := 0x7F800000
  let lo := ordOf .up e.lo e.exp
  if lo ≥ top then 0x7F800000
  else
    let hi := ordOf .down e.hi e.exp
    let w := match a with
      | some k => (min (lo - n) (ordOf .up (e.lo - 2 ^ (200 - k)) (-200)), max (hi + n) (ordOf .down (e.hi + 2 ^ (200 - k)) (-200)))
      | none => (lo - n, hi + n)
    let o := max (max w.1 (-top)) (min (min w.2 top) (codeOrd c))
    if o = 0 then (if c < 2 ^ 31 then 0 else 2 ^ 31) else if o > 0 then o.toNat else 2 ^ 31 + (-o).toNat

/-- A result of RSQRT, EXP, LOG, TANH, SILU or GELU on a finite operand: the opaque value brought within the bound of Table 3.9 (log entry 10). -/
def rfuBounded (fn a : Nat) (neg : Bool) (man : Nat) (exp : Int) : Nat :=
  let c := (Config.rfuValue fn (BitVec.ofNat 32 a)).toNat
  let x := fxOf neg man exp
  match fn with
  | 0x09 => withinBound 1 none (encRsqrt man exp) c
  | 0x0A => withinBound 2 none (encExp x) c
  | 0x0B => withinBound 2 (some 22) (encLog man exp) c
  | 0x0C => withinBound 4 (some 24) (encTanh x) c
  | 0x0D => withinBound 4 (some 24) (encSilu x) c
  | _ => withinBound 4 (some 24) (encGelu x) c

/-- UF of such a function (R45): a non-zero result below 2^−126 is tiny and, since it is not exact, sets the flag. A result that was rounded to
zero or up to 2^−126 may have been tiny, which is left free; e^x rounds to zero only from a tiny value. An operand whose exact result is 0
sets nothing.
DESIGN CHOICE (log entry 10). -/
def rfuUnderflow (fn a v : Nat) : Bool :=
  let m := v % 2 ^ 31
  let free := Config.rfuTiny fn (BitVec.ofNat 32 a)
  if m = 0 then (decide (fn = 0x0A) || free) && decide (a % 2 ^ 31 ≠ 0) && !(decide (fn = 0x0B) && decide (a = 0x3F800000))
  else if m = 0x00800000 then free else decide (m < 0x00800000)

/-- The functions that are not correctly rounded (Table 3.9): their special results, and elsewhere a free value within their bounds.
DESIGN CHOICE (log entry 10). -/
def rfuOpen (fn a : Nat) : Nat × Nat :=
  match f32 a with
  | .nan s => (canonNan 0, if s then flIV else 0)
  | .inf n =>
    match fn with
    | 0x09 => if n then (canonNan 0, flIV) else (0, 0)
    | 0x0A => (if n then 0 else 0x7F800000, 0)
    | 0x0B => if n then (canonNan 0, flIV) else (0x7F800000, 0)
    | 0x0C => (if n then 0xBF800000 else 0x3F800000, 0)
    | _ => (if n then 0x80000000 else 0x7F800000, 0)
  | .fin n man e =>
    if fn = 0x09 ∧ man = 0 then (0x7F800000, flDZ)
    else if fn = 0x0B ∧ man = 0 then (0xFF800000, flDZ)
    else if (fn = 0x09 ∨ fn = 0x0B) ∧ n then (canonNan 0, flIV)
    else
      let v := rfuBounded fn a n man e
      (v, (if fn = 0x0A ∧ v = 0x7F800000 then flOF else 0) |||
        (if rfuUnderflow fn a v then flUF else 0))

/-- ReLU, exact; ReLU(−0) = +0; NaN gives the canonical NaN (Table 3.9). -/
def fRelu (a : Nat) : Nat × Nat :=
  match f32 a with
  | .nan s => (canonNan 0, if s then flIV else 0)
  | .inf n => (if n then 0 else a, 0)
  | .fin n _ _ => (if n then 0 else a, 0)

/-- One elementwise function of one operand, by its code of Table 4.13. -/
def rfuUnary (rm : Rm) (fn a : Nat) : Nat × Nat :=
  match fn with
  | 0x07 => (a, 0)
  | 0x08 => fRecip rm a
  | 0x0F => fRelu a
  | _ => rfuOpen fn a

/-- The drain-path function that RFN names (Table 4.10). -/
def drainFn (rm : Rm) (rfn a : Nat) : Nat × Nat :=
  match rfn with
  | 0 => (a, 0)
  | 1 => rfuUnary rm 0x0A a
  | 2 => rfuUnary rm 0x0B a
  | 3 => rfuUnary rm 0x08 a
  | 4 => rfuUnary rm 0x09 a
  | 5 => rfuUnary rm 0x0C a
  | 6 => rfuUnary rm 0x0D a
  | 7 => rfuUnary rm 0x0E a
  | _ => rfuUnary rm 0x0F a

/-! ## Accumulation (R55-R57) -/

/-- One partial product of two W operands, exact (R55). -/
def wProduct (a b : W) : FVal × Nat := mulExact a.val b.val

/-- The exact sum of the partial products of one K-step, a value of one sign (R56). -/
def sumProducts : List FVal → FVal
  | [] => .fin false 0 0
  | [v] => v
  | v :: vs =>
    match v, sumProducts vs with
    | .fin n m e, .fin k m2 e2 =>
      let r := addExact (sman n m) e (sman k m2) e2
      .fin (if r.1 = 0 then n else decide (r.1 < 0)) r.1.natAbs r.2
    | .nan s, _ => .nan s
    | .inf n, _ => .inf n
    | _, w => w

/-- One floating K-step: the exact sum of the partial products added to the accumulator with one rounding (R57). -/
def kStepFloat (rm : Rm) (fa a fb b acc : Nat) : Nat × Nat :=
  let sn := (if sigOf (decodeElem fa a) || sigOf (decodeElem fb b) then flIV else 0)
  let va := decodeElem fa a
  let vb := decodeElem fb b
  let special : Bool := match va, vb with
    | .fin _ _ _, .fin _ _ _ => false
    | _, _ => true
  if special then
    let r := mulExact va vb
    let q := addV rm r.1 (f32 acc)
    (q.1, sn ||| r.2 ||| q.2)
  else
    let prods := (toW fa a).flatMap (fun x => (toW fb b).map (fun y => (wProduct x y).1))
    addV rm (sumProducts prods) (f32 acc)

/-- One integer K-step: the product is added and saturates to I32 (R57). -/
def kStepInt (fa a fb b acc : Nat) : Nat × Nat :=
  let v := sext 32 acc + decodeInt fa a * decodeInt fb b
  if v > 2 ^ 31 - 1 then (2 ^ 31 - 1, flSAT)
  else if v < -(2 ^ 31) then (2 ^ 31, flSAT)
  else (wrapInt 32 v, 0)

/-! ## Scales and the integer path (R59-R62) -/

/-- The value of an E8 scale code, or a NaN for the invalid code 255 (R59). -/
def e8Val (e : Nat) : FVal := if e = 255 then .nan true else .fin false 1 ((e : Int) - 127)

/-- An I32 value saturated, with SAT. -/
def satI (w : Nat) (v : Int) : Int × Nat :=
  if v > (2 ^ (w - 1) : Nat) - 1 then ((2 ^ (w - 1) : Nat) - 1, flSAT)
  else if v < -((2 ^ (w - 1) : Nat) : Int) then (-((2 ^ (w - 1) : Nat) : Int), flSAT)
  else (v, 0)

/-- One E8 scale on the integer path (R62).
DEDUCED (log entry 22). -/
def intScale (rm : Rm) (e : Nat) (v : Int) : Int × Nat :=
  if e ≥ 127 then satI 32 (v * (2 ^ (e - 127) : Nat))
  else
    let r := roundAt rm (decide (v < 0)) v.natAbs ((e : Int) - 127) 0
    (if v < 0 then -(r.1 : Int) else r.1, if r.2 then 0 else flNX)

/-- The random value word of an element (R66): r is its low 16 bits, r2 the next 16. -/
def srHash (seed : W64) (n a i j : Nat) : W64 :=
  let z0 := seed + BitVec.ofNat 64 (n * 512 + a * 64 + i * 8 + j + 1) * 0x9E3779B97F4A7C15#64
  let z1 := (z0 ^^^ (z0 >>> 30)) * 0xBF58476D1CE4E5B9#64
  let z2 := (z1 ^^^ (z1 >>> 27)) * 0x94D049BB133111EB#64
  z2 ^^^ (z2 >>> 31)

/-! ## Row reductions and scans (R95-R97) -/

/-- One level of a reduction tree: lanes 2i and 2i + 1 combined; and the flags. -/
def pairLevel (op : Nat → Nat → Nat × Nat) : List Nat → List Nat × Nat
  | a :: b :: rest =>
    let r := op a b
    let t := pairLevel op rest
    (r.1 :: t.1, r.2 ||| t.2)
  | l => (l, 0)

/-- The reduction tree of `n` levels over 2^n lanes (R95). -/
def treeReduce (op : Nat → Nat → Nat × Nat) : Nat → List Nat → Nat × Nat
  | 0, l => (l.headD 0, 0)
  | n + 1, l =>
    let t := pairLevel op l
    let r := treeReduce op n t.1
    (r.1, t.2 ||| r.2)

def rowSum (rm : Rm) (l : List Nat) : Nat × Nat := treeReduce (fAdd rm) 6 l
def rowMax (l : List Nat) : Nat × Nat := treeReduce (fMinMax true) 6 l

/-- The online softmax update (R96): p row, c, new m, new s, flags. When m and m′ are both −∞, c and p are 0. The product s × c and its sum
with the row sum round each for itself.
DESIGN CHOICE (log entry 63). -/
def smxRow (rm : Rm) (x : List Nat) (m s : Nat) : List Nat × Nat × Nat × Nat × Nat :=
  let mx := rowMax x
  let m2 := fMinMax true m mx.1
  let both := m = 0xFF800000 ∧ m2.1 = 0xFF800000
  let d := fSub rm m m2.1
  let c := if both then (0, 0) else let r := rfuUnary rm 0x0A d.1; (r.1, d.2 ||| r.2)
  let ps := x.map (fun v => if both then (0, 0) else
    let d := fSub rm v m2.1
    let r := rfuUnary rm 0x0A d.1
    (r.1, d.2 ||| r.2))
  let p := ps.map (·.1)
  let sum := rowSum rm p
  let t := fMul rm s c.1
  let s2 := fAdd rm t.1 sum.1
  (p, c.1, m2.1, s2.1, mx.2 ||| m2.2 ||| c.2 ||| ps.foldl (fun a q => a ||| q.2) 0 ||| sum.2 ||| t.2 ||| s2.2)

/-- A lane of a scan: the pair (a, b) of LINREC, or (0, value); whether a segment starts at or before it; its flags. -/
abbrev ScanLane := Nat × Nat × Bool

/-- The scan operator on the earlier lane `x` and the later lane `y` (R97): 0 ADD, 1 MAX, 2 LINREC. -/
def scanOp (rm : Rm) (op : Nat) (x y : Nat × Nat) : (Nat × Nat) × Nat :=
  match op with
  | 0 => let r := fAdd rm x.2 y.2; ((0, r.1), r.2)
  | 1 => let r := fMinMax true x.2 y.2; ((0, r.1), r.2)
  | _ =>
    let a := fMul rm x.1 y.1
    let b := fFma rm y.1 x.2 y.2
    ((a.1, b.1), a.2 ||| b.2)

/-- One Kogge–Stone level at distance `d`. -/
def scanLevel (rm : Rm) (op d : Nat) (v : List ScanLane) : List ScanLane × Nat :=
  let out := (List.range v.length).map (fun k =>
    let y := v.getD k (0, 0, true)
    if k < d ∨ y.2.2 = true then (y, 0)
    else
      let x := v.getD (k - d) (0, 0, true)
      let r := scanOp rm op (x.1, x.2.1) (y.1, y.2.1)
      ((r.1.1, r.1.2, x.2.2), r.2))
  (out.map (·.1), out.foldl (fun a q => a ||| q.2) 0)

/-- A value passed on as it is, but for a NaN, which becomes canonical; a signalling one sets IV (R46). -/
def quietNan (v : Nat) : Nat × Nat :=
  match f32 v with
  | .nan s => (canonNan 0, if s then flIV else 0)
  | _ => (v, 0)

/-- The segmented scan of a row with its carry (R97): the row's results and flags. -/
def scanRow (rm : Rm) (op : Nat) (as bs : List Nat) (mask carry : Nat) : List Nat × Nat :=
  let v0 : List ScanLane := (List.range 64).map (fun k =>
    (as.getD k 0, bs.getD k 0, decide (mask / 2 ^ k % 2 = 1)))
  let step := fun (st : List ScanLane × Nat) d => let r := scanLevel rm op d st.1; (r.1, st.2 ||| r.2)
  let fin := [1, 2, 4, 8, 16, 32].foldl step (v0, 0)
  let out := fin.1.map (fun y =>
    if y.2.2 then quietNan y.2.1
    else match op with
      | 0 => fAdd rm carry y.2.1
      | 1 => fMinMax true carry y.2.1
      | _ => fFma rm y.1 carry y.2.1)
  (out.map (·.1), out.foldl (fun a q => a ||| q.2) fin.2)

/-! ## Packed elements (R43) -/

/-- Element `i` of a packed run: the bits [w·i + w − 1 : w·i] of the bytes read least significant first. -/
def unpackElem (f : Nat) (bs : List Byte) (i : Nat) : Nat :=
  let w := fmtWidth f
  bitsAt (leNat ((bs.drop (w * i / 8)).take 5)) (w * i % 8) w

/-- A run of element codes packed into bytes, padded with zero bits to whole bytes. -/
def packElems (f : Nat) (codes : List Nat) : List Byte :=
  let w := fmtWidth f
  toLe (ceilDiv (w * codes.length) 8) (codes.foldr (fun c acc => c % 2 ^ w + 2 ^ w * acc) 0)

end Sys2Proof.Machine
end

