-- ==== Sys2Proof/Machine/Rings.lean ====
section
/-! DEFINITION. Rings: pointers, credit, reservations, and the scratchpad bytes behind them (R102-R105, R158). -/
namespace Sys2Proof.Machine

def ringD : Nat → Ring := fun _ => Ring.init
def aptD : Nat → Aperture := fun _ => Aperture.init
def queueD : Nat → Queue := fun _ => Queue.init
def bindD : Nat → Binding := fun _ => Binding.init

def TileCtx.ring (y : TileCtx) (r : Nat) : Ring := Sparse.get ringD y.rings r
def TileCtx.setRing (y : TileCtx) (r : Nat) (x : Ring) : TileCtx := y.withRings (Sparse.put ringD y.rings r x)
def TileCtx.apt (y : TileCtx) (a : Nat) : Aperture := Sparse.get aptD y.apts a
def TileCtx.setApt (y : TileCtx) (a : Nat) (x : Aperture) : TileCtx := y.withApts (Sparse.put aptD y.apts a x)
def TileCtx.queue (y : TileCtx) (q : Nat) : Queue := Sparse.get queueD y.queues q
def TileCtx.setQueue (y : TileCtx) (q : Nat) (x : Queue) : TileCtx := y.withQueues (Sparse.put queueD y.queues q x)
def TileCtx.bind (y : TileCtx) (b : Nat) : Binding := Sparse.get bindD y.binds b
def TileCtx.setBind (y : TileCtx) (b : Nat) (x : Binding) : TileCtx := y.withBinds (Sparse.put bindD y.binds b x)
/-- TILE_ROUTE_CFG of route r (R205). -/
def TileCtx.route (y : TileCtx) (r : Nat) : W64 := Sparse.get (fun _ => 0) y.routes r
def TileCtx.setRoute (y : TileCtx) (r : Nat) (v : W64) : TileCtx := y.withRoutes (Sparse.put (fun _ => 0) y.routes r v)

/-! ## TILE_RING_CFG fields -/

def Ring.base (r : Ring) : Nat := 512 * fld r.cfg 10 0
def Ring.size (r : Ring) : Nat := 512 * fld r.cfg 26 16
def Ring.fmt (r : Ring) : Nat := fld r.cfg 35 32
def Ring.isStatic (r : Ring) : Bool := decide (fld r.cfg 41 40 = 1)
def Ring.isStream (r : Ring) : Bool := decide (fld r.cfg 41 40 = 0)
def Ring.on (r : Ring) : Bool := bit r.cfg 48

/-! ## Pointers and credit (R102) -/

/-- Bytes in use. -/
def Ring.used (r : Ring) : Nat :=
  if r.headWrap = r.tailWrap then r.tail - r.head else r.size - r.head + r.tail

def sumHeld (l : List Resv) : Nat := l.foldl (fun a x => a + x.held) 0
def sumLen (l : List Resv) : Nat := l.foldl (fun a x => a + x.len) 0

/-- TILE_RING_CREDIT.CREDIT: free bytes net of reservations. -/
def Ring.credit (r : Ring) : Nat := r.size - r.used - sumHeld r.resv

/-- Free bytes net of every reserved range: what a new reservation can take (R158). -/
def Ring.room (r : Ring) : Nat := r.size - r.used - sumLen r.resv

/-- Free bytes for a reservation that takes its credit piece by piece. -/
def Ring.roomFor (r : Ring) (id : Nat) : Nat :=
  r.size - r.used - sumLen (r.resv.filter (fun x => x.id != id)) - sumHeld (r.resv.filter (fun x => x.id == id))

/-- A pointer moved forward by `n`, its wrap bit toggled as it passes the end (R102). -/
def ptrAdd (size p : Nat) (w : Bool) (n : Nat) : Nat × Bool :=
  if p + n < size then (p + n, w) else (p + n - size, !w)

/-- HEAD advanced by `n`. -/
def Ring.pop (r : Ring) (n : Nat) : Ring :=
  let p := ptrAdd r.size r.head r.headWrap n
  (r |>.withHead p.1 |>.withHeadWrap p.2)

/-- A new reservation of `len` bytes at the reservation point by producer `p`, `held` of them taken from the credit. -/
def Ring.reserve (r : Ring) (p : Producer) (len held : Nat) : Ring :=
  r |>.withResv (r.resv ++ [⟨r.nextId, len, held, false, p⟩]) |>.withNextId (r.nextId + 1)

/-- TAIL has not passed some reservation of a producer (R158). -/
def Ring.waitsFor (r : Ring) (p : Producer) : Bool := r.resv.any (fun x => x.maker == p)

/-- Where a reservation begins, from TAIL. -/
def resvOff : List Resv → Nat → Nat
  | [], _ => 0
  | x :: xs, id => if x.id = id then 0 else x.len + resvOff xs id

/-- Credit taken by a reservation, set to `h`. -/
def Ring.hold (r : Ring) (id h : Nat) : Ring :=
  r.withResv (r.resv.map (fun x => if x.id = id then x.withHeld h else x))

/-- TAIL passes the ranges at the front that have been written (R158). -/
def settle (size : Nat) : List Resv → Nat → Bool → List Resv × Nat × Bool
  | [], p, w => ([], p, w)
  | x :: xs, p, w =>
    if x.done then let q := ptrAdd size p w x.len; settle size xs q.1 q.2 else (x :: xs, p, w)

/-- A reservation has been written; TAIL advances as far as R158 lets it. -/
def Ring.finish (r : Ring) (id : Nat) : Ring :=
  let l := r.resv.map (fun x => if x.id = id then x.withDone true else x)
  let t := settle r.size l r.tail r.tailWrap
  (r |>.withResv t.1 |>.withTail t.2.1 |>.withTailWrap t.2.2)

/-- A reservation given up, with its range. -/
def Ring.drop (r : Ring) (id : Nat) : Ring := r.withResv (r.resv.filter (fun x => x.id != id))

/-! ## Bytes -/

/-- Bytes of the scratchpad from offset `o`. -/
def Tile.rd (x : Tile) (o n : Nat) : List Byte := Sparse.getList memD x.spad o n
def Tile.wr (x : Tile) (o : Nat) (bs : List Byte) : Tile := x.withSpad (Sparse.putList memD x.spad o bs)

/-- `n` bytes of the region [base, base + size) from offset `o`, wrapping at its end. -/
def Tile.rdWrap (x : Tile) (base size o n : Nat) : List Byte :=
  let p := o % size
  if p + n ≤ size then x.rd (base + p) n else x.rd (base + p) (size - p) ++ x.rd base (n - (size - p))

/-- Bytes written to the region from offset `o`, wrapping at its end. -/
def Tile.wrWrap (x : Tile) (base size o : Nat) (bs : List Byte) : Tile :=
  let p := o % size
  if p + bs.length ≤ size then x.wr (base + p) bs
  else (x.wr (base + p) (bs.take (size - p))).wr base (bs.drop (size - p))

/-- `n` bytes of a ring at an offset from HEAD. -/
def Tile.rdRing (x : Tile) (r : Ring) (off n : Nat) : List Byte := x.rdWrap r.base r.size (r.head + off) n

/-- Bytes written at an offset from TAIL. -/
def Tile.wrRing (x : Tile) (r : Ring) (off : Nat) (bs : List Byte) : Tile := x.wrWrap r.base r.size (r.tail + off) bs

/-- Bytes reserved, written and passed to the ring in one move: how producers of whole ranges append (R158). -/
def Tile.append (x : Tile) (p : Producer) (c ri : Nat) (bs : List Byte) : Tile :=
  let r := (x.ctx c).ring ri
  let id := r.nextId
  let x := x.wrRing r (sumLen r.resv) bs
  x.updCtx c (fun y => y.setRing ri ((r.reserve p bs.length bs.length).finish id))

/-- The ring of a context. -/
def Tile.ring (x : Tile) (c ri : Nat) : Ring := (x.ctx c).ring ri
def Tile.setRing (x : Tile) (c ri : Nat) (r : Ring) : Tile := x.updCtx c (fun y => y.setRing ri r)
def Tile.popRing (x : Tile) (c ri n : Nat) : Tile := x.setRing c ri ((x.ring c ri).pop n)

/-! ## Stall counters (Table 6.10): one wait seen by a command counts one cycle (log entry 9) -/

/-- The scratchpad bank of the 64 B line at offset `o`, and its row in that bank (R98). -/
def spadBank (o : Nat) : Nat × Nat := (o / 64 % 20, o / 64 / 20)

/-- DESIGN CHOICE (log entry 9). -/
def Tile.stall (x : Tile) (o : Nat) : Tile :=
  x.withStalls (Sparse.put (fun _ => 0) x.stalls o (satAdd (Sparse.get (fun _ => 0) x.stalls o) 1 (2 ^ 48 - 1)))

end Sys2Proof.Machine
end

