-- ==== Sys2Proof/Machine/Flags.lean ====
section
/-! DEFINITION. The sticky flags of TILE_FPSTAT (R71, R72): a flag goes to the context whose instruction raised it. -/
namespace Sys2Proof.Machine

/-- The flags `fl` set in the context's TILE_FPSTAT; the bits set before stay set. -/
def TileCtx.flags (y : TileCtx) (fl : Nat) : TileCtx := y.withFpstat (y.fpstat ||| BitVec.ofNat 64 (fl % 64))

def Tile.flags (x : Tile) (c fl : Nat) : Tile := x.updCtx c (fun y => y.flags fl)

/-- The flags of a list of results, together. -/
def orFlags (l : List (Nat × Nat)) : Nat := l.foldl (fun a q => a ||| q.2) 0

/-- The context's rounding attribute (R68). -/
def Tile.rm (x : Tile) (c : Nat) : Rm := rmOf (fld (x.ctx c).fpctl 2 0)

end Sys2Proof.Machine
end

