-- ==== Sys2Proof/Machine/Operands.lean ====
section
/-! DEFINITION. Operands of tile instructions: registers, predicates, the word fields of each format (R119-R145, R161), and the
reserved bits of each (R126). -/
namespace Sys2Proof.Machine

/-- x[n]: x0 reads 0 (R120). -/
def TileCtx.xr (y : TileCtx) (n : Nat) : W32 := if n = 0 then 0 else Sparse.get (fun _ => 0) y.x n

/-- The context with x[n] written; a write of x0 is discarded (R120). -/
def TileCtx.setX (y : TileCtx) (n : Nat) (v : W32) : TileCtx :=
  if n = 0 then y else y.withX (Sparse.put (fun _ => 0) y.x n v)

/-- p[n]: p0 reads 1 (R120). -/
def TileCtx.pr (y : TileCtx) (n : Nat) : Bool := if n = 0 then true else Sparse.get (fun _ => false) y.p n

/-- The context with p[n] written; p0 is never written (R120). -/
def TileCtx.setP (y : TileCtx) (n : Nat) (v : Bool) : TileCtx :=
  if n = 0 then y else y.withP (Sparse.put (fun _ => false) y.p n v)

def TileCtx.lcr (y : TileCtx) (n : Nat) : W32 := Sparse.get (fun _ => 0) y.lc n
def TileCtx.setLc (y : TileCtx) (n : Nat) (v : W32) : TileCtx := y.withLc (Sparse.put (fun _ => 0) y.lc n v)

def xr (x : Tile) (c n : Nat) : Nat := ((x.ctx c).xr n).toNat

/-- Opcode and predicate fields (Table 4.3). -/
def opOf (w : W64) : Nat := fld w 63 56
def psOf (w : W64) : Nat := fld w 55 53
def pnOf (w : W64) : Bool := bit w 52

/-- The instruction executes (R124). -/
def executes (y : TileCtx) (w : W64) : Bool := y.pr (psOf w) != pnOf w

/-- The opcodes of Tables 4.4 and 5.2. -/
def legalOp (o : Nat) : Bool :=
  decide (o ≤ 0x0D) || (decide (0x10 ≤ o) && decide (o ≤ 0x15)) ||
    [0x18, 0x19, 0x1A, 0x1C, 0x1D, 0x20, 0x21, 0x22, 0x23, 0x28, 0x40, 0x41, 0x42, 0x48, 0x49, 0x50, 0x51, 0x52, 0x53,
      0x54, 0x58, 0x60, 0x61, 0x68, 0x6F].contains o

/-- Two-word instructions (R125). -/
def twoWords (o : Nat) : Bool := [0x10, 0x11, 0x12, 0x13, 0x1A, 0x58].contains o

/-- Bits [51:0] of a word that an instruction of the given opcode defines; the others are reserved (R126, R128, R133, R141, R143,
R145, R152, R161). -/
def usedBits (o : Nat) : List (Nat × Nat) :=
  match o with
  | 0x10 | 0x12 | 0x13 => [(51, 47), (46, 42)]
  | 0x11 => [(51, 47)]
  | 0x14 => [(51, 47), (46, 39)]
  | 0x15 => [(51, 47), (46, 43), (42, 38)]
  | 0x18 => [(51, 49), (48, 44), (43, 39), (38, 36)]
  | 0x19 => [(51, 49), (48, 46), (45, 43), (42, 40)]
  | 0x1A => [(51, 49), (48, 44), (38, 36)]
  | 0x1C => [(51, 47), (46, 42), (41, 37), (36, 34)]
  | 0x1D => [(51, 32)]
  | 0x20 => [(51, 15), (11, 0)]
  | 0x22 => [(51, 20)]
  | 0x23 => [(51, 35)]
  | 0x28 => [(51, 0)]
  | 0x40 => [(51, 48), (47, 43)]
  | 0x41 => [(51, 48), (47, 43)]
  | 0x42 => [(51, 48), (47, 44), (43, 39)]
  | 0x48 => [(51, 28)]
  | 0x49 => [(51, 48), (47, 43), (42, 38)]
  | 0x50 => [(51, 48), (47, 44), (43, 39), (38, 38)]
  | 0x51 => [(51, 48), (47, 43)]
  | 0x52 => [(51, 48), (47, 44), (43, 39), (38, 38), (37, 34)]
  | 0x53 => [(51, 47), (46, 43)]
  | 0x54 => [(51, 48), (47, 44), (43, 39), (38, 35), (34, 31), (30, 27)]
  | 0x58 => [(51, 21)]
  | 0x60 | 0x61 => [(51, 49)]
  | 0x68 => [(51, 44)]
  | 0x6F => [(51, 47)]
  | 0x00 | 0x21 => []
  | _ => [(51, 47), (46, 42), (41, 37)]

/-- The word with the given fields cleared. -/
def clearFields (w : W64) (fs : List (Nat × Nat)) : W64 := fs.foldl (fun a f => setFld a f.1 f.2 0) w

/-- A reserved bit of the first word, or of the second, holds 1 (R125, R126). `w2` is the second word, 0 when there is none. -/
def reservedSet (w w2 : W64) : Bool :=
  decide (fld (clearFields w (usedBits (opOf w))) 51 0 ≠ 0) || decide (fld w2 63 32 ≠ 0)

end Sys2Proof.Machine
end

