-- ==== Sys2Proof/Machine/Sequencer.lean ====
section
/-! DEFINITION. The tile sequencer: fetch, predicate, exceptions, issue, the program counter and loops (R116-R127, R154, R155,
R179-R181, R216). -/
namespace Sys2Proof.Machine

/-- Exception codes (Tables 4.15 and 5.4). -/
def Exc.illegalOp : Nat := 0x01
def Exc.illegalField : Nat := 0x02
def Exc.pcRange : Nat := 0x03
def Exc.operandFmt : Nat := 0x04
def Exc.ringFmt : Nat := 0x05
def Exc.ringOff : Nat := 0x06
def Exc.ringRange : Nat := 0x07
def Exc.ringMode : Nat := 0x08
def Exc.ringPop : Nat := 0x09
def Exc.spadAlign : Nat := 0x0A
def Exc.kRange : Nat := 0x0B
def Exc.maskRange : Nat := 0x0C
def Exc.rfuCount : Nat := 0x0D
def Exc.accSeq : Nat := 0x0E
def Exc.accKind : Nat := 0x0F
def Exc.queueOff : Nat := 0x40
def Exc.routeOff : Nat := 0x41
def Exc.tokenAlign : Nat := 0x42
def Exc.tokenKind : Nat := 0x43
def Exc.streamOff : Nat := 0x44
def Exc.streamLen : Nat := 0x45
def Exc.streamAlign : Nat := 0x46
def Exc.streamFault : Nat := 0x47
def Exc.loopNest : Nat := 0x48
def Exc.aptRange : Nat := 0x49
def Exc.aptBind : Nat := 0x4A
def Exc.steerValue : Nat := 0x4B
def Exc.steerPair : Nat := 0x4C

/-! ## Faults of a section -/

/-- The MMA at the head of the array queue that has started: work of the array pipeline. -/
def Units.startedMma (u : Units) : List MmaOp := (u.arrayQ.take 1).filter (fun m => m.started)

/-- The units of a tile whose section has faulted: nothing more issues, started work stays, queued work is discarded (R155). With a started
MMA stays the SWAP that it reads ahead of (R83). An RCOPY, SEND, RECV or STEER that has moved some of its bytes moves no more.
DEDUCED (log entry 64). -/
def Units.halt (u : Units) : Units :=
  u |>.withIssue .halted |>.withArrayQ u.startedMma
      |>.withAccQ (u.accQ.filter (fun o => decide (o.kind = .swap) && u.startedMma.any (fun m => decide (o.seq < m.seq))))
      |>.withRfuQ ((u.rfuQ.take 1).filter (fun r => decide (r.row > 0))) |>.withRingQ [] |>.withStrmQ [] |>.withSendQ [] |>.withRecvQ []
      |>.withSteerQ [] |>.withSlot none |>.withPair none |>.withLoops []

/-- The tile stops issuing for the section of context c of region g, if it runs it. -/
def Tile.haltFor (x : Tile) (g c : Nat) : Tile :=
  if x.run = some (g, c) then x.withU x.u.halt else x

/-- A running or ending section faults: the first fault of the run is recorded, with its contained record, and every tile of the
section stops issuing (R216). `pc` and, for STREAM_FAULT, `status` stand in the record (R169). -/
def State.faultSection (s : State) (g c : Nat) (f : SecFault) (pc : Nat) (status : Nat := 0) : State :=
  let x := s.sec g c
  if x.active && x.fault.isNone then
    let s := s.setSec g c (x.withFault (some f))
    let s := x.tiles.foldl (fun s t => s.updTile t (fun y => y.haltFor g c)) s
    s.raiseError { cls := 1, source := 0x09, who := some (g, c), unit := f.t0, epoch := x.epoch, exc := f.exc, status := status,
                   die := if f.t0 < tileCount then tileDie f.t0 else (s.leadDie g).getD 0,
                   detail := pc % 2 ^ 12 + 2 ^ 16 * f.cause,
                   aux := if f.t0 < tileCount then (tileCoord f.t0).toNat else 0 }
  else s

/-- A tile raises an exception: the instruction takes no effect and the section faults (R155). -/
def State.tileExc (s : State) (t pc code : Nat) : State :=
  match (s.tile t).run with
  | some (g, c) => s.faultSection g c ⟨1, code, t⟩ pc
  | none => s

/-! ## Fetch -/

/-- What a fetch at the program counter gives: an exception, or the words of a legal instruction. -/
inductive Fetch where
  | exc (code : Nat)
  | instr (w w2 : W64) (words : Nat)

/-- A word of the context's share of the program store (R111). -/
def Tile.word (x : Tile) (c pc : Nat) : Option W64 :=
  let y := x.ctx c
  if pc < fld y.pstore 28 16 then some (Sparse.get (fun _ => 0) x.pstore (fld y.pstore 11 0 + pc)) else none

/-- The fetch at the context's program counter, with the exceptions of the fetch and the opcode alone (R111, R124, R125, R127,
R180). -/
def Tile.fetch (x : Tile) (c : Nat) : Fetch :=
  let pc := (x.ctx c).pc
  match x.word c pc with
  | none => .exc Exc.pcRange
  | some w =>
    if !legalOp (opOf w) then .exc Exc.illegalOp
    else if !twoWords (opOf w) then .instr w 0 1
    else match x.word c (pc + 1) with
      | none => .exc Exc.pcRange
      | some w2 =>
        match x.u.loops with
        | f :: _ => if pc + 2 > f.stop then .exc Exc.loopNest else .instr w w2 2
        | [] => .instr w w2 2

/-! ## The program counter -/

/-- The ends of the bodies that stop at `pc`: the counter counts, and the body repeats or the loop is over (R179). -/
def loopEnds : List LoopFrame → TileCtx → Nat → List LoopFrame × TileCtx × Nat
  | [], y, pc => ([], y, pc)
  | f :: fs, y, pc =>
    if pc = f.stop then
      let n := y.lcr f.lc + 1
      let y := y.setLc f.lc n
      if n.toNat < f.trips then (f :: fs, y, f.start) else loopEnds fs y pc
    else (f :: fs, y, pc)

/-- The tile with the program counter moved to `pc`, ends of bodies taken. -/
def Tile.goTo (x : Tile) (c pc : Nat) : Tile :=
  let r := loopEnds x.u.loops (x.ctx c) pc
  let x := x.setCtx c (r.2.1.withPc r.2.2)
  (x.withU (x.u.withLoops r.1))

/-- What an instruction does at issue: it waits (a stall counter counts), raises an exception, or takes effect and the sequencer
goes on at the next word, or at the word named, or stays where it is. -/
inductive Issued where
  | wait (counter : Nat)
  | exc (code : Nat)
  | go (s : State)
  | jump (s : State) (pc : Nat)
  | stop (s : State)

/-- The sequencer of tile `t` takes the instruction at the program counter if it is one of opcode `op` (R117, R124). A fetch that
raises an exception raises it. When another instruction stands there, or the tile does not run, nothing happens. `f` gets the state,
the region, the context and the words.
DESIGN CHOICE (log entry 2). DESIGN CHOICE (log entry 9). -/
def issueOp (op t : Nat) (s : State) (f : State → Nat → Nat → W64 → W64 → Issued) : Out :=
  if t ≥ tileCount then .fault (.noSuchUnit "tile")
  else
    let x := s.tile t
    match x.run with
    | none => .next s
    | some (g, c) =>
      if x.u.issue ≠ .running then .next s
      else
        let pc := (x.ctx c).pc
        match x.fetch c with
        | .exc code => .next (s.tileExc t pc code)
        | .instr w w2 n =>
          if opOf w ≠ op then .next s
          else if !executes (x.ctx c) w then .next (s.updTile t (fun x => x.goTo c (pc + n)))
          else if reservedSet w w2 then .next (s.tileExc t pc Exc.illegalField)
          else match f s g c w w2 with
            | .wait k => .next (s.updTile t (fun x => x.stall k))
            | .exc code => .next (s.tileExc t pc code)
            | .go s => .next (s.updTile t (fun x => x.goTo c (pc + n)))
            | .jump s p => .next (s.updTile t (fun x => x.goTo c p))
            | .stop s => .next s

/-- The first of a list of checks that fails, as its code (R593). -/
def firstExc : List (Bool × Nat) → Option Nat
  | [] => none
  | (b, c) :: l => if b then some c else firstExc l

/-- An instruction with checks that then takes effect. -/
def checked (l : List (Bool × Nat)) (ok : Issued) : Issued :=
  match firstExc l with
  | some c => .exc c
  | none => ok

end Sys2Proof.Machine
end

