-- ==== Sys2Proof/Machine/Regions.lean ====
section
/-! DEFINITION. Completions of sections and jobs, and what fences and resets a region (R215, R217, R243, R252, R265, R277, R404, R425,
R540, R541). -/
namespace Sys2Proof.Machine

def cmdqD : Nat → CmdQ := fun _ => CmdQ.init
def State.cmdq (s : State) (g c : Nat) : CmdQ := Sparse.get cmdqD s.cmdqs (secKey g c)
def State.setCmdq (s : State) (g c : Nat) (q : CmdQ) : State :=
  s.withCmdqs (Sparse.put cmdqD s.cmdqs (secKey g c) q)

def State.prismQ (s : State) (n : Nat) : List PrismJob := Sparse.get (fun _ => []) s.prism n
def State.setPrismQ (s : State) (n : Nat) (l : List PrismJob) : State :=
  s.withPrism (Sparse.put (fun _ => []) s.prism n l)

def tintD : Nat → TintUnit := fun _ => TintUnit.init
def State.tintU (s : State) (n : Nat) : TintUnit := Sparse.get tintD s.tint n
def State.setTintU (s : State) (n : Nat) (u : TintUnit) : State := s.withTint (Sparse.put tintD s.tint n u)

/-- The offset of CD_CMDQ registers of (g, c) in its lead die's block. -/
def cmdqOff (s : State) (g c o : Nat) : Nat := cdOff ((s.leadDie g).getD 0) (0x4000 + 0x20 * secKey g c + o)

/-- The event ring of a command queue (R414). -/
def State.cmdqRing (s : State) (g c : Nat) : Nat := s.rf (cmdqOff s g c 8) 12 8

/-- The epoch of a COMMAND completion: the command's for LOAD_SECTION and START_SECTION, else 0 (R413). -/
def cmdEpoch (b : List Byte) : Nat := if leAt b 0 1 = 1 ∨ leAt b 0 1 = 3 then leAt b 16 4 else 0

/-- A COMMAND completion (R413). -/
def cmdCompletion (time op status record off epoch : Nat) : List Byte :=
  toLe 8 time ++ toLe 1 op ++ toLe 1 status ++ toLe 2 record ++ toLe 4 0 ++ toLe 8 off ++ toLe 4 epoch ++ toLe 4 0

/-- A COMMAND event of the queue of (g, c). -/
def State.postCommand (s : State) (g c op status record off epoch tag : Nat) : State :=
  s.postEvent (s.cmdqRing g c) 0x02 ((s.leadDie g).getD 0) (secKey g c) tag (cmdCompletion s.now op status record off epoch)

/-- The region is a target of the glare run in progress (R554). -/
def State.glareHolds (s : State) (g : Nat) : Bool :=
  match s.glare.run with
  | some r => decide (bitsAt r.regions g 1 = 1)
  | none => false

/-! ## Section completions -/

/-- Tokens in the queues, front slots and spill segments of a context on one tile. -/
def TileCtx.tokens (y : TileCtx) : Nat :=
  y.queues.foldl (fun a q => a + q.2.entries.length + q.2.front.toList.length + q.2.seg.length) 0

/-- The residue of a section: tokens still held for its context on the tiles it names (R214). -/
def State.residue (s : State) (x : Section) (c : Nat) : Nat :=
  x.tiles.foldl (fun a t => a + ((s.tile t).ctx c).tokens) 0

/-- A section completion (Table 6.8). -/
def secCompletion (time residue g c : Nat) (x : Section) : List Byte :=
  let f := x.fault
  toLe 8 time ++ toLe 4 x.epoch ++ toLe 1 (c + 16 * g) ++ toLe 1 (if f.isSome then 1 else 0) ++
    toLe 2 (min residue 0xFFFF) ++ toLe 4 x.xcode.toNat ++ toLe 4 x.xcodeOr.toNat ++ toLe 2 x.runFires ++
    toLe 2 x.runPeak ++ toLe 1 ((f.map (·.cause)).getD 0) ++ toLe 1 ((f.map (·.exc)).getD 0) ++
    toLe 2 ((f.map (·.t0)).getD 0xFFFF)

/-- The completion of (g, c) is posted to its ring, and remembered for the jobs it triggers (R215, R243, R414). -/
def State.postSection (s : State) (g c : Nat) : State :=
  let x := s.sec g c
  let comp := secCompletion s.now (s.residue x c) g c x
  let s := s.postEvent (s.cmdqRing g c) 0x01 ((s.leadDie g).getD 0) (secKey g c) x.tag comp
  (s |>.withDone (Sparse.put (fun _ => SecDone.init) s.done (secKey g c) ⟨s.doneSerial + 1, x.epoch, if x.fault.isSome then 1 else 0⟩)
      |>.withDoneSerial (s.doneSerial + 1))

/-- What an awaited completion of (g, c, epoch) posted after serial `since` says: none while there is none (R243). -/
def State.trigger (s : State) (g c epoch since : Nat) : Option Nat :=
  let d := Sparse.get (fun _ => SecDone.init) s.done (secKey g c)
  if d.serial > since ∧ d.epoch = epoch then some d.status else none

/-! ## Job completions -/

/-- What a Prism completion counts (Table 8.4). -/
structure PrismCounts where
  accepted : Nat := 0
  overflowed : Nat := 0
  coldDropped : Nat := 0
  allDropped : Nat := 0
  nanTokens : Nat := 0

/-- The job at the front of die n's Prism queue ends: its completion is posted and JOBS counts (R252, R260). -/
def State.endPrism (s : State) (n status : Nat) (k : PrismCounts) : State :=
  match s.prismQ n with
  | [] => s
  | j :: rest =>
    let comp := toLe 8 s.now ++ slice j.desc 44 4 ++ toLe 1 status ++ [0] ++ slice j.desc 8 2 ++ toLe 4 k.accepted ++
      toLe 4 k.overflowed ++ toLe 4 k.coldDropped ++ toLe 2 k.allDropped ++ toLe 2 k.nanTokens
    let s := s.postEvent (s.evRoute 0) 0x03 n 0xFF 0 comp
    (s.count (cdOff n 0x3028) 31 16 1).setPrismQ n rest

/-- The job at the front of die n's tint queue ends: its completion is posted, JOBS counts, and a failure faults the section that
fills from it (R269, R277). -/
def State.endTint (s : State) (n status : Nat) : State :=
  let u := s.tintU n
  match u.jobs with
  | [] => s
  | j :: rest =>
    let tinted := (j.idx.filter (fun v => bitsAt v 16 1 = 1 && (j.ents.any (fun e => e.1 == v % 65536)))).length
    let named := (j.idx.filter (fun v => bitsAt v 16 1 = 1)).length
    let comp := toLe 8 s.now ++ slice j.desc 44 4 ++ toLe 1 status ++ toLe 1 j.flags ++ toLe 2 j.ents.length ++
      slice j.desc 8 2 ++ toLe 2 tinted ++ toLe 2 (named - tinted) ++ toLe 2 0 ++ toLe 4 j.hits ++ toLe 4 j.misses
    let g := leAt j.desc 36 1 / 16
    let c := leAt j.desc 37 1 % 8
    let s := s.postEvent (s.evRoute 1) 0x04 n 0xFF 0 comp
    let s := (s.count (cdOff n 0x3420) 31 16 1).setTintU n (u.withJobs rest)
    if status = 0 ∨ status = 2 then s else s.faultSection g c ⟨0x05, 0, 0xFFFF⟩ 0

/-! ## Region reset -/

/-- A tile of a region that is reset: nothing runs, the queues and transit entries of its contexts are cleared, its apertures
closed, its floating-point flags and stall counters 0 (R425, Table 17.2). -/
def Tile.regionReset (x : Tile) : Tile :=
  x |>.withRun none |>.withU Units.init |>.withTransit [] |>.withStalls [] |>.withCtxs (x.ctxs.map (fun e => (e.1, e.2 |>.withQueues []
      |>.withFpstat 0 |>.withApts (e.2.apts.map (fun a => (a.1, a.2.withCtl (setBit a.2.ctl 0 false)))))))

/-- The held lists of a queue are discarded with a COMMAND event each, and STOPPED is cleared (R404, R425). -/
def State.discardLists (s : State) (g c status : Nat) : State :=
  let q := s.cmdq g c
  let s := q.lists.zipIdx.foldl (fun (s : State) e =>
    let l := e.1
    let cur := if e.2 = 0 then q.cmd else none
    match cur with
    | some r => s.postCommand g c (leAt r.bytes 0 1) status r.idx l.off (cmdEpoch r.bytes) (leAt r.bytes 4 4)
    | none => s.postCommand g c 0 status l.next l.off 0 0) s
  s.setCmdq g c (CmdQ.init.withDispatches q.dispatches)

/-- Jobs of Prism and the tint unit that wait on region g end with SOURCE_FAULT (R243, R265). -/
def State.endWaits (s : State) (g : Nat) : State :=
  (List.range 16).foldl (fun (s : State) n =>
    let s := match s.prismQ n with
      | j :: _ => if j.st = JobSt.waiting ∧ leAt j.desc 36 1 / 16 = g then s.endPrism n 2 {} else s
      | [] => s
    match (s.tintU n).jobs with
    | j :: _ =>
      if j.st = JobSt.waiting ∧ leAt j.desc 36 1 % 4 = 1 ∧ leAt j.desc 36 1 / 16 = g then s.endTint n 2 else s
    | [] => s) s

/-- Region g is reset (R425). RESETTING reads 1 until REGION_RESET_DONE. -/
def State.resetRegion (s : State) (g : Nat) : State :=
  let s := (s.regionTiles g).foldl (fun s t => s.updTile t Tile.regionReset) s
  let s := s |>.withFlight (s.flight.filter (fun f => f.token.region != g)) |>.withCredits (s.credits.filter (fun k => !s.inRegion g k.src))
  let s := (List.range 8).foldl (fun (s : State) c =>
    s.updSec g c (fun x => Section.init |>.withLoadStatus x.loadStatus |>.withFires x.fires |>.withPeak x.peak |>.withLens x.lens
        |>.withLenNext x.lenNext)) s
  let s := (List.range 8).foldl (fun (s : State) c => s.discardLists g c St.regionReset) s
  let s := s.endWaits g
  s.dropOrphans.setRb (0x51008 + 0x10 * g) 1 true

/-- Every section of g that runs or ends posts a completion with STATUS FAULT; a fault it had already stands (R541). `cause` is
the completion's CAUSE and `t0` the tile that raised the error, 0xFFFF when none did. -/
def State.postFaults (s : State) (g cause t0 : Nat) : State :=
  (List.range 8).foldl (fun (s : State) c =>
    let x := s.sec g c
    if x.active then
      let s := if x.fault.isNone then s.setSec g c (x.withFault (some ⟨cause, 0, t0⟩)) else s
      s.postSection g c
    else s) s

/-- A contained error fences region g: completions, the record with FENCED, and the region reset (R541). -/
def State.fenceRegion (s : State) (g cause t0 : Nat) (e : ErrInfo) : State :=
  let s := s.postFaults g cause t0
  let s := s.raiseError (e.withFlags (e.flags ||| 2))
  s.resetRegion g

/-! ## Tiles that become dark (R113, R217, R548) -/

/-- The tile is dark: every token it holds is discarded (R217). -/
def Tile.darken (x : Tile) : Tile :=
  x |>.withSt .dark |>.withParkTo none |>.withCtxs (x.ctxs.map (fun e => (e.1, e.2.withQueues (e.2.queues.map (fun q => (q.1, q.2
      |>.withEntries [] |>.withFront none |>.withSeg [] |>.withSegOff 0))))))

/-- Some running or ending section uses the tile: it names it or routes pass through it (R217). -/
def State.usersOf (s : State) (t : Nat) : List (Nat × Nat) :=
  ((List.range 128).filter (fun k =>
    let x := Sparse.get secD s.secs k
    x.active && (x.names t || x.passes.contains t))).map (fun k => (k / 8, k % 8))

/-- TILE_STATE.SUSPECT and its bit of HUB_SUSPECT_MAP (R553). -/
def State.markSuspect (s : State) (t : Nat) : State :=
  (s.updTile t (fun x => x.withSuspect true)).setRb (0xB1100 + t / 64 * 8) (t % 64) true

/-- Tile t becomes dark with the given error: its record carries DARKENED; a running or ending section that uses it faults with
TILE_LOST, and the region is fenced and reset; in a glare run a tile of its regions becomes SUSPECT (R113, R217, R548, R553). -/
def State.darkenTile (s : State) (t : Nat) (e : ErrInfo) : State :=
  if (s.tile t).st = .dark then s
  else
    let s := s.updTile t Tile.darken
    let i := t / 64
    let s := s.setRb (0x10300 + 8 * i) (t % 64) true
    let target : Bool := match s.regionOf t with
      | some g => s.glareHolds g
      | none => false
    let s := if target then s.markSuspect t else s
    let e := e |>.withFlags (e.flags ||| 4) |>.withUnit t |>.withDie (tileDie t) |>.withAux ((tileCoord t).toNat)
    match s.usersOf t with
    | [] => s.raiseError e
    | (g, _) :: _ => s.fenceRegion g 0x04 t e

/-! ## Fatal fences (R540) -/

/-- Region g has a tile or a carve-out on CDn. -/
def State.regionUsesDie (s : State) (g n : Nat) : Bool :=
  s.regionOnDie g n ||
    decide (s.rf (cdOff n (0x3800 + 0x10 * g)) 25 16 > s.rf (cdOff n (0x3800 + 0x10 * g)) 8 0) ||
    decide (s.rf (cdOff n (0x3808 + 0x10 * g)) 30 16 > s.rf (cdOff n (0x3808 + 0x10 * g)) 14 0)

end Sys2Proof.Machine
end

