-- ==== Sys2Proof/Machine/Fatal.lean ====
section
/-! DEFINITION. Carve-out registers, glare runs that end early, and what a fatal error fences (R295, R540, R541, R552, R554). -/
namespace Sys2Proof.Machine

def dsCarve (n g : Nat) : Nat := cdOff n (0x3800 + 0x10 * g)
def t1Carve (n g : Nat) : Nat := cdOff n (0x3808 + 0x10 * g)
def t2Carve (g : Nat) : Nat := 0x40100 + g * 8

/-! ## Glare runs that end early (R552, R554) -/

/-- The restored array clock of a die after a glare run: its former frequency. -/
def State.restoreClocks (s : State) (r : GlareRun) : State :=
  r.former.foldl (fun (s : State) e =>
    (s.setRf (0xD0100 + e.1 * 8) 15 8 e.2).setRf (0xD0100 + e.1 * 8) 31 16 (Config.railMv e.1 e.2).toNat) s

/-- The GLARE event, KIND 0x0B (R552). -/
def State.postGlare (s : State) (result failed tested : Nat) : State :=
  s.postEvent (s.evRoute 5) 0x0B 16 0xFF 0
    (toLe 8 s.now ++ toLe 1 result ++ [0, 0, 0] ++ toLe 2 failed ++ toLe 2 tested ++ List.replicate 16 0)

/-- Regions named by a mask. -/
def maskRegions (m : Nat) : List Nat := (List.range 16).filter (fun g => decide (bitsAt m g 1 = 1))

/-- A run that is aborted: the sections of context 7 stop as R216 states, with a cause that the spec does not name, nominal is restored, and the
event carries GLARE_ABORT (R554).
DEDUCED (log entry 56). -/
def State.glareAbort (s : State) : State :=
  match s.glare.run with
  | none => s
  | some r =>
    let s := (maskRegions r.regions).foldl (fun (s : State) g =>
      let x := s.sec g 7
      if x.active && x.fault.isNone then
        let (v, s) := s.freeVal
        let s := s.setSec g 7 (x.withFault (some ⟨fld v 7 0, 0, 0xFFFF⟩))
        x.tiles.foldl (fun (s : State) t => s.updTile t (fun y => y.haltFor g 7)) s
      else s) s
    let s := s.restoreClocks r
    let s := s.withGlare (s.glare.withRun none)
    let s := (s.setRf 0xB1008 2 0 3).setRf 0xB1008 15 8 St.glareAbort
    s.postGlare St.glareAbort r.failed.length r.tested.length

/-! ## Fatal errors (R540) -/

/-- Some section of region g that holds its context binds a stream whose base satisfies `p`. -/
def State.bindsStream (s : State) (g : Nat) (p : Nat → Bool) : Bool :=
  (List.range 8).any (fun c =>
    let x := s.sec g c
    x.resident && x.tiles.any (fun t => ((s.tile t).ctx c).binds.any (fun b =>
      b.2.bound && s.thisChip (gaChip b.2.base) && p b.2.base)))

/-- Region g has a carve-out of T1 on stack n, or a stream there. -/
def State.regionUsesStack (s : State) (g n : Nat) : Bool :=
  decide (s.rf (t1Carve n g) 30 16 > s.rf (t1Carve n g) 14 0) ||
    s.bindsStream g (fun a => decide (gaSpace a = 2 ∧ gaOff a / 2 ^ 36 = n))

/-- Region g has a carve-out of T2 or a stream there. T2 is spread over every channel of its map. -/
def State.regionUsesT2 (s : State) (g : Nat) : Bool :=
  decide (s.rf (t2Carve g) 46 24 > s.rf (t2Carve g) 21 0) || s.bindsStream g (fun a => decide (gaSpace a = 3))

/-- The function with readiness index i serves region g: 16 + n CD[n], 32 + n HBM[n], 48 + n MEMCH[n]. -/
def State.regionUses (s : State) (g i : Nat) : Bool :=
  if 16 ≤ i ∧ i < 32 then s.regionUsesDie g (i - 16) || s.regionUsesStack g (i - 16)
  else if 32 ≤ i ∧ i < 48 then s.regionUsesStack g (i - 32)
  else if 48 ≤ i ∧ i < 64 then s.rb 0x40000 (i - 48) && s.regionUsesT2 g
  else false

/-- A fatal error: completions of the regions that are fenced, the fatal record, the abort of a glare run, and the region resets (R540,
R541, R554).
DEDUCED (log entry 56). -/
def State.fatal (s : State) (gs : List Nat) (e : ErrInfo) : State :=
  let s := gs.foldl (fun (s : State) g => s.postFaults g 0x06 0xFFFF) s
  let s := s.raiseError (e |>.withCls 2 |>.withFlags (e.flags ||| (if gs.isEmpty then 0 else 2)))
  let s := s.glareAbort
  gs.foldl (fun (s : State) g => s.resetRegion g) s

/-- A function is fenced: its readiness bit clears, and with LANTERN Hold is set. -/
def State.unready (s : State) (i : Nat) : State :=
  let s := if i < 64 then s.setRb 0x10000 i false else s.setRb 0x10008 (i - 64) false
  if i = 3 then (s.setRb 0x30000 1 true) else s

def State.fenceFunction (s : State) (i : Nat) (e : ErrInfo) : State :=
  (s.unready i).fatal ((List.range 16).filter (fun g => s.regionUses g i)) e

end Sys2Proof.Machine
end

