-- ==== Sys2Proof/Machine/Mem.lean ====
section
/-! DEFINITION. Memory requests at their target chip: the checks of Table 10.3, home tables, and the access itself (R284-R294,
R312-R314, R319-R331, R337-R341, R423, R470, R533-R538, R541, R566). -/
namespace Sys2Proof.Machine

/-! ## Readiness (R34, R495) -/

def State.ready (s : State) (i : Nat) : Bool := s.rb 0x10000 i
def State.cdReady (s : State) (n : Nat) : Bool := s.ready (16 + n)
def State.hbmReady (s : State) (n : Nat) : Bool := s.ready (32 + n)
def State.chReady (s : State) (n : Nat) : Bool := s.ready (48 + n)

/-- The device is in Dim, or still leaving it (R574, R575). -/
def State.inDim (s : State) : Bool := decide (s.rf 0xD0008 2 0 = 1 ∨ s.rf 0xD0008 2 0 = 3)

/-! ## T2 layout (R288, R297) -/

def State.t2Nch (s : State) : Nat := popCount 16 (s.rf 0x40000 15 0)
def State.t2Cap (s : State) : Nat := s.rf 0x40000 35 24
def State.t2Bytes (s : State) : Nat := 2 ^ 30 * (s.t2Nch * s.t2Cap)
def State.t2On (s : State) : Bool := s.rb 0x40000 63
/-- The channels that a map selects, in ascending order: m_0, m_1, … -/
def mapChans (map : Nat) : List Nat := (List.range 16).filter (fun i => decide (bitsAt map i 1 = 1))

/-- Where a byte of T2 lies: its channel and its address in the channel. -/
def t2Place (map off : Nat) : Nat × Nat :=
  let l := mapChans map
  ((l[off / 4096 % max 1 l.length]?).getD 0, off / 4096 / max 1 l.length * 4096 + off % 4096)

/-- The channel that holds a byte of T2. -/
def State.t2Chan (s : State) (off : Nat) : Nat := (t2Place (s.rf 0x40000 15 0) off).1

/-- The key of a byte of T2 while its channel is not selected, or its address lies beyond CAP: a key of space 0x4, which no request reaches. -/
def hiddenKey (p : Nat × Nat) : Nat := memKey 4 (2 ^ 39 * p.1 + p.2)

/-- The key under a map and capacity of the T2 byte that a key under another map names. -/
def t2Rekey (map map' cap' k : Nat) : Nat :=
  let p := if k / 2 ^ 46 = 3 then t2Place map (k % 2 ^ 46) else (k % 2 ^ 46 / 2 ^ 39, k % 2 ^ 39)
  let l := mapChans map'
  match findPos (fun c => c == p.1) l with
  | some i => if p.2 < 2 ^ 30 * cap' then memKey 3 ((p.2 / 4096 * l.length + i) * 4096 + p.2 % 4096) else hiddenKey p
  | none => hiddenKey p

/-- Keys of T2, whether its bytes can be reached or not. -/
def inT2 (k : Nat) : Bool := decide (k / 2 ^ 46 = 3 ∨ k / 2 ^ 46 = 4)

/-- The bytes of T2 stay where they are in the channels when the map or the capacity changes (R288). -/
def State.remapT2 (s : State) (map' cap' : Nat) : State :=
  let key := t2Rekey (s.rf 0x40000 15 0) map' cap'
  let mem := (s.mem.filter (fun e => inT2 e.1)).foldl (fun m e => Sparse.put memD m (key e.1) e.2) (Sparse.keep (fun k => !inT2 k) s.mem)
  (s.withMem mem).withBad ((s.bad.filter inT2).foldl (fun l k => insertNat (key k) l) (s.bad.filter (fun k => !inT2 k)))

/-! ## Checks 1 to 3 (R285-R292, R327) -/

/-- The bytes [off, off + n) of a space exist (R286-R290). In space 0x2 OFFSET[45:40] is 0, OFFSET[39:36] names the stack and OFFSET[35:0] a byte
below 48 GiB within it (R287). -/
def State.inSpace (s : State) (space off n : Nat) : Bool :=
  let last := off + (n - 1)
  match space with
  | 1 =>
    if off < 2 ^ 29 then decide (last < 2 ^ 29)
    else decide (2 ^ 29 ≤ off ∧ last < 2 ^ 29 + 2 ^ 26)
  | 2 => decide (off / 2 ^ 40 = 0 ∧ last / 2 ^ 36 = off / 2 ^ 36 ∧ last % 2 ^ 36 < 0xC00000000)
  | 3 => decide (last < s.t2Bytes)
  | _ => false

/-- Granule of a byte of T1 or T2 (R291). -/
def granuleOf (space off : Nat) : Nat := if space = 2 then 24576 * (off / 2 ^ 36) + off % 2 ^ 36 / 2 ^ 21 else off / 2 ^ 21
/-- Tier of a space: 0 T1, 1 T2. -/
def tierOf (space : Nat) : Nat := space - 2
/-- The offset of a granule in its space. -/
def granuleOff (tier g : Nat) : Nat := if tier = 0 then 2 ^ 36 * (g / 24576) + 2 ^ 21 * (g % 24576) else 2 ^ 21 * g
/-- Granules of a tier. -/
def State.granules (s : State) (tier : Nat) : Nat := if tier = 0 then 393216 else s.t2Bytes / 2 ^ 21

/-! ## Carve-outs and loans (R294, R295, R312-R314) -/


/-- A byte of spaces 0x1-0x3 lies in region g's carve-out. -/
def State.inCarve (s : State) (g space off : Nat) : Bool :=
  match space with
  | 1 =>
    let o := dsCarve (off / 2 ^ 25) g
    let u := off % 2 ^ 25 / 2 ^ 16
    decide (off < 2 ^ 29 ∧ s.rf o 8 0 ≤ u ∧ u < s.rf o 25 16)
  | 2 =>
    let o := t1Carve (off / 2 ^ 36) g
    let u := off % 2 ^ 36 / 2 ^ 21
    decide (s.rf o 14 0 ≤ u ∧ u < s.rf o 30 16)
  | 3 =>
    let u := off / 2 ^ 21
    decide (s.rf (t2Carve g) 21 0 ≤ u ∧ u < s.rf (t2Carve g) 46 24)
  | _ => false

/-- Every byte of a range lies in region g's carve-outs: the range is no longer than a unit, so its ends decide. -/
def State.rangeInCarve (s : State) (g space off n : Nat) : Bool := s.inCarve g space off && s.inCarve g space (off + (n - 1))

def loanReg (k o : Nat) : Nat := 0x41000 + 0x20 * k + o
/-- 0 FREE, 1 ACTIVE, 2 RECALLING, 3 SCRUBBING. -/
def State.loanState (s : State) (k : Nat) : Nat := s.rf (loanReg k 0x10) 1 0
def State.loanCovers (s : State) (k tier g : Nat) : Bool :=
  decide (s.rf (loanReg k 0) 48 48 = tier ∧ s.rf (loanReg k 0) 21 0 ≤ g ∧ g < s.rf (loanReg k 0) 21 0 + s.rf (loanReg k 0) 45 24)
def State.loanBorrower (s : State) (k : Nat) : Nat := s.rf (loanReg k 8) 13 0
def State.loanRegion (s : State) (k : Nat) : Nat := s.rf (loanReg k 8) 19 16
/-- The slots that are not FREE and cover a granule. -/
def State.loansOf (s : State) (tier g : Nat) : List Nat :=
  (List.range 64).filter (fun k => decide (s.loanState k ≠ 0) && s.loanCovers k tier g)

/-! ## Home tables (R319-R323) -/

/-- An entry of a home table: STATE, RO, SLOT, PEER, FLIP_TIME (Table 11.1). -/
structure HomeEnt where
  st : Nat
  ro : Bool
  slot : Nat
  peer : Nat
  flip : Nat
  deriving DecidableEq, Repr

def HomeEnt.withRo (x : HomeEnt) (v : Bool) : HomeEnt := { x with ro := v }

def State.homeBase (s : State) (tier : Nat) : Nat := (s.reg (0x42000 + 8 * tier)).toNat

/-- The entry of a granule; HOME and RO 0 while the table's base is 0 (R322). -/
def State.home (s : State) (tier g : Nat) : HomeEnt :=
  if s.homeBase tier = 0 then ⟨0, false, 0, 0, 0⟩
  else
    let b := s.rdMem (gaKey (s.homeBase tier + 32 * g)) 32
    ⟨leAt b 0 1 % 8, decide (leAt b 0 1 / 8 % 2 = 1), leAt b 1 1 % 16, leAt b 8 8, leAt b 16 8⟩

/-- An MOVED entry is in afterglow (R324). -/
def State.inGlow (s : State) (tier g : Nat) (e : HomeEnt) : Bool :=
  s.net.glow.contains (tier, g) && decide (s.now < 400000 + e.flip)

/-- The place of byte `off` of a granule in the granule that an address names. -/
def moved (peer off : Nat) : Nat := peer + off % 2 ^ 21

/-! ## Code words (R532-R538) -/

/-- Data bytes of a code word of a space. -/
def wordBytes (space : Nat) : Nat := if space = 1 then 32 else 64

/-- The keys of the code words that a range covers. -/
def wordKeys (space k n : Nat) : List Nat :=
  let w := wordBytes space
  (List.range ((k + (n - 1)) / w - k / w + 1)).map (fun i => (k / w + i) * w)

/-- Some code word of the range is uncorrectable. -/
def State.hasBad (s : State) (space k n : Nat) : Bool := (wordKeys space k n).any (fun w => s.bad.contains w)

/-- The code words that a write covers only in part. -/
def partWords (space k n : Nat) : List Nat :=
  let w := wordBytes space
  (wordKeys space k n).filter (fun a => decide (a < k) || decide (a + w > k + n))

/-! ## Device tables (R418-R420) -/

/-- The base register of every device table with the register and field of its limit (R420). -/
def tableBases : List (Nat × Nat × Nat) :=
  [(0x30028, 0x30030, 12), (0x30038, 0x30040, 12), (0x30048, 0x30050, 12), (0x30500, 0x30508, 10), (0x30400, 0x30408, 12),
    (0x40008, 0x40010, 16), (0xC0060, 0xC0068, 14)] ++
  (List.range 16).flatMap (fun n => [(cdOff n 0x3008, cdOff n 0x3010, 16), (cdOff n 0x3408, cdOff n 0x3410, 16)])

/-- The key names an entry of a device table whose base is set. -/
def State.inTable (s : State) (k : Nat) : Bool :=
  tableBases.any (fun b => match s.regs.find? (fun e => e.1 == b.1) with
    | some e => decide (gaKey e.2.toNat ≤ k ∧ k < gaKey e.2.toNat + 64 * s.rf b.2.1 b.2.2 0)
    | none => false)

/-- Software writes bytes [k, k + n): the entries of device tables that they change stay as Cavor holds them until TABLE_SYNC (R419).
DESIGN CHOICE (log entry 72). -/
def State.keepOld (s : State) (k n : Nat) : State :=
  if k / 2 ^ 46 ≠ 2 then s
  else (wordKeys 2 k n).foldl (fun (s : State) a =>
    if s.inTable a && !s.net.tabs.any (fun e => e.1 == a) then s.withNet (s.net.withTabs (s.net.tabs ++ [(a, s.rdMem a 64)])) else s) s

/-- The key at which a read of a table of Cavor's in T1 finds a byte: where its granule is now, or none where the read completes with another
status than OK. `again` is a unit that reissues HOME_MOVED (R325). The bytes of a granule whose home is another chip are those that Cavor keeps at
the old place.
DESIGN CHOICE (log entry 72). -/
def State.tableKey (s : State) (again : Bool) (a : Nat) : Nat → Option Nat
  | 0 => none
  | n + 1 =>
    if gaSpace a < 2 then some (gaKey a)
    else
      let tier := tierOf (gaSpace a)
      let g := granuleOf (gaSpace a) (gaOff a)
      let e := s.home tier g
      if e.st < 2 then some (gaKey a)
      else if again || (decide (e.st = 2) && s.inGlow tier g e) then
        if s.thisChip (gaChip e.peer) then s.tableKey again (moved e.peer (gaOff a)) n else some (gaKey a)
      else none

/-- The bytes of the entry at `a` as Cavor holds or reads them: none where the read completes with another status than OK, the checks of R293
aside. -/
def State.entrySeen (s : State) (again : Bool) (a : Nat) : Option (List Byte) :=
  match s.net.tabs.find? (fun e => e.1 == gaKey a) with
  | some e => some e.2
  | none => match s.tableKey again a 5 with
    | some k => if s.hasBad 2 k 64 then none else some (s.rdMem k 64)
    | none => none

/-! ## Who is admitted (R294, R423, R566) -/

/-- The GRANT bits of the peer table for chip c (R565, R566): none of an entry that cannot be read (R419). -/
def State.grants (s : State) (c : Nat) : Nat :=
  let b := (s.reg 0xC0060).toNat
  if b = 0 ∨ c ≥ s.rf 0xC0068 14 0 then 0
  else
    match s.entrySeen false (b + 64 * c) with
    | some e => if s.hbmReady (gaOff b / 2 ^ 36) ∧ leAt e 0 1 % 2 = 1 then leAt e 2 2 else 0
    | none => 0

def State.granted (s : State) (c b : Nat) : Bool := decide (bitsAt (s.grants c) b 1 = 1)

/-- A byte is admitted to a request.
DEDUCED (log entry 57). -/
def State.admits (s : State) (r : MemReq) (space off : Nat) : Bool :=
  (decide (r.part = 0xFFF) && match r.chip with
    | none => true
    | some c => s.granted c (if r.op = 1 then 2 else 3)) ||
  (decide (r.part ≠ 0xFFF) && (List.range 16).any (fun g => decide (s.partition g = r.part) && s.inCarve g space off)) ||
  (match r.chip with
    | some c => decide (space ≠ 1) && (s.loansOf (tierOf space) (granuleOf space off)).any (fun k =>
        decide (s.loanState k ≠ 3) && decide (s.loanBorrower k = c) && decide (s.partition (s.loanRegion k) = r.part))
    | none => false)

/-- The region whose carve-out holds a byte, with the requester's partition, does not take part in its span (R423). -/
def State.unlit (s : State) (r : MemReq) (space off : Nat) : Bool :=
  r.chip.isSome && decide (r.part ≠ 0xFFF) &&
    (List.range 16).any (fun g => decide (s.partition g = r.part) && s.inCarve g space off && !s.rb (0x51000 + 0x10 * g) 12)

/-- Orders 1 to 7 of Table 10.3: the first status that applies, or OK.
DEDUCED (log entry 25). DEDUCED (log entry 26). -/
def State.memCheck (s : State) (r : MemReq) : Nat :=
  let space := gaSpace r.addr
  let off := gaOff r.addr
  let last := off + (r.len - 1)
  if s.inDim ∧ space ≤ 3 then St.pwrDim
  else if ¬ (space = 1 ∨ space = 2 ∨ space = 3) then St.addrSpace
  else if !s.inSpace space off (max 1 r.len) then St.addrRange
  else if r.len = 0 ∨ r.len % 4 ≠ 0 ∨ off % 4 ≠ 0 ∨ r.len > r.top ∨ (r.op = 3 ∧ off % r.len ≠ 0) ∨
      (space ≠ 1 ∧ off / 2 ^ 21 ≠ last / 2 ^ 21) then St.addrAlign
  else if !(match space with
      | 1 => if off < 2 ^ 29 then s.cdReady (off / 2 ^ 25) && s.cdReady (last / 2 ^ 25) else s.ready 2
      | 2 => s.hbmReady (off / 2 ^ 36)
      | _ => s.t2On && s.chReady (s.t2Chan off) && s.chReady (s.t2Chan last)) then St.dieNotReady
  else if space = 1 ∧ off ≥ 2 ^ 29 ∧ r.part ≠ 0xFFF then St.memDenied
  else if !(s.admits r space off && s.admits r space last) then St.memDenied
  else if s.unlit r space off || s.unlit r space last then St.spanUnlit
  else if space = 1 then St.ok
  else
    let loans := s.loansOf (tierOf space) (granuleOf space off)
    if r.chip.isNone ∧ r.part ≠ 0xFFF ∧ !loans.isEmpty then St.loanHeld
    else match r.chip with
      | some c =>
        if loans.any (fun k => decide (s.loanState k = 3) && decide (s.loanBorrower k = c) &&
            decide (s.partition (s.loanRegion k) = r.part)) then St.loanRecalled
        else St.ok
      | none => St.ok

/-- The slot that admits a borrower's request, for its counters (R312). -/
def State.loanSlot (s : State) (r : MemReq) : Option Nat :=
  match r.chip with
  | some c =>
    if gaSpace r.addr < 2 then none
    else (s.loansOf (tierOf (gaSpace r.addr)) (granuleOf (gaSpace r.addr) (gaOff r.addr))).find? (fun k =>
      decide (s.loanBorrower k = c) && decide (s.partition (s.loanRegion k) = r.part))
  | none => none

/-! ## Home tables, written (R321, R335) -/

/-- An entry written to the table (R321). -/
def State.setHome (s : State) (tier g : Nat) (e : HomeEnt) : State :=
  if s.homeBase tier = 0 then s
  else s.wrMem (gaKey (s.homeBase tier + 32 * g))
    (toLe 1 (e.st + e.ro.toNat * 8) ++ toLe 1 e.slot ++ toLe 6 0 ++ toLe 8 e.peer ++ toLe 8 e.flip ++ toLe 8 0)

/-- The always-on list of entries that are MOVING_OUT or MOVING_IN (R335). -/
def State.addCut (s : State) (tier g : Nat) : State := s.withNet (s.net.withCut (s.net.cut ++ [(tier, g)]))
def State.dropCut (s : State) (tier g : Nat) : State :=
  s.withNet (s.net.withCut (s.net.cut.filter (fun e => e != (tier, g))))

/-! ## Uncorrectable words (R532-R538) -/

/-- The record of an uncorrectable word (Tables 19.3, 19.4). -/
def badInfo (s : State) (space off : Nat) (region : Option Nat) : ErrInfo :=
  let src := if space = 1 then (if off < 2 ^ 29 then 3 else 4) else if space = 2 then 5 else 6
  { cls := 1, source := src, who := region.map (fun g => (g, 0)), addr := 0x3FFF * 2 ^ 50 + 2 ^ 46 * space + off,
    status := St.memError, die := if space = 1 then (if off < 2 ^ 29 then off / 2 ^ 25 else 16) else if space = 2 then off / 2 ^ 36 else 17 + s.t2Chan off / 8,
    unit := if space = 2 then off / 2 ^ 36 else if space = 3 then s.t2Chan off else 0xFFFF }

/-- The firmware image area of hub SRAM (R501). -/
def imageArea (space off : Nat) : Bool := decide (space = 1 ∧ 2 ^ 29 ≤ off ∧ off < 2 ^ 29 + 2 ^ 25)

/-- A unit has met an uncorrectable word: the region it works for is fenced; a management or remote requester is told only, and in the firmware
image area LANTERN is fenced (Table 19.2, R541). -/
def State.metBad (s : State) (space off : Nat) (region : Option Nat) : State :=
  match region with
  | some g => s.fenceRegion g 0x06 0xFFFF (badInfo s space off region)
  | none =>
    if imageArea space off && s.rb 0x10000 3 then s.fenceFunction 3 (badInfo s space off none)
    else s.raiseError (badInfo s space off none)

/-! ## Performing an access (R292, R337, R339, R470) -/

/-- The new value of a word under an atomic operation. -/
def atomicNew (kind bits old a b : Nat) : Nat :=
  let m := 2 ^ bits
  match kind with
  | 0x01 => a % m
  | 0x02 => if old = a % m then b % m else old
  | 0x03 => (old + a) % m
  | 0x04 => old &&& (a % m)
  | 0x05 => old ||| (a % m)
  | 0x06 => old ^^^ (a % m)
  | 0x07 => if sext bits a < sext bits old then a % m else old
  | 0x08 => if sext bits old < sext bits a then a % m else old
  | 0x09 => min old (a % m)
  | 0x0A => max old (a % m)
  | _ => old

/-- The access is carried out at the home: MEM_ERROR for an uncorrectable word, otherwise OK with the data. -/
def State.perform (s : State) (r : MemReq) : Ans × State :=
  let space := gaSpace r.addr
  let off := gaOff r.addr
  let k := gaKey r.addr
  let stop := if r.op = 2 then (partWords space k r.len).any (fun w => s.bad.contains w) else s.hasBad space k r.len
  if stop then (⟨St.memError, [], 0, false⟩, s.metBad space off r.region)
  else match r.op with
    | 1 => (⟨0, s.rdMem k r.len, 0, false⟩, s)
    | 2 =>
      let s := s.keepOld k r.len
      let full := (wordKeys space k r.len)
      (⟨0, [], 0, false⟩, (s.wrMem k (slice r.data 0 r.len)).withBad (s.bad.filter (fun w => !full.contains w)))
    | _ =>
      let s := s.keepOld k r.len
      let old := s.rdLe k r.len
      let v := atomicNew (beAt r.data 0 1) (8 * r.len) old (beAt r.data 8 8) (beAt r.data 16 8)
      (⟨0, toBe 8 old, 0, false⟩, s.wrLe k r.len v)

/-- The move job of a slot. -/
def State.moveJob (s : State) (slot : Nat) : Option MoveJob := s.net.moves.find? (fun j => j.slot == slot)
def State.setMove (s : State) (j : MoveJob) : State :=
  s.withNet (s.net.withMoves (s.net.moves.map (fun x => if x.slot = j.slot then j else x)))

/-- Operations held by frozen moves (R331). -/
def State.heldCount (s : State) : Nat := s.net.moves.foldl (fun a j => a + j.held.length) 0

/-- A write or atomic performed at a source that is copying marks its block dirty once the block's copy read has issued (R330). -/
def State.markDirty (s : State) (slot off : Nat) : State :=
  match s.moveJob slot with
  | some j =>
    let b := off % 2 ^ 21 / 4096
    if j.ph = .copying ∧ !j.todo.contains b then s.setMove (j.withDirty (insertNat b j.dirty)) else s
  | none => s

/-- The MOVING_IN entry has heard from its source (R335). -/
def State.heardIn (s : State) (tier g : Nat) : State :=
  s.withNet (s.net.withInbound (s.net.inbound.map (fun m =>
    if m.tier = tier ∧ m.granule = g then m.withLast s.now else m)))

/-- A MOVING_IN entry becomes HOME: SLOT and PEER are cleared (R332, R335). -/
def State.endIn (s : State) (tier g : Nat) (ro : Bool) : State :=
  let s := (s.setHome tier g ⟨0, ro, 0, 0, 0⟩).dropCut tier g
  (s.withNet (s.net.withInbound (s.net.inbound.filter (fun m => !(m.tier == tier && m.granule == g)))))

/-- What a request meets at its home: performed, held, refused with the next location, or forwarded (Table 11.2). -/
inductive AtHome where
  | perform (s : State)
  | refuse (status loc : Nat)
  | hold (slot : Nat)
  | forward (loc : Nat)

/-- Table 11.2.
DEDUCED (log entry 30). -/
def State.atHome (s : State) (r : MemReq) : AtHome :=
  let space := gaSpace r.addr
  let off := gaOff r.addr
  if space = 1 then .perform s
  else
    let tier := tierOf space
    let g := granuleOf space off
    let e := s.home tier g
    let loc := moved e.peer off
    match e.st with
    | 0 => if e.ro ∧ r.op ≠ 1 then .refuse St.homeReadonly 0 else .perform s
    | 1 =>
      if r.op = 1 then .perform s
      else if e.ro then .refuse St.homeReadonly 0
      else match s.moveJob e.slot with
        | some j =>
          if j.ph = .frozen then (if s.heldCount ≥ 4096 then .refuse St.homeBusy 0 else .hold e.slot)
          else .perform (s.markDirty e.slot off)
        | none => .perform s
    | 2 => if s.inGlow tier g e then .forward loc else .refuse St.homeMoved loc
    | 3 =>
      let fromSource := match r.chip with
        | some c => decide (gaChip e.peer = c)
        | none => s.thisChip (gaChip e.peer)
      if fromSource && r.mover then .perform (s.heardIn tier g)
      else if fromSource && r.fwd then .perform (s.endIn tier g e.ro)
      else .refuse St.homeMoved loc
    | _ => .perform s

/-- A refusal is counted: a denied request from another chip in SEC_DENIED, one of a former borrower in its loan slot (R312,
R566). -/
def State.refused (s : State) (r : MemReq) (st : Nat) : State :=
  let s := if r.chip.isSome ∧ r.part = 0xFFF ∧ st = St.memDenied then s.count 0xC0070 63 32 1 else s
  let s := if st = St.homeBusy then s.count 0x42018 63 48 1 else s
  if st = St.loanRecalled then
    match s.loanSlot r with
    | some k => s.count (loanReg k 0x18) 63 32 1
    | none => s
  else s

/-- A request at this chip, its target (R293): answered, or none while it is held or forwarded, when `client` gets the answer later.
`n` bounds a chain of forwards within this chip.
DEDUCED (log entry 27). -/
def State.request (s : State) (r : MemReq) (client : Client) : Nat → Option Ans × State
  | 0 => (some ⟨St.homeMoved, [], r.addr, false⟩, s)
  | n + 1 =>
    let st := s.memCheck r
    if st ≠ 0 then (some ⟨st, [], 0, false⟩, s.refused r st)
    else
      let s := match s.loanSlot r with
        | some k => s.count (loanReg k 0x18) 31 0 1
        | none => s
      match s.atHome r with
      | .perform s => let q := s.perform r; (some q.1, q.2)
      | .refuse st loc => (some ⟨st, [], loc, false⟩, s.refused r st)
      | .hold slot =>
        match s.moveJob slot with
        | some j => (none, s.setMove (j |>.withHeld (j.held ++ [⟨r, client⟩]) |>.withHeldOps (j.heldOps + 1)))
        | none => (some ⟨St.homeBusy, [], 0, false⟩, s)
      | .forward loc =>
        if s.thisChip (gaChip loc) then
          let q := State.request s (r |>.withAddr loc |>.withFwd true) client n
          (q.1.map (fun a => if a.status = St.homeMoved then a else a |>.withLoc loc |>.withFwd true), q.2)
        else
          let c' := match client with
            | .peer c d t b => Client.forwarded c d t b loc
            | c => c
          match s.sendOp (gaChip loc) r.op loc r.len r.data r.part Fl.fwd c' with
          | (.now a, s) => (some a, s)
          | (.out _, s) => (none, s)
          | (.full, s) => (some ⟨St.homeBusy, [], 0, false⟩, s)

/-- A request of this chip's own units by global address: performed here, or sent to the chip that the address names. -/
def State.access (s : State) (r : MemReq) (client : Client) : Option Ans × State :=
  if s.thisChip (gaChip r.addr) then s.request r client 5
  else match s.sendOp (gaChip r.addr) r.op r.addr r.len r.data r.part 0 client with
    | (.now a, s) => (some a, s)
    | (.out _, s) => (none, s)
    | (.full, s) => (none, s)

/-! ## Accesses of units that work in one step -/

/-- A request of a unit of this chip that works for region g, or for management when `g` is none.
DEDUCED (log entry 36). -/
def unitReq (s : State) (op addr len : Nat) (data : List Byte) (g : Option Nat) : MemReq :=
  ⟨op, addr, len, data, match g with
    | some g => s.partition g
    | none => 0xFFF, none, g, 4096, false, false⟩

/-- Why an access of a unit has no answer in this step: it has still to come, the request has still to be made, or HOME_BUSY has refused it and the
unit reissues it (R331). -/
inductive Park where
  | wait
  | issue (r : MemReq)
  | busy (r : MemReq)
  deriving DecidableEq, Repr

/-- The request is out: some home holds it, or an old home has forwarded it. -/
def State.awaits (s : State) (r : MemReq) : Bool :=
  s.net.moves.any (fun j => j.held.any (fun h => h.client == Client.unit r)) ||
    s.net.ops.any (fun o => o.client == Client.unit r && o.done.isNone)

/-- The answer of a unit's request is kept until the unit's next step takes it. -/
def State.gotUnit (s : State) (r : MemReq) (a : Ans) : State := s.withNet (s.net.withUnitAns (s.net.unitAns ++ [(r, a)]))

/-- The answers without the first one of request `r`. -/
def dropAns (r : MemReq) (l : List (MemReq × Ans)) : List (MemReq × Ans) := l.eraseP (fun e => e.1 == r)

/-- The first answer of the request has been taken. -/
def State.tookUnit (s : State) (r : MemReq) : State := s.withNet (s.net.withUnitAns (dropAns r s.net.unitAns))

/-- The address on another chip to which this chip's homes in afterglow forward the request, if they do (R324). -/
def State.lands (s : State) (r : MemReq) : Nat → Option Nat
  | 0 => none
  | n + 1 =>
    if s.memCheck r ≠ 0 then none
    else match s.atHome r with
      | .forward loc => if s.thisChip (gaChip loc) then State.lands s (r |>.withAddr loc |>.withFwd true) n else some loc
      | _ => none

/-- The request of a unit once: an answer that has come, or the access made now. `net` holds what other chips answer within the step; a request
to another chip that is not among them goes out as an operation.
DESIGN CHOICE (log entry 6). -/
def State.unitOnce (s : State) (net : List NetAns) (r : MemReq) : Except Park (Ans × State) :=
  match s.net.unitAns.find? (fun e => e.1 == r) with
  | some e => .ok (e.2, s.tookUnit r)
  | none =>
    let far (addr : Nat) (fwd : Bool) : Except Park (Ans × State) :=
      match s.netBlock (gaChip addr) r.part with
      | some st => .ok (⟨st, [], 0, false⟩, s)
      | none => match net.find? (fun a => a.addr == addr) with
        | some a => .ok (⟨a.status, a.data, if fwd && decide (a.moved = 0) then addr else a.moved,
            decide (a.status = 0) && (fwd || decide (a.moved ≠ 0))⟩, s)
        | none => .error (.issue r)
    if s.awaits r then .error .wait
    else if !s.thisChip (gaChip r.addr) then
      if 1 ≤ gaSpace r.addr ∧ gaSpace r.addr ≤ 3 then far r.addr false else .ok (⟨St.addrSpace, [], 0, false⟩, s)
    else match s.lands r 5 with
      | some loc => far loc true
      | none => match s.request r (.unit r) 5 with
        | (some a, s) => .ok (a, s)
        | (none, _) => .error (.issue r)

/-- The request of a unit, which HOME_BUSY ends only 2 ms after its first issue (R331).
DESIGN CHOICE (log entry 6). -/
def State.unitTry (s : State) (net : List NetAns) (r : MemReq) : Except Park (Ans × State) :=
  match s.unitOnce net r with
  | .error p => .error p
  | .ok (a, s) =>
    let settled := s.withNet (s.net.withBusy (s.net.busy.filter (fun e => e.1 != r)))
    if a.status ≠ St.homeBusy ∨ r.op = 1 then .ok (a, settled)
    else match s.net.busy.find? (fun e => e.1 == r) with
      | some e => if e.2 + 8000000 ≤ s.now then .ok (a, settled) else .error (.busy r)
      | none => .error (.busy r)

/-- The state in which a unit waits for an access that has no answer yet: the request is out or held by its home, or HOME_BUSY is counted where this
chip has given it, its answer is spent, and the unit knows when it first issued the request (R331).
DESIGN CHOICE (log entry 6). -/
def State.park (s : State) : Park → State
  | .wait => s
  | .issue r => match s.access r (.unit r) with
    | (some a, s) => s.gotUnit r a
    | (none, s) => s
  | .busy r =>
    let s := (if s.thisChip (gaChip r.addr) then s.refused r St.homeBusy else s).tookUnit r
    if s.net.busy.any (fun e => e.1 == r) then s else s.withNet (s.net.withBusy (s.net.busy ++ [(r, s.now)]))

/-- An access of a unit that reissues HOME_MOVED up to four times (R325).
DESIGN CHOICE (log entry 6). -/
def State.unitAccess (s : State) (net : List NetAns) (op addr len : Nat) (data : List Byte) (g : Option Nat) :
    Nat → Except Park (Ans × State)
  | 0 => .ok (⟨St.homeMoved, [], addr, false⟩, s)
  | n + 1 =>
    match s.unitTry net (unitReq s op addr len data g) with
    | .error p => .error p
    | .ok (a, s) => if a.status = St.homeMoved then State.unitAccess s net op a.loc len data g n else .ok (a, s)

/-- The pieces of a range: at most `unit` bytes each, cut at multiples of `unit`. -/
def cutRange (unit : Nat) : Nat → Nat → Nat → List (Nat × Nat)
  | 0, _, _ => []
  | n + 1, a, len => if len = 0 then [] else
      let k := min len (unit - a % unit)
      (a, k) :: cutRange unit n (a + k) (len - k)

/-- A range of any length read in pieces of at most 4 KiB: the bytes, or the first status other than OK.
DESIGN CHOICE (log entry 6). -/
def State.unitRead (s : State) (net : List NetAns) (addr len : Nat) (g : Option Nat) : Except Park (Nat × List Byte × State) :=
  (cutRange 4096 (len / 4096 + 2) addr len).foldl (fun acc p =>
    match acc with
    | .ok (0, bs, s) =>
      match State.unitAccess s net 1 p.1 p.2 [] g 5 with
      | .ok (a, s) => .ok (a.status, bs ++ slice a.data 0 (if a.status = 0 then p.2 else 0), s)
      | .error p => .error p
    | x => x) (.ok (0, [], s))

/-- A range of any length written in pieces of at most 4 KiB: the first status other than OK ends it; earlier pieces stand.
DESIGN CHOICE (log entry 6). -/
def State.unitWrite (s : State) (net : List NetAns) (addr : Nat) (data : List Byte) (g : Option Nat) : Except Park (Nat × State) :=
  (cutRange 4096 (data.length / 4096 + 2) addr data.length).foldl (fun acc p =>
    match acc with
    | .ok (0, s) =>
      match State.unitAccess s net 2 p.1 p.2 (slice data (p.1 - addr) p.2) g 5 with
      | .ok (a, s) => .ok (a.status, s)
      | .error p => .error p
    | x => x) (.ok (0, s))

/-- The payload of a NOTICE (Table 16.3). -/
def noticePayload (kind slot tier arg first count : Nat) : List Byte :=
  toBe 1 kind ++ toBe 1 slot ++ toBe 1 tier ++ [0] ++ toBe 4 arg ++ toBe 4 first ++ toBe 4 count

/-- The recall notice of slot k leaves for the borrower; without a free tag it stays owed (R314). -/
def State.sendRecall (s : State) (k : Nat) : State :=
  let rest := s.net.recalls.filter (· != k)
  let p := noticePayload 1 k (s.rf (loanReg k 0) 48 48) (s.rf (loanReg k 8) 47 32) (s.rf (loanReg k 0) 21 0) (s.rf (loanReg k 0) 45 24)
  match s.sendOp (s.loanBorrower k) 7 0 16 p (s.partition (s.loanRegion k)) 0 (.loan k) with
  | (.full, s) => s.withNet (s.net.withRecalls (rest ++ [k]))
  | (_, s) => s.withNet (s.net.withRecalls rest)

def recallReg (k o : Nat) : Nat := 0x71000 + 0x20 * k + o

/-- LOAN_RELEASE of recall record k leaves for its lender (R487); without a free tag it is owed, and a record that has ended owes none. -/
def State.sendRelease (s : State) (k : Nat) : State :=
  let rest := s.net.recalls.filter (· != 64 + k)
  let o := recallReg k 0
  let r := recallReg k 8
  if !s.rb o 0 then s.withNet (s.net.withRecalls rest)
  else match s.sendOp (s.rf o 29 16) 7 0 16 (noticePayload 2 (s.rf o 7 2) (s.rf o 8 8) 0 (s.rf r 31 0) (s.rf r 63 32)) 0xFFF 0 (.release k) with
    | (.full, s) => s.withNet (s.net.withRecalls (rest ++ [64 + k]))
    | (_, s) => s.withNet (s.net.withRecalls rest)

/-- A loan notice that is owed: below 64 the recall of a loan slot, from there on the release of a recall record. -/
def State.sendOwed (s : State) (n : Nat) : State := if n < 64 then s.sendRecall n else s.sendRelease (n - 64)

/-! ## Entries of device tables (R418, R419) -/

/-- An entry of a device table in this chip's T1, read for region g or for management: none when it cannot be read. -/
def State.entryRead (s : State) (g : Option Nat) (again : Bool) (base : W64) (i : Nat) : Option (List Byte) :=
  let a := base.toNat + 64 * i
  if s.memCheck (unitReq s 1 a 64 [] g) = 0 then s.entrySeen again a else none

/-- An entry, which counts as not VALID when it cannot be read. -/
def State.entryFor (s : State) (g : Option Nat) (again : Bool) (base : W64) (i : Nat) : List Byte :=
  (s.entryRead g again base i).getD (List.replicate 64 0)

/-- An entry read for management by a unit that takes HOME_MOVED as it comes.
DESIGN CHOICE (log entry 72). -/
def State.tableEntry (s : State) (base : W64) (i : Nat) : List Byte := s.entryFor none false base i

/-- What a read of an entry that meets an uncorrectable word does beside (R419, Table 19.2). -/
def State.entryMet (s : State) (g : Option Nat) (again : Bool) (base : W64) (i : Nat) : State :=
  let a := base.toNat + 64 * i
  if s.memCheck (unitReq s 1 a 64 [] g) ≠ 0 ∨ s.net.tabs.any (fun e => e.1 == gaKey a) then s
  else match s.tableKey again a 5 with
    | some k => if s.hasBad 2 k 64 then s.metBad 2 (k % 2 ^ 46) g else s
    | none => s

/-- Byte 0 bit 0 of an entry. -/
def entValid (e : List Byte) : Bool := decide (leAt e 0 1 % 2 = 1)

/-- Bytes of an entry that Cavor holds, written. -/
def heldBytes (l : List (Nat × List Byte)) (k o : Nat) (bs : List Byte) : List (Nat × List Byte) :=
  l.map (fun e => if e.1 = k then (k, overlay e.2 o bs) else e)

/-- Words of a table written by Cavor at their home (Table 11.2): performed, held by a frozen home, or sent to the chip that is the home now.
A write that R293 or the home refuses changes nothing. `k` is the key of Cavor's own bytes.
DESIGN CHOICE (log entry 72). -/
def State.cavorWords (s : State) (r : MemReq) (k : Nat) : Nat → State
  | 0 => s
  | n + 1 =>
    let there (s : State) (loc : Nat) : State :=
      if s.thisChip (gaChip loc) then State.cavorWords s (r.withAddr loc) k n
      else ((s.sendOp (gaChip loc) 2 loc r.len r.data r.part 0 .none).2).wrMem k r.data
    if s.memCheck r ≠ 0 then s
    else match s.atHome r with
      | .perform s1 =>
        if (partWords (gaSpace r.addr) k r.len).any (fun w => s1.bad.contains w) then s1.metBad (gaSpace r.addr) (gaOff r.addr) r.region
        else s1.wrMem k r.data
      | .hold slot => match s.moveJob slot with
        | some j => (s.setMove (j |>.withHeld (j.held ++ [⟨r, .none⟩]) |>.withHeldOps (j.heldOps + 1))).wrMem k r.data
        | none => s
      | .forward loc => there s loc
      | .refuse st loc => if st = St.homeMoved then there s loc else s.refused r st

/-- `n` bytes of a table written by Cavor for region g or for management: an atomic read-modify-write of the words that hold them (R418).
DESIGN CHOICE (log entry 72). -/
def State.cavorWrite (s : State) (g : Option Nat) (a n v : Nat) : State :=
  let lo := a / 4 * 4
  let len := roundUp (a + n) 4 - lo
  let k := (s.tableKey true lo 5).getD (gaKey lo)
  s.cavorWords (unitReq s 2 lo len (overlay (s.rdMem k len) (a - lo) (toLe n v)) g) k 5

/-- Bytes of a table of Cavor's that is no device table, read where they are now: the range is cut so that no part of it lies in two granules. -/
def State.cavorRead (s : State) (a n : Nat) : List Byte :=
  (cutRange 4096 (n / 4096 + 2) a n).flatMap (fun p => s.rdMem ((s.tableKey true p.1 5).getD (gaKey p.1)) p.2)

/-- Bytes written there for management, on this chip or at the chip that the address names. -/
def State.cavorBytes (s : State) (a : Nat) (bs : List Byte) : State :=
  (cutRange 4096 (bs.length / 4096 + 2) a bs.length).foldl (fun (s : State) p =>
    let r := unitReq s 2 p.1 p.2 (slice bs (p.1 - a) p.2) none
    if s.thisChip (gaChip p.1) then s.cavorWords r ((s.tableKey true p.1 5).getD (gaKey p.1)) 5
    else (s.sendOp (gaChip p.1) 2 p.1 p.2 r.data r.part 0 .none).2) s

/-- Status bytes of an entry written by Cavor (R418), in memory and in what it holds of the entry. -/
def State.setEntryFor (s : State) (g : Option Nat) (base : W64) (i o n v : Nat) : State :=
  let a := base.toNat + 64 * i
  let s := s.cavorWrite g (a + o) n v
  s.withNet (s.net |>.withTabs (heldBytes s.net.tabs (gaKey a) o (toLe n v)) |>.withOldTabs (heldBytes s.net.oldTabs (gaKey a) o (toLe n v)))

/-- Status bytes of an entry written for management.
DESIGN CHOICE (log entry 72). -/
def State.setEntry (s : State) (base : W64) (i o n v : Nat) : State := s.setEntryFor none base i o n v

/-- An entry as the serving steps use it: what a TABLE_SYNC has brought counts from the next boundary on (R381). -/
def State.stepEntry (s : State) (base : W64) (i : Nat) : List Byte :=
  match s.net.oldTabs.find? (fun e => e.1 == gaKey (base.toNat + 64 * i)) with
  | some e => e.2
  | none => s.tableEntry base i

/-- No cache holds an old copy of entry i of a table any more (R420). For the serving tables (`steps`) the old entry stays in use until the next
boundary (R381). -/
def State.syncEntry (s : State) (steps : Bool) (base : W64) (i : Nat) : State :=
  let k := gaKey (base.toNat + 64 * i)
  match s.net.tabs.find? (fun e => e.1 == k) with
  | none => s
  | some e =>
    let s := s.withNet (s.net.withTabs (s.net.tabs.filter (fun e => e.1 != k)))
    if steps && !s.net.oldTabs.any (fun e => e.1 == k) then s.withNet (s.net.withOldTabs (s.net.oldTabs ++ [e])) else s

end Sys2Proof.Machine
end

