-- ==== Sys2Proof/Machine/TileAcc.lean ====
section
/-! DEFINITION. MMA, SWAP, DRAIN and FILL with the events of their units (R74-R93, R133-R144). -/
namespace Sys2Proof.Machine

/-- An event of a unit of tile `t` while it runs a context: `f` gets the region, the context and the tile.
DESIGN CHOICE (log entry 2). -/
def unitOp (t : Nat) (s : State) (f : Nat → Nat → Tile → State) : Out :=
  if t ≥ tileCount then .fault (.noSuchUnit "tile")
  else match (s.tile t).run with
    | none => .next s
    | some (g, c) => .next (f g c (s.tile t))


/-! ## Array operand layout (R76, R134) -/

/-- Bytes of an A block and of a B block. -/
def aBlock (sharedA : Bool) (f : Nat) : Nat := if sharedA then fmtBytes f 64 else fmtBytes f 512
def bBlock (sharedA : Bool) (f : Nat) : Nat := if sharedA then fmtBytes f 512 else fmtBytes f 64

/-- The A and B elements of step `k` in a block for cell (a, i, j) (Table 4.8). -/
def aPos (sharedA : Bool) (a i k : Nat) : Nat := if sharedA then i * 8 + k else (8 * a + i) * 8 + k
def bPos (sharedA : Bool) (a j k : Nat) : Nat := if sharedA then 64 * k + 8 * a + j else k * 8 + j

/-- Row and channel of cell (a, i, j) in the output tile (Table 3.2), and the channels of a record row. -/
def outRow (sharedA : Bool) (a i : Nat) : Nat := if sharedA then i else 8 * a + i
def outChan (sharedA : Bool) (a j : Nat) : Nat := if sharedA then 8 * a + j else j
def recWidth (sharedA : Bool) : Nat := if sharedA then 64 else 8

/-! ## Masks (R79, R136, R182) -/

/-- Eight mask bits for each array: bit b of array a from `f a b`. -/
def buildMask (f : Nat → Nat → Bool) : W64 :=
  BitVec.ofNat 64 (((List.range 64).map (fun n => if f (n / 8) (n % 8) then 2 ^ n else 0)).sum)

/-- The masks of ρ rows and γ columns (R136). -/
def extentMasks (sharedA : Bool) (rho gam : Nat) : W64 × W64 :=
  (buildMask (fun a i => decide (outRow sharedA a i < rho)), buildMask (fun a j => decide (outChan sharedA a j < gam)))

/-- Both extents lie in their range for the mode (R136). -/
def extentsOk (sharedA : Bool) (rho gam : Nat) : Bool :=
  decide (1 ≤ rho) && decide (1 ≤ gam) && decide (rho ≤ if sharedA then 8 else 64) &&
    decide (gam ≤ if sharedA then 64 else 8)

/-- The extent that a MASKGEN loop gives along its axis in its present trip (R182). -/
def loopExtent (y : TileCtx) (f : LoopFrame) : Nat :=
  let trip := (y.lcr f.lc).toNat
  if trip + 1 = f.trips ∧ f.trips = ceilDiv f.len f.ts then f.len - (f.trips - 1) * f.ts else f.ts

/-- The sequencer-generated extents of rows and columns: the innermost MASKGEN loop on each axis, or the full count (R182). -/
def genExtents (y : TileCtx) (loops : List LoopFrame) (sharedA : Bool) : Nat × Nat :=
  let on (cols : Bool) (full : Nat) := match loops.find? (fun f => f.maskgen && (f.cols == cols)) with
    | some f => loopExtent y f
    | none => full
  (on false (if sharedA then 8 else 64), on true (if sharedA then 64 else 8))

/-! ## MMA -/

/-- K of an MMA: the register that KSRC names, or KIMM + 1 (R133). -/
def mmaK (x : Tile) (c : Nat) (w : W64) : Nat := if bit w 15 then xr x c (fld w 4 0) else fld w 11 0 + 1

/-- The extents that x[XM] holds: rows in the low half, columns in the high half (R136). -/
def mmaExtents (x : Tile) (c : Nat) (w : W64) : Nat × Nat := (xr x c (fld w 22 18) % 65536, xr x c (fld w 22 18) / 65536)

/-- The checks of an MMA at issue, in order (R133-R136, R593). -/
def mmaChecks (x : Tile) (c : Nat) (w : W64) : List (Bool × Nat) :=
  let shA := bit w 51
  let fa := fld w 50 47
  let fb := fld w 46 43
  let ra := x.ring c (fld w 42 39)
  let rb := x.ring c (fld w 38 35)
  let oa := xr x c (fld w 34 30)
  let ob := xr x c (fld w 29 25)
  let msrc := fld w 24 23
  let nblk := ceilDiv (mmaK x c w) 8
  [ (bit w 15 && decide (fld w 11 5 ≠ 0), Exc.illegalField),
    (decide (fa ≥ 9) || decide (fb ≥ 9), Exc.operandFmt),
    (!ra.on || !rb.on, Exc.ringOff),
    (decide (ra.fmt ≠ fa) || decide (rb.fmt ≠ fb), Exc.ringFmt),
    (bit w 15 && decide (mmaK x c w > 65535), Exc.kRange),
    (decide (oa % 32 ≠ 0) || decide (ob % 32 ≠ 0), Exc.spadAlign),
    (decide (oa + nblk * aBlock shA fa > ra.size) || decide (ob + nblk * bBlock shA fb > rb.size), Exc.ringRange),
    (bit w 17 && (ra.isStatic || decide (oa ≠ 0)) || bit w 16 && (rb.isStatic || decide (ob ≠ 0)), Exc.ringPop),
    (decide (msrc = 1) && !extentsOk shA (mmaExtents x c w).1 (mmaExtents x c w).2, Exc.maskRange),
    (decide (msrc = 2) && decide (fld w 22 18 > 28), Exc.illegalField) ]

/-- The row and column masks of an MMA by MSRC (R136, R182). -/
def mmaMasks (x : Tile) (c : Nat) (w : W64) : W64 × W64 :=
  let shA := bit w 51
  let xm := fld w 22 18
  match fld w 24 23 with
  | 0 => (BitVec.allOnes 64, BitVec.allOnes 64)
  | 1 => extentMasks shA (mmaExtents x c w).1 (mmaExtents x c w).2
  | 2 => (BitVec.ofNat 64 (xr x c xm + 2 ^ 32 * xr x c (xm + 1)), BitVec.ofNat 64 (xr x c (xm + 2) + 2 ^ 32 * xr x c (xm + 3)))
  | _ =>
    let gen := genExtents (x.ctx c) x.u.loops shA
    extentMasks shA gen.1 gen.2

/-- The sequencer-generated extents lie out of range: found at the first read (R182). -/
def mmaBadMask (x : Tile) (c : Nat) (w : W64) : Bool :=
  let gen := genExtents (x.ctx c) x.u.loops (bit w 51)
  decide (fld w 24 23 = 3) && !extentsOk (bit w 51) gen.1 gen.2

/-- The MMA as it enters the array queue. -/
def mmaEntry (x : Tile) (c : Nat) (w : W64) : MmaOp :=
  ⟨w, (x.ctx c).pc, x.u.seqNo, mmaK x c w, xr x c (fld w 34 30), xr x c (fld w 29 25), (mmaMasks x c w).1, (mmaMasks x c w).2,
    mmaBadMask x c w, false, 0⟩

/-- MMA is checked at issue and enters the array queue with its masks fixed (R133-R136, R593).
DEDUCED (log entry 21).
DESIGN CHOICE (log entry 68). -/
def execMma (t : Nat) (s : State) : Out :=
  issueOp 0x20 t s (fun s _ c w _ =>
    let x := s.tile t
    checked (mmaChecks x c w)
      (if x.u.arrayQ.length ≥ 2 then .wait 0x3008
       else .go (s.setTile t (x.withU (x.u |>.withArrayQ (x.u.arrayQ ++ [mmaEntry x c w]) |>.withSeqNo (x.u.seqNo + 1))))))

/-- The K-block `b` of an MMA lies in both rings (R137). -/
def mmaReady (x : Tile) (c : Nat) (m : MmaOp) (b : Nat) : Bool :=
  let shA := bit m.word 51
  decide ((x.ring c (fld m.word 42 39)).used ≥ m.offA + (b + 1) * aBlock shA (fld m.word 50 47)) &&
    decide ((x.ring c (fld m.word 38 35)).used ≥ m.offB + (b + 1) * bBlock shA (fld m.word 46 43))

/-- SWAPs earlier in program order that have not executed. -/
def swapsBefore (u : Units) (seq : Nat) : Nat :=
  (u.accQ.filter (fun o => decide (o.kind = .swap) && decide (o.seq < seq))).length

/-- The next SWAP is at the head of its queue and can execute (R83). -/
def swapNext (u : Units) : Bool :=
  match u.accQ with
  | o :: _ => decide (o.kind = .swap) && decide (u.shadowSt = .ready)
  | [] => false

/-- The accumulator kind of an MMA is integer (R57). -/
def mmaInt (w : W64) : Bool :=
  let i (f : Nat) := decide (f = 7 ∨ f = 8)
  i (fld w 50 47) && i (fld w 46 43)

/-- At its first operand read an MMA compares mode and kind with the set that R83 makes live for it, and replaces that set's mask
image (R80, R84, R137-R139). An MMA with K = 0 then leaves the queue. -/
def execMmaFirstRead (t : Nat) (s : State) : Out :=
  unitOp t s (fun _ c x =>
    match x.u.arrayQ with
    | [] => s
    | m :: rest =>
      let n := swapsBefore x.u m.seq
      let useShadow := decide (n = 1) && swapNext x.u
      if m.started || !(decide (n = 0) || useShadow) then s
      else if decide (m.k > 0) && !mmaReady x c m 0 then s.updTile t (fun x => x.stall 0x3010)
      else
        let set := if useShadow then x.u.shadow else x.u.live
        if set.unfilled || set.sharedA != bit m.word 51 then s.tileExc t m.pc Exc.accSeq
        else if set.int != mmaInt m.word then s.tileExc t m.pc Exc.accKind
        else if m.badMask then s.tileExc t m.pc Exc.maskRange
        else
          let set := set |>.withRowMask m.rowMask |>.withColMask m.colMask
          let u := if useShadow then x.u.withShadow set else x.u.withLive set
          let q := if m.k = 0 then rest else m.withStarted true :: rest
          s.setTile t (x.withU (u.withArrayQ q)))

/-- The cell's bits of a mask pair allow it (R79). -/
def cellOn (rowM colM : W64) (a i j : Nat) : Bool := bit rowM (8 * a + i) && bit colM (8 * a + j)

/-- One K-step of an MMA on the 512 cells, with the flags raised (R57, R74, R79). -/
def mmaStep (rm : Rm) (m : MmaOp) (ab bb : List Byte) (k : Nat) (vals : List W32) : List W32 × Nat :=
  let shA := bit m.word 51
  let fa := fld m.word 50 47
  let fb := fld m.word 46 43
  let out := (List.range 512).map (fun n =>
    let a := n / 64
    let i := n / 8 % 8
    let j := n % 8
    let acc := (vals.getD n 0).toNat
    if cellOn m.rowMask m.colMask a i j then
      let ea := unpackElem fa ab (aPos shA a i k)
      let eb := unpackElem fb bb (bPos shA a j k)
      if mmaInt m.word then kStepInt fa ea fb eb acc else kStepFloat rm fa ea fb eb acc
    else (acc, 0))
  (out.map (fun q => BitVec.ofNat 32 q.1), orFlags out)

/-- The next K-block of the started MMA: waited for, read, accumulated; after the last the panels are popped (R57, R137). -/
def execMmaKblockRead (t : Nat) (s : State) : Out :=
  unitOp t s (fun _ c x =>
    match x.u.arrayQ with
    | [] => s
    | m :: rest =>
      if !m.started || decide (swapsBefore x.u m.seq ≠ 0) then s
      else if !mmaReady x c m m.block then s.updTile t (fun x => x.stall 0x3010)
      else
        let shA := bit m.word 51
        let sa := aBlock shA (fld m.word 50 47)
        let sb := bBlock shA (fld m.word 46 43)
        let ab := x.rdRing (x.ring c (fld m.word 42 39)) (m.offA + m.block * sa) sa
        let bb := x.rdRing (x.ring c (fld m.word 38 35)) (m.offB + m.block * sb) sb
        let steps := min 8 (m.k - 8 * m.block)
        let r := (List.range steps).foldl (fun (acc : List W32 × Nat) k =>
          let q := mmaStep (x.rm c) m ab bb k acc.1
          (q.1, acc.2 ||| q.2)) (x.u.live.vals, 0)
        let x := (x.withU (x.u.withLive (x.u.live.withVals r.1))).flags c r.2
        let nblk := ceilDiv m.k 8
        if m.block + 1 < nblk then
          s.setTile t (x.withU (x.u.withArrayQ ((m.withBlock (m.block + 1)) :: rest)))
        else
          let x := x.withU (x.u.withArrayQ rest)
          let x := if bit m.word 17 then x.popRing c (fld m.word 42 39) (roundUp (nblk * sa) 32) else x
          let x := if bit m.word 16 then x.popRing c (fld m.word 38 35) (roundUp (nblk * sb) 32) else x
          s.setTile t x)

/-! ## The accumulator control queue (R82) -/

/-- SWAP, DRAIN or FILL enters the accumulator control queue. -/
def enterAcc (s : State) (t c : Nat) (k : AccKind) (w : W64) : Issued :=
  let x := s.tile t
  if x.u.accQ.length ≥ 4 then .wait 0x3008
  else .go (s.setTile t (x.withU (x.u |>.withAccQ (x.u.accQ ++ [⟨k, w, (x.ctx c).pc, x.u.seqNo⟩]) |>.withSeqNo (x.u.seqNo + 1))))

def execSwap (t : Nat) (s : State) : Out :=
  issueOp 0x21 t s (fun s _ c w _ => enterAcc s t c .swap w)

/-- DRAIN enters the queue; reserved codes, and bits beside DISC, raise ILLEGAL_FIELD (R126, R141). -/
def execDrain (t : Nat) (s : State) : Out :=
  issueOp 0x22 t s (fun s _ c w _ =>
    checked
      [ (bit w 20 && decide (fld w 51 21 ≠ 0), Exc.illegalField),
        (!bit w 20 && (decide (fld w 47 44 ≥ 10) || decide (fld w 43 42 = 3) || decide (fld w 41 38 ≥ 9)), Exc.illegalField) ]
      (enterAcc s t c .drain w))

def execFill (t : Nat) (s : State) : Out :=
  issueOp 0x23 t s (fun s _ c w _ => enterAcc s t c .fill w)

/-- At the head, SWAP acts by the shadow state (Table 3.5), after every earlier MMA has accumulated (R83): the sets change places
with their kind bits, modes and mask images. -/
def execSwapExecute (t : Nat) (s : State) : Out :=
  unitOp t s (fun _ _ x =>
    match x.u.accQ with
    | o :: rest =>
      if o.kind ≠ .swap then s
      else match x.u.shadowSt with
        | .ready =>
          if x.u.arrayQ.any (fun m => decide (m.seq < o.seq)) then s.updTile t (fun x => x.stall 0x3018)
          else s.setTile t (x.withU (x.u |>.withLive x.u.shadow |>.withShadow x.u.live |>.withShadowSt .held |>.withAccQ rest))
        | .filling => s.updTile t (fun x => x.stall 0x3018)
        | _ => s.tileExc t o.pc Exc.accSeq
    | [] => s)

/-- The checks of a DRAIN at the head of the queue (R142). -/
def drainChecks (x : Tile) (c : Nat) (w : W64) : List (Bool × Nat) :=
  let rd := x.ring c (fld w 51 48)
  let rs := x.ring c (fld w 37 34)
  let cs := x.ring c (fld w 31 28)
  let bi := x.ring c (fld w 25 22)
  let rsen := bit w 33
  let csen := bit w 27
  let ben := bit w 21
  let scaleBad (r : Ring) (e8 : Bool) := decide (r.fmt ≠ if e8 then 7 else 1)
  [ (!rd.on || rsen && !rs.on || csen && !cs.on || ben && !bi.on, Exc.ringOff),
    (decide (rd.fmt ≠ fld w 47 44), Exc.ringFmt),
    (rsen && scaleBad rs (bit w 32) || csen && scaleBad cs (bit w 26), Exc.ringFmt),
    (ben && decide (bi.fmt > 2), Exc.ringFmt),
    (rsen && !rs.isStatic || csen && !cs.isStatic || ben && !bi.isStatic, Exc.ringMode),
    (!rd.isStream, Exc.ringMode) ]

/-- At the head, DRAIN starts on a HELD set or raises an exception (Table 3.5, R142); its number of R66 is fixed. -/
def execDrainStart (t : Nat) (s : State) : Out :=
  unitOp t s (fun _ c x =>
    match x.u.accQ with
    | o :: rest =>
      if o.kind ≠ .drain then s
      else if x.u.shadowSt ≠ .held then s.tileExc t o.pc Exc.accSeq
      else match firstExc (if bit o.word 20 then [] else drainChecks x c o.word) with
        | some e => s.tileExc t o.pc e
        | none =>
          let n := (x.ctx c).drains
          let x := x.withU (x.u |>.withAccQ rest |>.withShadowSt .draining |>.withDrain (some ⟨x.u.shadow, o.word, o.pc, 0, none, n⟩))
          s.setTile t (x.updCtx c (fun y => y.withDrains (n + 1)))
    | [] => s)

/-- The drain rounding of an element (Table 2.8, R66); `second` selects r2. -/
def drainRm (x : Tile) (c : Nat) (d : DrainRun) (a i j : Nat) (second : Bool) : Rm :=
  match fld d.word 43 42 with
  | 0 => .nearEven
  | 1 =>
    let z := srHash (x.ctx c).srseed d.num a i j
    .stoch (if second then fld z 31 16 else fld z 15 0)
  | _ => x.rm c

/-- An element of a scale or bias vector at the head of its STATIC ring. -/
def vecElem (x : Tile) (c ri f n : Nat) : Nat :=
  let r := x.ring c ri
  let o := fmtWidth f * n / 8
  unpackElem f (x.rdRing r o (ceilDiv (fmtWidth f) 8)) 0

/-- An element passes the floating drain path: scales, bias, function, conversion (R59-R61, R64). -/
def drainFloat (x : Tile) (c : Nat) (d : DrainRun) (a i j : Nat) (v0 : Nat × Nat) : Nat × Nat :=
  let w := d.word
  let rm := x.rm c
  let row := outRow d.set.sharedA a i
  let ch := outChan d.set.sharedA a j
  let scaleBy (en e8 : Bool) (ri n : Nat) (v : Nat × Nat) : Nat × Nat :=
    if !en then v
    else
      let k := if e8 then e8Val (vecElem x c ri 7 n) else decodeFloat 1 (vecElem x c ri 1 n)
      let p := mulExact (f32 v.1) k
      let q := roundV rm p.1
      (q.1, v.2 ||| p.2 ||| q.2)
  let v := scaleBy (bit w 33) (bit w 32) (fld w 37 34) row v0
  let v := scaleBy (bit w 27) (bit w 26) (fld w 31 28) ch v
  let v := if bit w 21 then
      let f := (x.ring c (fld w 25 22)).fmt
      let q := addV rm (f32 v.1) (decodeFloat f (vecElem x c (fld w 25 22) f ch))
      (q.1, v.2 ||| q.2)
    else v
  let q := drainFn rm (fld w 41 38) v.1
  let v := (q.1, v.2 ||| q.2)
  let fd := fld w 47 44
  if fd = 0 then v
  else
    let q := toFmt fd (drainRm x c d a i j false) (f32 v.1)
    (q.1, v.2 ||| q.2)

/-- The integer path applies (R62). -/
def drainIntPath (d : DrainRun) : Bool :=
  let w := d.word
  d.set.int && decide (fld w 47 44 ≥ 7) && (!bit w 33 || bit w 32) && (!bit w 27 || bit w 26) && !bit w 21 &&
    decide (fld w 41 38 = 0)

/-- An element passes the integer path (R62). A scale with a negative power rounds; the second such scale uses r2. -/
def drainInt (x : Tile) (c : Nat) (d : DrainRun) (a i j : Nat) (v : Int) : Nat × Nat :=
  let w := d.word
  let fd := fld w 47 44
  let re := vecElem x c (fld w 37 34) 7 (outRow d.set.sharedA a i)
  let ce := vecElem x c (fld w 31 28) 7 (outChan d.set.sharedA a j)
  if bit w 33 && decide (re = 255) then (0, flIV)
  else
    let v1 := if bit w 33 then intScale (drainRm x c d a i j false) re v else (v, 0)
    if bit w 27 && decide (ce = 255) then (0, v1.2 ||| flIV)
    else
      let second := bit w 33 && decide (re < 127)
      let v2 := if bit w 27 then intScale (drainRm x c d a i j second) ce v1.1 else (v1.1, 0)
      let v3 := satI (fmtWidth fd) v2.1
      (wrapInt (fmtWidth fd) v3.1, v1.2 ||| v2.2 ||| v3.2)

/-- One element of a drain: masked elements are +0 or 0 and raise no flag (R80).
DEDUCED (log entry 22). -/
def drainElem (x : Tile) (c : Nat) (d : DrainRun) (a i j : Nat) : Nat × Nat :=
  let acc := (d.set.vals.getD (64 * a + 8 * i + j) 0).toNat
  if !cellOn d.set.rowMask d.set.colMask a i j then (0, 0)
  else if drainIntPath d then drainInt x c d a i j (sext 32 acc)
  else if d.set.int then
    let v := sext 32 acc
    drainFloat x c d a i j (if v = 0 then (0, 0) else roundFin 0 (x.rm c) (decide (v < 0)) v.natAbs 0)
  else drainFloat x c d a i j (acc, 0)

/-- The scale and bias vectors hold the elements that array `a` needs (R90, R104). -/
def drainVectors (x : Tile) (c : Nat) (d : DrainRun) (a : Nat) : Bool :=
  let w := d.word
  let shA := d.set.sharedA
  let has (en : Bool) (ri f n : Nat) := !en || decide ((x.ring c ri).used ≥ fmtBytes f n)
  let sf (e8 : Bool) := if e8 then 7 else 1
  has (bit w 33) (fld w 37 34) (sf (bit w 32)) (outRow shA a 7 + 1) &&
    has (bit w 27) (fld w 31 28) (sf (bit w 26)) (outChan shA a 7 + 1) &&
    has (bit w 21) (fld w 25 22) (x.ring c (fld w 25 22)).fmt (outChan shA a 7 + 1)

/-- The read-out of the last array ends the drain; a set that no fill has claimed becomes EMPTY (Table 3.4). -/
def drainNext (u : Units) (d : DrainRun) : Units :=
  if d.next < 7 then u.withDrain (some (d.withNext (d.next + 1)))
  else u |>.withDrain none |>.withShadowSt (if u.shadowSt = .draining then .empty else u.shadowSt)

/-- Read-out of one array: its share of the record is reserved, passes the drain path and is written; after the last array TAIL
advances by the whole record (R85, R89, R91). The discard form writes nothing (R82).
DEDUCED (log entry 29). -/
def execDrainReadout (t : Nat) (s : State) : Out :=
  unitOp t s (fun _ c x =>
    match x.u.drain with
    | none => s
    | some d =>
      if bit d.word 20 then s.setTile t (x.withU (drainNext x.u d))
      else
        let a := d.next
        let ri := fld d.word 51 48
        let fd := fld d.word 47 44
        let r := x.ring c ri
        let share := fmtBytes fd 64
        let room := match d.resv with
          | some id => r.roomFor id
          | none => r.room
        if room < share then s.updTile t (fun x => x.stall 0x3028)
        else if !drainVectors x c d a then s
        else
          let id := d.resv.getD r.nextId
          let r := match d.resv with
            | some id => r.hold id ((a + 1) * share)
            | none => r.reserve .drain (fmtBytes fd 512) share
          let cells := (List.range 8).map (fun i => (List.range 8).map (fun j => drainElem x c d a i j))
          let fl := cells.foldl (fun acc l => acc ||| orFlags l) 0
          let off := resvOff r.resv id
          let x := (List.range 8).foldl (fun (x : Tile) i =>
            let p := outRow d.set.sharedA a i * recWidth d.set.sharedA + outChan d.set.sharedA a 0
            x.wrRing r (off + fmtWidth fd * p / 8) (packElems fd ((cells.getD i []).map (·.1)))) x
          let r := if a = 7 then r.finish id else r
          let x := (x.setRing c ri r).flags c fl
          s.setTile t (x.withU (drainNext x.u (d.withResv (some id)))))

/-- The checks of a FILL at the head of the queue (R144). -/
def fillChecks (x : Tile) (c : Nat) (w : W64) : List (Bool × Nat) :=
  let rr := x.ring c (fld w 51 48)
  let rd := x.ring c (fld w 46 43)
  let bi := x.ring c (fld w 41 38)
  let resen := bit w 47
  let delen := bit w 42
  let ben := bit w 37
  let int := bit w 35
  [ (int && (!resen || delen || ben), Exc.illegalField),
    (resen && !rr.on || delen && !rd.on || ben && !bi.on, Exc.ringOff),
    (resen && (if int then decide (rr.fmt ≠ 9) else decide (rr.fmt > 2)), Exc.ringFmt),
    (delen && decide (rd.fmt ≠ 0), Exc.ringFmt),
    (ben && decide (bi.fmt > 2), Exc.ringFmt),
    (resen && !rr.isStream || delen && !rd.isStream || ben && !bi.isStatic, Exc.ringMode) ]

/-- At the head, FILL starts on an EMPTY or DRAINING set or raises an exception (Table 3.5, R144). -/
def execFillStart (t : Nat) (s : State) : Out :=
  unitOp t s (fun _ c x =>
    match x.u.accQ with
    | o :: rest =>
      if o.kind ≠ .fill then s
      else if x.u.shadowSt ≠ .empty ∧ x.u.shadowSt ≠ .draining then s.tileExc t o.pc Exc.accSeq
      else match firstExc (fillChecks x c o.word) with
        | some e => s.tileExc t o.pc e
        | none =>
          s.setTile t (x.withU (x.u |>.withAccQ rest |>.withShadowSt .filling |>.withFill (some ⟨o.word, o.pc, 0, []⟩)
              |>.withShadow ⟨false, bit o.word 35, bit o.word 36, BitVec.allOnes 64, BitVec.allOnes 64, List.replicate 512 0⟩))
    | [] => s)

/-- Element `n` of the whole-byte records at the head of a ring: its format and code. -/
def recElem (x : Tile) (c ri n : Nat) : Nat × Nat :=
  let r := x.ring c ri
  let b := fmtWidth r.fmt / 8
  (r.fmt, leNat (x.rdRing r (b * n) b))

/-- Such an element as binary32, with the flags of the conversion. -/
def recFloat (x : Tile) (c ri n : Nat) : Nat × Nat := let e := recElem x c ri n; toFloat 0 (x.rm c) (decodeFloat e.1 e.2)

/-- The fill value of cell (a, i, j): (RESID + BIAS) + DELTA, or the I32 RESID (R93).
DEDUCED (log entry 22). -/
def fillElem (x : Tile) (c : Nat) (f : FillRun) (a i j : Nat) : Nat × Nat :=
  let w := f.word
  let shA := bit w 36
  let rm := x.rm c
  let pos := outRow shA a i * recWidth shA + outChan shA a j
  if bit w 35 then ((recElem x c (fld w 51 48) pos).2, 0)
  else
    let add (p q : Nat × Nat) := let r := fAdd rm p.1 q.1; (r.1, p.2 ||| q.2 ||| r.2)
    let src (en : Bool) (ri n : Nat) : Option (Nat × Nat) := if en then some (recFloat x c ri n) else none
    let join (p q : Option (Nat × Nat)) := match p, q with
      | some p, some q => some (add p q)
      | some p, none => some p
      | none, q => q
    (join (join (src (bit w 47) (fld w 51 48) pos) (if bit w 37 then f.bias[outChan shA a j]? else none))
      (src (bit w 42) (fld w 46 43) pos)).getD (0, 0)

/-- The sources hold the lines of array `a`; BIAS is read whole with the first array's lines (R85, R87, R93). -/
def fillReady (x : Tile) (c : Nat) (w : W64) (a : Nat) : Bool :=
  let shA := bit w 36
  let n := outRow shA a 7 * recWidth shA + outChan shA a 7 + 1
  let has (en : Bool) (ri n : Nat) := let r := x.ring c ri; !en || decide (r.used ≥ fmtBytes r.fmt n)
  has (bit w 47) (fld w 51 48) n && has (bit w 42) (fld w 46 43) n &&
    (decide (a ≠ 0) || has (bit w 37) (fld w 41 38) (recWidth shA))

/-- The fill with its BIAS elements, which are read at the first array (R93). -/
def fillBias (x : Tile) (c : Nat) (f : FillRun) : FillRun :=
  let w := f.word
  if f.next = 0 && bit w 37 then f.withBias ((List.range (recWidth (bit w 36))).map (recFloat x c (fld w 41 38))) else f

/-- The fill writes one array, after its read-out and once its sources are present; after the last the set is READY and the RESID
and DELTA records are popped (R85, R93). -/
def execFillArrayWrite (t : Nat) (s : State) : Out :=
  unitOp t s (fun _ c x =>
    match x.u.fill with
    | none => s
    | some f =>
      let a := f.next
      let w := f.word
      let behind := match x.u.drain with
        | some d => decide (d.next ≤ a)
        | none => false
      if behind then s
      else if !fillReady x c w a then s.updTile t (fun x => x.stall 0x3020)
      else
        let f := fillBias x c f
        let cells := (List.range 64).map (fun n => fillElem x c f a (n / 8) (n % 8))
        let vals := x.u.shadow.vals
        let vals := vals.take (64 * a) ++ cells.map (fun q => BitVec.ofNat 32 q.1) ++ vals.drop (64 * a + 64)
        let x := (x.withU (x.u.withShadow (x.u.shadow.withVals vals))).flags c (orFlags cells)
        if a < 7 then s.setTile t (x.withU (x.u.withFill (some (f.withNext (a + 1)))))
        else
          let x := x.withU (x.u |>.withFill none |>.withShadowSt .ready)
          let x := if bit w 47 then x.popRing c (fld w 51 48) (fmtBytes (x.ring c (fld w 51 48)).fmt 512) else x
          let x := if bit w 42 then x.popRing c (fld w 46 43) (fmtBytes 0 512) else x
          s.setTile t x)

end Sys2Proof.Machine
end

