-- ==== Sys2Proof/Machine/TileScalar.lean ====
section
/-! DEFINITION. Scalar, predicate, MFS, LDX and SELX instructions (R128-R132). -/
namespace Sys2Proof.Machine

/-- A value written to DST of the running context, and issue goes on. -/
def writeX (s : State) (t c dst : Nat) (v : W32) : Issued :=
  .go (s.updTile t (fun x => x.updCtx c (fun y => y.setX dst v)))

/-- A register instruction: DST := f(x[SRC1], x[SRC2]) (R128, R129). -/
def scalarReg (op t : Nat) (s : State) (f : W32 → W32 → W32) : Out :=
  issueOp op t s (fun s _ c w _ =>
    let y := (s.tile t).ctx c
    writeX s t c (fld w 51 47) (f (y.xr (fld w 46 42)) (y.xr (fld w 41 37))))

/-- An immediate instruction: DST := f(x[SRC1], IMM) (R125, R128, R129). -/
def scalarImm (op t : Nat) (s : State) (f : W32 → W32 → W32) : Out :=
  issueOp op t s (fun s _ c w w2 =>
    let y := (s.tile t).ctx c
    writeX s t c (fld w 51 47) (f (y.xr (fld w 46 42)) (w2.setWidth 32)))

/-- NOP takes one issue cycle (R127). -/
def execNop (t : Nat) (s : State) : Out := issueOp 0x00 t s (fun s _ _ _ _ => .go s)

def execAdd (t : Nat) (s : State) : Out := scalarReg 0x01 t s (fun a b => a + b)
def execSub (t : Nat) (s : State) : Out := scalarReg 0x02 t s (fun a b => a - b)
def execAnd (t : Nat) (s : State) : Out := scalarReg 0x03 t s (fun a b => a &&& b)
def execOr (t : Nat) (s : State) : Out := scalarReg 0x04 t s (fun a b => a ||| b)
def execXor (t : Nat) (s : State) : Out := scalarReg 0x05 t s (fun a b => a ^^^ b)
/-- Shifts take SRC2[4:0] (R129). -/
def execSll (t : Nat) (s : State) : Out := scalarReg 0x06 t s (fun a b => a <<< (b.toNat % 32))
def execSrl (t : Nat) (s : State) : Out := scalarReg 0x07 t s (fun a b => a >>> (b.toNat % 32))
def execSra (t : Nat) (s : State) : Out := scalarReg 0x08 t s (fun a b => a.sshiftRight (b.toNat % 32))
/-- MUL keeps the low 32 bits of the product (R129). -/
def execMul (t : Nat) (s : State) : Out := scalarReg 0x09 t s (fun a b => a * b)
def execMins (t : Nat) (s : State) : Out := scalarReg 0x0A t s (fun a b => if a.slt b then a else b)
def execMaxs (t : Nat) (s : State) : Out := scalarReg 0x0B t s (fun a b => if a.slt b then b else a)
def execMinu (t : Nat) (s : State) : Out := scalarReg 0x0C t s (fun a b => if a.ult b then a else b)
def execMaxu (t : Nat) (s : State) : Out := scalarReg 0x0D t s (fun a b => if a.ult b then b else a)

def execAddi (t : Nat) (s : State) : Out := scalarImm 0x10 t s (fun a i => a + i)
def execLi (t : Nat) (s : State) : Out := scalarImm 0x11 t s (fun _ i => i)
def execAndi (t : Nat) (s : State) : Out := scalarImm 0x12 t s (fun a i => a &&& i)
def execOri (t : Nat) (s : State) : Out := scalarImm 0x13 t s (fun a i => a ||| i)

/-- The special value that SEL names for tile t running context c of region g; none for a reserved SEL (Table 4.6). -/
def mfsValue (s : State) (t g c sel : Nat) : Option W32 :=
  let x := s.tile t
  if sel ≤ 0x03 then some (Sparse.get (fun _ => 0) (s.sec g c).lens sel)
  else if sel ≤ 0x07 then some ((x.ctx c).lcr (sel - 4))
  else if sel = 0x08 then some (BitVec.ofNat 32 (tileRow t))
  else if sel = 0x09 then some (BitVec.ofNat 32 (tileCol t))
  else if sel = 0x0A then some (BitVec.ofNat 32 (tileLocal t))
  else if sel = 0x0B then some (BitVec.ofNat 32 c)
  else if sel = 0x0C then some (BitVec.ofNat 32 (s.sec g c).epoch)
  else if 0x10 ≤ sel ∧ sel ≤ 0x1F then some (BitVec.ofNat 32 (x.ring c (sel - 0x10)).credit)
  else if 0x20 ≤ sel ∧ sel ≤ 0x2F then some (BitVec.ofNat 32 (x.ring c (sel - 0x20)).used)
  else none

/-- MFS copies a special value into DST (R131); a reserved SEL raises ILLEGAL_FIELD (R126). -/
def execMfs (t : Nat) (s : State) : Out :=
  issueOp 0x14 t s (fun s g c w _ =>
    match mfsValue s t g c (fld w 46 39) with
    | some v => writeX s t c (fld w 51 47) v
    | none => .exc Exc.illegalField)

/-- LDX loads 4 B at HEAD + x[XO] of a ring once TAIL has passed them; no counter counts its wait (R132, R188). -/
def execLdx (t : Nat) (s : State) : Out :=
  issueOp 0x15 t s (fun s _ c w _ =>
    let x := s.tile t
    let r := x.ring c (fld w 46 43)
    let o := xr x c (fld w 42 38)
    checked [(!r.on, Exc.ringOff), (decide (o % 4 ≠ 0), Exc.spadAlign), (decide (o + 4 > r.size), Exc.ringRange)]
      (if r.used < o + 4 then .stop s
       else writeX s t c (fld w 51 47) (BitVec.ofNat 32 (leNat (x.rdRing r o 4)))))

/-- The comparison that COND selects; none for a reserved code (R130). -/
def scalarCond (cond : Nat) (a b : W32) : Option Bool :=
  match cond with
  | 0 => some (a == b)
  | 1 => some (a != b)
  | 2 => some (a.slt b)
  | 3 => some (!a.slt b)
  | 4 => some (a.ult b)
  | 5 => some (!a.ult b)
  | _ => none

/-- A predicate written to PD; PD = 0 and a reserved code raise ILLEGAL_FIELD (R130). -/
def writeP (s : State) (t c pd : Nat) (v : Option Bool) : Issued :=
  match v with
  | some b => if pd = 0 then .exc Exc.illegalField
              else .go (s.updTile t (fun x => x.updCtx c (fun y => y.setP pd b)))
  | none => .exc Exc.illegalField

def execPcmp (t : Nat) (s : State) : Out :=
  issueOp 0x18 t s (fun s _ c w _ =>
    let y := (s.tile t).ctx c
    writeP s t c (fld w 51 49) (scalarCond (fld w 38 36) (y.xr (fld w 48 44)) (y.xr (fld w 43 39))))

def execPcmpi (t : Nat) (s : State) : Out :=
  issueOp 0x1A t s (fun s _ c w w2 =>
    let y := (s.tile t).ctx c
    writeP s t c (fld w 51 49) (scalarCond (fld w 38 36) (y.xr (fld w 48 44)) (w2.setWidth 32)))

/-- The operation that FN selects; none for a reserved code (R130). -/
def predFn (fn : Nat) (a b : Bool) : Option Bool :=
  match fn with
  | 0 => some (a && b)
  | 1 => some (a || b)
  | 2 => some (a != b)
  | 3 => some (a && !b)
  | _ => none

def execPlog (t : Nat) (s : State) : Out :=
  issueOp 0x19 t s (fun s _ c w _ =>
    let y := (s.tile t).ctx c
    writeP s t c (fld w 51 49) (predFn (fld w 42 40) (y.pr (fld w 48 46)) (y.pr (fld w 45 43))))

/-- SELX writes x[SRC1] when p[PSEL] is 1, x[SRC2] otherwise (R129). -/
def execSelx (t : Nat) (s : State) : Out :=
  issueOp 0x1C t s (fun s _ c w _ =>
    let y := (s.tile t).ctx c
    writeX s t c (fld w 51 47) (if y.pr (fld w 36 34) then y.xr (fld w 46 42) else y.xr (fld w 41 37)))

end Sys2Proof.Machine
end

