-- ==== Sys2Proof/Machine/Mesh.lean ====
section
/-! DEFINITION. The mesh: queues, routes, transit entries, die-edge queues, tokens and credits on their way (R25, R176, R199-R207, R220,
R537). -/
namespace Sys2Proof.Machine

/-! ## Queues, routes and tokens -/

/-- A queue is bound by the section (R204). -/
def Queue.on (q : Queue) : Bool := bit q.cfg 0

/-- A route is bound by the section, and the credits it holds (R205). -/
def TileCtx.routeOn (y : TileCtx) (r : Nat) : Bool := bit (y.route r) 8
def TileCtx.routeCredit (y : TileCtx) (r : Nat) : Nat := fld (y.route r) 4 0

/-- The token at the head of a queue: the front slot's, otherwise the oldest entry when the segment is empty (R220). -/
def Queue.head (q : Queue) : Option Token :=
  match q.front with
  | some k => some k
  | none => if q.seg.isEmpty then q.entries.head? else none

/-- A queue whose segment and front slot are both empty leaves the spill state (R220). -/
def Queue.settle (q : Queue) : Queue :=
  if q.seg.isEmpty && q.front.isNone then q |>.withSpill false |>.withSegOff 0 else q

/-- The queue without its head, and whether the dequeue returns a credit: a token of the front slot returns none (R220). -/
def Queue.take (q : Queue) : Queue × Bool :=
  match q.front with
  | some _ => ((q.withFront none : Queue).settle, false)
  | none => (q.withEntries (q.entries.drop 1), true)

/-! ## Transit entries (R201) -/

/-- A token is dropped and counted in TILE_QSTRAY (R201, R203). -/
def Tile.stray (x : Tile) : Tile := x.withQstray (setFld x.qstray 31 0 (satAdd (fld x.qstray 31 0) 1 (2 ^ 32 - 1)))

/-- The transit entry of a context and tag (R201). -/
def Tile.transitOf (x : Tile) (c tag : Nat) : W64 := Sparse.get (fun _ => 0) x.transit (64 * c + tag)

/-- Where a token comes to as the transit entries lead it: to a tile without a valid entry, to the queue at the edge of a die (the tile
entered and the port it enters by), or to a queue of the receiving tile. -/
inductive Leg where
  | stray (t : Nat)
  | edge (t p : Nat)
  | home (t q : Nat)
  deriving DecidableEq, Repr

/-- The way of a token of (context, tag) from tile `t` on, through pass-through registers (R25, R201).
DEDUCED (log entry 67). -/
def State.leg (s : State) (c tag : Nat) : Nat → Nat → Leg
  | 0, t => .stray t
  | n + 1, t =>
    let e := (s.tile t).transitOf c tag
    if !bit e 0 then .stray t
    else if fld e 6 4 ≥ 4 then .home t (fld e 11 8)
    else match meshStep t (fld e 6 4) with
      | none => .stray t
      | some u => if tileDie u = tileDie t then State.leg s c tag n u else .edge u ((fld e 6 4 + 2) % 4)

/-- The way of a credit back from tile `t` by the ports of entry: the sending tile and its route, when every entry is valid (R201).
DEDUCED (log entry 67). -/
def State.backLeg (s : State) (c tag : Nat) : Nat → Nat → Option (Nat × Nat)
  | 0, _ => none
  | n + 1, t =>
    let e := (s.tile t).transitOf c tag
    if !bit e 0 then none
    else if fld e 3 1 ≥ 4 then some (t, fld e 15 12)
    else match meshStep t (fld e 3 1) with
      | none => none
      | some u => State.backLeg s c tag n u

/-- A path has at most 127 hops (R201). -/
def maxHops : Nat := 128

/-- Tokens in a die-edge queue, which holds at most 16 (R25). -/
def State.edgeCount (s : State) (e : Nat × Nat) : Nat := (s.flight.filter (fun f => f.edge == some e)).length

/-- The place behind every token that waits at the edge of a die. -/
def State.nextTurn (s : State) : Nat := s.flight.foldl (fun a f => max a (f.turn + 1)) 0

/-- `n` more tokens of route `r` find no room in the first die-edge queue of their path: they wait at the tile's output port (R25).
DEDUCED (log entry 67). -/
def State.linkFull (s : State) (t c r n : Nat) : Bool :=
  match s.leg c (fld (((s.tile t).ctx c).route r) 14 9) maxHops t with
  | .edge u p => decide (s.edgeCount (u, p) + n > 16)
  | _ => false

/-- A wait for the output port of route `r` (Table 6.10). -/
def Tile.stallLink (x : Tile) (c r : Nat) : Tile := x.stall (0x3080 + 8 * (fld ((x.ctx c).route r) 18 16 % 4))

/-- A credit of queue `q` of tile `t` starts back to the sender of its route (R176, R201). -/
def State.returnCredit (s : State) (t c : Nat) (q : Queue) : State :=
  let src := fld q.cfg 43 32
  let r := fld q.cfg 47 44
  s.withCredits (s.credits ++ [⟨src, c, r, t, fld (((s.tile src).ctx c).route r) 14 9⟩])

/-- The token at the head of queue `qi` leaves it; the credit goes back to the sender of its route (R176). -/
def State.takeToken (s : State) (t c qi : Nat) : State :=
  let q := ((s.tile t).ctx c).queue qi
  let r := q.take
  let s := s.updTile t (fun x => x.updCtx c (fun y => y.setQueue qi r.1))
  if r.2 then s.returnCredit t c q else s

/-- A token leaves tile `t` on route `r`: it takes a credit and the route's sequence number, and carries the section's epoch and
region (R176, R202). It goes as far as the edge of the die or its receiving tile; where an entry is missing it is dropped (R201).
DEDUCED (log entry 67). -/
def State.sendToken (s : State) (t g c r : Nat) (control : Bool) (payload : List Byte) : State :=
  let v := ((s.tile t).ctx c).route r
  let k : Token := ⟨control, c, fld v 14 9, fld v 53 48, (s.sec g c).epoch % 65536, g, payload, false⟩
  let v' := setFld (setFld v 4 0 (fld v 4 0 - 1)) 53 48 ((fld v 53 48 + 1) % 64)
  let s := s.updTile t (fun x => x.updCtx c (fun y => y.setRoute r v'))
  let f : Flight := ⟨t, c, r, fld v 43 32, k, t, none, 0⟩
  match s.leg c (fld v 14 9) maxHops t with
  | .stray u => s.updTile u Tile.stray
  | .home u _ => s.withFlight (s.flight ++ [f.withPos u])
  | .edge u p => s.withFlight (s.flight ++ [f |>.withPos u |>.withEdge (some (u, p)) |>.withTurn s.nextTurn])

/-- A wait for route credit (Table 6.10). -/
def Tile.stallRoute (x : Tile) (r : Nat) : Tile := (x.stall 0x3060).stall (0x3200 + 8 * r)

/-- A tile takes a poisoned token: its section's region is fenced and reset (R538, R541). -/
def State.poisoned (s : State) (t g c : Nat) : State :=
  s.fenceRegion g 0x06 t { cls := 1, source := 0x07, flags := 8, who := some (g, c), unit := t, die := tileDie t,
                           aux := (tileCoord t).toNat }

/-! ## Arrivals -/

/-- The oldest token on its way from route (t, c, r) (R207), and the others. -/
def takeFlight (t c r : Nat) : List Flight → Option (Flight × List Flight)
  | [] => none
  | f :: fs =>
    if f.src = t ∧ f.ctx = c ∧ f.route = r then some (f, fs)
    else (takeFlight t c r fs).map (fun q => (q.1, f :: q.2))

/-- The token stands at the head of its die-edge queue, or waits in none (R25).
DEDUCED (log entry 67). -/
def State.atHead (s : State) (f : Flight) : Bool :=
  match f.edge with
  | none => true
  | some e => s.flight.all (fun k => k.edge != some e || decide (f.turn ≤ k.turn))

/-- A token goes on along its path through the die-edge queues that have room: where it ends, and the token as it waits there.
DEDUCED (log entry 67). -/
def State.goOn (s : State) : Nat → Flight → Leg × Flight
  | 0, f => (.stray f.pos, f)
  | n + 1, f =>
    match s.leg f.token.ctx f.token.tag maxHops f.pos with
    | .edge u p =>
      if s.edgeCount (u, p) ≥ 16 then (.edge u p, f)
      else State.goOn s n (f |>.withPos u |>.withEdge (some (u, p)) |>.withTurn s.nextTurn)
    | l => (l, f)

/-- A token reaches tile `t`: it is placed in queue `qi`, or dropped as a stray (R203). `badParity` says that its check failed: it is placed
poisoned, a contained record is written, and the region that sent it is fenced (R537, R539). -/
def State.placeToken (s : State) (k : Token) (t qi : Nat) (badParity : Bool) : State :=
  let q := ((s.tile t).ctx k.ctx).queue qi
  if !(q.on && decide (fld q.cfg 31 16 = k.etag) && s.inRegion k.region t) then s.updTile t Tile.stray
  else
    let q := q.withEntries (q.entries ++ [(k.withPoison badParity)])
    let s := s.updTile t (fun x =>
      let x := x.updCtx k.ctx (fun y => y.setQueue qi q)
      if q.entries.length = 16 then x.stall (0x3100 + 8 * qi) else x)
    if badParity then s.poisoned t k.region k.ctx else s

/-- The oldest token of route `r` of context `c` of tile `t` goes on to its receiving tile and is placed in its queue, or dropped where
it finds no valid transit entry (R201, R203). It waits behind the tokens before it in its die-edge queue, and before one that is full
(R25).
DEDUCED (log entry 24). DEDUCED (log entry 67). -/
def execTokenArrival (t c r : Nat) (badParity : Bool) (s : State) : Out :=
  match takeFlight t c r s.flight with
  | none => .next s
  | some (f, fs) =>
    if !s.atHead f then .next s
    else match s.goOn maxHops f with
      | (.home u qi, _) => .next ((s.withFlight fs).placeToken f.token u qi badParity)
      | (.stray u, _) => .next ((s.withFlight fs).updTile u Tile.stray)
      | (.edge _ _, f') => .next (s.withFlight (s.flight.map (fun k => if k = f then f' else k)))

/-- The oldest credit on its way to a route, and the others. -/
def takeCredit (t c r : Nat) : List CreditFlight → Option (CreditFlight × List CreditFlight)
  | [] => none
  | k :: ks => if k.src = t ∧ k.ctx = c ∧ k.route = r then some (k, ks) else (takeCredit t c r ks).map (fun q => (q.1, k :: q.2))

/-- A credit reaches route `r` of context `c` of tile `t` by the transit entries of its route, and is lost where one is missing (R176,
R201).
DEDUCED (log entry 67). -/
def execCreditArrival (t c r : Nat) (s : State) : Out :=
  match takeCredit t c r s.credits with
  | none => .next s
  | some (k, ks) =>
    let s := s.withCredits ks
    if s.backLeg c k.tag maxHops k.dst = some (t, r) then
      .next (s.updTile t (fun x => x.updCtx c (fun y => y.setRoute r (setFld (y.route r) 4 0 (min 16 (y.routeCredit r + 1))))))
    else .next s

end Sys2Proof.Machine
end

