-- ==== Sys2Proof/Machine/TileMove.lean ====
section
/-! DEFINITION. Ring moves, tokens, queues, STEER, LOOP, apertures, FENCE and END (R156-R164, R170-R190, R199-R209, R220). -/
namespace Sys2Proof.Machine

/-! ## Ring instructions -/

/-- The bytes of eight registers, each least significant byte first (R162). -/
def regBytes (l : List W32) : List Byte := l.flatMap (fun v => toLe 4 v.toNat)

/-- An instruction enters the ring queue of depth 4 (R156). One already at work in its unit keeps its place until it is done, here and in
the other queues.
DEDUCED (log entry 68). -/
def enterRing (s : State) (t c : Nat) (w : W64) (n : Nat) (vals : List W32) : Issued :=
  let x := s.tile t
  if x.u.ringQ.length ≥ 4 then .wait 0x3008
  else .go (s.setTile t (x.withU (x.u.withRingQ (x.u.ringQ ++ [⟨w, (x.ctx c).pc, n, 0, vals⟩]))))

/-- The unit's move of the instruction at the head of the ring queue, when it has opcode `op`. -/
def ringUnit (op t : Nat) (s : State) (f : Nat → Tile → MoveOp → List MoveOp → State) : Out :=
  unitOp t s (fun _ c x =>
    match x.u.ringQ with
    | [] => s
    | m :: rest => if opOf m.word ≠ op then s else f c x m rest)

/-- PUSH writes eight registers to RING_D once it has 32 B of credit (R162). -/
def execPush (t : Nat) (ph : Phase) (s : State) : Out :=
  match ph with
  | .issue => issueOp 0x40 t s (fun s _ c w _ =>
      let y := (s.tile t).ctx c
      let xs := fld w 47 43
      checked [(!(y.ring (fld w 51 48)).on, Exc.ringOff), (decide (xs > 24), Exc.illegalField)]
        (enterRing s t c w 0 ((List.range 8).map (fun i => y.xr (xs + i)))))
  | .unit => ringUnit 0x40 t s (fun c x m rest =>
      let rd := fld m.word 51 48
      if (x.ring c rd).room < 32 then s.updTile t (fun x => x.stall 0x3040)
      else
        let x := x.append .ring c rd (regBytes m.vals)
        s.setTile t (x.withU (x.u.withRingQ rest)))

/-- POP advances HEAD by N once the ring holds N bytes (R163).
DESIGN CHOICE (log entry 18). -/
def execPop (t : Nat) (ph : Phase) (s : State) : Out :=
  match ph with
  | .issue => issueOp 0x41 t s (fun s _ c w _ =>
      let r := (s.tile t).ring c (fld w 51 48)
      let n := xr (s.tile t) c (fld w 47 43)
      checked [(!r.on, Exc.ringOff), (decide (n % 32 ≠ 0), Exc.spadAlign), (decide (n > r.size), Exc.ringRange),
          (r.isStatic, Exc.ringPop)]
        (if n = 0 then .go s else enterRing s t c w n []))
  | .unit => ringUnit 0x41 t s (fun c x m rest =>
      let r := fld m.word 51 48
      if (x.ring c r).used < m.n then s.updTile t (fun x => x.stall 0x3048)
      else
        let x := x.popRing c r m.n
        s.setTile t (x.withU (x.u.withRingQ rest)))

/-- RCOPY moves N bytes between rings in chunks of at most 256 B (R164).
DESIGN CHOICE (log entry 18). -/
def execRcopy (t : Nat) (ph : Phase) (s : State) : Out :=
  match ph with
  | .issue => issueOp 0x42 t s (fun s _ c w _ =>
      let x := s.tile t
      let rs := x.ring c (fld w 51 48)
      let rd := x.ring c (fld w 47 44)
      let n := xr x c (fld w 43 39)
      checked [(!rs.on || !rd.on, Exc.ringOff), (decide (rs.fmt ≠ rd.fmt), Exc.ringFmt), (decide (n % 32 ≠ 0), Exc.spadAlign),
          (rs.isStatic, Exc.ringPop), (!rd.isStream, Exc.ringMode)]
        (if n = 0 then .go s else enterRing s t c w n []))
  | .unit => ringUnit 0x42 t s (fun c x m rest =>
      let rs := fld m.word 51 48
      let rd := fld m.word 47 44
      let k := min 256 (m.n - m.done)
      if (x.ring c rd).room < k then s.updTile t (fun x => x.stall 0x3040)
      else if (x.ring c rs).used < k then s.updTile t (fun x => x.stall 0x3048)
      else
        let x := (x.append .ring c rd (x.rdRing (x.ring c rs) 0 k)).popRing c rs k
        let q := if m.done + k < m.n then m.withDone (m.done + k) :: rest else rest
        s.setTile t (x.withU (x.u.withRingQ q)))

/-! ## Waits -/

/-- A wait for a token of queue `q` (Table 6.10). -/
def Tile.stallToken (x : Tile) (q : Nat) : Tile := (x.stall 0x3068).stall (0x3180 + 8 * q)

/-! ## SEND and SENDC -/

/-- An instruction enters the send queue of depth 4 (R156). -/
def enterSend (s : State) (t c : Nat) (w : W64) (n : Nat) (vals : List W32) : Issued :=
  let x := s.tile t
  if x.u.sendQ.length ≥ 4 then .wait 0x3008
  else .go (s.setTile t (x.withU (x.u.withSendQ (x.u.sendQ ++ [⟨w, (x.ctx c).pc, n, 0, vals⟩]))))

/-- SEND is checked at issue and enters the send queue (R172).
DESIGN CHOICE (log entry 68). -/
def execSend (t : Nat) (s : State) : Out :=
  issueOp 0x50 t s (fun s _ c w _ =>
    let x := s.tile t
    let r := x.ring c (fld w 51 48)
    let n := xr x c (fld w 43 39)
    let pop := bit w 38
    checked [(!(x.ctx c).routeOn (fld w 47 44), Exc.routeOff), (!r.on, Exc.ringOff), (decide (n % 64 ≠ 0), Exc.tokenAlign),
        (!pop && decide (n > r.size), Exc.ringRange), (pop && r.isStatic, Exc.ringPop)]
      (if n = 0 then .go s else enterSend s t c w n []))

/-- The next token of the SEND at the head of the send queue leaves its tile once its bytes and a route credit are present
(R172). -/
def execTokenSend (t : Nat) (s : State) : Out :=
  unitOp t s (fun g c x =>
    match x.u.sendQ with
    | [] => s
    | m :: rest =>
      if opOf m.word ≠ 0x50 then s
      else
        let ri := fld m.word 51 48
        let route := fld m.word 47 44
        let pop := bit m.word 38
        let off := if pop then 0 else m.done
        let r := x.ring c ri
        if r.used < off + 64 then s.updTile t (fun x => x.stall 0x3048)
        else if (x.ctx c).routeCredit route = 0 then s.updTile t (fun x => x.stallRoute route)
        else if s.linkFull t c route 1 then s.updTile t (fun x => x.stallLink c route)
        else
          let d := x.rdRing r off 64
          let x := if pop then x.popRing c ri 64 else x
          let q := if m.done + 64 < m.n then m.withDone (m.done + 64) :: rest else rest
          (s.setTile t (x.withU (x.u.withSendQ q))).sendToken t g c route false d)

/-- SENDC sends one control token that carries a register (R173). -/
def execSendc (t : Nat) (ph : Phase) (s : State) : Out :=
  match ph with
  | .issue => issueOp 0x51 t s (fun s _ c w _ =>
      let y := (s.tile t).ctx c
      checked [(!y.routeOn (fld w 51 48), Exc.routeOff)] (enterSend s t c w 0 [y.xr (fld w 47 43)]))
  | .unit => unitOp t s (fun g c x =>
      match x.u.sendQ with
      | [] => s
      | m :: rest =>
        if opOf m.word ≠ 0x51 then s
        else
          let route := fld m.word 51 48
          if (x.ctx c).routeCredit route = 0 then s.updTile t (fun x => x.stallRoute route)
          else if s.linkFull t c route 1 then s.updTile t (fun x => x.stallLink c route)
          else (s.setTile t (x.withU (x.u.withSendQ rest))).sendToken t g c route true
                 (slice (regBytes m.vals) 0 64))

/-! ## RECV and RECVC -/

/-- RECV moves data tokens from a queue into a ring, relaying each when RELAY is set (R174).
DEDUCED (log entry 24). -/
def execRecv (t : Nat) (ph : Phase) (s : State) : Out :=
  match ph with
  | .issue => issueOp 0x52 t s (fun s _ c w _ =>
      let x := s.tile t
      let rd := x.ring c (fld w 47 44)
      let n := xr x c (fld w 43 39)
      checked [(!((x.ctx c).queue (fld w 51 48)).on, Exc.queueOff),
          (bit w 38 && !(x.ctx c).routeOn (fld w 37 34), Exc.routeOff), (!rd.on, Exc.ringOff),
          (decide (n % 64 ≠ 0), Exc.tokenAlign), (!rd.isStream, Exc.ringMode)]
        (if n = 0 then .go s
         else if x.u.recvQ.length ≥ 4 then .wait 0x3008
         else .go (s.setTile t (x.withU (x.u.withRecvQ (x.u.recvQ ++ [⟨w, (x.ctx c).pc, n, 0, []⟩]))))))
  | .unit => unitOp t s (fun g c x =>
      match x.u.recvQ with
      | [] => s
      | m :: rest =>
        let qi := fld m.word 51 48
        let rd := fld m.word 47 44
        let route := fld m.word 37 34
        let relay := bit m.word 38
        let head := ((x.ctx c).queue qi).head
        if head.any (fun k => k.control) then s.tileExc t m.pc Exc.tokenKind
        else if (x.ring c rd).room < 64 then s.updTile t (fun x => x.stall 0x3040)
        else if relay ∧ (x.ctx c).routeCredit route = 0 then s.updTile t (fun x => x.stallRoute route)
        else if relay ∧ s.linkFull t c route 1 then s.updTile t (fun x => x.stallLink c route)
        else match head with
          | none => s.updTile t (fun x => x.stallToken qi)
          | some k =>
            if k.poison then s.poisoned t g c
            else
              let x := x.append .recv c rd k.payload
              let q := if m.done + 64 < m.n then m.withDone (m.done + 64) :: rest else rest
              let s := (s.setTile t (x.withU (x.u.withRecvQ q))).takeToken t c qi
              if relay then s.sendToken t g c route false k.payload else s)

/-- RECVC takes one control token into a register; issue holds until the token is at the head (R175). -/
def execRecvc (t : Nat) (s : State) : Out :=
  issueOp 0x53 t s (fun s g c w _ =>
    let q := ((s.tile t).ctx c).queue (fld w 46 43)
    if !q.on then .exc Exc.queueOff
    else match q.head with
      | none => .stop (s.updTile t (fun x => x.stallToken (fld w 46 43)))
      | some k =>
        if !k.control then .exc Exc.tokenKind
        else if k.poison then .stop (s.poisoned t g c)
        else
          let s := s.takeToken t c (fld w 46 43)
          writeX s t c (fld w 51 47) (BitVec.ofNat 32 (leAt k.payload 0 4)))

/-! ## STEER (R177, R178, R208) -/

/-- The head tokens of QC and QD of a STEER; a token of the wrong kind raises TOKEN_KIND. -/
def steerKindBad (y : TileCtx) (w : W64) : Bool :=
  ((y.queue (fld w 51 48)).head).any (fun k => !k.control) || ((y.queue (fld w 47 44)).head).any (fun k => k.control)

/-- What the value of the control token at the head of QC raises when it arrives: the value itself, or the route or ring that it selects
(R177, R178). -/
def steerValueExc (y : TileCtx) (w : W64) : Option Nat :=
  match (y.queue (fld w 51 48)).head with
  | none => none
  | some k =>
    let v := leAt k.payload 0 4
    let r := y.ring (fld w 30 27)
    if k.poison then none else firstExc [(decide (v > 3), Exc.steerValue),
      (decide (v = 0) && !y.routeOn (fld w 38 35) || decide (v = 1) && !y.routeOn (fld w 34 31), Exc.routeOff),
      (decide (v = 2) && !r.on, Exc.ringOff), (decide (v = 2) && !r.isStream, Exc.ringMode)]

/-- The pairing slot of the STEER at the head of the steer unit latches a token that waits for its partner, or the pair forms;
unequal sequence numbers raise STEER_PAIR (R208). -/
def execSteerPairForm (t : Nat) (s : State) : Out :=
  unitOp t s (fun _ c x =>
    match x.u.steerQ with
    | [] => s
    | m :: _ =>
      let y := x.ctx c
      let qc := fld m.word 51 48
      let qd := fld m.word 47 44
      if x.u.pair.isSome then s
      else if steerKindBad y m.word then s.tileExc t m.pc Exc.tokenKind
      else match steerValueExc y m.word with
      | some e => s.tileExc t m.pc e
      | none => match (y.queue qc).head, (y.queue qd).head with
        | none, none => s.updTile t (fun x => (x.stallToken qc).stall (0x3180 + 8 * qd))
        | some k, none =>
          s.setTile t (((x.withU (x.u.withSlot (some ⟨true, k.seq, leAt k.payload 0 4⟩))).stall 0x3070).stall (0x3180 + 8 * qd))
        | none, some d =>
          s.setTile t (((x.withU (x.u.withSlot (some ⟨false, d.seq, 0⟩))).stall 0x3070).stall (0x3180 + 8 * qc))
        | some k, some d =>
          if k.seq ≠ d.seq then s.tileExc t m.pc Exc.steerPair
          else s.setTile t (x.withU (x.u |>.withSlot none |>.withPair (some (leAt k.payload 0 4)))))

/-- A steered pair has been passed on or dropped: both tokens leave their queues together (R177). -/
def steerDone (s : State) (t c : Nat) : State :=
  let x := s.tile t
  match x.u.steerQ with
  | [] => s
  | m :: rest =>
    let q := if m.done + 64 < m.n then m.withDone (m.done + 64) :: rest else rest
    let s := s.setTile t (x.withU (x.u |>.withSteerQ q |>.withPair none |>.withSlot none))
    (s.takeToken t c (fld m.word 51 48)).takeToken t c (fld m.word 47 44)

/-- STEER is checked at issue and enters the steer unit; its unit passes each formed pair as its control value directs (R177,
R178).
DEDUCED (log entry 24). -/
def execSteer (t : Nat) (ph : Phase) (s : State) : Out :=
  match ph with
  | .issue => issueOp 0x54 t s (fun s _ c w _ =>
      let x := s.tile t
      let y := x.ctx c
      let n := xr x c (fld w 43 39)
      checked [(!(y.queue (fld w 51 48)).on || !(y.queue (fld w 47 44)).on, Exc.queueOff),
          (decide (n % 64 ≠ 0), Exc.tokenAlign)]
        (if n = 0 then .go s
         else if x.u.steerQ.length ≥ 2 then .wait 0x3008
         else .go (s.setTile t (x.withU (x.u.withSteerQ (x.u.steerQ ++ [⟨w, y.pc, n, 0, []⟩]))))))
  | .unit => unitOp t s (fun g c x =>
      match x.u.steerQ, x.u.pair with
      | m :: _, some v =>
        let y := x.ctx c
        match (y.queue (fld m.word 51 48)).head, (y.queue (fld m.word 47 44)).head with
        | some k, some d =>
          if k.poison || d.poison then s.poisoned t g c
          else if v ≤ 1 then
            let route := if v = 0 then fld m.word 38 35 else fld m.word 34 31
            if !y.routeOn route then s.tileExc t m.pc Exc.routeOff
            else if y.routeCredit route = 0 then s.updTile t (fun x => x.stallRoute route)
            else if s.linkFull t c route 1 then s.updTile t (fun x => x.stallLink c route)
            else (steerDone s t c).sendToken t g c route false d.payload
          else if v = 2 then
            let ri := fld m.word 30 27
            let r := y.ring ri
            if !r.on then s.tileExc t m.pc Exc.ringOff
            else if !r.isStream then s.tileExc t m.pc Exc.ringMode
            else if r.room < 64 then s.updTile t (fun x => x.stall 0x3040)
            else steerDone (s.updTile t (fun x => x.append .steer c ri d.payload)) t c
          else if v = 3 then
            steerDone (s.updTile t (fun x =>
              x.withSteerDrop (setFld x.steerDrop 31 0 (satAdd (fld x.steerDrop 31 0) 1 (2 ^ 32 - 1))))) t c
          else s.tileExc t m.pc Exc.steerValue
        | _, _ => s
      | _, _ => s)

/-! ## LOOP (R179-R182) -/

/-- The trip count (R179). -/
def loopTrips (tsrc imm xt len ts : Nat) : Nat :=
  match tsrc with
  | 0 => imm
  | 1 => xt
  | _ => min imm (ceilDiv len ts)

/-- LOOP fixes its trip count and enters its body, or goes on after it when the count is 0.
DEDUCED (log entry 20). DEDUCED (log entry 21). -/
def execLoop (t : Nat) (s : State) : Out :=
  issueOp 0x58 t s (fun s g c w w2 =>
    let x := s.tile t
    let y := x.ctx c
    let lc := fld w 51 50
    let tsrc := fld w 49 48
    let body := fld w 47 36
    let mg := bit w 32
    let ts := fld w 31 26 + 1
    let imm := fld w2 31 0
    let len := (Sparse.get (fun _ => 0) (s.sec g c).lens (fld w 35 34) : W32).toNat
    let pc := y.pc
    let stop := pc + 2 + body
    let beyond := match x.u.loops with
      | f :: _ => decide (stop > f.stop)
      | [] => false
    checked
      [ (decide (body = 0) || decide (tsrc = 3) || decide (tsrc = 1 ∧ imm ≠ 0) || mg && decide (tsrc ≠ 2), Exc.illegalField),
        (x.u.loops.any (fun f => f.lc == lc) || decide (x.u.loops.length ≥ 4) || beyond, Exc.loopNest) ]
      (let e := loopTrips tsrc imm (xr x c (fld w 25 21)) len ts
       let x := x.updCtx c (fun y => y.setLc lc 0)
       if e = 0 then .jump (s.setTile t x) stop
       else
         let f : LoopFrame := ⟨lc, pc + 2, stop, e, mg, bit w 33, ts, len⟩
         .jump (s.setTile t (x.withU (x.u.withLoops (f :: x.u.loops)))) (pc + 2)))

/-! ## Apertures (R183, R184) -/

def Aperture.base (a : Aperture) : Nat := fld a.win 10 0
def Aperture.limit (a : Aperture) : Nat := fld a.win 26 16
def Aperture.isOpen (a : Aperture) : Bool := bit a.ctl 0
def Aperture.isBound (a : Aperture) : Bool := bit a.ctl 1
def Aperture.ring (a : Aperture) : Nat := fld a.ctl 5 2

/-- The checks of OPEN_APERTURE, in order (R183). -/
def openChecks (y : TileCtx) (a : Aperture) : List (Bool × Nat) :=
  let r := y.ring a.ring
  [ (decide (a.limit ≤ a.base) || decide (a.base < fld y.spad 10 0) || decide (a.limit > fld y.spad 26 16), Exc.aptRange),
    (a.isBound && (decide (a.base ≠ fld r.cfg 10 0) || decide (a.limit ≠ fld r.cfg 10 0 + fld r.cfg 26 16)), Exc.aptBind),
    (a.isBound && (!r.on || !r.isStream), Exc.aptBind) ]

/-- The context with aperture `i` open or closed. -/
def TileCtx.setOpen (y : TileCtx) (i : Nat) (b : Bool) : TileCtx :=
  let a := y.apt i
  y.setApt i (a.withCtl (setBit a.ctl 0 b))

def execOpenAperture (t : Nat) (s : State) : Out :=
  issueOp 0x60 t s (fun s _ c w _ =>
    let y := (s.tile t).ctx c
    checked (openChecks y (y.apt (fld w 51 49)))
      (.go (s.updTile t (fun x => x.updCtx c (fun y => y.setOpen (fld w 51 49) true)))))

def execCloseAperture (t : Nat) (s : State) : Out :=
  issueOp 0x61 t s (fun s _ c w _ =>
    .go (s.updTile t (fun x => x.updCtx c (fun y => y.setOpen (fld w 51 49) false))))

/-! ## FENCE and END (R185, R186) -/

/-- Some ring of the context has a reservation of producer `p` that TAIL has not passed. -/
def TileCtx.ringWaits (y : TileCtx) (p : Producer) : Bool := y.rings.any (fun r => r.2.waitsFor p)

/-- The read or write pieces of the running context that are not complete, at the arrival port or before it. -/
def Units.piecesOf (u : Units) (g c : Nat) (write : Bool) : List Piece :=
  (u.pieces ++ u.port.map (·.piece)).filter (fun p => decide (p.reg = g ∧ p.ctx = c) && (p.write == write))

/-- A STRM of the stream queue. -/
def StrmOp.writes (m : StrmOp) : Bool := !m.rearm && bit m.word 33
def StrmOp.reads (m : StrmOp) : Bool := !m.rearm && !bit m.word 33

/-- Tokens of SEND, SENDC, a relaying RECV or STRM, or STEER that have not left the tile (R185). -/
def Units.sendsWait (u : Units) (g c : Nat) : Bool :=
  !u.sendQ.isEmpty || !u.steerQ.isEmpty || u.recvQ.any (fun m => bit m.word 38) ||
    u.strmQ.any (fun m => m.reads && bit m.word 32) || (u.piecesOf g c false).any (fun p => p.relay.isSome)

/-- The condition of one FENCE bit holds for context `c` of region `g` (R185).
DEDUCED (log entry 23). -/
def fenceCond (x : Tile) (g c b : Nat) : Bool :=
  let u := x.u
  let y := x.ctx c
  match b with
  | 51 => u.arrayQ.isEmpty
  | 50 => u.accQ.isEmpty && u.drain.isNone && !y.ringWaits .drain
  | 49 => u.rfuQ.isEmpty
  | 48 => (u.piecesOf g c false).isEmpty && !u.strmQ.any StrmOp.reads
  | 47 => (u.piecesOf g c true).isEmpty && !u.strmQ.any StrmOp.writes
  | 46 => !u.sendsWait g c
  | 45 => !y.ringWaits .aperture
  | _ => u.ringQ.isEmpty && u.recvQ.isEmpty && u.steerQ.isEmpty

/-- Every condition that MASK selects holds. -/
def fenceHolds (x : Tile) (g c mask : Nat) : Bool :=
  (List.range 8).all (fun i => decide (bitsAt mask i 1 = 0) || fenceCond x g c (44 + i))

/-- DEDUCED (log entry 23). -/
def execFence (t : Nat) (s : State) : Out :=
  issueOp 0x68 t s (fun s g c w _ =>
    if fenceHolds (s.tile t) g c (fld w 51 44) then .go s else .wait 0x3078)

/-- END holds issue until every condition holds; the tile then issues nothing more (R186, R88). -/
def execEnd (t : Nat) (s : State) : Out :=
  issueOp 0x6F t s (fun s g c w _ =>
    let x := s.tile t
    if fenceHolds x g c 255 then
      .stop (s.setTile t (x.withU (x.u |>.withIssue .ended |>.withXcode ((x.ctx c).xr (fld w 51 47)))))
    else .wait 0x3078)

/-- A tile of a glare run whose XCODE is not 0 fails the point (R552). -/
def State.glareXcode (s : State) (g c t : Nat) (xc : W32) : State :=
  match s.glare.run with
  | some r =>
    if c = 7 ∧ bitsAt r.regions g 1 = 1 ∧ r.counts ∧ xc ≠ 0 then
      s.withGlare (s.glare.withRun (some (r.withFailedHere (insertNat t r.failedHere))))
    else s
  | none => s

/-- The tile's END is reported with XCODE; when every tile has reported, the section is ENDING (R186, R198, R215). -/
def execEndReport (t : Nat) (s : State) : Out :=
  unitOp t s (fun g c x =>
    if x.u.issue ≠ .ended then s
    else
      let y := s.sec g c
      let reported := insertNat t y.reported
      let xc := x.u.xcode
      let y := y |>.withReported reported |>.withXcode (if y.report = t then xc else y.xcode) |>.withXcodeOr (y.xcodeOr ||| xc)
          |>.withSt (if y.st = .running ∧ y.tiles.all (fun n => reported.contains n) ∧ y.fault.isNone then .ending else y.st)
      ((s.setTile t (x.withU (x.u.withIssue .reported))).setSec g c y).glareXcode g c t xc)

end Sys2Proof.Machine
end

