-- ==== Sys2Proof/Machine/Aperture.lean ====
section
/-! DEFINITION. Writes that arrive at a tile's scratchpad by a T0 address (R107-R110, R289, R290, R496, R574). -/
namespace Sys2Proof.Machine

/-- The aperture admits the writer (Table 3.10). `part` is the partition of the owning region's span, if the tile has a region. -/
def Aperture.admits (a : Aperture) (part : Option Nat) (w : Writer) : Bool :=
  let selA := fld a.src 31 16
  let selB := fld a.src 47 32
  match fld a.src 1 0 with
  | 0 => part == some w.partition
  | 1 => decide (selA % 2 ^ 14 ≤ w.chip ∧ w.chip ≤ selB % 2 ^ 14)
  | 2 => match w.tile with
    | some n => decide (bitsAt selA 0 5 ≤ tileRow n ∧ tileRow n ≤ bitsAt selA 8 5 ∧
        bitsAt selB 0 7 ≤ tileCol n ∧ tileCol n ≤ bitsAt selB 8 7)
    | none => false
  | _ => false

/-- The aperture takes a write to [off, off + n) (R107). -/
def Aperture.takes (a : Aperture) (part : Option Nat) (w : Writer) (off n : Nat) : Bool :=
  a.isOpen && decide (512 * a.base ≤ off ∧ off + n ≤ 512 * a.limit) && a.admits part w

/-- The first aperture that takes the write: the lowest context, and within it the lowest index (R107). -/
def Tile.apertureFor (x : Tile) (part : Option Nat) (w : Writer) (off n : Nat) : Option (Nat × Nat) :=
  ((List.range 64).find? (fun k => ((x.ctx (k / 8)).apt (k % 8)).takes part w off n)).map (fun k => (k / 8, k % 8))

/-- A refused aperture write is counted in TILE_REMOTE_REFUSED at bit `lo` (R109). -/
def Tile.countRefused (x : Tile) (lo : Nat) : Tile :=
  x.withRefused (setFld x.refused (lo + 31) lo (satAdd (fld x.refused (lo + 31) lo) 1 (2 ^ 32 - 1)))

/-- An aperture write to offset `off` of space 0x0: its status, and the state with it accepted or refused as a whole.
DEDUCED (log entry 24). DEDUCED (log entry 26). -/
def State.apertureWrite (s : State) (w : Writer) (off : Nat) (data : List Byte) : Nat × State :=
  let t := off / 2 ^ 20 % 2 ^ 12
  let b := off % 2 ^ 20
  let n := data.length
  if s.inDim then (St.pwrDim, s)
  else if off ≥ 2 ^ 32 ∨ t ≥ tileCount ∨ b + n > 0xA0000 then (St.addrRange, s)
  else if !s.cdReady (tileDie t) then (St.dieNotReady, s)
  else if b % 32 ≠ 0 ∨ n % 32 ≠ 0 ∨ n < 32 then (St.apertureAlign, s.updTile t (fun x => x.countRefused 0))
  else
    let x := s.tile t
    match x.apertureFor ((s.regionOf t).map s.partition) w b n with
    | none => (St.apertureMiss, s.updTile t (fun x => x.countRefused 0))
    | some (c, i) =>
      let a := (x.ctx c).apt i
      if a.isBound then
        if (x.ring c a.ring).room < n then (St.ringFull, s.updTile t (fun x => x.countRefused 32))
        else (St.ok, s.updTile t (fun x => x.append .aperture c a.ring data))
      else (St.ok, s.updTile t (fun x => x.wr b data))

/-- A T0 write arrives at its tile (R107). -/
def execApertureWrite (w : Writer) (off : Nat) (data : List Byte) (s : State) : Out :=
  let r := s.apertureWrite w off data
  .next (r.2.answer r.1)

end Sys2Proof.Machine
end

