-- ==== Sys2Proof/Machine/Access.lean ====
section
/-! DEFINITION. Register accesses: which function must be ready, and how a write meets the fields of its register (R15-R17, R34, R35,
R496, R513, R574, R591). -/
namespace Sys2Proof.Machine

/-- The registers that the always-on domain serves in Unlit, beside those of Table 17.7: HUB_FATAL and the PWR_ registers (R576).
DEDUCED (log entry 44). -/
def unlitReg (r : Nat) : Bool := decide ((0xB0100 ≤ r ∧ r < 0xB0200) ∨ (0xD0000 ≤ r ∧ r < 0xE0000))

/-- The function whose readiness bit an access to the register at `o` needs is ready (R34, R496, R513).
DEDUCED (log entry 44). -/
def State.regReady (s : State) (o : Nat) : Bool :=
  match regBlock o with
  | some (.hd, r) => if r = 0 ∨ r = 8 ∨ (0x10000 ≤ r ∧ r < 0x20000) then s.ready 0
    else if s.rf 0xD0008 2 0 = 4 && unlitReg r then s.ready 0 else s.ready 2
  | some (.cd n, _) => s.cdReady n
  | some (.od k, r) => if r ≥ 0x100000 then s.rb 0x10008 (6 * k + (r - 0x100000) / 0x10000) else s.ready 2
  | _ => s.ready 2

/-- The register lies in a block that Dim closes (R574). -/
def State.regDim (s : State) (o : Nat) : Bool :=
  s.inDim && match regBlock o with
    | some (.cd _, _) => true
    | some (.md _, _) => true
    | _ => false

/-- A field after a write of `v` to its bits (R15). -/
def Fld.write (f : Fld) (old v : Nat) : Nat :=
  match f.acc with
  | .rw => bitsAt v f.lo f.w
  | .w1c => bitsAt old f.lo f.w &&& (2 ^ f.w - 1 - bitsAt v f.lo f.w)
  | _ => bitsAt old f.lo f.w

/-- The register's value after a write of `v`, field by field; reserved bits stay (R15, R17). -/
def writeFields (fs : List Fld) (old v : W64) : W64 :=
  fs.foldl (fun a f => BitVec.ofNat 64 (putBits a.toNat f.lo f.w (f.write old.toNat v.toNat))) old

/-- A plain write of a register: its RW and W1C fields take the value (R15). -/
def State.writeReg (s : State) (o : Nat) (v : W64) : State :=
  match regDesc o with
  | some d => s.setReg o (writeFields d.fields (s.reg o) v)
  | none => s

/-- A write command of one register, judged by `f`: the status goes to the sender, and nothing changes while the function is not
ready (R34, R35). -/
def regRow (s : State) (o : Nat) (f : State → Nat × State) : Out :=
  if s.regDim o then .next (s.answer St.pwrDim)
  else if !s.regReady o then .next (s.answer St.dieNotReady)
  else let r := f s; .next (r.2.answer r.1)

/-- A judged write of a plain register. -/
def State.judged (s : State) (o : Nat) (v : W64) (st : Nat) : Nat × State := if st = 0 then (0, s.writeReg o v) else (st, s)

end Sys2Proof.Machine
end

