-- ==== Sys2Proof/Machine/Clock.lean ====
section
/-! DEFINITION. Clock domains, device time, the lock to PTP and the uncertainty log (R514-R531, R403). -/
namespace Sys2Proof.Machine

/-! ## The uncertainty log and the lock (R526, R529) -/

/-- HUB_TIME_UNC_COUNT and the entries of HUB_TIME_UNC_LOG. -/
def uncCount : Nat := 0x90058
def uncFrom (i : Nat) : Nat := 0x90100 + 0x10 * i
def uncUntil (i : Nat) : Nat := 0x90108 + 0x10 * i

/-- An interval opens: it takes the oldest entry's place. -/
def State.openUnc (s : State) (start : Nat) : State :=
  let n := s.rf uncCount 31 0
  ((s.setReg (uncFrom (n % 16)) (BitVec.ofNat 64 start)).setReg (uncUntil (n % 16)) 0).setRf uncCount 31 0 (n + 1)

/-- The open interval closes. -/
def State.closeUnc (s : State) (stop : Nat) : State :=
  s.setReg (uncUntil ((2 ^ 32 + s.rf uncCount 31 0 - 1) % 2 ^ 32 % 16)) (BitVec.ofNat 64 stop)

/-- HUB_PTP_STAT. -/
def ptpStat : Nat := 0x90018
def State.locked (s : State) : Bool := s.rb ptpStat 32
def State.everLocked (s : State) : Bool := s.rb ptpStat 33

/-- LOCKED and EVER_LOCKED are set, and the PTP bit follows. The first lock closes the interval of the cold reset at the largest device time
reached. -/
def State.lock (s : State) : State :=
  if s.locked then s
  else
    let s := s.closeUnc (if s.everLocked then s.now else max s.ptp.most s.now)
    ((s.setRb ptpStat 32 true).setRb ptpStat 33 true).setRb 0x10000 4 true

/-- LOCKED clears: it is counted, the PTP bit follows, and an interval opens. -/
def State.unlock (s : State) : State :=
  if !s.locked then s
  else (((s.setRb ptpStat 32 false).count ptpStat 63 56 1).setRb 0x10000 4 false).openUnc s.now

/-- Device time set outright, before the first lock: the largest time reached is kept (R523, R529). -/
def State.stepTime (s : State) (t : Nat) : State :=
  s |>.withTime t |>.withPtp (s.ptp.withMost (max s.ptp.most s.now))

/-- No optical die has a free tag. -/
def State.noTags (s : State) : Bool :=
  decide (s.net.ops.length + s.net.owed.length ≥ 49152) && (List.range 6).all (fun d => (s.freeTagOf d).isNone)

/-- MEM_OD_TAG_STAT.EMPTY_NS of every optical die counts `n` ns more (R311). -/
def State.countEmpty (s : State) (n : Nat) : State := (List.range 6).foldl (fun (s : State) k => s.count (odOff k 0x400) 63 32 n) s

/-- One tick of the reference clock adds HUB_TIME_RATE to device time (R523). The nanoseconds that begin count in EMPTY_NS while no tag is free
(R311), and loan notices that are owed leave as tags come free (R314, R487).
DESIGN CHOICE (log entry 1). -/
def State.tick (s : State) : State :=
  let t := s |>.withTime (s.time + (s.reg 0x90008).toNat) |>.withPtp (s.ptp.withTicks (s.ptp.ticks + 1))
  let t := if s.noTags then t.countEmpty (t.now / 4 - s.now / 4) else t
  t.net.recalls.foldl State.sendOwed t

/-- Every 160 reference ticks the replicas load device time (R524).
DEDUCED (log entry 55). -/
def execTimeMark (s : State) : Out :=
  .next (if s.ptp.ticks < 160 then s else s.withPtp (s.ptp |>.withMark s.time |>.withTicks 0))

/-- A rising edge of PPS is stamped (R531). -/
def execPpsEdge (s : State) : Out := .next (s.setReg 0x90048 (BitVec.ofNat 64 s.now))

/-- A comparator of device time interrupts core `i` (R403). -/
def execDeviceTimeComparator (i : Nat) (s : State) : Out :=
  if i ≥ 32 then .fault (.noSuchUnit "Lantern core") else .next (s.withTimerIrq (insertNat i s.timerIrq))

/-! ## Domains (R515, R522) -/

/-- PWR_STAT and its STATE. -/
def pwrStat : Nat := 0xD0008
def State.pwrState (s : State) : Nat := s.rf pwrStat 2 0

/-- The package holds the unit of the domain. -/
def realDomain : ClockDomain → Bool
  | .array n | .dieStore n | .hbm n | .ddr n => decide (n < 16)
  | .mdCore m | .efnil m => decide (m < 2)
  | .odCore k => decide (k < 6)
  | .portTx p => decide (p < 36)
  | .portRx e => decide (e < 288)
  | .hub | .alwaysOn => true

/-- No section of any context is loaded on CDn. -/
def State.dieUnloaded (s : State) (n : Nat) : Bool :=
  !(List.range 128).any (fun k => let x := Sparse.get secD s.secs k; x.resident && x.tiles.any (fun t => tileDie t == n))

/-- Every tile of CDn is parked or dark. -/
def State.dieIdle (s : State) (n : Nat) : Bool := (List.range 144).all (fun l => decide ((s.tile (tileAt n l)).st ≠ TileSt.active))

/-- The memories are in self-refresh (R494, R572). -/
def State.selfRefresh (s : State) : Bool := decide (s.pwrState = 1 ∨ s.pwrState = 2 ∨ s.boot.ph = BootPh.held)

/-- Cavor enters Dim or is in it. -/
def State.dimming (s : State) : Bool := decide (s.pwrState = 1 ∨ s.pwrState = 2)

/-- The domain may stop (Table 18.1). -/
def State.mayStop (s : State) : ClockDomain → Bool
  | .array n => s.dimming || (s.dieIdle n && s.dieUnloaded n)
  | .dieStore _ | .mdCore _ => s.dimming
  | .hbm _ => s.selfRefresh
  | .ddr n => s.selfRefresh || !s.rb 0x10048 n
  | .portTx p => !s.rb (portOff p 0) 2
  | .portRx e => !s.locksAll e
  | .hub => decide (s.pwrState = 4)
  | .odCore _ | .efnil _ | .alwaysOn => false

/-- A queue into the domain holds an entry: tokens wait at a die edge of an array (R25, R522). -/
def State.waking (s : State) : ClockDomain → Bool
  | .array n => s.flight.any (fun f => decide (tileDie f.pos = n))
  | _ => false

/-- A domain stops at its stop point, its wake input low. -/
def execDomainStop (d : ClockDomain) (s : State) : Out :=
  if !realDomain d then .fault (.noSuchUnit "clock domain")
  else if s.mayStop d && !s.waking d && !s.pwr.stopped.contains d then .next (s.withPwr (s.pwr.withStopped (s.pwr.stopped ++ [d])))
  else .next s

/-- The domain has no wake input now: in Dim those of R574 stay stopped, all but the die stores' and the HBM stack with OUV_STATE_BASE; in Unlit
every domain but the Efnil port's and the always-on one (R515, R576). -/
def State.staysStopped (s : State) : ClockDomain → Bool
  | .array _ | .mdCore _ | .ddr _ => decide (s.pwrState = 1 ∨ s.pwrState = 4)
  | .hbm n => decide (s.pwrState = 4 ∨ (s.pwrState = 1 ∧ s.rf 0x70038 39 36 ≠ n))
  | .dieStore _ | .odCore _ | .portTx _ | .portRx _ | .hub => decide (s.pwrState = 4)
  | .efnil _ | .alwaysOn => false

/-- The wake input rises, and the domain runs again. -/
def execDomainWake (d : ClockDomain) (s : State) : Out :=
  if !realDomain d then .fault (.noSuchUnit "clock domain")
  else if s.staysStopped d then .next s
  else .next (s.withPwr (s.pwr.withStopped (s.pwr.stopped.filter (· != d))))

/-! ## DVFS (R577) -/

def cdClk (n : Nat) : Nat := 0xD0100 + 8 * n

/-- Compute die n is affected by the glare run in progress (R551). -/
def State.glareDie (s : State) (n : Nat) : Bool :=
  match s.glare.run with
  | some r => r.former.any (fun e => e.1 == n)
  | none => false

/-- ACTUAL of CDn set, with the rail of its curve. -/
def State.setClock (s : State) (n f : Nat) : State :=
  (s.setRf (cdClk n) 15 8 f).setRf (cdClk n) 31 16 (Config.railMv n f).toNat

/-- A write of PWR_CD_CLK of CDn. -/
def State.judgeCdClk (s : State) (n : Nat) (v : W64) : Nat × State :=
  if fld v 7 0 < 32 ∨ fld v 7 0 > 132 then (St.paramRange, s)
  else (0, (s.writeReg (cdClk n) v).withPwr (s.pwr.withChanging (insertNat n s.pwr.changing)))

def execPwrCdClkWrite (n : Nat) (v : W64) (s : State) : Out :=
  if n ≥ 16 then .fault (.noSuchUnit "compute die") else regRow s (cdClk n) (fun s => s.judgeCdClk n v)

/-- The change is in force: not in Dim, not while a glare run holds the die, and not above the frequency of a throttle. -/
def execDvfsChangeDone (n : Nat) (s : State) : Out :=
  if n ≥ 16 then .fault (.noSuchUnit "compute die")
  else if !s.pwr.changing.contains n || s.pwrState != 0 || s.glareDie n then .next s
  else
    let want := s.rf (cdClk n) 7 0
    let held := s.pwr.hot.any (fun h => h.1 == n)
    let f := if held then min want (s.rf (cdClk n) 15 8) else want
    .next ((s.withPwr (s.pwr.withChanging (s.pwr.changing.filter (· != n)))).setClock n f)

end Sys2Proof.Machine
end

