-- ==== Sys2Proof/Machine/EfnLink.lean ====
section
/-! DEFINITION. The link layer of the Efnil port, its command record, and how late answers reach those who wait for them (R324, R426-R432,
R468, R474). -/
namespace Sys2Proof.Machine

/-! ## Frames (R427) -/

/-- EFN_STAT. -/
def efnStat : Nat := 0x60008
def State.efnUp (s : State) : Bool := s.rb efnStat 3
def State.setEfn (s : State) (e : EfnSt) : State := s.withEfn e

def eType (f : List Byte) : Nat := beAt f 0 1
def eClass (f : List Byte) : Nat := beAt f 1 1 % 4
def eResp (f : List Byte) : Bool := decide (beAt f 1 1 / 4 % 2 = 1)
def eNak (f : List Byte) : Bool := decide (beAt f 1 1 / 16 % 2 = 1)
def eLen (f : List Byte) : Nat := beAt f 2 2
def eLseq (f : List Byte) : Nat := beAt f 4 2
def eLack (f : List Byte) : Nat := beAt f 6 2
def eCmd (f : List Byte) : Nat := beAt f 8 4
def eCred (f : List Byte) : Nat := beAt f 13 1
/-- The payload. -/
def ePay (f : List Byte) : List Byte := (f.drop 16).take (eLen f)

/-- A frame without LSEQ, LACK, CRED and CRC. -/
def efnBody (type flags cmd status : Nat) (payload : List Byte) : List Byte :=
  toBe 1 type ++ toBe 1 flags ++ toBe 2 payload.length ++ toBe 4 0 ++ toBe 4 cmd ++ toBe 1 status ++ toBe 3 0 ++ payload

/-- The CRC of a received frame is right (R428). -/
def efnCrcOk (f : List Byte) : Bool :=
  let b := f.take (f.length - 4)
  decide (beAt f b.length 4 = crc32c b)

/-- A received frame is long enough for its LENGTH (R428). -/
def efnLongEnough (f : List Byte) : Bool := decide (20 + eLen f ≤ f.length)

/-- The LENGTH of a received frame is right: at most 4,096, and what the frame holds (R427, R431). -/
def efnLenOk (f : List Byte) : Bool := decide (eLen f ≤ 4096 ∧ f.length = 20 + eLen f)

/-- The credit class and count that the next frame returns (R430). -/
def EfnSt.credByte (e : EfnSt) : Nat :=
  if e.dueCtl > 0 then min e.dueCtl 63 else if e.dueBulk > 0 then 64 + min e.dueBulk 63 else 0xC0

/-- The frame with LACK, CRED and CRC as they are now. -/
def EfnSt.finish (e : EfnSt) (b : List Byte) (lseq : Nat) : List Byte :=
  let b := overlay (overlay b 4 (toBe 2 lseq ++ toBe 2 ((65535 + e.rxNext) % 65536))) 13 (toBe 1 e.credByte)
  b ++ toBe 4 (crc32c b)

/-- The state after a frame has left: credits returned and the acknowledgement carried. -/
def EfnSt.left (e : EfnSt) (f : List Byte) : EfnSt :=
  let c := min e.dueCtl 63
  let b := if e.dueCtl > 0 then 0 else min e.dueBulk 63
  e |>.withSent (e.sent ++ [f]) |>.withAckDue false |>.withDueCtl (e.dueCtl - c) |>.withCtlCred (min 32 (e.ctlCred + c))
      |>.withDueBulk (e.dueBulk - b) |>.withBulkCred (min 64 (e.bulkCred + b))

/-- A frame takes the next LSEQ and leaves, or waits while 64 are unacknowledged (R429). -/
def EfnSt.send (e : EfnSt) (b : List Byte) : EfnSt :=
  if e.replay.length ≥ 64 then e.withWait (e.wait ++ [b])
  else
    let f := e.finish b e.txNext
    ((e.left f) |>.withReplay (e.replay ++ [(⟨e.txNext, 0, f⟩ : EfnOut)]) |>.withTxNext ((e.txNext + 1) % 65536))

/-- Waiting frames leave as room allows. -/
def EfnSt.pump (e : EfnSt) : EfnSt :=
  let w := e.wait
  w.foldl (fun e b => e.send b) (e.withWait [])

/-- A frame of this chip; while the link is down it is lost. -/
def State.efnSend (s : State) (b : List Byte) : State :=
  if s.efnUp then
    let e := s.efn
    s.setEfn ((if e.replay.isEmpty then e.withSince s.now else e).send b)
  else s

/-- A LINK frame. -/
def State.efnLink (s : State) (nak : Bool) : State :=
  if s.efnUp then s.setEfn (s.efn.left (s.efn.finish (efnBody 0 (if nak then 16 else 0) 0 0 []) 0)) else s

/-- The link is down: replay buffers are emptied; LSEQ and credits start anew (R426, R429).
DEDUCED (log entry 38). -/
def State.efnDown (s : State) : State :=
  if !s.efnUp then s
  else
    let lost := ((s.efn.replay.map (·.bytes)) ++ s.efn.wait).filter (fun f => decide (eType f = 6))
    let s := (s.setReg efnStat (setFld (s.reg efnStat) 3 0 0)).count 0x60010 47 32 lost.length
    s.setEfn (s.efn |>.withRxNext 0 |>.withNak false |>.withTxNext 0 |>.withReplay [] |>.withWait [] |>.withEvCred 0 |>.withCtlCred 0
        |>.withBulkCred 0 |>.withDueCtl 0 |>.withDueBulk 0 |>.withAckDue false)

/-- One frame has been sent again 16 times without an acknowledgement (R426). -/
def EfnSt.spent (e : EfnSt) : Bool := e.replay.any (fun r => decide (r.replays ≥ 16))

/-- Every frame after LACK is sent again; where one has been already 16 times, the link is found down (R426, R429). -/
def State.efnReplay (s : State) : State :=
  if s.efn.replay.isEmpty then s
  else if s.efn.spent then s.efnDown
  else
    let s := s.count efnStat 47 32 1
    let l := s.efn.replay
    s.setEfn (s.efn |>.withSent (s.efn.sent ++ l.map (·.bytes)) |>.withReplay (l.map (fun r => r.withReplays (r.replays + 1))) |>.withSince s.now)

/-- LACK and CRED of a good frame (R429, R430). -/
def State.efnTake (s : State) (f : List Byte) : State :=
  let e := s.efn
  let keep := e.replay.filter (fun r => decide ((65536 + eLack f - r.lseq) % 65536 ≥ 32768))
  let e := e |>.withReplay keep |>.withSince (if keep.length < e.replay.length then s.now else e.since)
      |>.withEvCred (if eCred f / 64 = 2 then min 63 (e.evCred + eCred f % 64) else e.evCred)
  s.setEfn e.pump

/-- A request of a class uses one of its credits (R430); EVENT frames and LINK frames are none. -/
def EfnSt.useCredit (e : EfnSt) (cls : Nat) : EfnSt :=
  if cls = 0 then e.withCtlCred (e.ctlCred - 1) else if cls = 1 then e.withBulkCred (e.bulkCred - 1) else e

/-- What a frame is to the receiver (R428). -/
inductive EfnIn where
  | bad (s : State)
  | link (s : State)
  | good (s : State)

/-- A frame arrives: it is discarded with a NAK, or a LINK frame, or good and in order.
DEDUCED (log entry 38). -/
def State.efnArrive (s : State) (f : List Byte) : EfnIn :=
  let nak (s : State) : State := if s.efn.nak then s else s.setEfn (((s.efnLink true).efn).withNak true)
  if !efnCrcOk f then .bad (nak (s.count 0x60010 31 0 1))
  else if !efnLongEnough f then .bad (nak s)
  else if eType f = 0 then
    let s := s.efnTake f
    .link (if eNak f then s.efnReplay else s)
  else if eLseq f ≠ s.efn.rxNext then .bad (nak s)
  else
    let s := s.efnTake f
    let e := s.efn |>.withRxNext ((s.efn.rxNext + 1) % 65536) |>.withNak false |>.withAckDue true
    .good (s.setEfn (if eResp f then e else e.useCredit (eClass f)))

/-! ## Responses and the command record (R430-R432) -/

def EfnSt.known (e : EfnSt) (cmd : Nat) : Option EfnRec := e.record.find? (fun r => r.cmd == cmd)

def EfnSt.remember (e : EfnSt) (r : EfnRec) : EfnSt :=
  let l := e.record ++ [r]
  (e.withRecord (l.drop (l.length - 1024)))

/-- The class of a request type (Table 14.9). -/
def efnClassOf (type : Nat) : Nat := if type = 3 ∨ type = 4 ∨ type = 8 then 1 else if type = 6 then 2 else 0

/-- Cavor has finished with a request of a class: its credit is to be returned. -/
def State.efnCredit (s : State) (cls : Nat) : State :=
  if cls = 0 then s.setEfn (s.efn.withDueCtl (s.efn.dueCtl + 1))
  else if cls = 1 then s.setEfn (s.efn.withDueBulk (s.efn.dueBulk + 1))
  else s

/-- A response of one frame.
DEDUCED (log entry 38). DEDUCED (log entry 57). -/
def State.efnReply (s : State) (cmd type cls status flags : Nat) (data : List Byte) : State :=
  (s.efnCredit cls).efnSend (efnBody type (cls + 4 + flags) cmd status data)

/-- An executed request is recorded and answered. -/
def State.efnDone (s : State) (cmd type status flags : Nat) (data : List Byte) : State :=
  let s := s.setEfn (s.efn.remember ⟨cmd, type, status, if type = 1 then data else []⟩)
  s.efnReply cmd type (efnClassOf type) status flags data

/-- Data cut into frames of at most 4,096 bytes. -/
def chunks (n : Nat) : Nat → List Byte → List (List Byte)
  | 0, _ => []
  | k + 1, bs => if bs.isEmpty then [] else bs.take n :: chunks n k (bs.drop n)

/-- The answer of a BULK_READ, recorded unless it is a repeat: its data frames, LAST on the final one; a failure ends with a frame that carries the status.
DEDUCED (log entry 38). -/
def State.efnBulk (s : State) (cmd status flags : Nat) (data : List Byte) : State :=
  let s := if flags = 0 then s.setEfn (s.efn.remember ⟨cmd, 3, status, []⟩) else s
  let fs := chunks 4096 (data.length / 4096 + 1) data
  let s := s.efnCredit 1
  let n := fs.length
  let s := fs.zipIdx.foldl (fun (s : State) f =>
    s.efnSend (efnBody 3 (5 + flags + if status = 0 ∧ f.2 + 1 = n then 8 else 0) cmd 0 f.1)) s
  if status = 0 then s else s.efnSend (efnBody 3 (5 + flags + 8) cmd status [])

/-- The accesses of an open request, in the order in which they were made. -/
def State.efnOps (s : State) (o : EfnOpen) : List NetOp :=
  (List.range o.parts).filterMap (fun i => s.net.ops.find? (fun x => x.client == Client.efnil o.cmd i))

/-- An open request whose accesses are all answered is answered (R431). -/
def State.efnSettle (s : State) (cmd : Nat) : State :=
  match s.efn.opened.find? (fun o => o.cmd == cmd) with
  | none => s
  | some o =>
    let ops := s.efnOps o
    let as := ops.filterMap (·.done)
    if as.length < o.parts then s
    else
      let s := ops.foldl (fun (s : State) x => s.dropOp x.id) s
      let s := s.setEfn (s.efn.withOpened (s.efn.opened.filter (fun x => x.cmd != cmd)))
      let good := as.takeWhile (fun a => a.status == 0)
      let status := ((as.find? (fun a => a.status != 0)).map (·.status)).getD 0
      let flags := if o.dup then 32 else 0
      if o.type = 3 then s.efnBulk cmd status flags (good.flatMap (·.data))
      else if o.type = 1 then s.efnDone cmd 1 status flags (if status = 0 then toBe 8 (leNat (good.flatMap (·.data))) else [])
      else s.efnDone cmd o.type status flags []

/-! ## Responses to other chips (R468, R474) -/

/-- A response to request `req` of the chip behind stream `key`: it joins the stream, and its tag is held until it is acknowledged. A response that is
no longer owed is discarded (R477).
DEDUCED (log entry 45). -/
def State.respond (s : State) (key : Nat) (req : List Byte) (a : Ans) : State :=
  let seq := (s.txs key).nextSeq
  let addr := if a.fwd ∨ a.status = St.homeMoved then a.loc else hAddr req
  let b := s.header key (hOp req) (Fl.resp + if a.fwd then Fl.fwd else 0) (a.data.length / 4) (hDie req) (hSpan req) a.status (hTag req)
    0 addr ++ a.data
  let own (o : Nat × Nat × List Byte) : Bool := o.2.1 == 2 ^ 32 * key && o.2.2 == req.take 32
  match findPos own s.net.owed with
  | none => s
  | some i =>
    let owed := setAt s.net.owed i ((s.net.owed.getD i (0, 0, [])).1, 2 ^ 32 * key + seq, [])
    (s.withNet (s.net.withOwed owed)).enqueue key b none none

def lanFault (i : Nat) : Nat := 0x50600 + 0x10 * i

/-- An access of core i completes: data and status go to the core, and a status other than OK is an access fault, which HUB_LAN_FAULT records
(R401). An atomic's answer comes most significant byte first.
DEDUCED (log entry 43). -/
def State.coreDone (s : State) (i pa : Nat) (amo : Bool) (st : Nat) (d : List Byte) : State :=
  let s := s.answerData st (if amo then d.reverse else d)
  if st = 0 ∨ i ≥ 32 then s else (s.setRf (lanFault i) 7 0 st).setReg (lanFault i + 8) (BitVec.ofNat 64 pa)

/-- A late answer reaches the one who waits for it: another chip, an Efnil request, a core, or a unit that takes it from `ops`. -/
def State.handOver (s : State) (c : Client) (addr : Nat) (a : Ans) : State :=
  match c with
  | .none => s
  | .unit r => s.gotUnit r (if a.status = 0 ∧ addr ≠ r.addr then a |>.withLoc addr |>.withFwd true else a)
  | .core i pa amo => s.coreDone i pa amo a.status a.data
  | .peer key _ _ req => s.respond key req a
  | .forwarded key _ _ req loc =>
    s.respond key req (if a.status = St.homeMoved then a.withFwd false else a |>.withLoc (if a.fwd then a.loc else loc) |>.withFwd true)
  | .efnil cmd _ => (s.localOp addr c a).efnSettle cmd
  | _ => s.localOp addr c a

/-! ## Rows -/

/-- A frame that fails its CRC, its order or its length is discarded with a NAK; a good frame with a reserved TYPE or CLASS is
acknowledged, dropped, counted and, as a request, answered (R428). -/
def execEfnBadFrame (f : List Byte) (s : State) : Out :=
  if !s.efnUp then .next s
  else match s.efnArrive f with
    | .bad s1 => .next s1
    | .link _ => .next s
    | .good s1 =>
      let answer (s : State) (st : Nat) : State := if eResp f then s else s.efnReply (eCmd f) (eType f) (eClass f) st 0 []
      if eType f > 8 then .next (answer (s1.count 0x60010 47 32 1) St.efnType)
      else if eClass f = 3 then .next (answer (s1.count 0x60010 47 32 1) St.efnClass)
      else if eType f = 6 then .next (answer s1 St.efnClass)
      else .next s

/-- A LINK frame arrives: LACK, CRED and NAK (R429). -/
def execLink (f : List Byte) (s : State) : Out :=
  if !s.efnUp then .next s
  else match s.efnArrive f with
    | .link s1 => .next s1
    | _ => .next s

/-- An acknowledgement or credit that no other frame carries is sent in a LINK frame (R429). -/
def execEfnAckDue (s : State) : Out :=
  .next (if s.efn.ackDue ∨ s.efn.dueCtl > 0 ∨ s.efn.dueBulk > 0 then s.efnLink false else s)

/-- REPLAY_US has passed with no new LACK (R429). -/
def execEfnReplayTimeout (s : State) : Out :=
  .next (if s.efnUp && decide (s.efn.since + 4000 * s.rf 0x60000 23 16 ≤ s.now) then s.efnReplay else s)

/-- Ring entries that wait to be forwarded leave in one EVENT frame for one event credit (R430, R431). -/
def execEvent (s : State) : Out :=
  if !s.efnUp ∨ s.efn.evCred = 0 ∨ s.logs.forward.isEmpty then .next s
  else
    let es := s.logs.forward.take 64
    let s := s.withLogs (s.logs.withForward (s.logs.forward.drop 64))
    let s := s.setEfn (s.efn.withEvCred (s.efn.evCred - 1))
    .next (s.efnSend (efnBody 6 2 0 0 es.flatten))

/-- Some lane is up. -/
def State.laneUp (s : State) : Bool := s.rb efnStat 0 || s.rb efnStat 1

/-- LANE0_UP, LANE1_UP and HALF for the lanes that carry the link; the time from which none does is kept. -/
def State.setLanes (s : State) (l0 l1 : Bool) : State :=
  let s := if s.laneUp && !(l0 || l1) then s.setEfn (s.efn.withDark s.now) else s
  ((s.setRb efnStat 0 l0).setRb efnStat 1 l1).setRb efnStat 2 (l0 != l1)

/-- Lane `l` is taken out of use (R426). -/
def execEfnLaneLoss (l : Nat) (s : State) : Out :=
  if l ≥ 2 then .fault (.noSuchUnit "Efnil lane")
  else .next (s.setLanes (s.rb efnStat 0 && l != 0) (s.rb efnStat 1 && l != 1))

/-- Lane `l` has retrained and rejoins, when it may be used (R426, R433). -/
def execEfnLaneRejoin (l : Nat) (s : State) : Out :=
  if l ≥ 2 then .fault (.noSuchUnit "Efnil lane")
  else if !s.efnUp || !s.rb 0x60000 (24 + l) then .next s
  else .next (s.setLanes (s.rb efnStat 0 || l == 0) (s.rb efnStat 1 || l == 1))

/-- The link is found down: neither lane has been up for 10 µs, or one frame has been replayed 16 times (R426). -/
def execEfnLinkDown (s : State) : Out :=
  .next (if (!s.laneUp && decide (s.efn.dark + 40000 ≤ s.now)) || s.efn.spent then s.efnDown else s)

/-- What the boot ROM starts once EFNIL is set: after a cold reset it enables the fabric ports, which train fully (R499); after a warm reset
the ports that were enabled retrain (R508). -/
def State.startPorts (s : State) : State :=
  if s.rb 0x10028 0 then
    (List.range 36).foldl (fun (s : State) p => if s.portOn p then s.train p (s.subs p) false else s) s
  else (List.range 32).foldl (fun (s : State) p =>
    let s := (s.setRf (portOff p 0) 1 0 0).setRb (portOff p 0) 2 true
    s.train p (s.subs p) true) s

/-- The link comes up on the lanes that are enabled: LSEQ and credits start anew, a retrain counts, and the first link up after a reset
sets EFNIL (R426, R429, R430, R496, R499). -/
def execEfnLinkUp (s : State) : Out :=
  if s.efnUp || s.boot.ph != BootPh.run then .next s
  else
    let s := if s.ready 0 then s.count efnStat 31 16 1 else (s.setRb 0x10000 0 true).startPorts
    let s := (s.setLanes (s.rb 0x60000 24) (s.rb 0x60000 25)).setRb efnStat 3 true
    .next (s.setEfn (s.efn |>.withEvCred (s.rf 0x60000 5 0) |>.withCtlCred 32 |>.withBulkCred 64))

end Sys2Proof.Machine
end

