-- ==== Sys2Proof/Machine/Redirect.lean ====
section
/-! DEFINITION. The redirect caches of the stream engines, and the reading of compressed objects (R301-R304, R326). -/
namespace Sys2Proof.Machine

/-! ## Redirect cache (R326): pairs of granule addresses (addresses over 2 MiB), most recently used first -/

def State.redirects (s : State) (n : Nat) : List (Nat × Nat) := Sparse.get (fun _ => []) s.net.redirect n
def State.setRedirects (s : State) (n : Nat) (l : List (Nat × Nat)) : State :=
  s.withNet (s.net.withRedirect (Sparse.put (fun _ => []) s.net.redirect n l))

/-- A new mapping learnt by the engine of die `n`, as the most recently used of at most 64. -/
def State.learn (s : State) (n old new : Nat) : State :=
  let k := old / 2 ^ 21
  s.setRedirects n (((k, new / 2 ^ 21) :: (s.redirects n).filter (fun e => e.1 != k)).take 64)

/-- The address after translation, and the cache with the entry used. -/
def State.translate (s : State) (n a : Nat) : Nat × State :=
  match (s.redirects n).find? (fun e => e.1 == a / 2 ^ 21) with
  | some e => (2 ^ 21 * e.2 + a % 2 ^ 21, s.setRedirects n (e :: (s.redirects n).filter (fun x => x.1 != e.1)))
  | none => (a, s)

/-- A write of CD_REDIRECT_FLUSH of die `n`: 1 clears the cache. -/
def State.judgeRedirectFlush (s : State) (n : Nat) (v : W64) : Nat × State := (0, if bit v 0 then s.setRedirects n [] else s)

def execRedirectFlush (n : Nat) (v : W64) (s : State) : Out :=
  if n ≥ 16 then .fault (.noSuchUnit "compute die") else regRow s (cdOff n 0x3910) (fun s => s.judgeRedirectFlush n v)

/-! ## Compressed objects (R302-R304) -/

/-- The frame header rules of R303: the magic number, Single_Segment_flag 1, no dictionary, no checksum, and nothing reserved. -/
def frameHeaderOk (bs : List Byte) : Bool :=
  decide (leAt bs 0 4 = 0xFD2FB528) && decide (bitsAt (leAt bs 4 1) 5 1 = 1) && decide (bitsAt (leAt bs 4 1) 2 2 = 0) &&
    decide (bitsAt (leAt bs 4 1) 0 2 = 0)

/-- Frame_Content_Size and the length of the header that ends with it (RFC 8878, 3.1.1.1): 1, 2, 4 or 8 bytes, two bytes counting from 256. -/
def frameContentSize (bs : List Byte) : Nat × Nat :=
  match bitsAt (leAt bs 4 1) 6 2 with
  | 0 => (leAt bs 5 1, 6)
  | 1 => (leAt bs 5 2 + 256, 7)
  | 2 => (leAt bs 5 4, 9)
  | _ => (leAt bs 5 8, 13)

/-- Where the frame whose next block header stands at `o` ends (RFC 8878, 3.1.1.2): none when a block is of the reserved type or the bytes end
first. -/
def frameEnd (bs : List Byte) : Nat → Nat → Option Nat
  | 0, _ => none
  | n + 1, o =>
    let h := leAt bs o 3
    let kind := bitsAt h 1 2
    let next := o + 3 + if kind = 1 then 1 else h / 8
    if kind = 3 ∨ next > bs.length then none
    else if h % 2 = 1 then some next
    else frameEnd bs n next

/-- The content of one stored block of logical size `size`: none for DECOMP_FAULT (R303, R304). -/
def blockContent (len size : Nat) (stored : List Byte) : Option (List Byte) :=
  if len = 0 then some (slice stored 0 size)
  else if !frameHeaderOk stored ∨ (frameContentSize stored).1 ≠ size then none
  else match frameEnd stored stored.length (frameContentSize stored).2 with
    | none => none
    | some e =>
      if !(stored.drop e).all (· == 0) then none
      else match Config.zstdDecode (stored.take e) with
        | some out => if out.length = size then some out else none
        | none => none

/-- One access of an object: a stream engine translates its granule and learns where it has moved (R326). -/
def State.objAccess (s : State) (net : List NetAns) (eng : Option Nat) (addr len : Nat) (g : Option Nat) : Except Park (Ans × State) :=
  match eng with
  | none => s.unitAccess net 1 addr len [] g 5
  | some n =>
    let q := s.translate n addr
    match q.2.unitAccess net 1 q.1 len [] g 5 with
    | .error p => .error p
    | .ok (a, s) => .ok (a, if a.status = 0 && a.fwd then s.learn n q.1 a.loc else s)

/-- Bytes of an object, in accesses that stay within 4 KiB. -/
def State.objRead (s : State) (net : List NetAns) (eng : Option Nat) (addr len : Nat) (g : Option Nat) :
    Except Park (Nat × List Byte × State) :=
  (cutRange 4096 (len / 4096 + 2) addr len).foldl (fun acc p =>
    match acc with
    | .ok (0, bs, s) =>
      match s.objAccess net eng p.1 p.2 g with
      | .ok (a, s) => .ok (a.status, bs ++ slice a.data 0 (if a.status = 0 then p.2 else 0), s)
      | .error p => .error p
    | x => x) (.ok (0, [], s))

/-- The index lines that the stream engine of die `n` keeps (R304). -/
def State.indexLines (s : State) (n : Nat) : List (Nat × List Byte) := Sparse.get (fun _ => []) s.net.lines n

/-- A line as the most recently used of at most 256. -/
def State.keepLine (s : State) (n a : Nat) (bs : List Byte) : State :=
  let l := ((a, bs) :: (s.indexLines n).filter (fun e => e.1 != a)).take 256
  s.withNet (s.net.withLines (Sparse.put (fun _ => []) s.net.lines n l))

/-- The index entry of block `b` of an object of `blocks` blocks: a stream engine takes it from the line of 8 entries that it keeps, or reads the
line (R304). -/
def State.indexEntry (s : State) (net : List NetAns) (eng : Option Nat) (obj blocks b : Nat) (g : Option Nat) :
    Except Park (Nat × List Byte × State) :=
  match eng with
  | none => s.objRead net none (obj + 64 + 8 * b) 8 g
  | some n =>
    let a := obj + 64 + 64 * (b / 8)
    match (s.indexLines n).find? (fun e => e.1 == a) with
    | some e => .ok (0, slice e.2 (b % 8 * 8) 8, s.keepLine n a e.2)
    | none => match s.objRead net eng a (min 64 (8 * blocks - 64 * (b / 8))) g with
      | .ok (0, bs, s) => .ok (0, slice bs (b % 8 * 8) 8, s.keepLine n a bs)
      | x => x

/-- Every stream engine discards the index lines of an object that fills `n` bytes (R359). -/
def State.dropLines (s : State) (obj n : Nat) : State :=
  s.withNet (s.net.withLines ((s.net.lines.map (fun e =>
    (e.1, e.2.filter (fun x => !decide (gaKey obj ≤ gaKey x.1 ∧ gaKey x.1 < gaKey obj + n))))).filter (fun e => e.2 != [])))

/-- Logical bytes [off, off + n) of the object at `obj`, zeros beyond LOGICAL_BYTES: the status, the bytes and the state (R301-R304).
`eng` is the stream engine that reads it, by die, when one does.
The header must hold the MAGIC and counts of Table 10.7 (log entry 13). -/
def State.readObject (s : State) (net : List NetAns) (eng : Option Nat) (obj off n : Nat) (g : Option Nat) : Except Park (Nat × List Byte × State) :=
  match s.objRead net eng obj 64 g with
  | .error p => .error p
  | .ok (st, hd, s) =>
    if st ≠ 0 then .ok (st, [], s)
    else
      let blocks := leAt hd 4 4
      let total := leAt hd 8 8
      let data := leAt hd 16 8
      if leAt hd 0 4 ≠ 0x425A4F31 ∨ blocks = 0 ∨ blocks > 2 ^ 24 ∨ total > 4096 * blocks ∨ total ≤ 4096 * (blocks - 1) ∨
          data % 32 ≠ 0 then .ok (St.decompFault, [], s)
      else
        let last := min (off + n) total
        if off ≥ last then .ok (0, List.replicate n 0, s)
        else
          let first := off / 4096
          let count := (last - 1) / 4096 - first + 1
          let step (acc : Except Park (Nat × List Byte × State)) (b : Nat) : Except Park (Nat × List Byte × State) :=
            match acc with
            | .ok (0, bs, s) =>
              match s.indexEntry net eng obj blocks b g with
              | .error p => .error p
              | .ok (st, ix, s) =>
                if st ≠ 0 then .ok (st, [], s)
                else
                  let size := min 4096 (total - 4096 * b)
                  let len := leAt ix 4 1
                  if leAt ix 5 3 ≠ 0 ∨ len > 127 then .ok (St.decompFault, [], s)
                  else match s.objRead net eng (obj + data + 32 * leAt ix 0 4) (if len = 0 then roundUp size 32 else 32 * len) g with
                    | .error p => .error p
                    | .ok (st, stored, s) =>
                      if st ≠ 0 then .ok (st, [], s)
                      else match blockContent len size stored with
                        | some out => .ok (0, bs ++ out, s)
                        | none => .ok (St.decompFault, [], s)
            | x => x
          match ((List.range count).map (first + ·)).foldl step (.ok (0, [], s)) with
          | .ok (0, bs, s) => .ok (0, slice (bs.drop (off - 4096 * first)) 0 n, s)
          | x => x

end Sys2Proof.Machine
end

