-- ==== Sys2Proof/Machine/TileStream.lean ====
section
/-! DEFINITION. STRM, REARM and stream pieces (R156, R165-R171, R189, R298-R309, R325, R326). -/
namespace Sys2Proof.Machine

/-! ## Bindings (R194, R298): `desc` holds the first 16 bytes of the stream descriptor -/

def Binding.comp (b : Binding) : Bool := decide (bitsAt b.desc 1 1 = 1)
def Binding.xpose (b : Binding) : Bool := decide (bitsAt b.desc 2 1 = 1)
def Binding.xfmt (b : Binding) : Nat := bitsAt b.desc 16 4
def Binding.obj (b : Binding) : Nat := bitsAt b.desc 64 64

/-! ## Transpose (R300) -/

/-- Bytes of a transpose group. -/
def groupBytes (f : Nat) : Nat := fmtBytes f 64

/-- A run of whole groups, each transposed as an 8 × 8 block. The same move serves both directions. -/
def transpose (f : Nat) (bs : List Byte) : List Byte :=
  (List.range (bs.length / groupBytes f)).flatMap (fun k =>
    let grp := slice bs (k * groupBytes f) (groupBytes f)
    packElems f ((List.range 64).map (fun p => unpackElem f grp (p % 8 * 8 + p / 8))))

/-- Every piece of a run holds whole groups. -/
def wholeGroups (f a len : Nat) : Bool := (cutRange 512 9 a len).all (fun q => decide (q.2 % groupBytes f = 0))

/-! ## Issue -/

/-- STRM is checked at issue and enters the stream queue of depth 8 (R156, R165).
DESIGN CHOICE (log entry 68). -/
def execStrm (t : Nat) (s : State) : Out :=
  issueOp 0x48 t s (fun s _ c w _ =>
    let x := s.tile t
    let y := x.ctx c
    let b := y.bind (fld w 51 48)
    let r := y.ring (fld w 47 44)
    let off := xr x c (fld w 43 39)
    let n := xr x c (fld w 38 34)
    let dir := bit w 33
    let relay := bit w 32
    checked [(!b.bound, Exc.streamOff), (if dir then !b.wr else !b.rd, Exc.streamOff), (!r.on, Exc.ringOff),
        (!r.isStream, Exc.ringMode), (decide (off % 32 ≠ 0 ∨ n % 32 ≠ 0), Exc.spadAlign),
        (decide (n > 1048576), Exc.streamLen), (relay && dir, Exc.illegalField),
        (relay && !y.routeOn (fld w 31 28), Exc.routeOff), (relay && decide (n % 64 ≠ 0), Exc.tokenAlign)]
      (if n = 0 then .go s
       else if x.u.strmQ.length ≥ 8 then .wait 0x3008
       else .go (s.setTile t (x.withU (x.u |>.withStrmQ (x.u.strmQ ++ [⟨false, w, y.pc, off, n, 0, 0, x.u.seqNo⟩]) |>.withSeqNo (x.u.seqNo + 1))))))

/-- REARM is checked at issue and enters the stream queue; at its head it sets the binding's base for the STRMs that follow
(R170, R190). -/
def execRearm (t : Nat) (ph : Phase) (s : State) : Out :=
  match ph with
  | .issue => issueOp 0x49 t s (fun s _ c w _ =>
      let x := s.tile t
      let y := x.ctx c
      let base := xr x c (fld w 47 43) + 2 ^ 32 * xr x c (fld w 42 38)
      checked [(!(y.bind (fld w 51 48)).bound, Exc.streamOff), (decide (base % 32 ≠ 0), Exc.streamAlign)]
        (if x.u.strmQ.length ≥ 8 then .wait 0x3008
         else .go (s.setTile t (x.withU (x.u |>.withStrmQ (x.u.strmQ ++ [⟨true, w, y.pc, 0, 0, 0, base, x.u.seqNo⟩]) |>.withSeqNo (x.u.seqNo + 1))))))
  | .unit => unitOp t s (fun _ c x =>
      match x.u.strmQ with
      | [] => s
      | m :: rest =>
        if !m.rearm then s
        else
          let sb := fld m.word 51 48
          let x := x.updCtx c (fun y => y.setBind sb ((y.bind sb).withBase m.base))
          s.setTile t (x.withU (x.u.withStrmQ rest)))

/-! ## Pieces -/

/-- The bytes of a piece below the binding's extent (R167): they alone make memory accesses. -/
def Piece.below (p : Piece) : Nat := min p.len (p.bind.extent - p.off)

/-- The piece is one of the run whose first piece is `id` of tile `t`, and waits for that run's operation (R309). -/
def Piece.inRun (p : Piece) (id : Nat) : Bool := p.lead == id

/-- Tags of a die's stream engine in use: one for each outstanding piece of its tiles, a read piece's until its bytes are in the ring
(R307). A piece that an optical die has accepted holds none (R308): its operation does. -/
def State.cdTags (s : State) (n : Nat) : Nat :=
  s.tiles.foldl (fun a e =>
    if tileDie e.1 = n then
      a + (e.2.u.pieces.filter (fun p => !s.net.ops.any (fun o => o.client == Client.piece e.1 p.lead))).length +
        (e.2.u.port.filter (·.tag)).length
    else a) 0

/-- Bytes up to the next multiple of `unit`, at most `n`. -/
def upTo (unit a n : Nat) : Nat := min n (unit - a % unit)

/-- A request of a run of stream pieces at the home that its address names now: an operation, when that is another chip (R309). -/
def State.pieceOp (s : State) (t : Nat) (p : Piece) (ps : List Piece) : Sent × State :=
  let n := (ps.map Piece.below).sum
  s.sendOp (gaChip p.addr) (if p.write then 2 else 1) p.addr n ((ps.flatMap (·.data)).take n) (s.partition p.reg) 0 (.piece t p.lead)

/-- The piece needs another chip: a plain binding whose address names memory of one, with bytes below the extent. A space that no stream piece may
name is refused where the piece is (R285). -/
def State.pieceAway (s : State) (p : Piece) : Bool :=
  !s.thisChip (gaChip p.addr) && !p.bind.comp && decide (p.below > 0) && decide (gaSpace p.addr ≤ 3)

/-- Where the bytes at address `logical` of a stream lie, as CDn's redirect cache has it; the reads of a compressed object translate by
themselves. -/
def State.pieceAddr (s : State) (n : Nat) (b : Binding) (logical : Nat) : Nat × State :=
  if b.comp then (logical, s) else s.translate n logical

/-- The pieces that issue together, by logical address and length: one within its 512 B block, or, toward another chip, a run of up to
`pieces` within 4 KiB, at most 8 (R166, R309). -/
def runCuts (away : Bool) (pieces logical left : Nat) : List (Nat × Nat) :=
  if away then cutRange 512 (min (max pieces 1) 8) logical (upTo 4096 logical left)
  else [(logical, upTo 512 logical left)]

/-- The bytes of a write piece as they leave the ring, `start` bytes from HEAD; whole groups are transposed where the binding asks for it
(R300). -/
def Tile.pieceData (x : Tile) (r : Ring) (b : Binding) (start logical len : Nat) : List Byte :=
  let raw := x.rdRing r start len
  if b.xpose && wholeGroups b.xfmt logical len then transpose b.xfmt raw else raw

/-- The tile with the piece outstanding: its bytes have left the ring or its room is reserved, and the STRM has moved on. -/
def Tile.takePiece (x : Tile) (p : Piece) : Tile :=
  let r := x.ring p.ctx p.ring
  let x := if p.write then x.popRing p.ctx p.ring p.len else x.setRing p.ctx p.ring (r.reserve .stream p.len p.len)
  let q := match x.u.strmQ with
    | m :: rest => if m.issued + p.len < m.n then m.withIssued (m.issued + p.len) :: rest else rest
    | [] => []
  x.withU (x.u |>.withStrmQ q |>.withPieces (x.u.pieces ++ [p]))

/-- The pieces of the STRM `m` at the head of the stream queue that issue next, with the state after their address is translated. -/
def State.nextPieces (s : State) (t g c pieces : Nat) (x : Tile) (m : StrmOp) : List Piece × State :=
  let w := m.word
  let b := (x.ctx c).bind (fld w 51 48)
  let off := m.off + m.issued
  let logical := (b.base + off) % 2 ^ 64
  let tr := s.pieceAddr (tileDie t) b logical
  let r := x.ring c (fld w 47 44)
  let cuts := runCuts (!b.comp && !s.thisChip (gaChip tr.1)) pieces logical (m.n - m.issued)
  (cuts.zipIdx.map (fun e =>
    let d := e.1.1 - logical
    ⟨s.net.nextOp + e.2, g, c, (s.sec g c).epoch, m.id, bit w 33, fld w 47 44, r.nextId + e.2, fld w 51 48, tr.1 + d, off + d, e.1.2,
      if bit w 32 then some (fld w 31 28) else none, if bit w 33 then x.pieceData r b d e.1.1 e.1.2 else [], m.pc, b, 0, s.now, false,
      s.net.nextOp, d⟩), tr.2)

/-- A piece waits for a tag (R188, R311): a read piece in the tile's counter, every piece in the die's. -/
def State.tagWait (s : State) (t : Nat) (write : Bool) : State :=
  (s.count (cdOff (tileDie t) 0x3900) 63 32 1).updTile t (fun x => if write then x else x.stall 0x3050)

/-- The pieces leave; with no tag of an optical die free for another chip they do not (R307, R308). -/
def State.sendPieces (s : State) (t : Nat) (p : Piece) (ps : List Piece) : State :=
  let n := tileDie t
  let done := (s.withNet (s.net.withNextOp (p.id + ps.length))).setTile t (ps.foldl Tile.takePiece (s.tile t))
  let done := done.raise (cdOff n 0x3900) 28 16 (done.cdTags n)
  if done.pieceAway p then
    match done.pieceOp t p ps with
    | (.now a, s') => s'.localOp p.addr (.piece t p.lead) a
    | (.out _, s') => s'
    | (.full, _) => s.tagWait t p.write
  else done

/-- The next piece of the STRM at the head of the stream queue issues: a piece within a 512 B block of the stream address, or, toward
another chip, a run of the STRM's pieces within 4 KiB as one operation. A read takes ring credit and a tag; a write takes its bytes and a
tag, and leaves the scratchpad (R166, R168, R188, R307-R309). `pieces` bounds the pieces of a run (log entry 14).
DEDUCED (log entry 19). -/
def execStreamPieceIssue (t pieces : Nat) (s : State) : Out :=
  unitOp t s (fun g c x =>
    match x.u.strmQ with
    | [] => s
    | m :: _ =>
      if m.rearm then s
      else
        let q := s.nextPieces t g c pieces x m
        match q.1 with
        | [] => s
        | p :: _ =>
          let r := x.ring c p.ring
          let n := (q.1.map (·.len)).sum
          if !p.write ∧ r.room < n then s.updTile t (fun x => x.stall 0x3058)
          else if p.write ∧ r.used < n then s.updTile t (fun x => x.stall 0x3048)
          else if s.cdTags (tileDie t) + q.1.length > 4096 then s.tagWait t p.write
          else q.2.sendPieces t p q.1)

/-! ## Answers -/

/-- What a piece meets: nothing yet, an answer, or the state with a reissue under way. -/
inductive PieceGot where
  | wait (s : State)
  | got (a : Ans) (s : State)

/-- The piece waits at a frozen home of this chip (R331). -/
def State.pieceHeld (s : State) (t id : Nat) : Bool :=
  s.net.moves.any (fun j => j.held.any (fun h => h.client == Client.piece t id))

/-- The operation of a run is over once its last piece has taken its answer. -/
def State.dropRun (s : State) (t : Nat) (p : Piece) (o : NetOp) : State :=
  if (s.tile t).u.pieces.any (fun q => q.id != p.id && q.inRun p.lead) then s else s.dropOp o.id

/-- The answer of a piece's access, if it has one now: its part of its run's operation, of its compressed object, of an aperture, or of
this chip's memory (R293, R301, R308, R309, R330). -/
def State.pieceAnswer (s : State) (net : List NetAns) (t : Nat) (p : Piece) : PieceGot :=
  match s.net.ops.find? (fun o => o.client == Client.piece t p.lead) with
  | some o =>
    match o.done with
    | some a =>
      -- the old home on this chip forwarded the piece: its operation names the new one (R324, R326)
      let led := decide (a.status = 0 ∧ o.addr + p.place ≠ p.addr)
      .got ⟨a.status, slice (a.data.drop p.place) 0 p.below, (if led then o.addr else a.loc) + p.place, a.fwd || led⟩ (s.dropRun t p o)
    | none => .wait s
  | none =>
    if s.pieceHeld t p.id then .wait s
    else if p.below = 0 then .got ⟨0, [], 0, false⟩ s
    else if p.bind.comp then
      match s.readObject net (some (tileDie t)) p.bind.obj p.addr p.below (some p.reg) with
      | .ok (st, bs, s) => .got ⟨st, bs, 0, false⟩ s
      | .error k => .wait (s.park k)
    else if s.pieceAway p then .wait s
    else if gaSpace p.addr = 0 ∧ p.write then
      let r := s.apertureWrite ⟨s.partition p.reg, s.myChip, some t⟩ (gaOff p.addr) (p.data.take p.below)
      .got ⟨r.1, [], 0, false⟩ r.2
    else
      let r := unitReq s (if p.write then 2 else 1) p.addr p.below (p.data.take p.below) (some p.reg)
      match s.request r (.piece t p.id) 5 with
      | (some a, s) => .got a s
      | (none, s) => .wait s

/-- The tile's outstanding piece `p` replaces the one of its number. -/
def Tile.putPiece (x : Tile) (p : Piece) : Tile :=
  x.withU (x.u.withPieces (x.u.pieces.map (fun q => if q.id = p.id then p else q)))

/-- The piece is issued again on its own, to the address it has now; with no tag free of an optical die it waits, as `busy` marks it. -/
def State.sendAgain (s : State) (t : Nat) (p : Piece) : State :=
  let p := p |>.withBusy false |>.withLead p.id |>.withPlace 0
  let s := s.updTile t (fun x => x.putPiece p)
  if s.pieceAway p then
    match s.pieceOp t p [p] with
    | (.now a, s) => s.localOp p.addr (.piece t p.lead) a
    | (.out _, s) => s
    | (.full, _) => s.updTile t (fun x => x.putPiece (p.withBusy true))
  else s

/-- The piece refused with HOME_MOVED is reissued to the address named, which the redirect cache learns (R325, R326). -/
def State.reissue (s : State) (t : Nat) (p : Piece) (loc : Nat) : State :=
  (s.learn (tileDie t) p.addr loc).sendAgain t (p |>.withAddr loc |>.withTries (p.tries + 1))

/-- A piece refused with HOME_BUSY before 2 ms have passed waits to be reissued (R331). -/
def State.busyPiece (s : State) (a : Ans) (p : Piece) : Bool := decide (a.status = St.homeBusy ∧ s.now < 8000000 + p.born)

/-- An event of an outstanding piece of tile `t`, whatever the tile runs now (R216). -/
def pieceEvent (t : Nat) (s : State) (want : Piece → Bool) (f : Tile → Piece → State) : Out :=
  if t ≥ tileCount then .fault (.noSuchUnit "tile")
  else match (s.tile t).u.pieces.find? want with
    | none => .next s
    | some p => .next (f (s.tile t) p)

/-- 20 µs after a HOME_BUSY refusal the piece is reissued (R331); so is a piece that found no tag (R308). -/
def execHomeBusyReissue (t id : Nat) (s : State) : Out :=
  pieceEvent t s (fun p => p.id == id && p.busy) (fun _ p => s.sendAgain t p)

/-- The piece leaves the tile's list of outstanding pieces. -/
def Tile.dropPiece (x : Tile) (id : Nat) : Tile := x.withU (x.u.withPieces (x.u.pieces.filter (fun p => p.id != id)))

/-- The run that issued the piece is the one its context is in. -/
def State.pieceRun (s : State) (t : Nat) (p : Piece) : Bool :=
  decide ((s.tile t).run = some (p.reg, p.ctx)) && decide ((s.sec p.reg p.ctx).epoch = p.epoch)

/-- STREAM_FAULT with the piece's status (R169). -/
def State.streamFault (s : State) (t : Nat) (p : Piece) (status : Nat) : State :=
  let here := s.pieceRun t p
  let s := s.updTile t (fun x => x.dropPiece p.id)
  if here then s.faultSection p.reg p.ctx ⟨1, Exc.streamFault, t⟩ p.pc status else s

/-- What the answer `a` of a piece brings: a reissue, a wait to be reissued, STREAM_FAULT, or `ok` (R168, R169, R300, R325, R331). A
compressed object has been reissued at its own reads. -/
def State.pieceDone (s : State) (t : Nat) (p : Piece) (a : Ans) (ok : State → State) : State :=
  if a.status = St.homeMoved ∧ p.tries < 4 ∧ !p.bind.comp then s.reissue t p a.loc
  else if s.busyPiece a p then s.updTile t (fun x => x.putPiece (p |>.withBusy true |>.withLead p.id |>.withPlace 0))
  else if a.status ≠ 0 then s.streamFault t p a.status
  else ok (if a.fwd then s.learn (tileDie t) p.addr a.loc else s)

/-- A transposed piece that is not whole groups ends with ADDR_ALIGN (R300). -/
def Piece.badGroups (p : Piece) : Bool := p.bind.xpose && !wholeGroups p.bind.xfmt (p.bind.base + p.off) p.len

/-! ## The stream arrival port (R171) -/

/-- The bytes that a relaying STRM had left over, and its rest set to `bs` (R171). -/
def restOf (u : Units) (id : Nat) : List Byte := ((u.rests.find? (fun e => e.1 == id)).map (·.2)).getD []
def Units.setRest (u : Units) (id : Nat) (bs : List Byte) : Units :=
  u.withRests (if bs.isEmpty then u.rests.filter (fun e => e.1 != id)
                    else (u.rests.filter (fun e => e.1 != id)) ++ [(id, bs)])

/-- The route on which a piece's bytes are relayed, while its run goes on.
DEDUCED (log entry 19). -/
def State.relayOf (s : State) (t : Nat) (p : Piece) : Option Nat := if s.pieceRun t p then p.relay else none

/-- No earlier piece of its STRM is still to be written: the pieces of a relaying STRM are written in address order. -/
def Units.firstOfStrm (u : Units) (p : Piece) : Bool :=
  (u.pieces ++ u.port.map (·.piece)).all (fun q => !(decide (q.reg = p.reg ∧ q.ctx = p.ctx ∧ q.epoch = p.epoch ∧ q.strm = p.strm)) || decide (p.off ≤ q.off))

/-- The tokens that a piece completes. -/
def relayTokens (u : Units) (p : Piece) : Nat := ((restOf u p.strm).length + p.len) / 64

/-- The piece at the port waits on route credit, or on the link behind the route (R171): the route. -/
def State.portWaits (s : State) (t : Nat) (p : Piece) : Option Nat :=
  let x := s.tile t
  match s.relayOf t p with
  | none => none
  | some r =>
    if x.u.firstOfStrm p && (decide ((x.ctx p.ctx).routeCredit r < relayTokens x.u p) || s.linkFull t p.ctx r (relayTokens x.u p))
    then some r else none

/-- The bytes of a read piece are in the ring; its relay tokens are sent (R158, R171). -/
def State.landPiece (s : State) (t : Nat) (p : Piece) (bs : List Byte) : State :=
  let x := s.tile t
  let relay := s.relayOf t p
  let r := x.ring p.ctx p.ring
  let x := (x.wrRing r (resvOff r.resv p.resv) bs).updCtx p.ctx (fun y => y.setRing p.ring (r.finish p.resv))
  let x := x.withU (x.u.withPort (x.u.port.filter (fun a => a.piece.id != p.id)))
  match relay with
  | none => s.setTile t x
  | some route =>
    let all := restOf x.u p.strm ++ bs
    let k := all.length / 64
    let s := s.setTile t (x.withU (x.u.setRest p.strm (all.drop (64 * k))))
    (List.range k).foldl (fun s i => s.sendToken t p.reg p.ctx route false (slice all (64 * i) 64)) s

/-- The piece `id` at the arrival port is written into its ring when nothing holds it: of a relaying STRM in address order and with route
credit for every token it completes; and no piece passes one that came before it and waits on route credit (R171). -/
def State.landAtPort (s : State) (t id : Nat) : State :=
  let x := s.tile t
  let before := x.u.port.takeWhile (fun a => a.piece.id != id)
  match x.u.port.find? (fun a => a.piece.id == id) with
  | none => s
  | some a =>
    let p := a.piece
    if before.any (fun b => (s.portWaits t b.piece).isSome) then s
    else if (s.relayOf t p).isSome && !x.u.firstOfStrm p then s
    else match s.portWaits t p with
      | some r =>
        if (x.ctx p.ctx).routeCredit r < relayTokens x.u p then s.updTile t (fun x => x.stallRoute r)
        else s.updTile t (fun x => x.stallLink p.ctx r)
      | none => s.landPiece t p a.bytes

/-- The piece has its bytes and stands at the stream arrival port. -/
def State.toPort (s : State) (t : Nat) (p : Piece) (tag : Bool) (bs : List Byte) : State :=
  s.updTile t (fun x => let x := x.dropPiece p.id; x.withU (x.u.withPort (x.u.port ++ [⟨p, bs, tag⟩])))

/-- The bytes of a read piece arrive at the tile and, when nothing holds them there, in its ring (R158, R167, R169, R171, R300, R325). The
answers of other chips that a compressed object needs come in `net`.
DEDUCED (log entry 19). -/
def execStreamPieceArrival (t id : Nat) (net : List NetAns) (s : State) : Out :=
  if t ≥ tileCount then .fault (.noSuchUnit "tile")
  else match (s.tile t).u.pieces.find? (fun p => p.id == id && !p.write && !p.busy) with
    | none => .next (s.landAtPort t id)
    | some p =>
      if p.badGroups then .next (s.streamFault t p St.addrAlign)
      else match s.pieceAnswer net t p with
        | .wait s => .next s
        | .got a s' =>
          let tag := !s.net.ops.any (fun o => o.client == Client.piece t p.lead)
          let bs := slice a.data 0 p.below ++ List.replicate (p.len - p.below) 0
          .next (s'.pieceDone t p a (fun s =>
            (s.toPort t p tag (if p.bind.xpose then transpose p.bind.xfmt bs else bs)).landAtPort t id))

/-- The home returns the status of a write piece: OK frees its tag, any other raises STREAM_FAULT (R168, R169, R300, R325). -/
def execStreamWritePieceComplete (t id : Nat) (s : State) : Out :=
  pieceEvent t s (fun p => p.id == id && p.write && !p.busy) (fun _ p =>
    if p.badGroups then s.streamFault t p St.addrAlign
    else match s.pieceAnswer [] t p with
      | .wait s => s
      | .got a s => s.pieceDone t p a (fun s => s.updTile t (fun x => x.dropPiece id)))

end Sys2Proof.Machine
end

