-- ==== Sys2Proof/Machine/Models.lean ====
section
/-! DEFINITION. Models: the model table, generation words, what packages have placed, and the barriers of runs (R233, R346-R349). -/
namespace Sys2Proof.Machine

/-! ## The model entry (R347, R348) -/

def State.modelBase (s : State) : W64 := s.reg 0x30500
/-- The entry of model m; beyond the limit it counts as not VALID. -/
def State.modelEntry (s : State) (m : Nat) : List Byte :=
  if m < s.rf 0x30508 10 0 then s.tableEntry s.modelBase m else List.replicate 64 0

def mLayers (e : List Byte) : Nat := leAt e 2 2
def mTarget (e : List Byte) : Nat := leAt e 8 4
def mWords (e : List Byte) : Nat := leAt e 16 8
def mT1 (e : List Byte) : Nat := leAt e 24 8
def mT2 (e : List Byte) : Nat := leAt e 32 8
def mState (e : List Byte) : Nat := leAt e 48 1

/-- A status field of a model entry written. -/
def State.setModelF (s : State) (m o n v : Nat) : State := s.setEntry s.modelBase m o n v

/-- STATE of a model entry, with the time of the change when it changes. -/
def State.setModel (s : State) (m st : Nat) : State :=
  if mState (s.modelEntry m) = st then s else (s.setModelF m 48 1 st).setModelF m 52 8 s.now

/-- The generation word of layer l (R348). -/
def State.genWord (s : State) (e : List Byte) (l : Nat) : Nat :=
  let a := mWords e + 8 * l
  s.rdLe ((s.tableKey true a 5).getD (gaKey a)) 8

/-- The generation word of layer l written by a package job. -/
def State.setWord (s : State) (e : List Byte) (l v : Nat) : State := s.cavorWrite none (mWords e + 8 * l) 8 v

def genWriting : Nat := 0xFFFFFFFF

/-- Some word of a model reads WRITING; and every word reads generation `gen`. -/
def State.someWriting (s : State) (e : List Byte) : Bool := (List.range (mLayers e)).any (fun l => s.genWord e l == genWriting)
def State.allAt (s : State) (e : List Byte) (gen : Nat) : Bool := (List.range (mLayers e)).all (fun l => s.genWord e l == gen)

/-! ## What packages have placed -/

/-- The section image whose load names address `a`, as a package has placed it.
DESIGN CHOICE (log entry 73). -/
def State.imageAt (s : State) (a : Nat) : Option Placed :=
  s.pkg.placed.find? (fun p => p.layer == imageLayer && gaKey p.addr == gaKey a)

/-- The refusal of a load of the section image at `a` by the generation words of its model (R349): a word that reads WRITING goes before one that
reads another generation.
DEDUCED (log entry 75). -/
def State.loadGenStatus (s : State) (a : Nat) : Nat :=
  match s.imageAt a with
  | none => 0
  | some p =>
    let e := s.modelEntry p.model
    if !entValid e then 0
    else if s.someWriting e then St.modelTorn
    else if !s.allAt e (mTarget e) then St.genMismatch
    else 0

/-- The length map of a section evaluated for its actual work (R233, R346): len_i of the places whose KIND is `kind`.
DEDUCED (log entry 75). -/
def lmapLens (lmap : List Byte) (kind len : Nat) : List (Nat × Nat) :=
  (List.range 4).filterMap (fun i =>
    if leAt lmap (8 * i + 7) 1 = kind then some (i, min (leAt lmap (8 * i) 4) (len - leAt lmap (8 * i + 4) 3)) else none)

/-- The length map of every resident section of model m, evaluated for work of `len` of a kind: Lantern firmware posts the lengths for the next
start (R233, R346). The work of KIND 3 is posted by SET_LENGTH commands (R254).
DEDUCED (log entry 75). -/
def State.postLens (s : State) (m kind len : Nat) : State :=
  (List.range 128).foldl (fun (s : State) k =>
    let x := Sparse.get secD s.secs k
    match s.imageAt x.src with
    | some p =>
      if x.resident && p.model == m then
        s.setSec (k / 8) (k % 8) (x.withLenNext ((lmapLens p.lmap kind len).foldl (fun l e => Sparse.insert e.1 (BitVec.ofNat 32 e.2) l) x.lenNext))
      else s
    | none => s) s

/-- The largest MAX of a kind in the length maps of a model's sections on this chip. -/
def State.lmapMax (s : State) (m kind : Nat) : Nat :=
  (s.pkg.placed.filter (fun p => p.layer == imageLayer && p.model == m)).foldl (fun a p =>
    (List.range 4).foldl (fun a i => if leAt p.lmap (8 * i + 7) 1 = kind then max a (leAt p.lmap (8 * i) 4) else a) a) 0

/-! ## Runs and layers (R349, R359) -/

/-- Ranges [a, b) and [c, d) that both hold something overlap. -/
def rangesMeet (a b c d : Nat) : Bool := decide (a < b ∧ c < d ∧ a < d ∧ c < b)

/-- A binding of section (g, c) at the base that its next or present run gives it meets the range (R359, step 1).
DEDUCED (log entry 50). -/
def State.bindsMeet (s : State) (x : Section) (c a n : Nat) : Bool :=
  x.tiles.any (fun t => ((s.tile t).ctx c).binds.any (fun b =>
    let lo := if b.2.comp then b.2.obj else
      ((x.rearmNext.reverse.find? (fun e => (decide (e.1 = t) || decide (e.1 = 0xFFFF)) && e.2.1 == b.1)).map (·.2.2)).getD b.2.base
    let len := if b.2.comp then 1 else b.2.extent
    b.2.bound && rangesMeet (gaKey lo) (gaKey lo + len) (gaKey a) (gaKey a + n)))

/-- Some running or ending section binds a stream to the range.
DEDUCED (log entry 50). -/
def State.rangeInUse (s : State) (a n : Nat) : Bool :=
  (List.range 128).any (fun k => let x := Sparse.get secD s.secs k; x.active && s.bindsMeet x (k % 8) a n)

/-- The layers of model m of which section (g, c) binds a part. -/
def State.layersOf (s : State) (g c m : Nat) : List Nat :=
  ((s.pkg.placed.filter (fun p => p.layer != imageLayer && p.model == m && s.bindsMeet (s.sec g c) c p.addr p.bytes)).map
    (·.layer)).eraseDups

/-- The words of layer l, and of the layer after it that a run of layer l prefetches, read generation `gen` (R349). -/
def State.layerOpen (s : State) (e : List Byte) (l gen : Nat) : Bool :=
  s.genWord e l == gen && (decide (mLayers e ≤ l + 1) || s.genWord e (l + 1) == gen)

/-- The layers at whose barrier a run of section (g, c) waits (R349): its generation is the model's TARGET_GEN.
DEDUCED (log entry 75). -/
def State.barriers (s : State) (g c : Nat) : List Nat :=
  match s.imageAt (s.sec g c).src with
  | none => []
  | some p =>
    let e := s.modelEntry p.model
    if !entValid e then [] else (s.layersOf g c p.model).filter (fun l => !s.layerOpen e l (mTarget e))

/-- A start of (g, c) is in the hands of its command processor. -/
def State.startPosted (s : State) (e : Nat × Nat) : Bool :=
  match (Sparse.get (fun _ => CmdQ.init) s.cmdqs (secKey e.1 e.2)).cmd with
  | some r => decide (leAt r.bytes 0 1 = 3)
  | none => false

/-- A run joins those that are held at a barrier, in the order in which they were planned.
DEDUCED (log entry 75). -/
def State.holdRun (s : State) (g c : Nat) : State :=
  if (s.barriers g c).isEmpty || s.pkg.held.contains (g, c) then s
  else s.withPkg (s.pkg.withHeld (s.pkg.held.filter s.startPosted ++ [(g, c)]))

/-- The run is not held at a barrier, nor behind a run that was held before it at one barrier with it: both read a layer of one model.
DEDUCED (log entry 75). -/
def State.barrierPassed (s : State) (g c : Nat) : Bool :=
  (s.barriers g c).isEmpty && match s.imageAt (s.sec g c).src with
    | none => true
    | some p =>
      let mine := s.layersOf g c p.model
      !(s.pkg.held.takeWhile (· != (g, c))).any (fun e =>
        s.pkg.held.contains (g, c) && s.startPosted e && (s.imageAt (s.sec e.1 e.2).src).any (fun q => q.model == p.model) &&
          (s.layersOf e.1 e.2 p.model).any mine.contains)

/-- The run starts, and is held no more. -/
def State.freeRun (s : State) (g c : Nat) : State :=
  if s.pkg.held.contains (g, c) then s.withPkg (s.pkg.withHeld (s.pkg.held.filter (· != (g, c)))) else s

end Sys2Proof.Machine
end

