-- ==== Sys2Proof/Machine/TileRegs.lean ====
section
/-! DEFINITION. The tile window (R33, R112): its registers, the judges of R592 and R69, parking (R114, R115), and internal errors of
a tile (R539, R548). -/
namespace Sys2Proof.Machine

/-- The registers of a tile window. -/
inductive WinReg where
  | state | coord | refused
  | fpctl (c : Nat) | srseed (c : Nat) | fpstat (c : Nat) | pstore (c : Nat) | spad (c : Nat)
  | ringCfg (c r : Nat) | ringPtr (c r : Nat) | ringCredit (c r : Nat)
  | aptWin (c a : Nat) | aptSrc (c a : Nat) | aptCtl (c a : Nat)
  | stall (o : Nat)
  | queueCfg (c q : Nat) | queueStat (c q : Nat) | route (c r : Nat)
  | qstray | steerDrop
  | transit (k : Nat)
  | word (w : Nat)
  deriving DecidableEq, Repr

/-- A stall counter stands at this offset (Table 6.10). -/
def isStall (o : Nat) : Bool :=
  inArr o 0x3000 8 16 || inArr o 0x3080 8 4 || decide (o = 0x30A0) || inArr o 0x3100 8 16 || inArr o 0x3180 8 16 ||
    inArr o 0x3200 8 16

/-- The register at an offset of the window (Table 3.11, R201, R204-R206, R223); none where it is reserved. -/
def winReg (o : Nat) : Option WinReg :=
  if o % 8 ≠ 0 then none
  else if o = 0 then some .state
  else if o = 8 then some .coord
  else if o = 0x40 then some .refused
  else if 0x100 ≤ o ∧ o < 0x300 then
    let c := (o - 0x100) / 0x40
    match o % 0x40 with
    | 0x00 => some (.fpctl c)
    | 0x08 => some (.srseed c)
    | 0x10 => some (.fpstat c)
    | 0x18 => some (.pstore c)
    | 0x20 => some (.spad c)
    | _ => none
  else if 0x1000 ≤ o ∧ o < 0x2000 then
    let c := (o - 0x1000) / 0x200
    let r := o % 0x200 / 0x20
    match o % 0x20 with
    | 0x00 => some (.ringCfg c r)
    | 0x08 => some (.ringPtr c r)
    | 0x10 => some (.ringCredit c r)
    | _ => none
  else if 0x2000 ≤ o ∧ o < 0x2800 then
    let c := (o - 0x2000) / 0x100
    let a := o % 0x100 / 0x20
    match o % 0x20 with
    | 0x00 => some (.aptWin c a)
    | 0x08 => some (.aptSrc c a)
    | 0x10 => some (.aptCtl c a)
    | _ => none
  else if 0x3000 ≤ o ∧ o < 0x4000 then (if isStall o then some (.stall o) else none)
  else if 0x4000 ≤ o ∧ o < 0x4800 then
    (if o % 0x100 < 0x80 then some (.queueCfg ((o - 0x4000) / 0x100) (o % 0x100 / 8))
     else some (.route ((o - 0x4000) / 0x100) (o % 0x80 / 8)))
  else if 0x4800 ≤ o ∧ o < 0x4C00 then some (.queueStat ((o - 0x4800) / 0x80) (o % 0x80 / 8))
  else if o = 0x4C00 then some .qstray
  else if o = 0x4C08 then some .steerDrop
  else if 0x5000 ≤ o ∧ o < 0x6000 then some (.transit ((o - 0x5000) / 8))
  else if 0x8000 ≤ o ∧ o < 0x10000 then some (.word ((o - 0x8000) / 8))
  else none

/-- The fields of a window register. -/
def WinReg.fields : WinReg → List Fld
  | .state => [fRo 0 2, fRo 2 1, fRo 3 1, fRo 4 3]
  | .coord => [fRo 0 5, fRo 8 7, fRo 16 8, fRo 24 4, fRo 32 12]
  | .refused => [fRc 0 32, fRc 32 32]
  | .fpctl _ => [fRw 0 3]
  | .srseed _ => [fRw 0 64]
  | .fpstat _ => [fW1 0 1, fW1 1 1, fW1 2 1, fW1 3 1, fW1 4 1, fW1 5 1]
  | .pstore _ => [fRw 0 12, fRw 16 13]
  | .spad _ => [fRw 0 11, fRw 16 11]
  | .ringCfg _ _ => [fRw 0 11, fRw 16 11, fRw 32 4, fRw 40 2, fRw 48 1]
  | .ringPtr _ _ => [fRo 0 20, fRo 20 1, fRo 32 20, fRo 52 1]
  | .ringCredit _ _ => [fRo 0 21, fRo 32 21]
  | .aptWin _ _ => [fRw 0 11, fRw 16 11]
  | .aptSrc _ _ => [fRw 0 2, fRw 16 16, fRw 32 16]
  | .aptCtl _ _ => [fRo 0 1, fRw 1 1, fRw 2 4]
  | .stall _ => [fRc 0 48]
  | .queueCfg _ _ => [fRo 0 1, fRo 16 16, fRo 32 12, fRo 44 4]
  | .queueStat _ _ => [fRo 0 5, fRo 5 1, fRo 6 1, fRo 16 14]
  | .route _ _ => [fRo 0 5, fRo 8 1, fRo 9 6, fRo 16 3, fRo 20 7, fRo 28 4, fRo 32 12, fRo 48 6]
  | .qstray => [fRc 0 32]
  | .steerDrop => [fRc 0 32]
  | .transit _ => [fRo 0 1, fRo 1 3, fRo 4 3, fRo 8 4, fRo 12 4]
  | .word _ => [fRw 0 64]

def pack (fs : List (Nat × Nat)) : W64 := BitVec.ofNat 64 (fs.foldl (fun a f => a + f.2 * 2 ^ f.1) 0)

/-- TILE_STATE (R112). -/
def Tile.stateWord (x : Tile) : W64 :=
  pack [(0, match x.st with
    | .active => 0
    | .parked => 1
    | .dark => 2), (2, x.suspect.toNat), (3, x.run.isSome.toNat), (4, (x.run.map (·.2)).getD 0)]

/-- What a window register holds. -/
def Tile.winGet (x : Tile) (t : Nat) : WinReg → W64
  | .state => x.stateWord
  | .coord => tileCoord t
  | .refused => x.refused
  | .fpctl c => (x.ctx c).fpctl
  | .srseed c => (x.ctx c).srseed
  | .fpstat c => (x.ctx c).fpstat
  | .pstore c => (x.ctx c).pstore
  | .spad c => (x.ctx c).spad
  | .ringCfg c r => (x.ring c r).cfg
  | .ringPtr c r =>
    let q := x.ring c r
    pack [(0, q.head), (20, q.headWrap.toNat), (32, q.tail), (52, q.tailWrap.toNat)]
  | .ringCredit c r => let q := x.ring c r; pack [(0, q.credit), (32, q.used)]
  | .aptWin c a => ((x.ctx c).apt a).win
  | .aptSrc c a => ((x.ctx c).apt a).src
  | .aptCtl c a => ((x.ctx c).apt a).ctl
  | .stall o => BitVec.ofNat 64 (Sparse.get (fun _ => 0) x.stalls o)
  | .queueCfg c q => ((x.ctx c).queue q).cfg
  | .queueStat c q =>
    let k := (x.ctx c).queue q
    pack [(0, k.entries.length), (5, k.spill.toNat), (6, k.front.isSome.toNat), (16, min k.seg.length 8192)]
  | .route c r => (x.ctx c).route r
  | .qstray => x.qstray
  | .steerDrop => x.steerDrop
  | .transit k => Sparse.get (fun _ => 0) x.transit k
  | .word w => Sparse.get (fun _ => 0) x.pstore w

/-- A window register that can change by an access set to a value. A write of TILE_RING_CFG resets the ring's pointers (R105). -/
def Tile.winSet (x : Tile) (v : W64) : WinReg → Tile
  | .refused => x.withRefused v
  | .fpctl c => x.updCtx c (fun y => y.withFpctl v)
  | .srseed c => x.updCtx c (fun y => y.withSrseed v)
  | .fpstat c => x.updCtx c (fun y => y.withFpstat v)
  | .pstore c => x.updCtx c (fun y => y.withPstore v)
  | .spad c => x.updCtx c (fun y => y.withSpad v)
  | .ringCfg c r => x.setRing c r (Ring.init.withCfg v)
  | .aptWin c a => x.updCtx c (fun y => y.setApt a ((y.apt a).withWin v))
  | .aptSrc c a => x.updCtx c (fun y => y.setApt a ((y.apt a).withSrc v))
  | .aptCtl c a => x.updCtx c (fun y => y.setApt a ((y.apt a).withCtl v))
  | .stall o => x.withStalls (Sparse.put (fun _ => 0) x.stalls o (fld v 47 0))
  | .qstray => x.withQstray v
  | .steerDrop => x.withSteerDrop v
  | .word w => x.withPstore (Sparse.put (fun _ => 0) x.pstore w v)
  | .state | .coord | .ringPtr _ _ | .ringCredit _ _ | .queueCfg _ _ | .queueStat _ _ | .route _ _ | .transit _ => x

/-! ## Judging a write (Table 3.12) -/

/-- The bytes [base, base + size) of 512 B units lie in the context's share (R101). -/
def inShare (spad : W64) (base stop : Nat) : Bool := decide (fld spad 10 0 ≤ base ∧ stop ≤ fld spad 26 16)

/-- The enabled ring lies in the share. -/
def ringFits (spad cfg : W64) : Bool := !bit cfg 48 || inShare spad (fld cfg 10 0) (fld cfg 10 0 + fld cfg 26 16)

/-- The aperture has no window, or its window lies in the share. -/
def windowFits (spad win : W64) : Bool := decide (fld win 26 16 ≤ fld win 10 0) || inShare spad (fld win 10 0) (fld win 26 16)

/-- An enabled ring's fields are legal (R106). -/
def ringCfgOk (cfg : W64) : Bool :=
  !bit cfg 48 || (decide (fld cfg 26 16 ≠ 0) && decide (fld cfg 10 0 + fld cfg 26 16 ≤ 1280) && decide (fld cfg 41 40 ≤ 1) &&
    decide (fld cfg 35 32 ≤ 9))

/-- Two shares overlap; a share without extent overlaps nothing. -/
def overlaps (a b c d : Nat) : Bool := decide (a < b ∧ c < d ∧ a < d ∧ c < b)

/-- Contexts other than `c` of the tile that hold a resident section (R101). -/
def State.otherResidents (s : State) (t c : Nat) : List Nat := ((s.residentsOf t).map (·.2)).filter (fun d => d != c)

/-- The status of a write that leaves the register at `v` (R69, R592). -/
def State.winJudge (s : State) (t : Nat) (v : W64) : WinReg → Nat
  | .fpctl _ => if fld v 2 0 ≥ 5 then St.fpModeReserved else 0
  | .ringCfg c _ =>
    if !ringCfgOk v then St.ringCfg else if !ringFits ((s.tile t).ctx c).spad v then St.spadRange else 0
  | .aptSrc _ _ => if fld v 1 0 = 3 then St.aptCfg else 0
  | .aptWin c _ => if fld v 26 16 > 1280 ∨ !windowFits ((s.tile t).ctx c).spad v then St.spadRange else 0
  | .pstore c =>
    if fld v 11 0 + fld v 28 16 > 4096 then St.paramRange
    else if (s.otherResidents t c).any (fun d =>
        let w := ((s.tile t).ctx d).pstore
        overlaps (fld v 11 0) (fld v 11 0 + fld v 28 16) (fld w 11 0) (fld w 11 0 + fld w 28 16)) then St.pstoreOverlap
    else 0
  | .spad c =>
    let y := (s.tile t).ctx c
    if fld v 26 16 > 1280 then St.paramRange
    else if (s.otherResidents t c).any (fun d =>
          let w := ((s.tile t).ctx d).spad
          overlaps (fld v 10 0) (fld v 26 16) (fld w 10 0) (fld w 26 16)) ||
        !(y.rings.all (fun r => ringFits v r.2.cfg)) || !(y.apts.all (fun a => windowFits v a.2.win)) then St.spadRange
    else 0
  | _ => 0

/-- The status of an access to a tile's window that does not depend on its value (R34); TILE_STATE can always be read.
DEDUCED (log entry 26). -/
def State.winGate (s : State) (t : Nat) (r : WinReg) (write : Bool) : Nat :=
  if s.inDim then St.pwrDim
  else if !s.cdReady (tileDie t) then St.dieNotReady
  else if (s.tile t).st = .dark ∧ (write ∨ r ≠ .state) then St.tileDark
  else if (s.tile t).st = .parked ∧ (write ∨ r ≠ .state) then St.tileParked
  else if write ∧ s.tileBusy t then St.tileBusy
  else 0

/-- A write to a register of a tile window. -/
def State.winWrite (s : State) (t : Nat) (r : WinReg) (v : W64) : Nat × State :=
  let st := s.winGate t r true
  if st ≠ 0 then (st, s)
  else
    let new := writeFields r.fields ((s.tile t).winGet t r) v
    let j := s.winJudge t new r
    if j ≠ 0 then (j, s) else (0, s.updTile t (fun x => x.winSet new r))

/-- The value with its RC fields cleared (R15). -/
def clearRc (fs : List Fld) (v : W64) : W64 :=
  fs.foldl (fun a f => if f.acc = .rc then BitVec.ofNat 64 (putBits a.toNat f.lo f.w 0) else a) v

/-- A stall counter takes up the cycles that the model's commands have not shown, a free number of them (R223).
DESIGN CHOICE (log entry 9). -/
def State.settleStall (s : State) (t : Nat) (r : WinReg) : State :=
  match r with
  | .stall o =>
    let q := s.freeVal
    q.2.updTile t (fun x => x.winSet (BitVec.ofNat 64 (satAdd ((x.winGet t (.stall o)).toNat) (q.1.toNat % 2 ^ 48) (2 ^ 48 - 1))) (.stall o))
  | _ => s

/-- A read of a register of a tile window: the RC fields among `fs` clear (R15). -/
def State.winRead (s : State) (t : Nat) (r : WinReg) (fs : List Fld) : Nat × W64 × State :=
  let st := s.winGate t r false
  if st ≠ 0 then (st, 0, s)
  else
    let s := s.settleStall t r
    let v := (s.tile t).winGet t r
    let w := clearRc fs v
    (0, v, if w = v then s else s.updTile t (fun x => x.winSet w r))

/-- A write command of a register of tile `t`'s window. -/
def winRow (t : Nat) (r : WinReg) (v : W64) (s : State) : Out :=
  if t ≥ tileCount then .fault (.noSuchUnit "tile")
  else let q := s.winWrite t r v; .next (q.2.answer q.1)

def execTileRingCfgWrite (t c r : Nat) (v : W64) (s : State) : Out :=
  if c ≥ 8 ∨ r ≥ 16 then .fault (.noSuchUnit "ring") else winRow t (.ringCfg c r) v s
def execTileAptWinWrite (t c a : Nat) (v : W64) (s : State) : Out :=
  if c ≥ 8 ∨ a ≥ 8 then .fault (.noSuchUnit "aperture") else winRow t (.aptWin c a) v s
def execTileAptSrcWrite (t c a : Nat) (v : W64) (s : State) : Out :=
  if c ≥ 8 ∨ a ≥ 8 then .fault (.noSuchUnit "aperture") else winRow t (.aptSrc c a) v s
def execTileCtxPstoreWrite (t c : Nat) (v : W64) (s : State) : Out :=
  if c ≥ 8 then .fault (.noSuchUnit "context") else winRow t (.pstore c) v s
def execTileCtxSpadWrite (t c : Nat) (v : W64) (s : State) : Out :=
  if c ≥ 8 then .fault (.noSuchUnit "context") else winRow t (.spad c) v s
def execTileFpctlWrite (t c : Nat) (v : W64) (s : State) : Out :=
  if c ≥ 8 then .fault (.noSuchUnit "context") else winRow t (.fpctl c) v s

/-! ## Parking (R114, R115) -/

/-- A park bit reads the tile's state. -/
def Tile.parkBit (x : Tile) : Bool := decide (x.st = .parked)

/-- Tiles of the bits of CD_TILE_PARK_k of CDn. -/
def parkTiles (n k : Nat) : List (Nat × Nat) :=
  (List.range (if k < 2 then 64 else 16)).map (fun b => (b, tileAt n (64 * k + b)))

/-- What CD_TILE_PARK_k reads. -/
def State.parkWord (s : State) (n k : Nat) : W64 :=
  pack ((parkTiles n k).map (fun e => (e.1, (s.tile e.2).parkBit.toNat)))

/-- A write of CD_TILE_PARK_k: bits of dark tiles are ignored; bits that would change a tile named by a resident section are
ignored with TILE_IN_USE; the others start a change. -/
def State.judgePark (s : State) (n k : Nat) (v : W64) : Nat × State :=
  (parkTiles n k).foldl (fun (acc : Nat × State) e =>
    let x := acc.2.tile e.2
    let want := bit v e.1
    if x.st = .dark then acc
    else if want = x.parkBit ∧ x.parkTo.isNone then acc
    else if !(acc.2.residentsOf e.2).isEmpty then (if want = x.parkBit then acc else (St.tileInUse, acc.2))
    else (acc.1, acc.2.setTile e.2 (x.withParkTo (some want)))) (0, s)

def execCdTileParkWrite (n k : Nat) (v : W64) (s : State) : Out :=
  if n ≥ 16 ∨ k ≥ 3 then .fault (.noSuchUnit "park register") else regRow s (cdOff n (0x100 + 8 * k)) (fun s => s.judgePark n k v)

/-- A requested change of PARK reaches TILE_STATE (R115).
DESIGN CHOICE (log entry 2).
DESIGN CHOICE (log entry 76). -/
def execParkChangeDone (t : Nat) (s : State) : Out :=
  if t ≥ tileCount then .fault (.noSuchUnit "tile")
  else
    let x := s.tile t
    match x.parkTo with
    | some b => .next (s.setTile t (x |>.withSt (if b then .parked else .active) |>.withParkTo none))
    | none => .next s

/-! ## Errors inside a tile (R539) -/

/-- Where an error inside a tile was found (Table 19.4). -/
def tileSource (k : Nat) : Nat := if k = 0 then 0x01 else if k = 1 then 0x02 else 0x08

/-- An uncorrectable word at byte `off` of the scratchpad (`k` 0) or of the program store (`k` 1), or bad parity in the tile's logic
(`k` 2): the tile becomes dark (R113, R217, R539, R548). -/
def execTileInternalError (t k off : Nat) (s : State) : Out :=
  if t ≥ tileCount then .fault (.noSuchUnit "tile")
  else
    let run := (s.tile t).run
    .next (s.darkenTile t
      { cls := 1, source := tileSource k, who := run,
        addr := if k = 0 then 0x3FFF * 2 ^ 50 + 2 ^ 20 * t + 32 * (off % 0xA0000 / 32) else 0,
        epoch := match run with
          | some (g, c) => if k ≥ 2 then (s.sec g c).epoch else 0
          | none => 0 })

end Sys2Proof.Machine
end

