-- ==== Sys2Proof/Machine/SecLoad.lean ====
section
/-! DEFINITION. Section images: reading, the checks of Table 6.5, and what an accepted load writes (R191-R196, R199, R200, R210, R211,
R221, R299). -/
namespace Sys2Proof.Machine

/-! ## Parsing (R191-R194) -/

/-- Bytes of zeros. -/
def zeros (bs : List Byte) : Bool := bs.all (fun b => decide (b = 0))

/-- The bits of a word outside the fields are 0. -/
def onlyFields (w : Nat) (fs : List Fld) : Bool := decide (fs.foldl (fun a f => putBits a f.lo f.w 0) w = 0)

/-- An image's header. -/
structure ImgHead where
  tiles : Nat
  routes : Nat
  binds : Nat
  spill : Nat
  bytes : Nat
  tileOff : Nat
  routeOff : Nat
  bindOff : Nat
  crc : Nat

/-- The header, or none where a field is out of range (IMAGE_BAD). -/
def parseHead (h : List Byte) : Option ImgHead :=
  let x : ImgHead := ⟨leAt h 6 2, leAt h 8 4, leAt h 12 4, leAt h 16 1, leAt h 24 8, leAt h 32 8, leAt h 40 8, leAt h 48 8, leAt h 56 4⟩
  if leAt h 0 4 = 0x53454331 ∧ leAt h 4 2 = 1 ∧ 1 ≤ x.tiles ∧ x.tiles ≤ 2304 ∧ x.routes ≤ 36864 ∧ x.binds ≤ 36864 ∧
      zeros (slice h 17 7) ∧ zeros (slice h 60 4) ∧ 64 ≤ x.bytes ∧ x.bytes ≤ 134217728 ∧ x.tileOff % 64 = 0 ∧
      x.routeOff % 64 = 0 ∧ x.bindOff % 64 = 0 ∧ x.tileOff + 512 * x.tiles ≤ x.bytes ∧ x.routeOff + 16 * x.routes ≤ x.bytes ∧
      x.bindOff + 32 * x.binds ≤ x.bytes then some x else none

/-- A ring's and an aperture's words in a tile record. -/
def recRing (r : List Byte) (k : Nat) : W64 := BitVec.ofNat 64 (leAt r (160 + 8 * k) 8)
def recApt (r : List Byte) (a j : Nat) : W64 := BitVec.ofNat 64 (leAt r (288 + 24 * a + 8 * j) 8)
/-- PSTORE, SPAD and FPCTL of a tile record. -/
def recPstore (r : List Byte) : W64 := BitVec.ofNat 64 (leAt r 4 4)
def recSpad (r : List Byte) : W64 := BitVec.ofNat 64 (leAt r 8 4)
def recFpctl (r : List Byte) : W64 := BitVec.ofNat 64 (leAt r 16 8)
def recReport (r : List Byte) : Bool := decide (leAt r 2 1 % 2 = 1)

/-- A tile record's fields lie in their ranges, and its reserved fields hold 0. -/
def tileRecOk (size : Nat) (r : List Byte) : Bool :=
  let ps := recPstore r
  let sp := recSpad r
  decide (leAt r 2 1 ≤ 1) && decide (leAt r 3 1 = 0) && zeros (slice r 12 4) && zeros (slice r 156 4) && zeros (slice r 492 20) &&
    onlyFields ps.toNat (WinReg.pstore 0).fields && onlyFields sp.toNat (WinReg.spad 0).fields &&
    onlyFields (recFpctl r).toNat (WinReg.fpctl 0).fields &&
    (List.range 16).all (fun k => onlyFields (recRing r k).toNat (WinReg.ringCfg 0 0).fields) &&
    (List.range 8).all (fun a => onlyFields (recApt r a 0).toNat (WinReg.aptWin 0 0).fields &&
      onlyFields (recApt r a 1).toNat (WinReg.aptSrc 0 0).fields &&
      onlyFields (recApt r a 2).toNat [fRw 1 1, fRw 2 4]) &&
    decide (fld ps 11 0 + fld ps 28 16 ≤ 4096) && decide (fld sp 26 16 ≤ 1280) && decide (leAt r 488 4 ≤ fld ps 28 16) &&
    decide (leAt r 480 8 % 8 = 0) && decide (leAt r 480 8 + 8 * leAt r 488 4 ≤ size)

/-- A route record's legs: direction and hop count. -/
def recLegs (r : List Byte) : List (Nat × Nat) :=
  (List.range (leAt r 7 1)).map (fun i => let w := leAt r (8 + 2 * i) 2; (w % 4, bitsAt w 2 7))

/-- A route record's field codes are in range, and its reserved bits 0. -/
def routeRecOk (r : List Byte) : Bool :=
  decide (leAt r 2 1 ≤ 15 ∧ leAt r 3 1 ≤ 15 ∧ leAt r 6 1 ≤ 63 ∧ leAt r 7 1 ≤ 4) &&
    (List.range 4).all (fun i => decide (leAt r (8 + 2 * i) 2 < 512))

def bindRecOk (r : List Byte) : Bool := decide (leAt r 2 1 ≤ 15 ∧ leAt r 3 1 ≤ 3) && zeros (slice r 24 8)

/-- The tiles of a path from its tile on, one per hop; none past the edge. -/
def walk : Nat → List Nat → Option (List Nat)
  | _, [] => some []
  | t, d :: ds => match meshStep t d with
    | some u => (walk u ds).map (u :: ·)
    | none => none

/-- The records and the bytes of an image. -/
def parseImage (h : ImgHead) (b : List Byte) : List (List Byte) × List (List Byte) × List (List Byte) :=
  ((List.range h.tiles).map (fun i => slice (b.drop (h.tileOff + 512 * i)) 0 512),
   (List.range h.routes).map (fun i => slice (b.drop (h.routeOff + 16 * i)) 0 16),
   (List.range h.binds).map (fun i => slice (b.drop (h.bindOff + 32 * i)) 0 32))

/-- The words of a tile record's program. -/
def recProgram (b r : List Byte) : List W64 :=
  let p := b.drop (leAt r 480 8)
  (List.range (leAt r 488 4)).map (fun i => BitVec.ofNat 64 (leAt p (8 * i) 8))

def nodup (l : List Nat) : Bool := decide (l.eraseDups.length = l.length)

/-! ## Table 6.5 -/

/-- A context of the region, on any of its tiles, holds a token (R210). -/
def State.ctxTokens (s : State) (g c : Nat) : Bool :=
  s.tiles.any (fun e => s.inRegion g e.1 && decide ((e.2.ctx c).tokens ≠ 0))

/-- The region's last epoch (R211). -/
def State.lastE (s : State) (g : Nat) : Nat := Sparse.get (fun _ => 0) s.lastEpoch g

/-- E is newer than LAST (R211). -/
def newer (e last : Nat) : Bool := let d := (2 ^ 32 + e - last) % 2 ^ 32; decide (1 ≤ d ∧ d ≤ 2 ^ 31 - 1)

/-- Order 8 for one tile record. -/
def State.checkTileRec (s : State) (c : Nat) (r : List Byte) : Nat :=
  let t := leAt r 0 2
  let ps := recPstore r
  let sp := recSpad r
  let others := (s.otherResidents t c).map (fun d => (s.tile t).ctx d)
  if others.any (fun y => overlaps (fld ps 11 0) (fld ps 11 0 + fld ps 28 16) (fld y.pstore 11 0) (fld y.pstore 11 0 + fld y.pstore 28 16))
  then St.pstoreOverlap
  else if others.any (fun y => overlaps (fld sp 10 0) (fld sp 26 16) (fld y.spad 10 0) (fld y.spad 26 16)) ||
      !((List.range 16).all (fun k => ringFits sp (recRing r k))) || !((List.range 8).all (fun a => windowFits sp (recApt r a 0)))
  then St.spadRange
  else if fld (recFpctl r) 2 0 ≥ 5 then St.fpModeReserved
  else if !(List.range 16).all (fun k => ringCfgOk (recRing r k)) then St.ringCfg
  else if !(List.range 8).all (fun a => decide (fld (recApt r a 1) 1 0 ≠ 3)) then St.aptCfg
  else 0

/-- The first status of a list of checks that is not OK. -/
def firstStatus : List Nat → Nat
  | [] => 0
  | x :: xs => if x ≠ 0 then x else firstStatus xs

/-- Order 9 for one route record: its path, when it is one. -/
def routeOf (tiles : List Nat) (r : List Byte) : Option ImgRoute :=
  let src := leAt r 0 2
  let dst := leAt r 4 2
  let legs := recLegs r
  let dirs := legs.flatMap (fun l => List.replicate l.2 l.1)
  if !tiles.contains src || !tiles.contains dst || legs.any (fun l => decide (l.2 = 0 ∨ l.2 > 95)) || decide (dirs.length > 127) then none
  else match walk src dirs with
    | some p => if (p.getLast?).getD src = dst ∧ (dirs ≠ [] ∨ src = dst) then
        some ⟨src, leAt r 2 1, dst, leAt r 3 1, leAt r 6 1, dirs, src :: p⟩ else none
    | none => none

/-- The turn rule of R200 over the directions of the legs: `seen` says that a leg that is not W has been passed. -/
def turnsOk : Bool → Option Nat → List Nat → Bool
  | _, _, [] => true
  | seen, before, d :: ds =>
    !(seen && decide (d = 3)) && decide (before ≠ some ((d + 2) % 4)) && turnsOk (seen || decide (d ≠ 3)) (some d) ds

/-- The lists of numbers that name (tile, index) pairs hold no pair twice. -/
def pairsOnce (l : List (Nat × Nat)) : Bool := nodup (l.map (fun e => 64 * e.1 + e.2))

/-- The stream descriptor of a binding record is usable (R298, R299). -/
def descOk (e : List Byte) (dir : Nat) : Bool :=
  let f := leAt e 0 1
  let comp := bitsAt f 1 1
  let xp := bitsAt f 2 1
  let fmt := leAt e 2 1
  decide (f % 2 = 1) && decide (f < 8) && zeros (slice e 3 5) && zeros (slice e 16 48) && decide (fmt < 16) &&
    decide (comp + xp ≤ 1) && (decide (comp = 0) || (decide (dir = 1) && decide (leAt e 8 8 % 4096 = 0) &&
      decide (gaSpace (leAt e 8 8) = 2 ∨ gaSpace (leAt e 8 8) = 3))) &&
    (decide (xp = 0) || [0, 1, 2, 3, 4, 7, 8, 9].contains fmt)

/-- The stream descriptor that DESC names: none beyond the table (R298). -/
def State.streamDesc (s : State) (i : Nat) : Option (List Byte) :=
  if s.reg 0x40008 = 0 ∨ i ≥ s.rf 0x40010 16 0 then none else some (s.tableEntry (s.reg 0x40008) i)

/-- Order 14 for one binding record. -/
def State.bindRec (s : State) (tiles : List Nat) (r : List Byte) : Option ImgBind :=
  let dir := leAt r 3 1
  if dir = 0 ∨ leAt r 8 8 % 32 ≠ 0 ∨ leAt r 16 8 % 32 ≠ 0 ∨ !tiles.contains (leAt r 0 2) then none
  else match s.streamDesc (leAt r 4 4) with
    | some e => if descOk e dir then
        some ⟨leAt r 0 2, leAt r 2 1, ⟨true, decide (dir % 2 = 1), decide (dir / 2 = 1), leAt e 0 16, leAt r 8 8, leAt r 16 8⟩⟩ else none
    | none => none

/-- The free 64 KiB units of region g's carve-out on its lead die, without those of other contexts' spill areas (R221).
DEDUCED (log entry 35). -/
def State.spillFree (s : State) (g c : Nat) : List Nat :=
  let o := dsCarve ((s.leadDie g).getD 0) g
  let used := ((List.range 8).filter (fun d => d != c)).flatMap (fun d => (s.sec g d).spill)
  ((List.range (s.rf o 25 16 - s.rf o 8 0)).map (s.rf o 8 0 + ·)).filter (fun u => !used.contains u)

/-- The judgement of an image: a refusal, or the image with the units of its spill area. -/
inductive Judged where
  | no (status : Nat)
  | yes (im : Image) (units : List Nat)

/-- Table 6.5 from order 2 on, over the bytes of an image whose header is `h`. The table gives DIE_NOT_READY (R496) no place; the model judges it
between TILE_REGION and TILE_DARK.
DEDUCED (log entry 35). -/
def State.judgeImage (s : State) (g c epoch : Nat) (h : ImgHead) (b : List Byte) : Judged :=
  let (ts, rs, bs) := parseImage h b
  let tiles := ts.map (fun r => leAt r 0 2)
  if crc32c (slice (b.drop 64) 0 (h.bytes - 64)) ≠ h.crc ∨ !ts.all (tileRecOk h.bytes) ∨ !rs.all routeRecOk ∨ !bs.all bindRecOk ∨
      (ts.filter recReport).length ≠ 1 ∨ !nodup tiles then .no St.imageBad
  else if !tiles.all (fun t => decide (t < tileCount) && s.inRegion g t) then .no St.tileRegion
  else if !tiles.all (fun t => s.cdReady (tileDie t)) then .no St.dieNotReady
  else if tiles.any (fun t => decide ((s.tile t).st = .dark)) then .no St.tileDark
  else if tiles.any (fun t => decide ((s.tile t).st = .parked)) then .no St.tileParked
  else if s.ctxTokens g c then .no St.busyEpoch
  else if !newer epoch (s.lastE g) then .no St.epochStale
  else
    let st := firstStatus (ts.map (s.checkTileRec c))
    if st ≠ 0 then .no st
    else
      let routes := rs.map (routeOf tiles)
      let ok := routes.filterMap id
      if routes.any (·.isNone) || !pairsOnce (ok.map (fun r => (r.src, r.srcRoute))) ||
          !pairsOnce (ok.map (fun r => (r.dst, r.dstQueue))) then .no St.routePath
      else if !ok.all (fun r => r.path.all (s.inRegion g)) then .no St.routeRegion
      else if ok.any (fun r => r.path.any (fun t => decide ((s.tile t).st = .dark))) then .no St.routeDark
      else if !rs.all (fun r => turnsOk false none ((recLegs r).map (·.1))) then .no St.routeTurn
      else if !ok.all (fun r => nodup r.path) || !pairsOnce (ok.flatMap (fun r => r.path.map (fun t => (t, r.tag)))) then
        .no St.routeConflict
      else
        let binds := bs.map (s.bindRec tiles)
        let okb := binds.filterMap id
        if binds.any (·.isNone) || !pairsOnce (okb.map (fun x => (x.tile, x.sb))) then .no St.bindingBad
        else
          let units := (s.spillFree g c).take h.spill
          if h.spill = 0 ∨ h.spill > 16 ∨ units.length < h.spill then .no St.spillRange
          else .yes ⟨ts.map (fun r => ⟨leAt r 0 2, r, recProgram b r⟩), ok, okb, h.spill⟩ units

/-- The command processor reads and judges an image, once its reads are answered (R195). -/
def State.judgeLoad (s : State) (net : List NetAns) (g c addr epoch : Nat) : Except Park (Judged × State) :=
  if (s.sec g c).active then .ok (.no St.sectionActive, s)
  else if addr % 4096 ≠ 0 then .ok (.no St.imageBad, s)
  else match s.unitRead net addr 64 (some g) with
    | .error p => .error p
    | .ok (st, hd, s) =>
      if st ≠ 0 then .ok (.no st, s)
      else match parseHead hd with
        | none => .ok (.no St.imageBad, s)
        | some h =>
          match s.unitRead net addr h.bytes (some g) with
          | .error p => .error p
          | .ok (st, b, s) => .ok (if st ≠ 0 then .no st else s.judgeImage g c epoch h b, s)

/-- An accepted load: the context is LOADING with its image, and the region's last epoch is E (R196, R198, R211). -/
def State.acceptLoad (s : State) (g c epoch addr : Nat) (im : Image) (units : List Nat) : State :=
  let s := s.updSec g c (fun x => Section.init |>.withSt .loading |>.withEpoch epoch |>.withImage (some im)
      |>.withTiles (im.tiles.map (·.t0)) |>.withPasses ((im.routes.flatMap (·.path)).eraseDups)
      |>.withReport (((im.tiles.find? (fun r => recReport r.raw)).map (·.t0)).getD 0) |>.withSpill units |>.withSrc addr
      |>.withFires x.fires |>.withPeak x.peak |>.withLens x.lens |>.withLenNext x.lenNext)
  (s.withLastEpoch (Sparse.put (fun _ => 0) s.lastEpoch g epoch))

/-! ## What a load writes (R196) -/

/-- Ports: 0 N, 1 E, 2 S, 3 W, 4 LOCAL. The transit words along a path: the port entered by, and the directions still to go. -/
def transitWords (r : ImgRoute) : Nat → List Nat → List W64
  | inp, [] => [pack [(0, 1), (1, inp), (4, 4), (8, r.dstQueue), (12, if inp = 4 then r.srcRoute else 0)]]
  | inp, d :: ds => pack [(0, 1), (1, inp), (4, d), (12, if inp = 4 then r.srcRoute else 0)] :: transitWords r ((d + 2) % 4) ds

/-- Context `c` of a tile of the region without routes, queues, bindings and transit entries. -/
def Tile.unbind (x : Tile) (c : Nat) : Tile :=
  let x := x.updCtx c (fun y => y |>.withQueues [] |>.withRoutes [] |>.withBinds [])
  (x.withTransit (Sparse.clear x.transit (64 * c) (64 * c + 64)))

/-- What a load writes on one tile of the section. -/
def Tile.loadRec (x : Tile) (c : Nat) (r : ImgTile) : Tile :=
  let ps := recPstore r.raw
  let x := x.updCtx c (fun y => y |>.withFpctl (recFpctl r.raw) |>.withSrseed (BitVec.ofNat 64 (leAt r.raw 24 8)) |>.withPstore ps
      |>.withSpad (recSpad r.raw)
      |>.withX (Sparse.putList (fun _ => 0) [] 1 ((List.range 31).map (fun k => BitVec.ofNat 32 (leAt r.raw (32 + 4 * k) 4)))) |>.withP []
      |>.withLc [] |>.withPc 0
      |>.withRings (Sparse.putList ringD [] 0 ((List.range 16).map (fun k => Ring.init.withCfg (recRing r.raw k))))
      |>.withApts (Sparse.putList aptD [] 0 ((List.range 8).map (fun a => ⟨recApt r.raw a 0, recApt r.raw a 1, recApt r.raw a 2⟩)))
      |>.withDrains 0)
  let words := r.prog ++ List.replicate (fld ps 28 16 - r.prog.length) 0
  (x.withPstore (Sparse.putList (fun _ => 0) x.pstore (fld ps 11 0) words))

/-- What a load writes for one route. -/
def State.loadRoute (s : State) (c epoch : Nat) (r : ImgRoute) : State :=
  let s := (r.path.zip (transitWords r 4 r.dirs)).foldl (fun (s : State) e =>
    s.updTile e.1 (fun x => x.withTransit (Sparse.put (fun _ => 0) x.transit (64 * c + r.tag) e.2))) s
  let s := s.updTile r.src (fun x => x.updCtx c (fun y => y.setRoute r.srcRoute
    (pack [(0, 16), (8, 1), (9, r.tag), (16, r.dirs.headD 4), (20, r.dirs.length), (28, r.dstQueue), (32, r.dst)])))
  s.updTile r.dst (fun x => x.updCtx c (fun y => y.setQueue r.dstQueue
    (Queue.init.withCfg (pack [(0, 1), (16, epoch % 65536), (32, r.src), (44, r.srcRoute)]))))

/-- A tile without the read pieces of context (g, c): their ring is new, and their bytes go nowhere.
DEDUCED (log entry 19). -/
def Tile.dropReads (x : Tile) (g c : Nat) : Tile :=
  let stays (p : Piece) : Bool := p.write || !decide (p.reg = g ∧ p.ctx = c)
  x.withU (x.u |>.withPieces (x.u.pieces.filter stays) |>.withPort (x.u.port.filter (fun a => stays a.piece)))

/-- The load of (g, c) finishes: tiles, routes and bindings are written and the context is LOADED (R196, R326). -/
def State.finishLoad (s : State) (g c : Nat) (im : Image) : State :=
  let e := (s.sec g c).epoch
  let s := ((s.regionTiles g).foldl (fun (s : State) t => s.updTile t (fun x => (x.unbind c).dropReads g c)) s).dropOrphans
  let s := im.tiles.foldl (fun (s : State) r => s.updTile r.t0 (fun x => x.loadRec c r)) s
  let s := im.routes.foldl (fun (s : State) r => s.loadRoute c e r) s
  let s := im.binds.foldl (fun (s : State) r => s.updTile r.tile (fun x => x.updCtx c (fun y => y.setBind r.sb r.bind))) s
  let s := (im.tiles.map (fun r => tileDie r.t0)).eraseDups.foldl (fun (s : State) n => s.setRedirects n []) s
  s.updSec g c (fun x => x |>.withSt .loaded |>.withImage none |>.withLoadStatus 0)

end Sys2Proof.Machine
end

