-- ==== Sys2Proof/Machine/CmdQueue.lean ====
section
/-! DEFINITION. Command lists: posting, taking a record, completing a command, and the commands of Table 14.3 (R404-R412, R415,
R420). -/
namespace Sys2Proof.Machine

/-! ## Posting (R404) -/

/-- The status of a post of (offset, count) to the queue of (g, c) through CDn (R404, R496). -/
def State.postStatus (s : State) (n g c off count : Nat) : Nat :=
  if !s.ready 3 then St.dieNotReady
  else if s.glareHolds g then St.glareActive
  else if s.leadDie g ≠ some n then St.cmdqNotLead
  else if count = 0 ∨ off % 32 ≠ 0 then St.paramRange
  else if (s.cmdq g c).lists.length ≥ 16 then St.cmdqFull
  else 0

/-- A list joins the queue. -/
def State.holdList (s : State) (g c : Nat) (l : CmdList) : State :=
  let q := s.cmdq g c
  s.setCmdq g c (q.withLists (q.lists ++ [l]))

/-- A write of CD_CMDQ_POST. -/
def State.judgePost (s : State) (n g c : Nat) (v : W64) : Nat × State :=
  let st := s.postStatus n g c (fld v 29 0) (fld v 43 32)
  if st ≠ 0 then (st, s) else (0, s.holdList g c ⟨fld v 29 0, fld v 43 32, 0, []⟩)

def execCmdqPost (n g c : Nat) (v : W64) (s : State) : Out :=
  if n ≥ 16 ∨ g ≥ 16 ∨ c ≥ 8 then .fault (.noSuchUnit "command queue")
  else regRow s (cdOff n (0x4000 + 0x20 * secKey g c)) (fun s => s.judgePost n g c v)

/-! ## Completing -/

/-- The held lists are discarded with FLUSHED events (R404). -/
def State.flushLists (s : State) (g c : Nat) : State := s.discardLists g c St.flushed

/-- The command in progress completes with `status`: its event, DONE, LOAD_STATUS, the next record, STOPPED, and a FLUSH that waited
(R404, R406, R407). -/
def State.completeCmd (s : State) (g c status : Nat) : State :=
  let q := s.cmdq g c
  match q.cmd, q.lists with
  | some r, l :: rest =>
    let op := leAt r.bytes 0 1
    let flags := leAt r.bytes 1 1
    let s := if status ≠ 0 ∨ bitsAt flags 1 1 = 1 then
        s.postCommand g c op status r.idx l.off (cmdEpoch r.bytes) (leAt r.bytes 4 4) else s
    let s := if op = 1 then s.updSec g c (fun x => x.withLoadStatus status) else s
    let s := s.count (cmdqOff s g c 0x10) 63 32 1
    let lists := if l.next + 1 < l.count then l.withNext (l.next + 1) :: rest else rest
    let s := s.setCmdq g c (q |>.withCmd none |>.withLists lists |>.withStopped (q.stopped || (decide (status ≠ 0) && decide (flags % 2 = 1))))
    if q.flush then s.flushLists g c else s
  | _, _ => s

/-- A record that cannot be read: it completes with the read's status, and the queue stops (R406). -/
def State.unreadable (s : State) (g c status : Nat) : State :=
  let q := s.cmdq g c
  match q.lists with
  | l :: rest =>
    let s := (s.postCommand g c 0 status l.next l.off 0 0).count (cmdqOff s g c 0x10) 63 32 1
    let lists := if l.next + 1 < l.count then l.withNext (l.next + 1) :: rest else rest
    s.setCmdq g c (q |>.withLists lists |>.withStopped true)
  | [] => s

/-! ## Records (R405, R407) -/

/-- The next record of a list: a status, and its 32 bytes (read with the management partition, R404). -/
def State.readRecord (s : State) (l : CmdList) : Nat × List Byte × State :=
  if !l.inline.isEmpty then (0, slice (l.inline.drop (32 * l.next)) 0 32, s)
  else
    let r := unitReq s 1 (0x3FFF * 2 ^ 50 + memKey 1 (l.off + 32 * l.next)) 32 [] none
    let st := s.memCheck r
    if st ≠ 0 then (st, [], s) else let q := s.perform r; (q.1.status, q.1.data, q.2)

/-- The operand bytes of a record are legal (R407): reserved bytes 0 and operands in range. -/
def operandsOk (b : List Byte) : Bool :=
  decide (leAt b 1 1 < 4) && zeros (slice b 2 2) &&
  match leAt b 0 1 with
  | 0x01 => zeros (slice b 20 12)
  | 0x02 => decide (leAt b 8 1 < 16) && zeros (slice b 9 7)
  | 0x03 => zeros (slice b 8 8) && zeros (slice b 20 12)
  | 0x04 => decide (leAt b 10 1 < 16) && zeros (slice b 11 5) && zeros (slice b 24 8)
  | 0x05 =>
    decide (32 ≤ leAt b 16 2 ∧ leAt b 16 2 ≤ 4096 ∧ leAt b 16 2 % 32 = 0 ∧ leAt b 18 2 < 2 ^ 14 ∧ leAt b 21 1 < 8) &&
      zeros (slice b 22 10)
  | 0x06 => decide (leAt b 24 1 ≤ 2) && zeros (slice b 25 7)
  | 0x07 => decide (leAt b 24 1 < 32 ∨ leAt b 24 1 = 0xFF) && zeros (slice b 25 7)
  | 0x08 =>
    decide (1 ≤ leAt b 8 1 ∧ leAt b 8 1 ≤ 9 ∧ 1 ≤ leAt b 16 4 ∧ leAt b 16 4 ≤ 65536) && zeros (slice b 9 3) && zeros (slice b 20 12)
  | _ => false

/-- What a command does: it completes with a status, or it waits. -/
inductive CmdGot where
  | done (status : Nat) (s : State)
  | wait (s : State)

/-- The command processor of (g, c) carries out the record at the head of its queue, when it holds opcode `op`; a command that waits
is tried again. A reserved opcode or operand is refused with CMD_BAD before every other refusal (R407). -/
def cmdOp (op g c : Nat) (s : State) (f : State → List Byte → CmdGot) : Out :=
  if g ≥ 16 ∨ c ≥ 8 then .fault (.noSuchUnit "command queue")
  else
    let q := s.cmdq g c
    let run (s : State) (r : CmdRun) : Out :=
      match f s r.bytes with
      | .done st s => .next (s.completeCmd g c st)
      | .wait s => .next (s.setCmdq g c ((s.cmdq g c).withCmd (some (r.withWaits true))))
    match q.cmd with
    | some r => if leAt r.bytes 0 1 = op then run s r else .next s
    | none =>
      match q.lists with
      | [] => .next s
      | l :: _ =>
        if q.stopped ∨ !s.ready 3 then .next s
        else
          let (st, b, s) := s.readRecord l
          if st ≠ 0 then .next (s.unreadable g c st)
          else
            let r : CmdRun := ⟨b, l.next, false⟩
            let known := decide (1 ≤ leAt b 0 1 ∧ leAt b 0 1 ≤ 8)
            if known ∧ leAt b 0 1 ≠ op then .next s
            else
              let s := s.setCmdq g c ((s.cmdq g c).withCmd (some r))
              if !known || !operandsOk b then .next (s.completeCmd g c St.cmdBad) else run s r

/-! ## The commands -/

/-- LOAD_SECTION checks the image and refuses it, or accepts the load and waits until it is LOADED (R195, R407). The generation words of the
image's model are checked before the image, as they are before the command is posted (R349).
DEDUCED (log entry 35). -/
def execLoadSection (g c : Nat) (net : List NetAns) (s : State) : Out :=
  cmdOp 0x01 g c s (fun s b =>
    if (s.sec g c).st = .loading then .wait s
    else if s.loadGenStatus (leAt b 8 8) ≠ 0 then .done (s.loadGenStatus (leAt b 8 8)) s
    else match s.judgeLoad net g c (leAt b 8 8) (leAt b 16 4) with
      | .error p => .wait (s.park p)
      | .ok (.no st, s) => .done st s
      | .ok (.yes im units, s) => .wait (s.acceptLoad g c (leAt b 16 4) (leAt b 8 8) im units))

/-- An accepted load finishes; the context becomes LOADED and the command completes (R196, R198). -/
def execSectionLoaded (g c : Nat) (s : State) : Out :=
  if g ≥ 16 ∨ c ≥ 8 then .fault (.noSuchUnit "section context")
  else
    let x := s.sec g c
    match x.image with
    | some im => if x.st = .loading then .next ((s.finishLoad g c im).completeCmd g c St.ok) else .next s
    | none => .next s

/-- SET_LENGTH records lengths for the next start of the context (R121, R407). -/
def execSetLength (g c : Nat) (s : State) : Out :=
  cmdOp 0x02 g c s (fun s b =>
    .done 0 (s.updSec g c (fun x => x.withLenNext ((List.range 4).foldl (fun l i =>
        if bitsAt (leAt b 8 1) i 1 = 1 then Sparse.insert i (BitVec.ofNat 32 (leAt b (16 + 4 * i) 4)) l
        else l) x.lenNext))))

/-- The section of a context holds tokens for it on its region's tiles. -/
def State.residueAny (s : State) (g c : Nat) : Bool := s.ctxTokens g c

/-- A tile that the section names, or through which one of its routes passes, is dark (R212). -/
def State.sectionDark (s : State) (x : Section) : Bool :=
  (x.tiles ++ x.passes).any (fun t => decide ((s.tile t).st = .dark))

/-- The refusal of a start that its context's section no longer holds back (R212, R408). -/
def State.startStatus (s : State) (g c epoch : Nat) : Nat :=
  let x := s.sec g c
  if epoch ≠ x.epoch then St.epochMismatch
  else if x.st ≠ .loaded then St.sectionState
  else if s.sectionDark x then St.tileDark
  else if s.residueAny g c then St.queueResidue
  else 0

/-- START_SECTION is held while the section runs, then checked; it then waits for its tiles, and at the barrier of its layers (R212, R349,
R408). -/
def execStartSection (g c : Nat) (s : State) : Out :=
  cmdOp 0x03 g c s (fun s b =>
    if (s.sec g c).active then .wait s
    else
      let st := s.startStatus g c (leAt b 16 4)
      if st ≠ 0 then .done st (s.updSec g c (fun x => x.withStartHeld false))
      else .wait ((s.updSec g c (fun x => x |>.withStartHeld true |>.withTag (leAt b 4 4))).holdRun g c))

/-- A binding of a context on a tile is bound. -/
def State.bindsOn (s : State) (c t sb : Nat) : Bool := (((s.tile t).ctx c).bind sb).bound

/-- REARM records a base for the next start (R170, R409).
DEDUCED (log entry 57). -/
def execRearmCommand (g c : Nat) (s : State) : Out :=
  cmdOp 0x04 g c s (fun s b =>
    let x := s.sec g c
    let t := leAt b 8 2
    let sb := leAt b 10 1
    let base := leAt b 16 8
    let binds := if t = 0xFFFF then x.tiles.any (fun t => s.bindsOn c t sb) else x.tiles.contains t && s.bindsOn c t sb
    if !x.resident || x.st = .loading || !binds || base % 32 ≠ 0 then .done St.rearmBad s
    else .done 0 (s.updSec g c (fun x => x.withRearmNext (x.rearmNext ++ [(t, sb, base)]))))

/-! ## Dispatch (R412, R415) -/

/-- Mailbox registers. -/
def mboxCfg (j : Nat) : Nat := 0x50500 + 0x10 * j
def mboxPtr (j : Nat) : Nat := 0x50508 + 0x10 * j

/-- A message written to mailbox `j`: its header and payload, padded to 64 B; MBOX_FULL when it does not fit (R415). -/
def State.mailIn (s : State) (j src part : Nat) (data : List Byte) : Nat × State :=
  let size := 4096 * s.rf (mboxCfg j) 23 16
  let body := toLe 8 s.now ++ toLe 2 src ++ toLe 2 data.length ++ toLe 2 part ++ List.replicate 50 0 ++
    slice data 0 (roundUp data.length 64)
  if s.ringHeld (mboxPtr j) + body.length > size then (St.mboxFull, s)
  else
    let base := 4096 * s.rf (mboxCfg j) 13 0
    let tail := s.rf (mboxPtr j) 63 32
    let p := tail % size
    let s := s.wrMem (hubKey (base + p)) (body.take (size - p))
    let s := s.wrMem (hubKey base) (body.drop (size - p))
    (0, s.setRf (mboxPtr j) 63 32 (tail + body.length))

/-- A dispatch with partition `part` from chip `src`, `none` when this chip sends it to itself: its status (R412, R423, R566).
DEDUCED (log entry 34). -/
def State.dispatchIn (s : State) (src : Option Nat) (part target mbox : Nat) (data : List Byte) : Nat × State :=
  let g := target % 16
  let c := target / 16 % 8
  let box := decide (target / 128 % 2 = 1)
  let denied := match src with
    | some n => !s.granted n 4
    | none => false
  if denied then (St.dispatchDenied, s.count 0xC0070 63 32 1)
  else if box then s.mailIn (mbox % 8) (src.getD s.myChip) part data
  else if s.partition g ≠ part then (St.dispatchDenied, s)
  else if (List.range (data.length / 32)).any (fun i => decide (leAt data (32 * i) 1 = 0x05)) then (St.dispatchDenied, s)
  else if src.isSome ∧ !s.rb (0x51000 + 0x10 * g) 12 then (St.spanUnlit, s)
  else if s.leadDie g = none ∨ !s.ready 3 then (St.dieNotReady, s)
  else if s.glareHolds g then (St.glareActive, s)
  else if (s.cmdq g c).lists.length ≥ 16 then (St.cmdqFull, s)
  else (0, s.holdList g c ⟨0, data.length / 32, 0, data⟩)

/-- DISPATCH reads its buffer and sends it as one operation (R412, R594); to this chip itself it is delivered at once.
DEDUCED (log entry 34). -/
def execDispatch (g c : Nat) (s : State) : Out :=
  cmdOp 0x05 g c s (fun s b =>
    let buf := leAt b 8 8
    let chip := leAt b 18 2
    if gaSpace buf ≠ 1 ∨ !s.thisChip (gaChip buf) then .done St.addrSpace s
    else
      let r := unitReq s 1 buf (leAt b 16 2) [] (some g)
      let st := s.memCheck r
      if st ≠ 0 then .done st (s.refused r st)
      else
        let (a, s) := s.perform r
        if a.status ≠ 0 then .done a.status s
        else if s.thisChip chip then
          let q := s.dispatchIn none (s.partition g) (leAt b 20 1) (leAt b 21 1) a.data
          .done q.1 q.2
        else
          let addr := 2 ^ 50 * chip + 2 ^ 8 * leAt b 21 1 + leAt b 20 1
          match s.sendOp chip 0x05 addr a.data.length a.data (s.partition g) 0 (.dispatch g c) with
          | (.now a, s) => .done a.status s
          | (.full, s) => .wait s
          | (.out id, s) =>
            let q := s.cmdq g c
            let off := (q.lists.head?.map (·.off)).getD 0
            let idx := (q.cmd.map (·.idx)).getD 0
            .done 0 (s.setCmdq g c (q.withDispatches (q.dispatches ++ [⟨id, idx, off, b⟩]))))

/-- The answer of a dispatch: a refusal arrives as a COMMAND event, and stops the queue as STOP_ON_REFUSE says (R406, R412).
DEDUCED (log entry 34). -/
def State.dispatchAnswer (s : State) (g c id status : Nat) : State :=
  let q := s.cmdq g c
  match q.dispatches.find? (fun d => d.id == id) with
  | none => s
  | some d =>
    let s := s.setCmdq g c (q |>.withDispatches (q.dispatches.filter (fun d => d.id != id))
        |>.withStopped (q.stopped || (decide (status ≠ 0) && decide (leAt d.bytes 1 1 % 2 = 1))))
    if status = 0 then s else s.postCommand g c 5 status d.idx d.off 0 (leAt d.bytes 4 4)

/-! ## FENCE and SIGNAL (R410, R411) -/

/-- The part of FENCE that does not depend on a flag: earlier runs have ended and dispatches are acknowledged. -/
def State.fenceQuiet (s : State) (g c : Nat) : Bool := !(s.sec g c).active && (s.cmdq g c).dispatches.isEmpty

/-- The address names spaces 0x1-0x3 of this chip. -/
def State.localMem (s : State) (a : Nat) : Bool := s.thisChip (gaChip a) && decide (1 ≤ gaSpace a ∧ gaSpace a ≤ 3)

/-- FENCE is checked when it issues; without a flag it completes as soon as everything before it has (R410). -/
def execFenceCommand (g c : Nat) (s : State) : Out :=
  cmdOp 0x06 g c s (fun s b =>
    if leAt b 24 1 = 0 then (if s.fenceQuiet g c then .done 0 s else .wait s)
    else if !s.localMem (leAt b 8 8) then .done St.addrSpace s
    else .wait s)

/-- An access of a command processor for region g, which takes HOME_MOVED as it comes: one that a frozen home holds, or that an old home forwards to
another chip, is answered later, and the answer waits for the command's next try (R324, R331). -/
def State.cmdAccess (s : State) (r : MemReq) : Option Ans × State :=
  match s.net.unitAns.find? (fun e => e.1 == r) with
  | some e => (some e.2, s.tookUnit r)
  | none => if s.awaits r then (none, s) else s.request r (.unit r) 5

/-- The command processor reads the flag word of the FENCE in progress (R410). -/
def execFenceFlagPoll (g c : Nat) (s : State) : Out :=
  if g ≥ 16 ∨ c ≥ 8 then .fault (.noSuchUnit "command queue")
  else match (s.cmdq g c).cmd with
    | none => .next s
    | some r =>
      let b := r.bytes
      if leAt b 0 1 ≠ 6 ∨ leAt b 24 1 = 0 then .next s
      else match s.cmdAccess (unitReq s 1 (leAt b 8 8) 8 [] (some g)) with
        | (none, s) => .next s
        | (some a, s) =>
          if a.status ≠ 0 then .next (s.completeCmd g c a.status)
          else
            let v := leNat a.data
            let want := leAt b 16 8
            let holds := if leAt b 24 1 = 1 then decide (v = want) else decide (v ≥ want)
            if holds && s.fenceQuiet g c then .next (s.completeCmd g c 0) else .next s

/-- SIGNAL writes its value, then posts its event (R411, R413). -/
def execSignal (g c : Nat) (s : State) : Out :=
  cmdOp 0x07 g c s (fun s b =>
    let addr := leAt b 8 8
    let evq := leAt b 24 1
    let post (s : State) : State :=
      if evq = 0xFF then s
      else s.postEvent evq 0x08 ((s.leadDie g).getD 0) (secKey g c) (leAt b 4 4) (toLe 8 s.now ++ slice b 16 8)
    if addr = 0 then .done 0 (post s)
    else if !s.localMem addr then .done St.addrSpace s
    else match s.cmdAccess (unitReq s 2 addr 8 (slice b 16 8) (some g)) with
      | (none, s) => .wait s
      | (some a, s) => if a.status ≠ 0 then .done a.status s else .done 0 (post s))

/-! ## TABLE_SYNC (R420) -/

/-- The base register and the limit of a table with one base on the chip: offset of the base, and the entries. -/
def State.tableRegs (s : State) (k : Nat) : Option (Nat × Nat) :=
  match k with
  | 1 => some (0x30028, s.rf 0x30030 12 0)
  | 2 => some (0x30038, s.rf 0x30040 12 0)
  | 3 => some (0x30048, s.rf 0x30050 12 0)
  | 4 => some (0x30500, s.rf 0x30508 10 0)
  | 5 => some (0x30400, s.rf 0x30408 12 0)
  | 7 => some (0x40008, s.rf 0x40010 16 0)
  | 9 => some (0xC0060, s.rf 0xC0068 14 0)
  | _ => none

/-- The base and limit offsets of a table with a base on every compute die. -/
def dieTable (k n : Nat) : Nat × Nat := if k = 8 then (cdOff n 0x3008, cdOff n 0x3010) else (cdOff n 0x3408, cdOff n 0x3410)

/-- The entries named lie in the table (R420). -/
def State.syncOk (s : State) (k index count : Nat) : Bool :=
  match s.tableRegs k with
  | some (b, n) => decide (s.reg b ≠ 0) && decide (index + count ≤ n)
  | none =>
    let dies := (List.range 16).filter (fun n => decide (s.reg (dieTable k n).1 ≠ 0))
    !dies.isEmpty && dies.all (fun n => decide (index + count ≤ s.rf (dieTable k n).2 16 0))

/-- TABLE_SYNC is checked and starts purging old copies (R420). -/
def execTableSync (g c : Nat) (s : State) : Out :=
  cmdOp 0x08 g c s (fun s b =>
    if s.syncOk (leAt b 8 1) (leAt b 12 4) (leAt b 16 4) then .wait s else .done St.tableRange s)

/-- The bases of a table: one, or one on each compute die where it is not 0. -/
def State.tableAt (s : State) (k : Nat) : List W64 :=
  match s.tableRegs k with
  | some (b, _) => [s.reg b]
  | none => ((List.range 16).map (fun n => s.reg (dieTable k n).1)).filter (· != 0)

/-- No cache holds an old copy of the entries named any more. -/
def State.syncTable (s : State) (k index count : Nat) : State :=
  (s.tableAt k).foldl (fun (s : State) b =>
    (List.range count).foldl (fun (s : State) i => s.syncEntry (decide (k ≤ 3)) b (index + i)) s) s

/-- No cache holds an old copy of the entries: the command completes. What the sync of a serving table changes in the steps waits for the next
step boundary (R381, R420). -/
def execTableSyncComplete (g c : Nat) (s : State) : Out :=
  if g ≥ 16 ∨ c ≥ 8 then .fault (.noSuchUnit "command queue")
  else match (s.cmdq g c).cmd with
    | none => .next s
    | some r =>
      if leAt r.bytes 0 1 ≠ 8 then .next s
      else
        let k := leAt r.bytes 8 1
        let i := leAt r.bytes 12 4
        let n := leAt r.bytes 16 4
        .next (((s.syncTable k i n).withSyncs (s.syncs ++ [(k, i, n)])).completeCmd g c 0)

/-! ## RESUME and FLUSH (R404, R406) -/

/-- RESUME leaves STOPPED. -/
def execCmdqResume (g c : Nat) (s : State) : Out :=
  if g ≥ 16 ∨ c ≥ 8 then .fault (.noSuchUnit "command queue")
  else regRow s (cmdqOff s g c 8) (fun s => (0, s.setCmdq g c ((s.cmdq g c).withStopped false)))

/-- FLUSH lets the command in progress complete, then discards the held lists. -/
def State.flushQueue (s : State) (g c : Nat) : State :=
  let q := s.cmdq g c
  if q.cmd.isSome then s.setCmdq g c (q.withFlush true) else s.flushLists g c

def execCmdqFlush (g c : Nat) (s : State) : Out :=
  if g ≥ 16 ∨ c ≥ 8 then .fault (.noSuchUnit "command queue")
  else regRow s (cmdqOff s g c 8) (fun s => (0, s.flushQueue g c))

end Sys2Proof.Machine
end

