-- ==== Sys2Proof/Machine/Prism.lean ====
section
/-! DEFINITION. Prism: posting, checking, triggering and running expert routing jobs (R241-R260). -/
namespace Sys2Proof.Machine

/-! ## Posting (R241) -/

/-- DEDUCED (log entry 37). -/
def State.judgePrismDoorbell (s : State) (n : Nat) (v : W64) : Nat × State :=
  let q := s.prismQ n
  if fld v 5 0 ≠ 0 then (St.paramRange, s)
  else if !s.rb (cdOff n 0x3000) 0 then (St.prismOff, s)
  else if q.length ≥ 8 then (St.prismBusy, s)
  else (0, s.setPrismQ n (q ++ [⟨v.toNat, s.doneSerial, .posted, [], [], 0, 0⟩]))

def execPrismDoorbell (n : Nat) (v : W64) (s : State) : Out :=
  if n ≥ 16 then .fault (.noSuchUnit "compute die") else regRow s (cdOff n 0x3018) (fun s => s.judgePrismDoorbell n v)

/-! ## Descriptor (Table 8.1) -/

def pTokens (d : List Byte) : Nat := leAt d 8 2
def pExperts (d : List Byte) : Nat := leAt d 10 1 + 1
def pK (d : List Byte) : Nat := bitsAt (leAt d 11 1) 0 4
def pGate (d : List Byte) : Nat := bitsAt (leAt d 11 1) 4 2
def pBias (d : List Byte) : Bool := decide (bitsAt (leAt d 11 1) 6 1 = 1)
def pSkip (d : List Byte) : Bool := decide (bitsAt (leAt d 11 1) 7 1 = 1)
def pCapacity (d : List Byte) : Nat := leAt d 12 2
def pRegion (d : List Byte) : Nat := leAt d 36 1 / 16

/-- The address names spaces 0x1 or 0x2 of this chip. -/
def State.nearMem (s : State) (a : Nat) : Bool := s.thisChip (gaChip a) && decide (gaSpace a = 1 ∨ gaSpace a = 2)

/-- A descriptor that a job may run with (R243, R256). -/
def State.prismDescOk (s : State) (n : Nat) (d : List Byte) : Bool :=
  decide (leAt d 0 8 % 32 = 0) && s.nearMem (leAt d 0 8) && decide (1 ≤ pTokens d ∧ pTokens d ≤ 8192) &&
    decide (1 ≤ pK d ∧ pK d ≤ 8 ∧ pK d ≤ pExperts d) && decide (pGate d ≠ 3) && decide (1 ≤ pCapacity d) &&
    decide (ceilDiv (4 * pExperts d) 32 ≤ leAt d 14 2) && decide (leAt d 16 4 + pExperts d ≤ s.rf (cdOff n 0x3010) 16 0) &&
    decide (leAt d 24 8 % 4096 = 0) && s.nearMem (leAt d 24 8) && decide (bitsAt (leAt d 36 1) 1 3 = 0) &&
    decide (leAt d 37 1 < 8) && zeros (slice d 38 2) && zeros (slice d 48 16) &&
    (!pSkip d || decide (pExperts d = 1 ∧ pK d = 1))

/-- The job starts: it reads its expert table entries and PRISM_CTL once (R244), the entries like all its memory with REGION's partition
(R242). -/
def State.prismBegin (s : State) (n : Nat) (j : PrismJob) (rest : List PrismJob) : State :=
  let base := s.reg (cdOff n 0x3008)
  let g := some (pRegion j.desc)
  let is := (List.range (pExperts j.desc)).map (fun e => leAt j.desc 16 4 + e)
  let j := j |>.withSt .running |>.withCtl (s.reg (cdOff n 0x3000)) |>.withBase base |>.withEnts (is.map (s.entryFor g true base))
  is.foldl (fun (s : State) i => s.entryMet g true base i) (s.setPrismQ n (j :: rest))

/-- At the front of the queue a job is checked; it then starts, or waits for its trigger (R243). A descriptor of this chip is read wherever it
lies, in T2 and hub SRAM too.
DESIGN CHOICE (log entry 37). -/
def execPrismJobStart (n : Nat) (s : State) : Out :=
  if n ≥ 16 then .fault (.noSuchUnit "compute die")
  else match s.prismQ n with
    | [] => .next s
    | j :: rest =>
      if j.st ≠ JobSt.posted then .next s
      else if !s.thisChip (gaChip j.addr) then .next (s.endPrism n 1 {})
      else match s.unitRead [] j.addr 64 none with
        | .error p => .next (s.park p)
        | .ok (st, d, s) =>
          if st ≠ 0 then .next (s.endPrism n 1 {})
          else
            let j := j.withDesc d
            if !s.prismDescOk n j.desc then .next ((s.setPrismQ n (j :: rest)).endPrism n 1 {})
            else if leAt j.desc 36 1 % 2 = 1 then .next (s.setPrismQ n (j.withSt .waiting :: rest))
            else .next (s.prismBegin n j rest)

/-- The completion of the triggering section starts a waiting job, or ends it with SOURCE_FAULT (R243).
DEDUCED (log entry 37). -/
def execPrismTrigger (n : Nat) (s : State) : Out :=
  if n ≥ 16 then .fault (.noSuchUnit "compute die")
  else match s.prismQ n with
    | [] => .next s
    | j :: rest =>
      if j.st ≠ JobSt.waiting then .next s
      else match s.trigger (pRegion j.desc) (leAt j.desc 37 1 % 8) (leAt j.desc 40 4) j.since with
        | none => .next s
        | some 0 => .next (s.prismBegin n j rest)
        | some _ => .next (s.endPrism n 2 {})

/-! ## Selection (R245-R247, R256) -/

/-- What a token's row gives: the chosen experts in rank order with their gates, and whether it met a NaN key. -/
structure TokenSel where
  picks : List (Nat × Nat)
  nan : Bool

/-- Insertion by descending key; of equal keys the lower index stays first (R246). -/
def insertKey (e k : Nat) : List (Nat × Nat) → List (Nat × Nat)
  | [] => [(e, k)]
  | x :: xs => if cmpV (f32 k) (f32 x.2) > 0 then (e, k) :: x :: xs else x :: insertKey e k xs

/-- exp within the error bound of Table 3.9. -/
def expOf (a : Nat) : Nat := (rfuOpen 0x0A a).1

/-- The sigmoid gate. -/
def sigmoid (x : Nat) : Nat := (fRecip .nearEven (fAdd .nearEven 0x3F800000 (expOf (fNeg x))).1).1

/-- The softmax gates of chosen scores over a set of scores in summation order (R247). -/
def softGates (set picks : List Nat) : List Nat :=
  let m := set.foldl (fun m x => if cmpV (f32 x) (f32 m) > 0 then x else m) 0xFF800000
  if m = 0xFF800000 then picks.map (fun _ => 0)
  else
    let ex := fun x => expOf (fSub .nearEven x m).1
    let sum := match set with
      | [] => 0
      | x :: xs => xs.foldl (fun a y => (fAdd .nearEven a (ex y)).1) (ex x)
    picks.map (fun x => (fDiv .nearEven (ex x) sum).1)

/-- The selection of one token from its scores and the entries of the experts. -/
def selectToken (d : List Byte) (ents : List (List Byte)) (scores : List Nat) : TokenSel :=
  let valid := (List.range (pExperts d)).filter (fun e => entValid (ents.getD e []))
  if pSkip d then
    let x := scores.getD 0 0
    if isNan (f32 x) then ⟨[], true⟩
    else if valid.isEmpty || isNan (f32 (leAt d 32 4)) || decide (cmpV (f32 x) (f32 (leAt d 32 4)) < 0) then ⟨[], false⟩
    else ⟨[(0, if pGate d = 2 then sigmoid x else 0x3F800000)], false⟩
  else
    let key (e : Nat) : Nat :=
      if pBias d then (fAdd .nearEven (scores.getD e 0) (leAt (ents.getD e []) 4 4)).1 else scores.getD e 0
    let nan := valid.any (fun e => isNan (f32 (key e)))
    let ranked := (valid.filter (fun e => !isNan (f32 (key e)))).foldl (fun l e => insertKey e (key e) l) []
    let picks := (ranked.take (pK d)).map (·.1)
    let sc := picks.map (fun e => scores.getD e 0)
    let gates := match pGate d with
      | 0 => softGates ((valid.map (fun e => scores.getD e 0)).filter (fun x => !isNan (f32 x))) sc
      | 1 => softGates sc sc
      | _ => sc.map sigmoid
    ⟨picks.zip gates, nan⟩

/-! ## Capacity (R248, R255) -/

/-- Per expert: accepted, overflowed, cold-dropped, chosen, chosen while cold, and its list in slot order: token, rank. -/
structure ExpertRun where
  accepted : Nat := 0
  overflow : Nat := 0
  cold : Nat := 0
  chosen : Nat := 0
  wasCold : Bool := false
  list : List (Nat × Nat) := []
  deriving Inhabited

def ExpertRun.withAccepted (x : ExpertRun) (v : Nat) : ExpertRun := { x with accepted := v }
def ExpertRun.withOverflow (x : ExpertRun) (v : Nat) : ExpertRun := { x with overflow := v }
def ExpertRun.withCold (x : ExpertRun) (v : Nat) : ExpertRun := { x with cold := v }
def ExpertRun.withChosen (x : ExpertRun) (v : Nat) : ExpertRun := { x with chosen := v }
def ExpertRun.withWasCold (x : ExpertRun) (v : Bool) : ExpertRun := { x with wasCold := v }
def ExpertRun.withList (x : ExpertRun) (v : List (Nat × Nat)) : ExpertRun := { x with list := v }

/-- The outcome of one choice: its status of Table 8.3 and slot. -/
structure ChoiceRun where
  tok : Nat
  rank : Nat
  expert : Nat
  status : Nat
  slot : Nat

def entWarm (e : List Byte) : Bool := decide (bitsAt (leAt e 0 1) 1 1 = 1)
/-- C_e. -/
def capOf (d e : List Byte) : Nat := if leAt e 2 2 ≠ 0 then leAt e 2 2 else pCapacity d

/-- Allocation of one choice. -/
def allocOne (d : List Byte) (ents : List (List Byte)) (drop : Bool) (acc : List ExpertRun × List ChoiceRun) (tok rank e : Nat) :
    List ExpertRun × List ChoiceRun :=
  let ent := ents.getD e []
  let x := acc.1.getD e {}
  let x := x |>.withChosen (x.chosen + 1) |>.withWasCold (x.wasCold || !entWarm ent)
  if !entWarm ent && drop then (setAt acc.1 e (x.withCold (x.cold + 1)), acc.2 ++ [⟨tok, rank, e, 2, 0⟩])
  else if x.accepted ≥ capOf d ent then (setAt acc.1 e (x.withOverflow (x.overflow + 1)), acc.2 ++ [⟨tok, rank, e, 1, 0⟩])
  else (setAt acc.1 e (x |>.withAccepted (x.accepted + 1) |>.withList (x.list ++ [(tok, rank)])),
        acc.2 ++ [⟨tok, rank, e, 0, x.accepted⟩])

/-- Rank-major allocation over all tokens (R248). -/
def allocate (d : List Byte) (ents : List (List Byte)) (drop : Bool) (sel : List TokenSel) : List ExpertRun × List ChoiceRun :=
  (List.range (pK d)).foldl (fun acc r =>
    (sel.zipIdx).foldl (fun acc st =>
      match st.1.picks[r]? with
      | some p => allocOne d ents drop acc st.2 r p.1
      | none => acc) acc) (List.replicate (pExperts d) {}, [])

/-! ## Finishing and output (R249-R251) -/

/-- A token's final gates by rank: 0 for choices not accepted. -/
def finalGates (d : List Byte) (renorm : Bool) (sel : TokenSel) (mine : List ChoiceRun) : List Nat :=
  let raw := (List.range (pK d)).map (fun r =>
    match mine.find? (fun c => c.rank == r && c.status == 0), sel.picks[r]? with
    | some _, some p => some p.2
    | _, _ => none)
  let accepted := raw.filterMap id
  let sum := match accepted with
    | [] => 0
    | x :: xs => xs.foldl (fun a y => (fAdd .nearEven a y).1) x
  raw.map (fun g => match g with
    | none => 0
    | some x =>
      let x := if renorm ∧ sum ≠ 0 then (fDiv .nearEven x sum).1 else x
      (fMul .nearEven x (leAt d 20 4)).1)

/-- LIST and LSTRIDE (R250). -/
def listOff (d : List Byte) : Nat := roundUp (0x800 + 64 * pTokens d) 4096
def listStride (d : List Byte) (ents : List (List Byte)) : Nat :=
  roundUp (8 * ((List.range (pExperts d)).foldl (fun m e => max m (capOf d (ents.getD e []))) 0)) 64

/-- The writes of a job: offset from OUT and bytes. EXPERT of a choice with status NONE is written as 0, where the spec gives no value.
DESIGN CHOICE (log entry 37). -/
def prismWrites (d : List Byte) (ents : List (List Byte)) (runs : List ExpertRun) (choices : List ChoiceRun)
    (gates : List (List Nat)) : List (Nat × List Byte) :=
  let counts := runs.flatMap (fun x =>
    toLe 2 x.accepted ++ toLe 2 x.overflow ++ toLe 2 x.cold ++ toLe 1 x.wasCold.toNat ++ [0])
  let combine := (List.range (pTokens d)).map (fun t =>
    (0x800 + 64 * t, (List.range (pK d)).flatMap (fun r =>
      match choices.find? (fun c => c.tok == t && c.rank == r) with
      | some c => toLe 1 c.expert ++ toLe 1 c.status ++ toLe 2 c.slot ++ toLe 4 ((gates.getD t []).getD r 0)
      | none => [0, 3, 0, 0] ++ toLe 4 0)))
  let lists := runs.zipIdx.map (fun x =>
    (listOff d + x.2 * listStride d ents, x.1.list.flatMap (fun p =>
      toLe 2 p.1 ++ toLe 1 p.2 ++ toLe 1 (!entWarm (ents.getD x.2 [])).toNat ++ toLe 4 ((gates.getD p.1 []).getD p.2 0))))
  (0, counts) :: combine ++ lists.filter (fun w => !w.2.isEmpty)

/-- The writes made in order until one fails or leaves the region's carve-outs (R250): false for OUT_FAULT; the reason while an answer is
missing. An area spread over two carve-outs of the region is written, and a write outside them is OUT_FAULT: R250 states only the duty.
DESIGN CHOICE (log entry 37). -/
def State.outWrites (s : State) (net : List NetAns) (g out : Nat) : List (Nat × List Byte) → Except Park (Bool × State)
  | [] => .ok (true, s)
  | w :: ws =>
    let a := out + w.1
    if !s.rangeInCarve g (gaSpace a) (gaOff a) w.2.length then .ok (false, s)
    else match s.unitWrite net a w.2 (some g) with
      | .error p => .error p
      | .ok (0, s) => State.outWrites s net g out ws
      | .ok (_, s) => .ok (false, s)

/-- The scores of every token, or none for SCORE_FAULT. -/
def State.readScores (s : State) (net : List NetAns) (d : List Byte) : Except Park (Option (List (List Nat)) × State) :=
  (List.range (pTokens d)).foldl (fun acc t =>
    match acc with
    | .ok (some rows, s) =>
      match s.unitRead net (leAt d 0 8 + 32 * leAt d 14 2 * t) (4 * pExperts d) (some (pRegion d)) with
      | .error p => .error p
      | .ok (0, bs, s) => .ok (some (rows ++ [(List.range (pExperts d)).map (fun e => leAt bs (4 * e) 4)]), s)
      | .ok (_, _, s) => .ok (none, s)
    | x => x) (.ok (some [], s))

/-- The status fields of the experts chosen, for region g (R258, R259). An entry that can no longer be read is not changed.
DEDUCED (log entry 29). -/
def State.addExperts (s : State) (g : Nat) (base : W64) (first : Nat) (runs : List ExpertRun) : State :=
  runs.zipIdx.foldl (fun (s : State) x =>
    if x.1.chosen = 0 then s
    else
      let i := first + x.2
      match s.entryRead (some g) true base i with
      | none => s.entryMet (some g) true base i
      | some old =>
        let add (s : State) (o n : Nat) : State := s.setEntryFor (some g) base i o 4 (satAdd (leAt old o 4) n (2 ^ 32 - 1))
        add (add (add s 48 x.1.chosen) 52 x.1.overflow) 56 x.1.cold) s

/-- A running job finishes: selection, capacity, output, the expert status fields and the completion (R245-R252, R259).
DEDUCED (log entry 29). DEDUCED (log entry 37). -/
def execPrismJobEnd (n : Nat) (net : List NetAns) (s : State) : Out :=
  if n ≥ 16 then .fault (.noSuchUnit "compute die")
  else match s.prismQ n with
    | [] => .next s
    | j :: _ =>
      if j.st ≠ JobSt.running then .next s
      else
        let d := j.desc
        let s0 := s
        match s.readScores net d with
        | .error p => .next (s0.park p)
        | .ok (none, s) => .next (s.endPrism n 3 {})
        | .ok (some rows, s) =>
          let sel := rows.map (selectToken d j.ents)
          let nans := (sel.filter (·.nan)).length
          let s := if nans > 0 then s.setRb (cdOff n 0x3028) 0 true else s
          let (runs, choices) := allocate d j.ents (bit j.ctl 2) sel
          let gates := sel.zipIdx.map (fun x => finalGates d (bit j.ctl 1) x.1 (choices.filter (fun c => c.tok == x.2)))
          match s.outWrites net (pRegion d) (leAt d 24 8) (prismWrites d j.ents runs choices gates) with
          | .error p => .next (s0.park p)
          | .ok (false, s) => .next (s.endPrism n 4 {})
          | .ok (true, s) =>
            let s := s.addExperts (pRegion d) j.base (leAt d 16 4) runs
            let total (st : Nat) := (choices.filter (fun c => c.status == st)).length
            let dropped := ((List.range (pTokens d)).filter (fun t => !choices.any (fun c => c.tok == t && c.status == 0))).length
            .next (s.endPrism n 0 { accepted := total 0, overflowed := total 1, coldDropped := total 2, allDropped := dropped,
                                    nanTokens := nans })

end Sys2Proof.Machine
end

