-- ==== Sys2Proof/Machine/Tint.lean ====
section
/-! DEFINITION. The tint units: posting, checking, starting, the factor cache, records and their delivery (R261-R277). -/
namespace Sys2Proof.Machine

/-! ## Posting and control (R263, R275) -/

/-- DEDUCED (log entry 37). -/
def State.judgeTintDoorbell (s : State) (n : Nat) (v : W64) : Nat × State :=
  let u := s.tintU n
  if fld v 5 0 ≠ 0 then (St.paramRange, s)
  else if !s.rb (cdOff n 0x3400) 0 then (St.tintOff, s)
  else if u.jobs.length ≥ 8 then (St.tintBusy, s)
  else
    let j : TintJob := ⟨v.toNat, s.doneSerial, .posted, [], 0, [], [], 0, [], 0, 0, 0, 0, [], [], [], 0⟩
    (0, s.setTintU n (u.withJobs (u.jobs ++ [j])))

def execTintDoorbell (n : Nat) (v : W64) (s : State) : Out :=
  if n ≥ 16 then .fault (.noSuchUnit "compute die") else regRow s (cdOff n 0x3418) (fun s => s.judgeTintDoorbell n v)

/-- A write of TINT_CTL: it writes the cache fields too, which invalidates every line for the next job (R275). -/
def State.judgeTintCtl (s : State) (n : Nat) (v : W64) : Nat × State :=
  let o := cdOff n 0x3400
  if fld v 41 32 > 512 ∨ fld v 24 16 + fld v 41 32 > 512 then (St.paramRange, s)
  else
    let s := s.writeReg o v
    (0, s.setTintU n ((s.tintU n).withStale true))

def execTintCtlWrite (n : Nat) (v : W64) (s : State) : Out :=
  if n ≥ 16 then .fault (.noSuchUnit "compute die") else regRow s (cdOff n 0x3400) (fun s => s.judgeTintCtl n v)

/-! ## Descriptor (Table 9.1) and entries (R272, R273) -/

def tTokens (d : List Byte) : Nat := leAt d 8 2
def tFmt (d : List Byte) : Nat := bitsAt (leAt d 12 1) 0 4
def tSharedA (d : List Byte) : Bool := decide (bitsAt (leAt d 12 1) 4 1 = 1)
def tSlot (d : List Byte) : Nat := leAt d 13 1
def tD (d : List Byte) : Nat := leAt d 16 2
def tN (d : List Byte) : Nat := leAt d 18 2
def tTrig (d : List Byte) : Nat := bitsAt (leAt d 36 1) 0 2
def tRegion (d : List Byte) : Nat := leAt d 36 1 / 16

def tintFmtOk (f : Nat) : Bool := decide (1 ≤ f ∧ f ≤ 4)

def State.tintDescOk (s : State) (d : List Byte) : Bool :=
  decide (leAt d 0 8 % 32 = 0) && s.nearMem (leAt d 0 8) && decide (1 ≤ tTokens d ∧ tTokens d ≤ 8192) && tintFmtOk (tFmt d) &&
    decide (leAt d 12 1 < 32) && zeros (slice d 14 2) && decide (1 ≤ tD d ∧ tD d ≤ 16384 ∧ 1 ≤ tN d ∧ tN d ≤ 16384) &&
    decide (tTrig d ≠ 3) && decide (bitsAt (leAt d 36 1) 2 2 = 0) && decide (leAt d 37 1 < 8) && zeros (slice d 38 2) &&
    (decide (tTrig d ≠ 2) || (s.thisChip (gaChip (leAt d 48 8)) && decide (gaSpace (leAt d 48 8) = 1) &&
      decide (gaOff (leAt d 48 8) < 2 ^ 29)))

def eRank (e : List Byte) : Nat := 8 * leAt e 2 1
def eFmt (e : List Byte) : Nat := bitsAt (leAt e 3 1) 0 4

/-- A VALID entry without a reserved field set and with a legal rank and format (R266). -/
def tintEntOk (e : List Byte) : Bool :=
  decide (leAt e 0 1 < 4) && decide (1 ≤ leAt e 2 1 ∧ leAt e 2 1 ≤ 16) && decide (leAt e 3 1 < 16) && tintFmtOk (eFmt e) &&
    zeros (slice e 20 12) && zeros (slice e 48 16)

/-- The address of a present slot (R273). -/
def slotAddr (e hdr : List Byte) (slot : Nat) : Nat :=
  leAt e 8 8 + 64 + ((List.range slot).filter (fun i => decide (bitsAt (leAt hdr 0 32) i 1 = 1))).length * leAt e 16 4

/-- Bytes of A_i, and where B_i begins and ends. -/
def aBytes (d e : List Byte) : Nat := fmtBytes (eFmt e) (tD d * eRank e)
def bStart (d e : List Byte) (a : Nat) : Nat := roundUp (a + aBytes d e) 32
def bStop (d e : List Byte) (a : Nat) : Nat := bStart d e a + fmtBytes (eFmt e) (eRank e * tN d)

/-! ## Starting (R265, R266) -/

/-- What reading the adapters of a job gives: the usable entries with the addresses of their slots, or the status that ends it. -/
inductive TintRead where
  | bad (status : Nat)
  | ok (ents : List (Nat × List Byte)) (todo : List (Nat × Nat))

/-- Bytes [a, a + n) of the factor block that an entry names: of its plain content where the package has marked the block compressed (R275).
DESIGN CHOICE (log entry 73). -/
def State.factRead (s : State) (net : List NetAns) (n fact a len : Nat) (g : Option Nat) : Except Park (Nat × List Byte × State) :=
  if s.pkg.placed.any (fun p => p.comp && gaKey p.addr == gaKey fact) then s.readObject net (some n) fact (a - fact) len g else s.unitRead net a len g

/-- The entries of the adapters named, in the order of their first token, read like all memory of the job with REGION's partition (R265). The
header of each factor block says whether it holds the slot. -/
def State.tintEntries (s : State) (net : List NetAns) (n : Nat) (d : List Byte) : List Nat → List (Nat × List Byte) →
    List (Nat × Nat) → Except Park (TintRead × State)
  | [], ents, todo => .ok (.ok ents todo, s)
  | i :: is, ents, todo =>
    let g := some (tRegion d)
    let base := s.reg (cdOff n 0x3408)
    let e := if i < s.rf (cdOff n 0x3410) 16 0 then s.entryFor g true base i else []
    let s := if i < s.rf (cdOff n 0x3410) 16 0 then s.entryMet g true base i else s
    if !entValid e then s.tintEntries net n d is ents todo
    else if !tintEntOk e then .ok (.bad 3, s)
    else match s.factRead net n (leAt e 8 8) (leAt e 8 8) 64 g with
      | .error p => .error p
      | .ok (st, hdr, s) =>
        if st ≠ 0 then .ok (.bad 4, s)
        else if bitsAt (leAt hdr 0 32) (tSlot d) 1 = 0 then State.tintEntries s net n d is ents todo
        else
          let a := slotAddr e hdr (tSlot d)
          let first := a / 4096
          let lines := (List.range ((bStop d e a - 1) / 4096 - first + 1)).map (fun k => (i, 4096 * (first + k)))
          -- the entry is kept with the address of its slot in its reserved bytes 20-27
          State.tintEntries s net n d is (ents ++ [(i, overlay e 20 (toLe 8 a))]) (todo ++ lines)

/-- The job at the front starts: the cache is invalidated when its fields changed, and the index list and the entries are read. -/
def State.tintBegin (s : State) (net : List NetAns) (n : Nat) : Except Park State :=
  let u := s.tintU n
  match u.jobs with
  | [] => .ok s
  | j :: rest =>
    let d := j.desc
    let s := s.setTintU n (u |>.withLines (if u.stale then [] else u.lines) |>.withStale false)
    match s.unitRead net (leAt d 20 8) (4 * tTokens d) (some (tRegion d)) with
    | .error p => .error p
    | .ok (st, bs, s) =>
      if st ≠ 0 then .ok (s.endTint n 4)
      else
        let idx := (List.range (tTokens d)).map (fun t => leAt bs (4 * t) 4)
        let named := ((idx.filter (fun v => decide (bitsAt v 16 1 = 1))).map (fun v => v % 65536)).eraseDups
        match s.tintEntries net n d named [] [] with
        | .error p => .error p
        | .ok (.bad st, s) => .ok (s.endTint n st)
        | .ok (.ok ents todo, s) =>
          let j := j |>.withSt .running |>.withIdx idx |>.withEnts ents |>.withTodo todo |>.withCtl (s.reg (cdOff n 0x3400))
              |>.withBase (s.reg (cdOff n 0x3408))
          .ok (s.setTintU n ((s.tintU n).withJobs (j :: rest)))

/-- The front job starts, or an access of its start is parked. -/
def State.tintStart (s : State) (net : List NetAns) (n : Nat) : State :=
  match s.tintBegin net n with
  | .ok s => s
  | .error p => s.park p

/-- At the front of the queue a job is checked; it then starts, or waits for its trigger (R265). -/
def execTintJobStart (n : Nat) (net : List NetAns) (s : State) : Out :=
  if n ≥ 16 then .fault (.noSuchUnit "compute die")
  else
    let u := s.tintU n
    match u.jobs with
    | [] => .next s
    | j :: rest =>
      if j.st ≠ JobSt.posted then .next s
      else if !s.thisChip (gaChip j.addr) then .next (s.endTint n 1)
      else match s.unitRead net j.addr 64 none with
        | .error p => .next (s.park p)
        | .ok (st, d, s1) =>
          if st ≠ 0 then .next (s1.endTint n 1)
          else
            let j := j.withDesc d
            let s' := s1.setTintU n (u.withJobs (j :: rest))
            if !s.tintDescOk j.desc then .next (s'.endTint n 1)
            else if tTrig j.desc ≠ 0 then .next (s1.setTintU n (u.withJobs ((j.withSt .waiting) :: rest)))
            else match s'.tintBegin net n with
              | .ok s2 => .next s2
              | .error p => .next (s.park p)

/-- A section completion, or the flag word equal to FLAG_VALUE, starts a waiting job (R265).
DEDUCED (log entry 37). -/
def execTintTrigger (n : Nat) (net : List NetAns) (s : State) : Out :=
  if n ≥ 16 then .fault (.noSuchUnit "compute die")
  else match (s.tintU n).jobs with
    | [] => .next s
    | j :: _ =>
      let d := j.desc
      if j.st ≠ JobSt.waiting then .next s
      else if tTrig d = 1 then
        match s.trigger (tRegion d) (leAt d 37 1 % 8) (leAt d 40 4) j.since with
        | none => .next s
        | some 0 => .next (s.tintStart net n)
        | some _ => .next (s.endTint n 2)
      else match s.unitRead net (leAt d 48 8) 8 (some (tRegion d)) with
        | .ok (0, bs, s1) => if leNat bs = leAt d 56 8 then (match s1.tintBegin net n with
            | .ok s2 => .next s2
            | .error p => .next (s.park p)) else .next s1
        | .ok (_, _, s1) => .next s1
        | .error p => .next (s.park p)

/-! ## The cache (R275) -/

/-- The line of a tag. -/
def TintLine.is (l : TintLine) (i gen a : Nat) : Bool := decide (l.adapter = i ∧ l.gen = gen ∧ l.addr = a)

/-- Room for one more line in a cache of `cap` lines: the least recently used line goes, but none of a PIN entry while pinned lines
fill at most half. -/
def evict (cap : Nat) (ls : List TintLine) : List TintLine :=
  if ls.length < cap then ls
  else
    let pinned := (ls.filter (·.pin)).length
    let free (l : TintLine) : Bool := decide (2 * pinned > cap) || !l.pin
    match findPos free ls.reverse with
    | some k => dropAt ls (ls.length - 1 - k)
    | none => ls.dropLast

/-- Lines found in the cache are taken, most recently used first, until one is missing. -/
def takeHits (j : TintJob) (ls : List TintLine) : List (Nat × Nat) → TintJob × List TintLine
  | [] => (j.withTodo [], ls)
  | (i, a) :: rest =>
    let gen := leAt (((j.ents.find? (fun e => e.1 == i)).map (·.2)).getD []) 1 1
    match ls.find? (fun l => l.is i gen a) with
    | some l =>
      takeHits (j |>.withHits (j.hits + 1) |>.withFacts (j.facts ++ [(i, a, l.data)])) (l :: ls.filter (fun x => !x.is i gen a)) rest
    | none => (j.withTodo ((i, a) :: rest), ls)

/-- Factor lines of the running job are looked up in order: hits are taken, and the first miss is fetched; a fetch that fails ends the
job with FACTOR_FAULT (R275). -/
def execTintCacheFill (n : Nat) (net : List NetAns) (s : State) : Out :=
  if n ≥ 16 then .fault (.noSuchUnit "compute die")
  else
    let u := s.tintU n
    match u.jobs with
    | [] => .next s
    | j :: rest =>
      if j.st ≠ JobSt.running then .next s
      else
        let (j, ls) := takeHits j u.lines j.todo
        match j.todo with
        | [] => .next (s.setTintU n (u |>.withJobs (j :: rest) |>.withLines ls))
        | (i, a) :: more =>
          let e := ((j.ents.find? (fun e => e.1 == i)).map (·.2)).getD []
          match s.factRead net n (leAt e 8 8) a 4096 (some (tRegion j.desc)) with
          | .error p => .next ((s.setTintU n (u |>.withJobs (j :: rest) |>.withLines ls)).park p)
          | .ok (st, bs, s) =>
            if st ≠ 0 then .next ((s.setTintU n ((s.tintU n) |>.withJobs (j :: rest) |>.withLines ls)).endTint n 4)
            else
              let cap := 16 * fld j.ctl 41 32
              let line : TintLine := ⟨i, leAt e 1 1, a, decide (bitsAt (leAt e 0 1) 1 1 = 1), bs⟩
              let ls := if cap = 0 then [] else line :: evict cap ls
              let by_ := ((j.missBy.find? (fun m => m.1 == i)).map (·.2)).getD 0
              let j := j |>.withMisses (j.misses + 1) |>.withMissBy ((j.missBy.filter (fun m => m.1 != i)) ++ [(i, by_ + 1)])
                  |>.withFacts (j.facts ++ [(i, a, bs)]) |>.withTodo more
              .next (s.setTintU n ((s.tintU n) |>.withJobs (j :: rest) |>.withLines ls))

/-! ## The delta (R261, R262, R270) -/

/-- An element of an adapter's factors: element `k` of the run at address `a`. -/
def factElem (j : TintJob) (i f a k : Nat) : Nat :=
  let p := a + fmtBytes f k
  match j.facts.find? (fun l => decide (l.1 = i ∧ l.2.1 = 4096 * (p / 4096))) with
  | some l => leAt l.2.2 (p % 4096) (fmtBytes f 1)
  | none => 0

/-- The adapter that tints a token. -/
def TintJob.adapter (j : TintJob) (t : Nat) : Option (Nat × List Byte) :=
  match j.idx[t]? with
  | some v => if bitsAt v 16 1 = 1 then j.ents.find? (fun e => e.1 == v % 65536) else none
  | none => none

/-- K-slices of phase 1 of the token tile, and its rank RT (R270). -/
def tileShape (j : TintJob) (tile : Nat) : Nat × Nat :=
  let ads := (List.range 64).filterMap (fun r => j.adapter (64 * tile + r))
  let kinds := (ads.map (·.1)).eraseDups
  let g := kinds.foldl (fun a i => a + ceilDiv (ads.filter (fun e => e.1 == i)).length 8) 0
  let rt := ads.foldl (fun m e => max m (eRank e.2)) 0
  let b1 := g * rt / 8
  (if b1 = 0 then 1 else if b1 ≤ 64 then 64 / b1 else 1, rt)

/-- A dot product by fused multiply-adds, with flags. -/
def dot (fa fb : Nat) (ab : List (Nat × Nat)) : Nat × Nat :=
  ab.foldl (fun acc p => let r := kStepFloat .nearEven fa p.1 fb p.2 acc.1; (r.1, acc.2 ||| r.2)) (0, 0)

/-- u[k] of a row: slices in ascending order, then B16 (R261). -/
def uElem (j : TintJob) (i : Nat) (e : List Byte) (slices : Nat) (xs : List Nat) (k : Nat) : Nat × Nat :=
  let d := j.desc
  let f := eFmt e
  let r := eRank e
  let a := leAt e 20 8
  let kb := ceilDiv (tD d) 8
  let per := ceilDiv kb slices
  let part (m : Nat) : Nat × Nat :=
    dot (tFmt d) f ((List.range (8 * min per (kb - m * per))).map (fun q =>
      let q := 8 * m * per + q
      if q < tD d ∧ k < r then (xs.getD q 0, factElem j i f a (q * r + k)) else (0, 0)))
  let sum := ((List.range (ceilDiv kb per)).map part).foldl (fun (acc : Option (Nat × Nat)) p =>
    match acc with
    | none => some p
    | some q => let r := fAdd .nearEven q.1 p.1; some (r.1, q.2 ||| p.2 ||| r.2)) none
  let s := sum.getD (0, 0)
  let b := toFloat 2 .nearEven (f32 s.1)
  (b.1, s.2 ||| b.2)

/-- The delta of one row over a list of channels, with flags. -/
def rowDelta (j : TintJob) (i : Nat) (e : List Byte) (shape : Nat × Nat) (xs : List Nat) (chans : List Nat) : List Nat × Nat :=
  let d := j.desc
  let us := (List.range shape.2).map (uElem j i e shape.1 xs)
  let b := bStart d e (leAt e 20 8)
  let out := chans.map (fun ch =>
    if ch ≥ tN d then (0, 0)
    else
      let p := dot 2 (eFmt e) (us.zipIdx.map (fun u =>
        if u.2 < eRank e then (u.1.1, factElem j i (eFmt e) b (u.2 * tN d + ch)) else (0, 0)))
      let q := fMul .nearEven p.1 (leAt e 4 4)
      (q.1, p.2 ||| q.2))
  (out.map (·.1), out.foldl (fun a q => a ||| q.2) (us.foldl (fun a q => a ||| q.2) 0))

/-- FLAGS of a completion from flags (R277). -/
def tintFlags (fl : Nat) : Nat := fl % 2 + bitsAt fl 2 3 * 2

/-! ## Records (R267) -/

def recRows (d : List Byte) : Nat := if tSharedA d then 8 else 64
def recCols (d : List Byte) : Nat := if tSharedA d then 64 else 8
def recCount (d : List Byte) : Nat := ceilDiv (tTokens d) (recRows d) * ceilDiv (tN d) (recCols d)

/-- The rows of record ρ that a token tints, with their X; FACTOR_FAULT for a read that fails. -/
def State.recordRows (s : State) (net : List NetAns) (j : TintJob) (rho : Nat) : Except Park (Nat × List (Option (List Nat)) × State) :=
  let d := j.desc
  let b := rho / ceilDiv (tN d) (recCols d)
  (List.range (recRows d)).foldl (fun acc r =>
    match acc with
    | .ok (0, rows, s) =>
      let t := b * recRows d + r
      match j.adapter t with
      | none => .ok (0, rows ++ [none], s)
      | some _ =>
        match s.unitRead net (leAt d 0 8 + 32 * leAt d 10 2 * t) (roundUp (fmtBytes (tFmt d) (tD d)) 4) (some (tRegion d)) with
        | .error p => .error p
        | .ok (st, bs, s) => .ok (st, rows ++ [some ((List.range (tD d)).map (unpackElem (tFmt d) bs))], s)
    | x => x) (.ok (0, [], s))

/-- The bytes and flags of record ρ. -/
def recordBytes (j : TintJob) (rho : Nat) (rows : List (Option (List Nat))) : List Byte × Nat :=
  let d := j.desc
  let ncb := ceilDiv (tN d) (recCols d)
  let chans := (List.range (recCols d)).map (fun k => rho % ncb * recCols d + k)
  let out := rows.zipIdx.map (fun x =>
    let t := rho / ncb * recRows d + x.2
    match x.1, j.adapter t with
    | some xs, some (i, e) => rowDelta j i e (tileShape j (t / 64)) xs chans
    | _, _ => (chans.map (fun _ => 0), 0))
  (out.flatMap (fun r => r.1.flatMap (toLe 4)), out.foldl (fun a r => a ||| r.2) 0)

/-- Where a record goes: its tile, and the context and ring of the aperture that takes it, if one does now.
DEDUCED (log entry 74). -/
def State.recDest (s : State) (g : Nat) (r : TintRec) : Nat × Option (Nat × Nat) :=
  let off := gaOff r.addr
  let t := off / 2 ^ 20 % 2 ^ 12
  let x := s.tile t
  (t, (x.apertureFor ((s.regionOf t).map s.partition) ⟨s.partition g, s.myChip, none⟩ (off % 2 ^ 20) r.data.length).map
    (fun a => (a.1, ((x.ctx a.1).apt a.2).ring)))

/-- Record `r` goes to the tile and ring of record `q`: to the same address, or to one ring through two windows (R267).
DEDUCED (log entry 74). -/
def State.sameDest (s : State) (g : Nat) (q r : TintRec) : Bool :=
  let d := s.recDest g q
  let e := s.recDest g r
  decide (q.addr = r.addr) || (decide (d.1 = e.1) && d.2.isSome && decide (d.2 = e.2))

/-- One attempt to write a record: delivered, held, or DELIVERY_FAULT. -/
inductive Delivered where
  | done (s : State)
  | held (s : State)
  | bad (s : State)

def State.deliver (s : State) (g : Nat) (r : TintRec) : Delivered :=
  if gaSpace r.addr ≠ 0 ∨ !s.thisChip (gaChip r.addr) then .bad s
  else
    let q := s.apertureWrite ⟨s.partition g, s.myChip, none⟩ (gaOff r.addr) r.data
    if q.1 = 0 then .done q.2 else if q.1 = St.ringFull ∨ q.1 = St.apertureMiss then .held q.2 else .bad q.2

/-- The jobs of the unit with its front job replaced. -/
def State.setTintJob (s : State) (n : Nat) (j : TintJob) : State :=
  let u := s.tintU n
  match u.jobs with
  | _ :: rest => s.setTintU n (u.withJobs (j :: rest))
  | [] => s

/-- The next record of the running job is computed and written to its aperture, or held behind earlier records of its destination; a
map entry of 0 passes the record over (R261, R262, R267). -/
def execTintRecordWrite (n : Nat) (net : List NetAns) (s : State) : Out :=
  if n ≥ 16 then .fault (.noSuchUnit "compute die")
  else match (s.tintU n).jobs with
    | [] => .next s
    | j :: _ =>
      let d := j.desc
      if j.st ≠ JobSt.running ∨ !j.todo.isEmpty ∨ j.next ≥ recCount d ∨ j.recs.length ≥ 16 then .next s
      else match s.unitRead net (leAt d 28 8 + 8 * j.next) 8 (some (tRegion d)) with
        | .error p => .next (s.park p)
        | .ok (st, m, s1) =>
          if st ≠ 0 then .next (s1.endTint n 4)
          else if leNat m = 0 then .next (s1.setTintJob n (j.withNext (j.next + 1)))
          else match s1.recordRows net j j.next with
            | .error p => .next (s.park p)
            | .ok (st, rows, s) =>
              if st ≠ 0 then .next (s.endTint n 4)
              else
                let (bytes, fl) := recordBytes j j.next rows
                let r : TintRec := ⟨j.next, leNat m, bytes, none⟩
                let j := j |>.withNext (j.next + 1) |>.withFlags (j.flags ||| tintFlags fl)
                if j.recs.any (fun q => s.sameDest (tRegion d) q r) then .next (s.setTintJob n (j.withRecs (j.recs ++ [r])))
                else match s.deliver (tRegion d) r with
                  | .done s => .next (s.setTintJob n j)
                  | .held s => .next (s.setTintJob n (j.withRecs (j.recs ++ [(r.withSince (some s.now))])))
                  | .bad s => .next ((s.setTintJob n j).endTint n 5)

/-- One retry of the held records, each destination's first in turn (R267): the records that stay, and whether one failed for good. -/
def State.retryRecs (s : State) (n g : Nat) : List TintRec → List TintRec → State × List TintRec × Bool
  | [], kept => (s, kept, false)
  | r :: rs, kept =>
    if kept.any (fun q => s.sameDest g q r) then State.retryRecs s n g rs (kept ++ [r])
    else
      let s := if r.since.isSome then s.count (cdOff n 0x3420) 63 32 1 else s
      match s.deliver g r with
      | .done s => State.retryRecs s n g rs kept
      | .held s => State.retryRecs s n g rs (kept ++ [(r.withSince (some (r.since.getD s.now)))])
      | .bad s => (s, kept ++ r :: rs, true)

/-- Refused records are tried again (R267). -/
def execTintRecordRetry (n : Nat) (s : State) : Out :=
  if n ≥ 16 then .fault (.noSuchUnit "compute die")
  else match (s.tintU n).jobs with
    | [] => .next s
    | j :: _ =>
      if j.st ≠ JobSt.running then .next s
      else
        let (s, kept, bad) := s.retryRecs n (tRegion j.desc) j.recs []
        let s := s.setTintJob n (j.withRecs kept)
        .next (if bad then s.endTint n 5 else s)

/-- A record is still refused 1 ms after its first attempt: DELIVERY_FAULT (R267).
DEDUCED (log entry 71). -/
def execTintDeliveryTimeout (n : Nat) (s : State) : Out :=
  if n ≥ 16 then .fault (.noSuchUnit "compute die")
  else match (s.tintU n).jobs with
    | [] => .next s
    | j :: _ => if j.st = JobSt.running ∧ j.recs.any (fun r => r.since.any (fun t => decide (t + 4000000 ≤ s.now))) then .next (s.endTint n 5) else .next s

/-- The status fields of the adapters used (R272, R274). An entry that can no longer be read is not changed. -/
def State.addTints (s : State) (j : TintJob) : State :=
  let g := some (tRegion j.desc)
  j.ents.foldl (fun (s : State) e =>
    match s.entryRead g true j.base e.1 with
    | none => s.entryMet g true j.base e.1
    | some old =>
    let used := (j.idx.filter (fun v => decide (bitsAt v 16 1 = 1 ∧ v % 65536 = e.1))).length
    let miss := ((j.missBy.find? (fun m => m.1 == e.1)).map (·.2)).getD 0
    let s := s.setEntryFor g j.base e.1 32 4 (satAdd (leAt old 32 4) used (2 ^ 32 - 1))
    let s := s.setEntryFor g j.base e.1 36 4 (satAdd (leAt old 36 4) miss (2 ^ 32 - 1))
    s.setEntryFor g j.base e.1 40 8 s.now) s

/-- A job whose records have all landed ends OK: its adapters' status fields and the completion (R274, R277). -/
def execTintJobEnd (n : Nat) (s : State) : Out :=
  if n ≥ 16 then .fault (.noSuchUnit "compute die")
  else match (s.tintU n).jobs with
    | [] => .next s
    | j :: _ =>
      if j.st ≠ JobSt.running ∨ j.next < recCount j.desc ∨ !j.recs.isEmpty ∨ !j.todo.isEmpty then .next s
      else .next ((s.addTints j).endTint n 0)

end Sys2Proof.Machine
end

