-- ==== Sys2Proof/Machine/Tiers.lean ====
section
/-! DEFINITION. Memory requests, corrected words, carve-outs, T2 configuration, copy jobs and loans (R284-R315, R482, R532-R538,
R545). -/
namespace Sys2Proof.Machine

/-! ## Corrected errors (R533, R535, R545) -/

/-- The 2 MiB granule, or the 64 KiB of T0, of a record's ADDR. -/
def recPlace (r : List Byte) : Nat :=
  let a := leAt r 16 8
  if gaSpace a = 1 ∨ gaSpace a = 0 then a / 2 ^ 16 else a / 2 ^ 21

/-- Two corrected errors that coalesce: same SOURCE, DIE, UNIT and place. -/
def sameError (a b : List Byte) : Bool :=
  decide (leAt a 9 1 = leAt b 9 1 ∧ leAt a 33 1 = leAt b 33 1 ∧ leAt a 14 2 = leAt b 14 2 ∧ recPlace a = recPlace b)

/-- A corrected error: it joins an open record, opens one, or is lost when all 8 of its die are open. -/
def State.corrected (s : State) (e : ErrInfo) : State :=
  let r := errRecord s.now s.errFlags 0 1 (e.withCls 0)
  match findPos (fun x => sameError x r) s.logs.opened with
  | some i =>
    let x := s.logs.opened.getD i []
    let n := leAt x 12 2 + 1
    let y := overlay x 12 (toLe 2 n)
    if n ≥ 0xFFFF then (s.withLogs (s.logs.withOpened (dropAt s.logs.opened i))).logRecord y
    else s.withLogs (s.logs.withOpened (setAt s.logs.opened i y))
  | none =>
    if (s.logs.opened.filter (fun x => decide (leAt x 33 1 = leAt r 33 1))).length ≥ 8 then s.count 0xB0018 55 40 1
    else s.withLogs (s.logs.withOpened (s.logs.opened ++ [r]))

def eraseReg (chan : Nat) : Nat := 0xB0300 + chan * 8

/-- A corrected word of T2 counts for its device; the device of 16 distinct words within 1 s is erased unless its subchannel already
holds an erased device (R535). -/
def State.t2Hit (s : State) (chan sub dev word : Nat) : State :=
  let hits := s.net.ecc.filter (fun h => decide (s.now - h.time ≤ 4000000000) &&
    !(decide (h.chan = chan ∧ h.sub = sub ∧ h.dev = dev ∧ h.word = word)))
  let hits := hits ++ [(⟨chan, sub, dev, word, s.now⟩ : EccHit)]
  let s := s.withNet (s.net.withEcc hits)
  let n := (hits.filter (fun h => decide (h.chan = chan ∧ h.sub = sub ∧ h.dev = dev))).length
  if n ≥ 16 ∧ !s.rb (eraseReg chan) (8 * sub + 4) then
    let s := (s.setRf (eraseReg chan) (8 * sub + 3) (8 * sub) dev).setRb (eraseReg chan) (8 * sub + 4) true
    s.corrected { cls := 0, source := 0x13, unit := chan, die := 17 + chan / 8, symbols := 16 * dev,
                  addr := 0x3FFF * 2 ^ 50 + word }
  else s

/-- A code word of spaces 0x1-0x3 has been corrected on a read (R533). -/
def State.fixedWord (s : State) (space off symbols device : Nat) : State :=
  let w := off / wordBytes space * wordBytes space
  let e := (badInfo s space w none) |>.withCls 0 |>.withStatus 0 |>.withSymbols (if space = 3 then 16 * (device % 16) + symbols % 16 else symbols)
  let s := s.corrected e
  if space = 3 ∧ device % 16 ≠ 15 then s.t2Hit (s.t2Chan off) (device / 16 % 2) (device % 16) (2 ^ 46 * space + w) else s

/-- The word with key `k` is stored as one that reads as uncorrectable (R534, R537). -/
def State.spoil (s : State) (k : Nat) : State := s.withBad (insertNat k s.bad)

/-- A byte with bad parity at a storage boundary of spaces 0x1-0x3: the word is poisoned, the record carries POISON, and the region of
the producer is fenced (R537, Table 19.2).
DEDUCED (log entry 59). -/
def State.poison (s : State) (space off : Nat) (region : Option Nat) : State :=
  let w := off / wordBytes space * wordBytes space
  let e := (badInfo s space w region) |>.withSource 7 |>.withFlags 8 |>.withStatus 0
  let s := s.spoil (memKey space w)
  match region with
  | some g => s.fenceRegion g 0x06 0xFFFF e
  | none => s.raiseError e

/-! ## Memory requests (R293) -/

/-- A request of the sender `o`: its partition, chip and longest length (R292). -/
def originReq (s : State) (o : Origin) (span op addr len : Nat) (data : List Byte) : MemReq :=
  match o with
  | .efnil => ⟨op, addr, len, data, 0xFFF, none, none, 4096, false, false⟩
  | .core _ => ⟨op, addr, len, data, 0xFFF, none, none, 64, false, false⟩
  | .region g => ⟨op, addr, len, data, s.partition g, none, some g, 4096, false, false⟩
  | .chip n => ⟨op, addr, len, data, span, some n, none, 4096, false, false⟩

/-- The client that takes a late answer. -/
def originClient : Origin → Client
  | .efnil => .core 32 0 false
  | .core i => .core (i + 32) 0 false
  | _ => .none

/-- The request will be performed at this chip now. -/
def State.willPerform (s : State) (r : MemReq) : Bool :=
  s.thisChip (gaChip r.addr) && decide (s.memCheck r = 0) && match s.atHome r with
    | .perform _ => true
    | _ => false

/-- What the codes find in the words of a request that is performed here. -/
def State.reqEcc (s : State) (r : MemReq) (ecc : Ecc) : State :=
  let space := gaSpace r.addr
  let off := gaOff r.addr
  if !s.willPerform r then s
  else match ecc with
    | .fixed n d => if r.op = 2 ∧ (partWords space off r.len).isEmpty then s else s.fixedWord space off n d
    | .lost => s.spoil (memKey space (off / wordBytes space * wordBytes space))
    | _ => s

/-- A request to spaces 0x1-0x3 (R293). The completion goes to the sender; a request that is held, or goes to another chip, is
answered later.
DEDUCED (log entry 59). -/
def execMemoryRequest (o : Origin) (span op addr len : Nat) (data : List Byte) (ecc : Ecc) (s : State) : Out :=
  if op = 0 ∨ op > 3 then .next s
  else
    let r := originReq s o span op addr len data
    let here := s.willPerform r
    let s := s.reqEcc r ecc
    let q := match o with
      | .chip _ => s.request r .none 5
      | _ => s.access r (originClient o)
    match q with
    | (some a, s) =>
      let s := if ecc = Ecc.parity ∧ here ∧ op ≠ 1 ∧ a.status = 0 then s.poison (gaSpace addr) (gaOff addr) r.region else s
      .next (s.answerData a.status (if a.status = St.homeMoved then toLe 8 a.loc else a.data))
    | (none, s) => .next s

/-! ## Carve-outs (R295, R296) -/

/-- The job of a descriptor of this chip: its bytes as far as they can be read.
DEDUCED (log entry 36). -/
def State.peekDesc (s : State) (a n : Nat) : Option (List Byte) :=
  if s.thisChip (gaChip a) ∧ s.memCheck (unitReq s 1 a n [] none) = 0 ∧ !s.hasBad (gaSpace a) (gaKey a) n then some (s.rdMem (gaKey a) n)
  else none

/-- A held job whose descriptor stands at `a` is for region g, as far as the descriptor says so by `of`. The region that a descriptor on another
chip names is open here.
DESIGN CHOICE (log entry 36). -/
def State.jobAtFor (s : State) (a n g : Nat) (of : List Byte → Nat) : Bool :=
  if s.thisChip (gaChip a) then (s.peekDesc a n).any (fun d => decide (of d = g))
  else decide ((Config.farRegion a s.now).toNat = g)

/-- A job of Prism, the tint unit, the copy engines or a move is held for region g (R296, R329). -/
def State.jobsFor (s : State) (g : Nat) : Bool :=
  (List.range 16).any (fun n =>
    (s.prismQ n).any (fun j => if j.desc = [] then s.jobAtFor j.addr 64 g pRegion else decide (pRegion j.desc = g)) ||
    (s.tintU n).jobs.any (fun j => if j.desc = [] then s.jobAtFor j.addr 64 g tRegion else decide (tRegion j.desc = g))) ||
  s.net.copies.any (fun j => s.jobAtFor j.addr 32 g (fun d => leAt d 25 1)) ||
  s.net.moves.any (fun j => if j.desc = [] then s.jobAtFor j.addr 32 g (fun d => leAt d 16 1) else decide (leAt j.desc 16 1 = g))

/-- A context of region g is LOADING, RUNNING or ENDING. -/
def State.contextsBusy (s : State) (g : Nat) : Bool :=
  (List.range 8).any (fun c => (s.sec g c).active || decide ((s.sec g c).st = .loading))

/-- CARVE_OVERLAP against the other regions' carve-outs, given by their register and its fields. -/
def State.carveHits (s : State) (g base limit : Nat) (o : Nat → Nat) (hi ll lh : Nat) : Bool :=
  (List.range 16).any (fun h => h != g && rangesMeet base limit (s.rf (o h) hi 0) (s.rf (o h) lh ll))

def State.judgeDsCarve (s : State) (n g : Nat) (v : W64) : Nat × State :=
  let o := dsCarve n g
  let b := fld v 8 0
  let l := fld v 25 16
  let cache := cdOff n 0x3400
  let st :=
    if s.glareHolds g then St.glareActive
    else if l > 512 then St.paramRange
    else if s.carveHits g b l (dsCarve n) 8 16 25 ||
        rangesMeet b l (s.rf cache 24 16) (s.rf cache 24 16 + s.rf cache 41 32) then St.carveOverlap
    else if s.contextsBusy g || s.jobsFor g then St.carveBusy
    else if s.leadDie g = some n ∧ (List.range 8).any (fun c => (s.sec g c).spill.any (fun u => !(decide (b ≤ u ∧ u < l)))) then
      St.carveSpill
    else 0
  s.judged o v st

def State.judgeT1Carve (s : State) (n g : Nat) (v : W64) : Nat × State :=
  let b := fld v 14 0
  let l := fld v 30 16
  let st :=
    if s.glareHolds g then St.glareActive
    else if b > 24575 ∨ l > 24576 then St.paramRange
    else if s.carveHits g b l (t1Carve n) 14 16 30 then St.carveOverlap
    else if s.contextsBusy g || s.jobsFor g then St.carveBusy
    else 0
  s.judged (t1Carve n g) v st

def State.judgeT2Carve (s : State) (g : Nat) (v : W64) : Nat × State :=
  let b := fld v 21 0
  let l := fld v 46 24
  let st :=
    if s.glareHolds g then St.glareActive
    else if l > b ∧ l > s.granules 1 then St.paramRange
    else if s.carveHits g b l t2Carve 21 24 46 then St.carveOverlap
    else if s.contextsBusy g || s.jobsFor g then St.carveBusy
    else 0
  s.judged (t2Carve g) v st

def execCdDsCarveWrite (n g : Nat) (v : W64) (s : State) : Out :=
  if n ≥ 16 ∨ g ≥ 16 then .fault (.noSuchUnit "carve-out") else regRow s (dsCarve n g) (fun s => s.judgeDsCarve n g v)

def execCdT1CarveWrite (n g : Nat) (v : W64) (s : State) : Out :=
  if n ≥ 16 ∨ g ≥ 16 then .fault (.noSuchUnit "carve-out") else regRow s (t1Carve n g) (fun s => s.judgeT1Carve n g v)

def execMemT2CarveWrite (g : Nat) (v : W64) (s : State) : Out :=
  if g ≥ 16 then .fault (.noSuchUnit "carve-out") else regRow s (t2Carve g) (fun s => s.judgeT2Carve g v)

/-! ## T2 configuration (R297) -/

/-- MEM_DIMM[n]: the capacity of a socket, in GiB. -/
def State.dimm (s : State) (n : Nat) : Nat := s.rf (0x10500 + n * 8) 9 0

/-- Some MEM_T2_CARVE describes a carve-out whose LIMIT lies beyond `top`. -/
def State.t2CarvedBeyond (s : State) (top : Nat) : Bool :=
  (List.range 16).any (fun g => decide (s.rf (t2Carve g) 46 24 > s.rf (t2Carve g) 21 0 ∧ s.rf (t2Carve g) 46 24 > top))

def State.judgeT2Cfg (s : State) (v : W64) : Nat × State :=
  let o := 0x40000
  let map := fld v 15 0
  let cap := fld v 35 24
  let nch := popCount 16 map
  if map = 0 ∧ cap = 0 ∧ !bit v 63 ∧ !s.t2On ∧ !s.t2CarvedBeyond 0 then (0, ((s.remapT2 0 0).writeReg o v).setRf o 20 16 0)
  else if ¬ (nch = 1 ∨ nch = 2 ∨ nch = 4 ∨ nch = 8 ∨ nch = 16) ∨ cap = 0 ∨ cap > 512 ∨
      (List.range 16).any (fun n => bit v n && (!s.chReady n || decide (cap > s.dimm n))) ∨
      (s.t2On ∧ (map ≠ s.rf o 15 0 ∨ cap ≠ s.rf o 35 24)) ∨ s.t2CarvedBeyond (2 ^ 9 * (nch * cap)) then (St.t2MapBad, s)
  else (0, ((s.remapT2 map cap).writeReg o v).setRf o 20 16 nch)

def execMemT2CfgWrite (v : W64) (s : State) : Out := regRow s 0x40000 (fun s => s.judgeT2Cfg v)

/-! ## Copy jobs (R306, R482) -/

def State.judgeCopyDoorbell (s : State) (v : W64) : Nat × State :=
  if s.net.copies.length ≥ 16 then (St.copyBusy, s)
  else (0, s.withNet (s.net.withCopies (s.net.copies ++ [⟨v.toNat, false, false⟩])))

def execMemCopyDoorbell (v : W64) (s : State) : Out := regRow s 0x40018 (fun s => s.judgeCopyDoorbell v)

/-- The front copy job ends: its completion is posted (Table 10.8). Which memory-tier die ran it is open. -/
def State.endCopy (s : State) (job status written : Nat) : State :=
  let (w, s) := s.freeVal
  let s := s.postEvent (s.evRoute 2) 0x05 (17 + w.toNat % 2) 0xFF 0
    (toLe 8 s.now ++ toLe 4 job ++ toLe 1 status ++ toLe 3 0 ++ toLe 8 written)
  (s.withNet (s.net.withCopies (s.net.copies.drop 1)))

/-- Bytes from `src` to `dst` in pieces that stay within 4 KiB at both ends: the status and the bytes written. -/
def State.copyPlain (s : State) (net : List NetAns) (g : Option Nat) : Nat → Nat → Nat → Nat → Nat →
    Except Park (Nat × Nat × State)
  | 0, _, _, _, done => .ok (0, done, s)
  | n + 1, src, dst, len, done =>
    if len = 0 then .ok (0, done, s)
    else
      let k := min len (min (4096 - src % 4096) (4096 - dst % 4096))
      match s.unitAccess net 1 src k [] g 5 with
      | .error p => .error p
      | .ok (a, s) =>
        if a.status ≠ 0 then .ok (a.status, done, s)
        else match s.unitAccess net 2 dst k (slice a.data 0 k) g 5 with
          | .error p => .error p
          | .ok (b, s) =>
            if b.status ≠ 0 then .ok (b.status, done, s) else State.copyPlain s net g n (src + k) (dst + k) (len - k) (done + k)

/-- A list of pieces (address, bytes) written in order: the status and the bytes written. -/
def State.writePieces (s : State) (net : List NetAns) (g : Option Nat) : List (Nat × List Byte) → Nat →
    Except Park (Nat × Nat × State)
  | [], done => .ok (0, done, s)
  | (a, bs) :: rest, done =>
    match s.unitAccess net 2 a bs.length bs g 5 with
    | .error p => .error p
    | .ok (x, s) => if x.status ≠ 0 then .ok (x.status, done, s) else State.writePieces s net g rest (done + bs.length)

/-- The pieces of a byte string at an address. -/
def piecesAt (a : Nat) (bs : List Byte) : List (Nat × List Byte) :=
  (cutRange 4096 (bs.length / 4096 + 2) a bs.length).map (fun p => (p.1, slice bs (p.1 - a) p.2))

/-- Bytes padded with zeros to a multiple of 32. -/
def pad32 (bs : List Byte) : List Byte := slice bs 0 (roundUp bs.length 32)

/-- A compressed object of the given plain bytes (R302, R306): a block whose frame would exceed 4,064 bytes is raw.
DEDUCED (log entry 13). -/
def compressObject (plain : List Byte) : List Byte :=
  let blocks := ceilDiv plain.length 4096
  let stored := (List.range blocks).map (fun b =>
    let p := (plain.drop (4096 * b)).take 4096
    let f := Config.zstdEncode p
    if f.length > 4064 ∨ f = [] then (0, pad32 p) else (ceilDiv f.length 32, pad32 f))
  let off := roundUp (64 + 8 * blocks) 32
  let index := stored.foldl (fun (a : Nat × List Byte) x => (a.1 + x.2.length / 32, a.2 ++ toLe 4 a.1 ++ toLe 1 x.1 ++ toLe 3 0)) (0, [])
  slice (toLe 4 0x425A4F31 ++ toLe 4 blocks ++ toLe 8 plain.length ++ toLe 8 off ++ List.replicate 40 0 ++ index.2) 0 off ++
    stored.flatMap (·.2)

/-- Logical bytes of an object written to `dst` block by block. -/
def State.copyOut (s : State) (net : List NetAns) (g : Option Nat) (obj : Nat) : Nat → Nat → Nat → Nat →
    Except Park (Nat × Nat × State)
  | 0, _, _, done => .ok (0, done, s)
  | n + 1, dst, len, done =>
    if len = 0 then .ok (0, done, s)
    else
      let k := min len (4096 - dst % 4096)
      match s.readObject net none obj done k g with
      | .error p => .error p
      | .ok (st, bs, s) =>
        if st ≠ 0 then .ok (st, done, s)
        else match s.unitAccess net 2 dst k (slice bs 0 k) g 5 with
          | .error p => .error p
          | .ok (b, s) =>
            if b.status ≠ 0 then .ok (b.status, done, s) else State.copyOut s net g obj n (dst + k) (len - k) (done + k)

/-! ### Multicast from the root (R482) -/

def treeReg (t o : Nat) : Nat := 0x70100 + 0x20 * t + o
def State.treeChildren (s : State) (t : Nat) : List Nat :=
  (List.range (s.rf (treeReg t 0) 15 11)).map (fun i => s.rf (treeReg t (8 + i / 6 * 8)) (9 * (i % 6) + 8) (9 * (i % 6)))

/-- An MCAST frame on its way to the children of a tree. -/
def State.sendTree (s : State) (t span addr : Nat) (payload : List Byte) : State :=
  (s.treeChildren t).foldl (fun (s : State) e =>
    s.enqueue (0x4000 + e) (s.header (0x4000 + e) 6 0 (payload.length / 4) 0 span 0 0 0 addr ++ payload) none (some t)) s

/-- The frames of a multicast job: at most 4,080 bytes of data each, none across a granule.
DEDUCED (log entry 33). -/
def State.castPieces (s : State) (net : List NetAns) (g : Option Nat) (t kind job total src dst : Nat) (write : Bool) :
    Nat → Nat → Except Park (Nat × Nat × State)
  | 0, off => .ok (0, off, s)
  | n + 1, off =>
    if off ≥ total then .ok (0, off, s)
    else
      let k := min (total - off) (min 4080 (2 ^ 21 - (dst + off) % 2 ^ 21))
      match s.unitRead net (src + off) k g with
      | .error p => .error p
      | .ok (st, bs, s) =>
        if st ≠ 0 then .ok (st, off, s)
        else
          let span := (unitReq s 1 src k [] g).part
          let p := toLe 1 kind ++ toLe 1 t ++ toLe 2 0 ++ toBe 4 job ++ toBe 4 off ++ toBe 4 total ++ bs
          State.castPieces (s.sendTree t span (if write then dst + off else 0) p) net g t kind job total src dst write n (off + k)

/-- Frames of tree t wait or are not yet acknowledged on a stream to one of its children. -/
def State.treeBusy (s : State) (t : Nat) : Bool :=
  (s.treeChildren t).any (fun e => let x := s.txs (0x4000 + e); (x.una ++ x.wait).any (fun f => f.tree == some t))

/-- The region of a copy job: none for the management partition.
DEDUCED (log entry 36). -/
def copyFor (d : List Byte) : Option Nat := if leAt d 25 1 = 16 then none else some (leAt d 25 1)

/-- A descriptor that breaks Table 10.8 or R482 by a reserved field or code, for which the spec names no status.
DEDUCED (log entry 30). -/
def State.copyBad (s : State) (d : List Byte) : Bool :=
  let mode := leAt d 24 1
  decide (mode > 3) || decide (leAt d 25 1 > 16) || decide (leAt d 27 1 ≠ 0) || decide (mode ≠ 3 ∧ leAt d 26 1 ≠ 0) ||
    decide (mode = 1 ∧ leAt d 16 8 > 2 ^ 36) ||
    decide (mode = 3 ∧ (leAt d 26 1 / 16 = 0 ∨ leAt d 26 1 / 16 > 3 ∨ (leAt d 26 1 / 16 ≠ 1 ∧ leAt d 8 8 ≠ 0) ∨
      !s.rb (treeReg (leAt d 26 1 % 16) 0) 0 ∨ !s.rb (treeReg (leAt d 26 1 % 16) 0) 1))

/-- The status of addresses and a length that break Table 10.8, or OK.
DEDUCED (log entry 30). -/
def State.copyAddr (s : State) (d : List Byte) : Nat :=
  let src := leAt d 0 8
  let dst := leAt d 8 8
  let mode := leAt d 24 1
  let near (a : Nat) : Bool := decide (1 ≤ gaSpace a ∧ gaSpace a ≤ 3)
  let noDst := decide (mode = 3 ∧ leAt d 26 1 / 16 ≠ 1)
  if !near src || (!noDst && !near dst) || decide (mode = 1 ∧ (gaSpace dst = 1 ∨ !s.thisChip (gaChip dst))) then St.addrSpace
  else if src % 32 ≠ 0 ∨ dst % 32 ≠ 0 ∨ leAt d 16 8 % 32 ≠ 0 ∨ (mode = 1 ∧ dst % 4096 ≠ 0) then St.addrAlign
  else 0

/-- The work of a job of modes 0 to 2. -/
def State.copyWork (s : State) (net : List NetAns) (d : List Byte) : Except Park (Nat × Nat × State) :=
  let src := leAt d 0 8
  let dst := leAt d 8 8
  let len := leAt d 16 8
  let g := copyFor d
  match leAt d 24 1 with
  | 0 => s.copyPlain net g (2 * (len / 4096) + 4) src dst len 0
  | 1 =>
    match s.unitRead net src len g with
    | .error p => .error p
    | .ok (st, bs, s) => if st ≠ 0 then .ok (st, 0, s) else s.writePieces net g (piecesAt dst (compressObject bs)) 0
  | _ => s.copyOut net g src (len / 4096 + 2) dst len 0

/-- The front copy job runs to its end. A MULTICAST job sends its frames first, and ends when they are acknowledged or a child is
lost. -/
def execCopyJobEnd (net : List NetAns) (s : State) : Out :=
  match s.net.copies with
  | [] => .next s
  | j :: rest =>
    match s.unitRead net j.addr 32 none with
    | .error p => .next (s.park p)
    | .ok (st, d, s1) =>
      let job := leAt d 28 4
      if st ≠ 0 then .next (s1.endCopy 0 st 0)
      else if s1.copyBad d then let (w, s1) := s1.freeVal; .next (s1.endCopy job (w.toNat % 256) 0)
      else if s1.copyAddr d ≠ 0 then .next (s1.endCopy job (s1.copyAddr d) 0)
      else if leAt d 24 1 = 3 then
        let t := leAt d 26 1 % 16
        let kind := leAt d 26 1 / 16
        let len := leAt d 16 8
        if j.lost then .next (s1.endCopy job St.homeLost 0)
        else if j.sent then (if s1.treeBusy t then .next s else .next (s1.endCopy job 0 len))
        else if !s1.ouvOn then .next (s1.endCopy job St.ouvNoRoute 0)
        else match s1.castPieces net (copyFor d) t kind job len (leAt d 0 8) (leAt d 8 8) (kind == 1) (len / 2040 + 4) 0 with
          | .error p => .next (s.park p)
          | .ok (st, off, s2) =>
            if st ≠ 0 then .next (s2.endCopy job st off)
            else .next (s2.withNet (s2.net.withCopies ((j.withSent true) :: rest)))
      else match s1.copyWork net d with
        | .error p => .next (s.park p)
        | .ok (st, n, s2) => .next (s2.endCopy job st n)

/-! ## Loans (R312-R315) -/

/-- The granules [first, first + count) of a tier as ranges of offsets of its space. -/
def loanParts (tier first count : Nat) : List (Nat × Nat) :=
  if tier = 1 then [(2 ^ 21 * first, 2 ^ 21 * (first + count))]
  else ((List.range 16).map (fun n =>
    let lo := max first (24576 * n)
    let hi := min (first + count) (24576 + 24576 * n)
    (2 ^ 36 * n + 2 ^ 21 * (lo - 24576 * n), 2 ^ 36 * n + 2 ^ 21 * (hi - 24576 * n)))).filter (fun p => decide (p.1 < p.2))

/-- The range lies wholly in region g's carve-out of the tier. -/
def State.loanInCarve (s : State) (g tier first count : Nat) : Bool :=
  decide (count ≥ 1) && decide (first + count ≤ if tier = 0 then 393216 else 2 ^ 22) &&
    (loanParts tier first count).all (fun p => s.inCarve g (2 + tier) p.1 && s.inCarve g (2 + tier) (p.2 - 1))

/-- DEDUCED (log entry 32). -/
def State.judgeLoanRange (s : State) (k : Nat) (v : W64) : Nat × State :=
  let st := if s.loanState k ≠ 0 then St.loanBusy else if fld v 45 24 = 0 then St.paramRange else 0
  s.judged (loanReg k 0) v st

def State.judgeLoanPeer (s : State) (k : Nat) (v : W64) : Nat × State :=
  s.judged (loanReg k 8) v (if s.loanState k ≠ 0 then St.loanBusy else 0)

/-- A write of MEM_LOAN_RANGE, or of MEM_LOAN_PEER when `peer`, of slot k. -/
def execMemLoanWrite (k : Nat) (peer : Bool) (v : W64) (s : State) : Out :=
  if k ≥ 64 then .fault (.noSuchUnit "loan slot")
  else if peer then regRow s (loanReg k 8) (fun s => s.judgeLoanPeer k v)
  else regRow s (loanReg k 0) (fun s => s.judgeLoanRange k v)

/-- The effect of GRANT on slot k.
DEDUCED (log entry 32). -/
def State.loanGrant (s : State) (k : Nat) : Nat × State :=
  if s.loanState k ≠ 0 then (0, s)
  else
    let tier := s.rf (loanReg k 0) 48 48
    let first := s.rf (loanReg k 0) 21 0
    let count := s.rf (loanReg k 0) 45 24
    if !s.loanInCarve (s.loanRegion k) tier first count then (St.loanRange, s)
    else if (List.range 64).any (fun j => j != k && decide (s.loanState j ≠ 0) && decide (s.rf (loanReg j 0) 48 48 = tier) &&
        rangesMeet first (first + count) (s.rf (loanReg j 0) 21 0) (s.rf (loanReg j 0) 21 0 + s.rf (loanReg j 0) 45 24)) then
      (St.loanOverlap, s)
    else if s.thisChip (s.loanBorrower k) then (St.loanRange, s)
    else (0, s.setRf (loanReg k 0x10) 1 0 1)

/-- The effect of RECALL on slot k: RECALLING, and the notice leaves.
DEDUCED (log entry 32). -/
def State.loanRecall (s : State) (k : Nat) : Nat × State :=
  if s.loanState k ≠ 1 then (0, s)
  else
    let s := s.setRf (loanReg k 0x10) 1 0 2
    let s := s.withNet (s.net.withGrace (s.net.grace.filter (fun (e : Nat × Nat) => e.1 != k) ++ [(k, s.now)]))
    (0, s.sendRecall k)

/-- A write of MEM_LOAN_CTL. -/
def State.judgeLoanCtl (s : State) (k : Nat) (v : W64) : Nat × State :=
  let r := if bit v 8 then s.loanGrant k else (0, s)
  if r.1 = 0 ∧ bit v 9 then r.2.loanRecall k else r

def execGrant (k : Nat) (s : State) : Out :=
  if k ≥ 64 then .fault (.noSuchUnit "loan slot") else regRow s (loanReg k 0x10) (fun s => s.judgeLoanCtl k 0x100)

def execRecall (k : Nat) (s : State) : Out :=
  if k ≥ 64 then .fault (.noSuchUnit "loan slot") else regRow s (loanReg k 0x10) (fun s => s.judgeLoanCtl k 0x200)

/-- A RECALLING slot becomes SCRUBBING: its grace is over or its release has arrived (R314). -/
def State.loanScrub (s : State) (k : Nat) : State :=
  if s.loanState k ≠ 2 then s
  else (s.setRf (loanReg k 0x10) 1 0 3).withNet (s.net |>.withGrace (s.net.grace.filter (fun (e : Nat × Nat) => e.1 != k))
      |>.withRecalls (s.net.recalls.filter (· != k)))

/-- GRACE has passed since the recall of slot k; the wait of a recall from before a warm reset is over.
DEDUCED (log entry 71). -/
def State.graceOver (s : State) (k : Nat) : Bool :=
  match s.net.grace.find? (fun (e : Nat × Nat) => e.1 == k) with
  | some e => decide (e.2 + 4000 * s.rf (loanReg k 8) 47 32 ≤ s.now)
  | none => true

/-- GRACE has passed. -/
def execLoanGraceExpiry (k : Nat) (s : State) : Out :=
  if k ≥ 64 then .fault (.noSuchUnit "loan slot") else if s.graceOver k then .next (s.loanScrub k) else .next s

/-- The scrub has written zeros to every byte of the range, and the slot becomes FREE (R314).
DEDUCED (log entry 32). -/
def execLoanScrubDone (k : Nat) (s : State) : Out :=
  if k ≥ 64 then .fault (.noSuchUnit "loan slot")
  else if s.loanState k ≠ 3 then .next s
  else
    let tier := s.rf (loanReg k 0) 48 48
    let s := (loanParts tier (s.rf (loanReg k 0) 21 0) (s.rf (loanReg k 0) 45 24)).foldl (fun (s : State) p =>
      let lo := memKey (2 + tier) p.1
      let hi := memKey (2 + tier) p.2
      ((s.zeroMem lo hi).withBad (s.bad.filter (fun w => !(decide (lo ≤ w ∧ w < hi)))))) s
    .next (s.setRf (loanReg k 0x10) 1 0 0)

end Sys2Proof.Machine
end

