-- ==== Sys2Proof/Machine/Homing.lean ====
section
/-! DEFINITION. Moving granules, home commands, and operations without an answer (R316-R343). -/
namespace Sys2Proof.Machine

/-! ## Registers -/

/-- Some move is held or some entry is MOVING_IN (R322). -/
def State.movesBusy (s : State) : Bool := !s.net.moves.isEmpty || !s.net.inbound.isEmpty

def State.judgeHometab (s : State) (tier : Nat) (v : W64) : Nat × State :=
  let a := v.toNat
  let st :=
    if s.movesBusy then St.moveBusy
    else if a ≠ 0 ∧ ¬ (s.thisChip (gaChip a) ∧ gaSpace a = 2 ∧ a % 4096 = 0) then St.paramRange else 0
  s.judged (0x42000 + 8 * tier) v st

/-- A write of MEM_HOMETAB_T1 (tier 0) or MEM_HOMETAB_T2 (tier 1). -/
def execMemHometabWrite (tier : Nat) (v : W64) (s : State) : Out :=
  if tier ≥ 2 then .fault (.noSuchUnit "tier") else regRow s (0x42000 + 8 * tier) (fun s => s.judgeHometab tier v)

def State.judgeMoveCfg (s : State) (v : W64) : Nat × State :=
  s.judged 0x42010 v (if fld v 7 0 = 0 then St.moveRange else if fld v 31 16 = 0 then St.paramRange else 0)

def State.judgeMoveDoorbell (s : State) (v : W64) : Nat × State :=
  if fld v 4 0 ≠ 0 then (St.paramRange, s)
  else match (List.range 16).find? (fun k => !s.net.moves.any (fun j => j.slot == k)) with
    | none => (St.moveBusy, s)
    | some k => (0, s.withNet (s.net.withMoves (s.net.moves ++ [⟨k, v.toNat, [], .posted, 0, [], [], [], [], 0, 0, 0, 0⟩])))

def execMemMoveDoorbell (v : W64) (s : State) : Out := regRow s 0x42020 (fun s => s.judgeMoveDoorbell v)

/-! ## Descriptor (Table 11.3) -/

def mSrc (d : List Byte) : Nat := leAt d 0 8
def mDst (d : List Byte) : Nat := leAt d 8 8
def mRegion (d : List Byte) : Nat := leAt d 16 1
def mJob (d : List Byte) : Nat := leAt d 24 4

/-- The tier and granule that a granule's address names. -/
def gaTier (a : Nat) : Nat := tierOf (gaSpace a)
def gaGranule (a : Nat) : Nat := granuleOf (gaSpace a) (gaOff a)

/-- An address that may name a granule: a tier, aligned, without a reserved bit of its offset. -/
def granuleAddr (a : Nat) : Bool :=
  decide (gaSpace a = 2 ∨ gaSpace a = 3) && decide (a % 2 ^ 21 = 0) &&
    decide (gaSpace a = 3 ∨ (gaOff a / 2 ^ 40 = 0 ∧ gaOff a % 2 ^ 36 < 0xC00000000))

/-- Two addresses name one place. -/
def State.samePlace (s : State) (a b : Nat) : Bool :=
  decide (a % 2 ^ 50 = b % 2 ^ 50) && (decide (gaChip a = gaChip b) || (s.thisChip (gaChip a) && s.thisChip (gaChip b)))

/-! ## Ends -/

/-- A move's completion (R333). No rule names the die of its envelope.
DEDUCED (log entry 30). -/
def State.endMove (s : State) (j : MoveJob) (status freeze : Nat) : State :=
  let (w, s) := s.freeVal
  let passes := match j.ph with
    | .posted => 0
    | .beginning => 0
    | _ => j.pass + 1
  let s := s.postEvent (s.evRoute 3) 0x06 (w.toNat % 25) 0xFF 0
    (toLe 8 s.now ++ toLe 4 (mJob j.desc) ++ toLe 1 status ++ toLe 1 passes ++ toLe 2 j.frozenBlocks ++ toLe 4 (min freeze 0xFFFFFFFF) ++
      toLe 4 j.heldOps ++ toLe 8 j.flip)
  (s.withNet (s.net |>.withMoves (s.net.moves.filter (fun x => x.slot != j.slot)) |>.withOps (s.net.ops.filter (fun o => match o.client with
      | .moveBegin k => k != j.slot
      | .moveCopy k _ => k != j.slot
      | .moveCommit k => k != j.slot
      | _ => true))))

/-- How long the freeze of a move lasted until `t`, in ns. -/
def MoveJob.frozenNs (j : MoveJob) (t : Nat) : Nat := if j.ph = .frozen then (t - j.frozenAt) / 4 else 0

/-- Held operations are performed, or forwarded, in the order in which they arrived. -/
def State.releaseHeld (s : State) (held : List HeldOp) : State :=
  held.foldl (fun (s : State) h =>
    match s.request h.req h.client 5 with
    | (some a, s) => s.handOver h.client h.req.addr a
    | (none, s) => s) s

/-- A MOVE operation's payload (Table 16.3). -/
def movePayload (sub slot peer : Nat) : List Byte := toBe 1 sub ++ toBe 1 slot ++ toBe 6 0 ++ toBe 8 peer

/-- The global address of this chip's granule. -/
def State.granuleAt (s : State) (tier g : Nat) : Nat := 2 ^ 50 * s.myChip + 2 ^ 46 * (2 + tier) + granuleOff tier g

/-- A MOVING_IN entry that its source gives up returns to HOME (R332). -/
def State.abortIn (s : State) (tier g : Nat) : State :=
  let e := s.home tier g
  if e.st = 3 then s.endIn tier g e.ro else s

/-- The source tells the destination that a move is over (R332, R343). -/
def State.sendAbort (s : State) (tier g slot part peer : Nat) : State :=
  if s.thisChip (gaChip peer) then s.abortIn (gaTier peer) (gaGranule peer)
  else (s.sendOp (gaChip peer) 4 peer 16 (movePayload 3 slot (s.granuleAt tier g)) part 0 .none).2

/-- An abort before the flip point (R332). -/
def State.abortMove (s : State) (j : MoveJob) (status : Nat) : State :=
  let src := mSrc j.desc
  let tier := gaTier src
  let g := gaGranule src
  let ro := (s.home tier g).ro
  let s := (s.setHome tier g ⟨0, ro, 0, 0, 0⟩).dropCut tier g
  let s := s.count 0x42018 47 32 1
  let s := s.endMove j status (j.frozenNs s.now)
  let s := s.releaseHeld j.held
  s.sendAbort tier g j.slot (s.partition (mRegion j.desc)) (mDst j.desc)

/-! ## Begin (R329, R330) -/

/-- The status with which this chip, as a destination, answers a move-begin (R329, order 4).
DEDUCED (log entry 30). -/
def State.beginStatus (s : State) (addr part : Nat) (chip : Option Nat) : Nat :=
  let tier := gaTier addr
  let g := gaGranule addr
  let r : MemReq := ⟨2, addr, 4, [], part, chip, none, 4096, false, false⟩
  if !granuleAddr addr then St.addrRange
  else if s.homeBase tier = 0 then St.moveRange
  else if s.memCheck r ≠ 0 then s.memCheck r
  else if (s.home tier g).st ≠ 0 then St.moveState
  else if !(List.range 16).any (fun h => decide (s.partition h = part) && s.inCarve h (gaSpace addr) (gaOff addr)) then St.memDenied
  else if !(s.loansOf tier g).isEmpty then St.loanHeld
  else if s.net.inbound.length ≥ 16 then St.moveBusy
  else 0

/-- The destination's entry becomes MOVING_IN.
DEDUCED (log entry 31). -/
def State.beginIn (s : State) (addr slot peer : Nat) (ro : Bool) : State :=
  let tier := gaTier addr
  let g := gaGranule addr
  let s := (s.setHome tier g ⟨3, ro, slot, peer, 0⟩).addCut tier g
  (s.withNet (s.net.withInbound (s.net.inbound ++ [⟨tier, g, s.now, none⟩])))

/-- Orders 1 to 3 of Table 11.4: the status of the completion, 0 when none applies. -/
def State.moveCheck (s : State) (d : List Byte) : Nat :=
  let src := mSrc d
  let dst := mDst d
  let tier := gaTier src
  let g := gaGranule src
  if mRegion d > 15 ∨ !(slice d 17 7).all (· == 0) ∨ !(slice d 28 4).all (· == 0) ∨ !granuleAddr src ∨ !granuleAddr dst ∨
      !s.thisChip (gaChip src) ∨ s.samePlace src dst ∨ !s.inSpace (gaSpace src) (gaOff src) (2 ^ 21) ∨
      (s.thisChip (gaChip dst) ∧ (!s.inSpace (gaSpace dst) (gaOff dst) (2 ^ 21) ∨ s.homeBase (gaTier dst) = 0)) ∨
      s.homeBase tier = 0 ∨ !s.inCarve (mRegion d) (gaSpace src) (gaOff src) then 1
  else if (s.home tier g).st ≠ 0 then 2
  else if !(s.loansOf tier g).isEmpty then 3
  else 0

/-- The completion status of a descriptor that cannot be read. -/
def readFailure (st : Nat) : Nat := if st = St.homeLost then 6 else if st = St.memError then 7 else 1

/-- A held job is checked and refused, or begins (R329, R330).
DEDUCED (log entry 30). -/
def execMoveJobStart (slot : Nat) (s : State) : Out :=
  match s.moveJob slot with
  | none => .next s
  | some j =>
    if j.ph ≠ MovePh.posted then .next s
    else match s.unitRead [] j.addr 32 none with
      | .error p => .next (s.park p)
      | .ok (st, d, s) =>
        let j := j.withDesc d
        if st ≠ 0 then .next (s.endMove (j.withDesc []) (readFailure st) 0)
        else if s.moveCheck j.desc ≠ 0 then .next (s.endMove j (s.moveCheck j.desc) 0)
        else
          let s0 := s.setMove (j.withPh .beginning)
          let src := mSrc j.desc
          let dst := mDst j.desc
          let part := s.partition (mRegion j.desc)
          let me := s.granuleAt (gaTier src) (gaGranule src)
          if s.thisChip (gaChip dst) then
            let st := s.beginStatus dst part none
            let s0 := if st = 0 then s0.beginIn dst slot me (s.home (gaTier src) (gaGranule src)).ro else s0
            .next (s0.localOp dst (.moveBegin slot) ⟨st, [], 0, false⟩)
          else match s0.sendOp (gaChip dst) 4 dst 16 (movePayload 1 slot me) part 0 (.moveBegin slot) with
            | (.now a, s1) => .next (s1.localOp dst (.moveBegin slot) a)
            | (.out _, s1) => .next s1
            | (.full, _) => .next s

/-! ## Copying (R330) -/

/-- Copy operations issue while the window and blocks remain; a block that cannot be read aborts the move. -/
def State.issueCopies (s : State) (slot : Nat) : Nat → State
  | 0 => s
  | n + 1 =>
    match s.moveJob slot with
    | none => s
    | some j =>
      match j.todo with
      | [] => s
      | b :: rest =>
        if j.out.length ≥ s.rf 0x42010 7 0 then s
        else
          let g := mRegion j.desc
          let part := s.partition g
          let src := mSrc j.desc + 4096 * b
          let dst := mDst j.desc + 4096 * b
          let q := s.perform ⟨1, src, 4096, [], part, none, some g, 4096, false, false⟩
          if q.1.status ≠ 0 then q.2.abortMove j 7
          else
            let j := j |>.withTodo rest |>.withDirty (j.dirty.filter (· != b)) |>.withOut (j.out ++ [b])
            let s1 := q.2.setMove j
            if s.thisChip (gaChip dst) then
              match s1.request ⟨2, dst, 4096, q.1.data, part, none, some g, 4096, true, false⟩ .none 5 with
              | (some a, s2) => State.issueCopies (s2.localOp dst (.moveCopy slot b) a) slot n
              | (none, _) => s
            else match s1.sendOp (gaChip dst) 2 dst 4096 q.1.data part 0 (.moveCopy slot b) with
              | (.now a, s2) => State.issueCopies (s2.localOp dst (.moveCopy slot b) a) slot n
              | (.out _, s2) => State.issueCopies s2 slot n
              | (.full, _) => s

/-- The move freezes: what is still dirty is copied (R330, R331). -/
def State.freeze (s : State) (j : MoveJob) : State :=
  let s := s.setMove (j |>.withPh .frozen |>.withFrozenAt s.now |>.withTodo j.dirty |>.withFrozenBlocks j.dirty.length)
  s.issueCopies j.slot 256

/-- Nothing is left to copy in the pass and nothing is outstanding: the next pass, or the freeze. -/
def State.passEnd (s : State) (j : MoveJob) : State :=
  if j.ph ≠ .copying ∨ !j.todo.isEmpty ∨ !j.out.isEmpty then s
  else if j.dirty.length ≤ 8 ∨ j.pass ≥ 3 then s.freeze j
  else
    let s := s.setMove (j |>.withPass (j.pass + 1) |>.withTodo j.dirty)
    s.issueCopies j.slot 256

/-- The answered operation of a client, taken from the list. -/
def State.takeOp (s : State) (p : Client → Bool) : Option (NetOp × Ans × State) :=
  match s.net.ops.find? (fun o => p o.client && o.done.isSome) with
  | some o => o.done.map (fun a => (o, a, s.dropOp o.id))
  | none => none

/-- The destination has accepted the begin, or has refused it (R329, R330). A source granule that has begun to move or has been lent meanwhile
refuses the job, and the destination is told.
DEDUCED (log entry 30). -/
def execMoveBeginAck (slot : Nat) (s : State) : Out :=
  match s.moveJob slot, s.takeOp (fun c => c == Client.moveBegin slot) with
  | some j, some (_, a, s) =>
    if j.ph ≠ MovePh.beginning then .next s
    else if a.status = St.homeLost then .next (s.endMove j 6 0)
    else if a.status ≠ 0 then .next (s.endMove j 4 0)
    else if s.moveCheck j.desc ≠ 0 then
      let s1 := s.endMove j (s.moveCheck j.desc) 0
      .next (s1.sendAbort (gaTier (mSrc j.desc)) (gaGranule (mSrc j.desc)) slot (s.partition (mRegion j.desc)) (mDst j.desc))
    else
      let src := mSrc j.desc
      let tier := gaTier src
      let g := gaGranule src
      let e := s.home tier g
      let s := (s.setHome tier g ⟨1, e.ro, slot, mDst j.desc, 0⟩).addCut tier g
      let s := s.setMove (j |>.withPh .copying |>.withPass 0 |>.withTodo (List.range 512))
      .next (s.issueCopies slot 256)
  | _, _ => .next s

/-- The completion status of a copy operation that did not end OK (R332). -/
def copyFailure (st : Nat) : Nat := if st = St.homeLost then 6 else if st = St.memError then 7 else 5

/-- Copies issue as far as they can, and a pass that has nothing left ends. -/
def State.copyOn (s : State) (slot : Nat) : State :=
  let s := s.issueCopies slot 256
  match s.moveJob slot with
  | some j => s.passEnd j
  | none => s

/-- A copy operation is acknowledged (R330, R332). With none to acknowledge, copies that waited for a tag issue. -/
def execMoveCopyAck (slot : Nat) (s : State) : Out :=
  let mine (c : Client) : Bool := match c with
    | .moveCopy k _ => k == slot
    | _ => false
  match s.moveJob slot, s.takeOp mine with
  | some j, some (o, a, s) =>
    if a.status ≠ 0 then .next (s.abortMove j (copyFailure a.status))
    else
      let b := match o.client with
        | .moveCopy _ b => b
        | _ => 0
      .next ((s.setMove (j.withOut (j.out.filter (· != b)))).copyOn slot)
  | some j, none => if j.todo.isEmpty then .next s else .next (s.copyOn slot)
  | _, _ => .next s

/-- Every copy operation is OK: the entry becomes MOVED, the commit is sent and the held operations are forwarded (R330). -/
def execMoveFlip (slot : Nat) (s : State) : Out :=
  match s.moveJob slot with
  | none => .next s
  | some j =>
    if j.ph ≠ MovePh.frozen ∨ !j.todo.isEmpty ∨ !j.out.isEmpty then .next s
    else
      let src := mSrc j.desc
      let dst := mDst j.desc
      let tier := gaTier src
      let g := gaGranule src
      let ro := (s.home tier g).ro
      let part := s.partition (mRegion j.desc)
      let flip := s.now
      let s0 := s
      let s := (s.setHome tier g ⟨2, ro, 0, dst, flip⟩).dropCut tier g
      let s := s.withNet (s.net.withGlow (s.net.glow.filter (· != (tier, g)) ++ [(tier, g)]))
      let s := s.setMove (j |>.withPh .committing |>.withHeld [] |>.withFlip flip |>.withFrozenAt ((flip - j.frozenAt) / 4))
      if s.thisChip (gaChip dst) then
        let s := s.endIn (gaTier dst) (gaGranule dst) ro
        let s := s.localOp dst (.moveCommit slot) ⟨0, [], 0, false⟩
        .next (s.releaseHeld j.held)
      else match s.sendOp (gaChip dst) 4 dst 16 (movePayload 2 slot (s.granuleAt tier g)) part 0 (.moveCommit slot) with
        | (.now a, s) => .next ((s.localOp dst (.moveCommit slot) a).releaseHeld j.held)
        | (.out _, s) => .next (s.releaseHeld j.held)
        | (.full, _) => .next s0

/-- The destination has acknowledged the commit (R330, R333). -/
def execMoveCommitAck (slot : Nat) (s : State) : Out :=
  match s.moveJob slot, s.takeOp (fun c => c == Client.moveCommit slot) with
  | some j, some (_, a, s) => .next (s.endMove j (if a.status = St.homeLost then 6 else 0) j.frozenAt)
  | _, _ => .next s

/-- FREEZE_MAX has passed since the freeze (R331, R332).
DEDUCED (log entry 71). -/
def execFreezeTimeout (slot : Nat) (s : State) : Out :=
  match s.moveJob slot with
  | some j =>
    if j.ph = MovePh.frozen ∧ j.frozenAt + 4000 * s.rf 0x42010 31 16 ≤ s.now then .next (s.abortMove j 5) else .next s
  | none => .next s

/-- Afterglow of a MOVED entry is over: 100 µs have passed since its flip (R324).
DEDUCED (log entry 71). -/
def execAfterglowEnd (tier g : Nat) (s : State) : Out :=
  if s.inGlow tier g (s.home tier g) then .next s
  else .next (s.withNet (s.net.withGlow (s.net.glow.filter (· != (tier, g)))))

/-- What the source's answer makes of a MOVING_IN entry: HOME, empty or as the new home (R335). -/
def State.settleIn (s : State) (tier g st : Nat) : State := if st = 0 ∨ st = 2 then s.endIn tier g (s.home tier g).ro else s

/-- The entry has heard nothing from its source for 2 ms, and has not asked it for 1 ms (R335).
DEDUCED (log entry 71). -/
def State.queryDue (s : State) (tier g : Nat) : Bool :=
  match s.net.inbound.find? (fun m => m.tier == tier && m.granule == g) with
  | some m => decide (m.last + 8000000 ≤ s.now) && m.asked.all (fun t => decide (t + 4000000 ≤ s.now))
  | none => true

/-- A MOVING_IN entry that has heard nothing for 2 ms queries its source every 1 ms, and resolves from the answer (R335). -/
def execMovingInQuery (tier g : Nat) (s : State) : Out :=
  let e := s.home tier g
  if e.st ≠ 3 then .next s
  else match s.takeOp (fun c => c == Client.query tier g) with
    | some (_, a, s) => if a.status = 0 then .next (s.settleIn tier g (beAt a.data 0 1 % 8)) else .next s
    | none =>
      if !s.queryDue tier g ∨ s.net.ops.any (fun o => o.client == Client.query tier g) then .next s
      else if s.thisChip (gaChip e.peer) then .next (s.settleIn tier g (s.home (gaTier e.peer) (gaGranule e.peer)).st)
      else match s.sendOp (gaChip e.peer) 4 e.peer 16 (movePayload 4 e.slot 0) 0xFFF 0 (.query tier g) with
        | (.out _, s) => .next (s.withNet (s.net.withInbound (s.net.inbound.map (fun m =>
            if m.tier = tier ∧ m.granule = g then m.withAsked (some s.now) else m))))
        | _ => .next s

/-! ## Home commands (R334-R336, R341, R343) -/

/-- The command `op` on a granule: a refusal, or the state after it. -/
def State.homeCmd (s : State) (op tier g : Nat) : Nat × State :=
  if op > 4 ∨ g ≥ s.granules tier ∨ s.homeBase tier = 0 then (St.moveRange, s)
  else
    let e := s.home tier g
    match op with
    | 0 =>
      if e.st ≠ 2 ∨ s.inGlow tier g e then (St.moveState, s)
      else (0, s.setHome tier g ⟨0, e.ro, 0, 0, 0⟩)
    | 1 => if e.st ≠ 0 then (St.moveState, s) else (0, s.setHome tier g (e.withRo true))
    | 2 => if e.st ≠ 0 then (St.moveState, s) else (0, s.setHome tier g (e.withRo false))
    | 3 => if e.st ≠ 3 then (St.moveState, s) else (0, s.endIn tier g e.ro)
    | _ =>
      if e.st ≠ 1 then (St.moveState, s)
      else if s.net.moves.any (fun j => j.ph != .posted && j.ph != .beginning && s.samePlace (mSrc j.desc) (s.granuleAt tier g)) then
        (St.moveBusy, s)
      else
        let s := (s.setHome tier g ⟨0, e.ro, 0, 0, 0⟩).dropCut tier g
        (0, s.sendAbort tier g e.slot 0xFFF e.peer)

/-- A write of MEM_HOME_CMD. -/
def State.judgeHomeCmd (s : State) (v : W64) : Nat × State := s.homeCmd (fld v 26 24) (fld v 22 22) (fld v 21 0)

def homeRow (op tier g : Nat) (s : State) : Out :=
  if tier ≥ 2 then .fault (.noSuchUnit "tier") else regRow s 0x42028 (fun s => s.homeCmd op tier g)

def execReclaim (tier g : Nat) (s : State) : Out := homeRow 0 tier g s
def execSetRo (tier g : Nat) (s : State) : Out := homeRow 1 tier g s
def execClearRo (tier g : Nat) (s : State) : Out := homeRow 2 tier g s
def execResolve (tier g : Nat) (s : State) : Out := homeRow 3 tier g s
def execAbortOut (tier g : Nat) (s : State) : Out := homeRow 4 tier g s

/-! ## HOME_LOST (R340) -/

/-- Operation `o` has its answer: the client gets it, or finds it in `ops`. -/
def State.answerOp (s : State) (o : NetOp) (a : Ans) : State :=
  match o.client with
  | .piece t id =>
    if (s.tile t).u.pieces.any (fun p => p.lead == id) then s.setDone o.id a else s.dropOp o.id
  | .moveBegin k => if (s.moveJob k).isSome then s.setDone o.id a else s.dropOp o.id
  | .moveCopy k _ => if (s.moveJob k).isSome then s.setDone o.id a else s.dropOp o.id
  | .moveCommit k => if (s.moveJob k).isSome then s.setDone o.id a else s.dropOp o.id
  | .query _ _ => s.setDone o.id a
  | .efnil cmd _ => (s.setDone o.id a).efnSettle cmd
  | .dispatch g c => (s.dropOp o.id).dispatchAnswer g c o.id a.status
  | .release k => (s.dropOp o.id).setRb (0x71000 + 0x20 * k) 0 false
  | .loan _ => s.dropOp o.id
  | .chain => (s.dropOp o.id).withPkg (s.pkg.withJobs (match s.pkg.jobs with
    | j :: rest => (j |>.withAway (j.away - 1) |>.withBad (if j.bad = 0 then a.status else j.bad)) :: rest
    | [] => []))
  | c => (s.dropOp o.id).handOver c o.addr a

/-- An operation without a response 2 ms after its first issue completes with HOME_LOST, and one to a chip declared lost at once (R340, R476).
DEDUCED (log entry 71). -/
def execOperationTimeout (id : Nat) (s : State) : Out :=
  match s.netOp id with
  | some o =>
    if o.done.isNone ∧ o.chip ≠ 0x3FFF ∧ o.op ≠ 7 ∧ (o.born + 8000000 ≤ s.now ∨ s.isLost o.chip) then .next (s.answerOp o ⟨St.homeLost, [], 0, false⟩) else .next s
  | none => .next s

end Sys2Proof.Machine
end

