-- ==== Sys2Proof/Machine/Receipt.lean ====
section
/-! DEFINITION. Receipt of signed objects in 32 B units: the firmware image and the glare package (R500-R503, R549, R556). -/
namespace Sys2Proof.Machine

/-! ## Digests (FIPS 202, FIPS 204; log entry 12) -/

/-- The 64 bytes of SHA3-512. -/
def sha3Bytes (bs : List Byte) : List Byte := toBe 64 (Config.sha3 bs).toNat

/-- FW_KEY_REVOKE has key k (R556). -/
def State.keyRevoked (s : State) (k : Nat) : Bool := s.rb 0xC0000 (16 + k)

/-- The lowest unrevoked key under which a signature verifies (R556, R557). -/
def State.verifyKey (s : State) (context msg sig : List Byte) : Option Nat :=
  (List.range 4).find? (fun k => !s.keyRevoked k && Config.mlDsaVerify k context msg sig)

/-- RHASYN-FW and RHASYN-GLARE in ASCII (Table 20.1). -/
def ctxFw : List Byte := [0x52, 0x48, 0x41, 0x53, 0x59, 0x4E, 0x2D, 0x46, 0x57]
def ctxGlare : List Byte := [0x52, 0x48, 0x41, 0x53, 0x59, 0x4E, 0x2D, 0x47, 0x4C, 0x41, 0x52, 0x45]

/-- A measurement register extended by a digest, with its count (R561): `o` is its offset, `lo` the lowest bit of its count. -/
def State.measure (s : State) (o lo : Nat) (d : List Byte) : State :=
  let old := (List.range 8).flatMap (fun i => toLe 8 (s.reg (o + 8 * i)).toNat)
  let new := sha3Bytes (old ++ d)
  let s := (List.range 8).foldl (fun (s : State) i => s.setReg (o + 8 * i) (BitVec.ofNat 64 (leAt new (8 * i) 8))) s
  s.count 0xC01C0 (lo + 7) lo 1

/-! ## Units (R501) -/

/-- The rising ranges with [a, b) added. -/
def addUnits (a b : Nat) : List (Nat × Nat) → List (Nat × Nat)
  | [] => if a < b then [(a, b)] else []
  | (c, d) :: l =>
    if b < c then (if a < b then (a, b) :: (c, d) :: l else (c, d) :: l)
    else if d < a then (c, d) :: addUnits a b l
    else addUnits (min a c) (max b d) l

def unitCount (l : List (Nat × Nat)) : Nat := l.foldl (fun n r => n + (r.2 - r.1)) 0

/-- A frame of an object of `total` bytes keeps the rules of R501. -/
def unitsOk (known : Option Nat) (off total len : Nat) : Bool :=
  decide (total % 32 = 0) && decide (total ≤ 33554432) && (match known with
    | some t => decide (t = total)
    | none => true) &&
    decide (off % 32 = 0) && decide (len % 32 = 0) && decide (len ≤ 4064) && decide (off + len ≤ total)

/-- Bytes written to the hub SRAM as whole code words. -/
def State.wrHub (s : State) (b : Nat) (data : List Byte) : State :=
  (s.wrMem (hubKey b) data).withBad (s.bad.filter (fun w => !(decide (hubKey b ≤ w) && decide (w < hubKey b + data.length))))

/-- Bytes [a, b) of the hub SRAM cleared: zeros with a valid code. -/
def State.clearHub (s : State) (a b : Nat) : State :=
  (s.zeroMem (hubKey a) (hubKey b)).withBad (s.bad.filter (fun w => !(decide (hubKey a ≤ w) && decide (w < hubKey b))))

/-! ## The firmware image (R501-R503) -/

def bootStat : Nat := 0x10030
def State.bootState (s : State) : Nat := s.rf bootStat 2 0
def State.bootSource (s : State) : Nat := s.rf bootStat 4 3

/-- The image area. -/
def imageBytes : Nat := 2 ^ 25

/-- Receipt opens for a new attempt: WAITING, no source, no units.
DEDUCED (log entry 52). -/
def State.openReceipt (s : State) : State :=
  let s := (((s.setRf bootStat 2 0 1).setRf bootStat 4 3 0).setRf bootStat 16 8 0).setRf bootStat 57 32 0
  (s.withBoot (s.boot |>.withOpened true |>.withTotal none |>.withUnits []))

/-- A frame of the image from `source` (1 Efnil, 2 fabric) that keeps the rules: its units are written; when all are, receipt closes. -/
def State.takeImage (s : State) (source egress off total : Nat) (data : List Byte) : State :=
  let s := s.wrHub off data
  let units := addUnits (off / 32) ((off + data.length) / 32) s.boot.units
  let s := (s.setRf bootStat 4 3 source).setRf bootStat 57 32 (32 * unitCount units)
  let s := if source = 2 ∧ s.boot.total = none then s.setRf bootStat 16 8 egress else s
  let whole := decide (unitCount units = total / 32)
  let s := s.setRf bootStat 2 0 (if whole then 3 else 2)
  (s.withBoot (s.boot |>.withOpened (!whole) |>.withTotal (some total) |>.withUnits units))

/-- A BOOT_PUSH frame: its status (R431, R501, R502). -/
def State.bootPush (s : State) (off total : Nat) (data : List Byte) : Nat × State :=
  if !s.boot.opened ∨ s.bootSource = 2 then (St.bootClosed, s)
  else if !unitsOk s.boot.total off total data.length then (St.efnLength, s)
  else (0, s.takeImage 1 0 off total data)

/-- A FIRMWARE frame that arrived on an egress (R502). -/
def State.firmware (s : State) (egress off total : Nat) (data : List Byte) : State :=
  if s.boot.opened ∧ s.bootSource = 1 then s
  else if !s.boot.opened ∨ !unitsOk s.boot.total off total data.length then s.count 0x70070 63 48 1
  else s.takeImage 2 egress off total data

/-- The attempt ends with REASON: the area and the record are cleared, and receipt opens again (R503). -/
def State.failImage (s : State) (reason : Nat) : State :=
  let s := s.setRf bootStat 7 5 reason
  let s := if reason = 0 then s else s.count bootStat 31 17 1
  (s.clearHub 0 imageBytes).openReceipt

/-- The image at byte `b` of the hub SRAM: `n` bytes. -/
def State.rdHub (s : State) (b n : Nat) : List Byte := s.rdMem (hubKey b) n

/-- The checks of R503 on an image of TOTAL bytes: REASON of the first failure, or the key, the signed message and FWVER.
DEDUCED (log entry 52). -/
def State.checkImage (s : State) (total : Nat) : Nat ⊕ (Nat × List Byte × Nat) :=
  let h := s.rdHub 0 256
  let body := leAt h 8 4
  let entry := leAt h 12 4
  if leAt h 0 4 ≠ 0x4C414E31 ∨ body % 32 ≠ 0 ∨ total ≠ 4896 + body ∨ entry % 4 ≠ 0 ∨ entry ≥ 256 + body then .inl 1
  else if slice h 64 64 ≠ sha3Bytes (s.rdHub 256 body) then .inl 2
  else
    let msg := sha3Bytes (s.rdHub 0 (256 + body))
    match s.verifyKey ctxFw msg (s.rdHub (256 + body) 4627) with
    | none => .inl 3
    | some k => if leAt h 6 2 < s.rf 0xC0000 15 8 then .inl 3 else .inr (k, msg, leAt h 4 4)

/-! ## The glare package (R549) -/

def glareStat : Nat := 0xB1008
/-- The glare area begins at 0x200_0000 and holds 16 MiB. -/
def glareBase : Nat := 2 ^ 25
def glareBytes : Nat := 2 ^ 24

/-- A GLARE frame (R482, R549): a new OBJECT starts anew and empties the area; during a run it is discarded. -/
def State.glareFrame (s : State) (object off total : Nat) (data : List Byte) : State :=
  if s.glare.run.isSome then s.count 0x70070 63 48 1
  else
    let fresh := decide (s.rf glareStat 2 0 = 0) || decide (s.rf 0xB1010 31 0 ≠ object)
    let known := if fresh then none else s.glare.total
    if !unitsOk known off total data.length ∨ total > glareBytes then s.count 0x70070 63 48 1
    else
      let s := if fresh then
          let s := s.clearHub glareBase (glareBase + glareBytes)
          (((s.setReg 0xB1010 (BitVec.ofNat 64 object)).setRf glareStat 5 3 0).withGlare ⟨some total, [], none⟩)
        else s
      if s.rf glareStat 2 0 ≥ 2 ∧ !fresh then s.count 0x70070 63 48 1
      else
        let s := s.wrHub (glareBase + off) data
        let units := addUnits (off / 32) ((off + data.length) / 32) s.glare.units
        let s := s.setRf glareStat 2 0 (if unitCount units = total / 32 then 2 else 1)
        (s.withGlare (s.glare |>.withTotal (some total) |>.withUnits units))

/-- A BULK_WRITE of `n` bytes at byte `off` of the area, its bytes already in place: at offset 0 it begins a package, and the package is
complete when every unit that its header counts has been written (R549).
DEDUCED (log entry 38). -/
def State.glareBulk (s : State) (off n : Nat) : State :=
  if s.glare.run.isSome then s
  else
    let s := if off = 0 then
        (((s.setReg 0xB1010 0).setRf glareStat 5 3 0).setRf glareStat 2 0 1).withGlare ⟨none, [], none⟩
      else s
    if s.rf glareStat 2 0 ≠ 1 then s
    else
      let units := addUnits ((off + 31) / 32) ((off + n) / 32) s.glare.units
      let total := 4896 + leAt (s.rdHub glareBase 16) 8 4
      let whole := match units with
        | (0, b) :: _ => decide (total / 32 ≤ b)
        | _ => false
      let s := s.setRf glareStat 2 0 (if whole then 2 else 1)
      (s.withGlare (s.glare |>.withTotal (if whole then some total else none) |>.withUnits units))

end Sys2Proof.Machine
end

