-- ==== Sys2Proof/Machine/Fabric.lean ====
section
/-! DEFINITION. Streams as a receiver and sender keep them, acknowledgements, discovery, lost chips, and the Ouvuth registers with rows of
their own (R472-R477, R483-R490). -/
namespace Sys2Proof.Machine

/-! ## Sequence numbers (R473) -/

/-- (b − a) counted over the non-zero sequence numbers. -/
def seqDist (a b : Nat) : Nat := (b % (2 ^ 32 - 1) + (2 ^ 32 - 1) - a % (2 ^ 32 - 1)) % (2 ^ 32 - 1)

/-- The sequence number before one. -/
def seqPrev (n : Nat) : Nat := if n ≤ 1 then 2 ^ 32 - 1 else n - 1

/-- CUM advanced over the accepted sequence numbers that follow it. -/
def advance : Nat → Nat → List Nat → Nat × List Nat
  | 0, cum, got => (cum, got)
  | n + 1, cum, got => if got.contains (seqNext cum) then advance n (seqNext cum) (got.filter (· != seqNext cum)) else (cum, got)

/-! ## Acknowledgements (R473) -/

/-- Sequence numbers inserted by their distance from CUM. -/
def bySeq (cum n : Nat) : List Nat → List Nat
  | [] => [n]
  | x :: xs => if seqDist cum n < seqDist cum x then n :: x :: xs else x :: bySeq cum n xs

/-- The ranges of a rising list of sequence numbers. -/
def seqRanges : List Nat → List (Nat × Nat)
  | [] => []
  | x :: xs => match seqRanges xs with
    | (a, b) :: l => if seqNext x = a then (x, b) :: l else (x, x) :: (a, b) :: l
    | [] => [(x, x)]

/-- An ACK on stream k. -/
def State.sendAck (s : State) (k : Nat) : State :=
  let r := s.rxs k
  let rs := (seqRanges (r.got.foldl (fun l n => bySeq r.cum n l) [])).take 64
  let body := rs.flatMap (fun e => toBe 4 e.1 ++ toBe 4 e.2)
  let b := s.header k 8 (if r.ce then Fl.ce else 0) (body.length / 4) 0 0xFFF 0 0 r.cum 0 ++ body
  (s.sendLoose k b).setRx k (r |>.withFresh 0 |>.withDue false |>.withCe false)

/-- What becomes of a sequenced frame that arrives (R473, R474, R477). -/
inductive Taken where
  | accepted (s : State)
  | dropped (s : State)

/-- A NOTICE of this chip, not sequenced. -/
def State.sendNotice (s : State) (k kind arg : Nat) : State :=
  s.sendLoose k (s.header k 7 0 4 0 0xFFF 0 0 0 0 ++ (toBe 1 kind ++ toBe 3 0 ++ toBe 4 arg ++ toBe 8 0))

/-- The sequenced frame with number `seq` on stream k; `can` says that what it needs can be taken, and otherwise the drop is counted at bit `full`
of OUV_ERR2; `ce` that it arrived with CE. -/
def State.takeSeq (s : State) (k seq : Nat) (ce can : Bool) (full : Nat) : Taken :=
  let r := s.rxs k
  match r.inc with
  | none =>
    let recent := match r.resyncAt with
      | some t => decide (s.now < 40000 + t)
      | none => false
    if recent then .dropped s
    else .dropped ((s.sendNotice k 3 s.inc).setRx k (r.withResyncAt (some s.now)))
  | some _ =>
    let d := seqDist r.cum seq
    if d = 0 ∨ d ≥ 2 ^ 31 ∨ (d ≤ 4096 ∧ r.got.contains seq) then .dropped ((s.count 0x70068 31 16 1).sendAck k)
    else if d > 4096 then .dropped (s.count 0x70068 47 32 1)
    else if !can then .dropped (s.count 0x70070 (full + 15) full 1)
    else
      let (cum, got) := advance (r.got.length + 1) r.cum (seq :: r.got)
      let s := s.setRx k (r |>.withCum cum |>.withGot got |>.withFresh (r.fresh + 1) |>.withDue true |>.withCe (r.ce || ce))
      .accepted (if r.fresh + 1 ≥ 16 then s.sendAck k else s)

/-! ## Streams that end (R477, R482, R486) -/

/-- The operations outstanding toward chip k complete with a status. -/
def State.failOps (s : State) (k status : Nat) : State :=
  (s.net.ops.filter (fun o => o.chip == k && o.done.isNone)).foldl (fun (s : State) o => s.answerOp o ⟨status, [], 0, false⟩) s

/-- The frame is one of a multicast job of this chip, the root of its tree. -/
def State.ofJob (s : State) (f : TxFrame) : Bool :=
  match f.tree with
  | some t => s.rb (treeReg t 0) 1
  | none => false

/-- A multicast job whose frames were on stream k has lost a child (R482).
DEDUCED (log entry 33). -/
def State.loseTree (s : State) (k : Nat) : State :=
  let x := s.txs k
  if (x.una ++ x.wait).any (fun f => s.ofJob f) then
    match s.net.copies with
    | j :: l => s.withNet (s.net.withCopies ((j.withLost true) :: l))
    | [] => s
  else s

/-- Responses owed on stream k, and tags held for its frames, are given up. -/
def State.dropOwed (s : State) (k : Nat) : State :=
  s.withNet (s.net.withOwed (s.net.owed.filter (fun o => decide (o.2.1 / 2 ^ 32 ≠ k))))

/-- The send state of stream k begins anew. -/
def State.resetTx (s : State) (k : Nat) : State := ((s.loseTree k).dropOwed k).setTx k TxStream.init

/-- OUV_LOST_MAP. -/
def State.setLost (s : State) (c : Nat) (b : Bool) : State := s.setRb (0x74000 + c / 64 * 8) (c % 64) b

/-- Chip c is declared lost (R486). -/
def State.declareLost (s : State) (c : Nat) : State :=
  if s.isLost c ∨ c ≥ 0x3FFF then s
  else
    let s := (s.setLost c true).count 0x70060 47 32 1
    let s := ((s.failOps c St.homeLost).resetTx c).setRx c RxStream.init
    s.postOuv 5 0 0xFFFF c []

/-- The egresses that chip c's entry names, the torus's included; none when it has no route. -/
def State.egressList (s : State) (c : Nat) : Option (List Nat) := s.routes c

/-- Chip c can be reached through no egress: none of its entry has its link up and its neighbour KNOWN (R486). -/
def State.unreachable (s : State) (c : Nat) : Bool :=
  match s.egressList c with
  | some l => !l.any (fun e => s.linkUp e && decide (s.neigh e = 2))
  | none => false

/-- The chips whose entries have been written. -/
def State.routedChips (s : State) : List Nat :=
  (s.regs.filter (fun e => decide (0x100000 ≤ e.1) && decide (e.1 < 0x120000))).map (fun e => (e.1 - 0x100000) / 8)

/-- Chips that an egress served and that have become unreachable are declared lost.
DEDUCED (log entry 48). -/
def State.checkLost (s : State) (e : Nat) : State :=
  s.routedChips.foldl (fun (s : State) c =>
    if c ≠ s.chipInForce ∧ ((s.egressList c).getD []).contains e ∧ s.unreachable c then s.declareLost c else s) s

/-! ## Discovery (R483-R485) -/

/-- An egress number of a fabric or storage sub-port. -/
def ouvEgress (e : Nat) : Bool := decide (e < 272)

/-- OUV_DIGEST. -/
def State.digest (s : State) : List Byte := (List.range 4).flatMap (fun i => toLe 8 (s.reg (0x70018 + 8 * i)).toNat)

/-- The digest in this chip's hellos: 0 in boot mode (R502). -/
def State.ownDigest (s : State) : List Byte := if s.bootMode then List.replicate 32 0 else s.digest

/-- SEC_SERIAL. -/
def State.serial (s : State) : List Byte := toLe 8 (s.reg 0xC0078).toNat ++ toLe 8 (s.reg 0xC0080).toNat

def hChip (h : List Byte) : Nat := beAt h 0 2 % 2 ^ 14
def hSeen (h : List Byte) : Bool := decide (beAt h 6 1 / 2 % 2 = 1)
def hAssigned (h : List Byte) : Bool := decide (beAt h 6 1 % 2 = 1)
def hInc (h : List Byte) : Nat := beAt h 12 4
def hSerial (h : List Byte) : List Byte := slice h 16 16
def hDigest (h : List Byte) : List Byte := slice h 32 32

/-- 350 ms in qns. -/
def helloLife : Nat := 1400000000

/-- A hello arrived on the link within 350 ms (Table 16.6). -/
def State.seen (s : State) (e : Nat) : Bool :=
  match (s.sub e).hello with
  | some h => decide (s.now < h.time + helloLife)
  | none => false

/-- The hello payload (Table 16.6), with the chip number in force (R38). -/
def State.helloBody (s : State) (e : Nat) : List Byte :=
  toBe 2 s.myChip ++ toBe 2 e ++ toBe 2 (s.rf 0x70008 11 0) ++
    toBe 1 (s.assigned.toNat + (s.seen e).toNat * 2 + (if s.neigh e = 3 then 4 else 0) + (if s.bootMode then 8 else 0)) ++
    toBe 1 (s.rf (egSub e 0) 21 20 + 16 * (s.rb 0x90018 32).toNat + 32 * s.uncertain.toNat) ++
    toBe 4 (s.rf 0x70008 63 32) ++ toBe 4 s.inc ++ s.serial ++ s.ownDigest

/-- A hello leaves on egress e, unless its link is DOWN. -/
def State.sendHello (s : State) (e : Nat) : State :=
  if ouvEgress e && s.subUsed e && decide (s.neigh e ≠ 0) then
    let k := 0x4000 + e
    let s := s.setSub e ((s.sub e).withHelloAt s.now)
    s.sendLoose k (s.header k 9 0 16 0 0xFFF 0 0 0 0 ++ s.helloBody e)
  else s

/-- A hello at once on every sub-port. -/
def State.helloAll (s : State) : State := (List.range 272).foldl (fun s e => s.sendHello e) s

/-- Frames that wait on any stream begin transmission where they may. -/
def State.pumpStreams (s : State) : State := s.net.tx.foldl (fun (s : State) e => s.pumpAll e.1) s

/-- OUV_EGRESS[e] STATE set, with the event of the change (R483, R488): KNOWN 1, LOST 2, QUARANTINE 3, QUARANTINE_LIFTED 4. A link that
leaves KNOWN may leave chips unreachable.
DEDUCED (log entry 48). -/
def State.moveNeigh (s : State) (e st reason : Nat) : State :=
  let old := s.neigh e
  let r := egReg e 0x18
  let s := (s.setRf r 1 0 st).setRf r 7 4 (if st = 3 then reason else 0)
  if old = st then s
  else
    let serial := ((s.sub e).hello.map (fun h => hSerial h.bytes)).getD []
    let ev := if st = 2 then 1 else if st = 3 then 3 else if old = 3 ∧ st = 1 then 4 else if st = 0 ∨ old = 2 then 2 else 0
    let s := if ev = 0 then s else s.postOuv ev (if st = 3 then reason else 0) e (s.rf r 21 8) serial
    if old = 2 then s.checkLost e else if st = 2 then s.pumpStreams else s

/-- Why a hello fails: 1 digest, 2 duplicate chip number; 0 when it passes (R484). -/
def State.helloFault (s : State) (h : List Byte) : Nat :=
  if hDigest h ≠ s.ownDigest then 1
  else if s.assigned ∧ hAssigned h ∧ hChip h = s.myChip then 2
  else 0

/-- A link is judged by a hello; `last` is the hello before it. -/
def State.judgeHello (s : State) (e : Nat) (h : List Byte) (last : Option Hello) : State :=
  let st := s.neigh e
  let why := s.helloFault h
  let changed : Bool := match last with
    | some p => decide (hChip p.bytes ≠ hChip h ∨ hSerial p.bytes ≠ hSerial h ∨ hInc p.bytes ≠ hInc h)
    | none => false
  if st = 0 then s
  else if why ≠ 0 then s.moveNeigh e 3 why
  else if st = 3 then s.moveNeigh e 1 0
  else if decide (st = 2) && changed then s.moveNeigh e 1 0
  else if st = 1 ∧ hSeen h then s.moveNeigh e 2 0
  else s

/-- A link is judged again by the last hello received on it, once the digest has changed (R485).
DEDUCED (log entry 48). -/
def State.judgeAgain (s : State) (e : Nat) (h : List Byte) : State :=
  let why := s.helloFault h
  if s.neigh e = 0 then s
  else if why ≠ 0 then s.moveNeigh e 3 why
  else if s.neigh e = 3 then s.moveNeigh e 1 0
  else s

/-- A hello arrives on egress e: it is kept, the neighbour's registers follow it, and the link is judged. -/
def State.hearHello (s : State) (e : Nat) (h : List Byte) : State :=
  let p := s.sub e
  let last := p.hello
  let s := s.setSub e (p.withHello (some ⟨h, s.now⟩))
  let r := egReg e 0x18
  let s := ((s.setRf r 21 8 (hChip h)).setRb r 22 (hAssigned h)).setRf r 63 32 (hInc h)
  s.judgeHello e h last

/-- The time from one hello to the next: 1 ms in PROBING, 100 ms in KNOWN and QUARANTINED (R483). -/
def State.helloEvery (s : State) (e : Nat) : Nat := if s.neigh e = 1 then 4000000 else 400000000

/-- HELLO_TIMER: a link that is not DOWN sends its hello when it is due. -/
def execHelloTimer (e : Nat) (s : State) : Out :=
  if e ≥ 272 then .fault (.noSuchUnit "egress")
  else .next (if (s.sub e).helloAt + s.helloEvery e ≤ s.now then s.sendHello e else s)

/-- No hello for 350 ms: KNOWN becomes PROBING (R483). -/
def execNeighbourTimeout (e : Nat) (s : State) : Out :=
  if e ≥ 272 then .fault (.noSuchUnit "egress")
  else .next (if s.neigh e = 2 && !s.seen e then s.moveNeigh e 1 0 else s)

/-! ## The front frame -/

/-- The frame waiting longest for the Ouvuth engine. -/
def State.ouvFront (s : State) : Option InFrame := s.net.ouvIn.head?

def State.popOuv (s : State) : State := s.withNet (s.net.withOuvIn (s.net.ouvIn.drop 1))

/-- The stream a frame arrives on: its source's, or the link's for DST_CHIP 0x3FFF (R472). -/
def streamOf (f : InFrame) : Nat := if hDst f.bytes = 0x3FFF then 0x4000 + f.egress else hSrc f.bytes

/-- The frame is addressed to this chip. -/
def State.forMe (s : State) (b : List Byte) : Bool := decide (hDst b = 0x3FFF ∨ hDst b = s.myChip)

/-- The payload of a frame, without header and trailer. -/
def ouvPayload (b : List Byte) : List Byte := (b.drop 32).take (b.length - 36)

/-- A frame of this chip with the given op in front, taken from the queue. -/
def State.takeFrame (s : State) (p : List Byte → Bool) : Option (InFrame × State) :=
  match s.ouvFront with
  | some f => if s.forMe f.bytes && p f.bytes then some (f, s.popOuv) else none
  | none => none

/-- The frame is dropped or discarded, and counted in OUV_ERR2.BAD. -/
def State.badFrame (s : State) : State := s.count 0x70070 63 48 1

/-- A reserved bit of the header is not 0. -/
def headerReserved (b : List Byte) : Bool := decide (hFlags b % 2 = 1 ∨ beAt b 4 4 / 8 % 2 = 1)

/-- A notice that Table 16.3 does not give.
DEDUCED (log entry 47). -/
def noticeBad (b : List Byte) : Bool :=
  let p := ouvPayload b
  headerReserved b || decide (p.length ≠ 16 ∨ beAt p 0 1 = 0 ∨ beAt p 0 1 > 4 ∨ beAt p 1 1 > 63 ∨ beAt p 2 1 > 1 ∨ beAt p 3 1 ≠ 0)

/-- An unsequenced frame with a payload that its op does not give, or with a reserved bit of the header set (R468, R470).
DEDUCED (log entry 47). -/
def looseBad (b : List Byte) : Bool :=
  let n := (ouvPayload b).length
  if hOp b = 7 then noticeBad b
  else headerReserved b || (if hOp b = 8 then decide (n % 8 ≠ 0 ∨ n > 512) else decide (n ≠ if hOp b = 9 then 64 else 8))

/-- HELLO (R483, R484). -/
def execHello (s : State) : Out :=
  match s.takeFrame (fun b => decide (hOp b = 9)) with
  | some (f, s) => .next (if looseBad f.bytes then s.badFrame else s.hearHello f.egress (slice (ouvPayload f.bytes) 0 64))
  | none => .next s

/-! ## SYNC and RESYNC (R477) -/

/-- Chip k has reset: its operations end with OUV_PEER_RESET, what is owed to it is discarded, and the send stream begins anew.
DEDUCED (log entry 45). -/
def State.peerReset (s : State) (k : Nat) : State :=
  ((s.failOps k St.ouvPeerReset).resetTx k).postOuv 6 0 0xFFFF (if k < 0x4000 then k else 0x3FFF) []

/-- The receive state of stream k follows a SYNC. -/
def State.hearSync (s : State) (k inc first : Nat) : State :=
  s.setRx k (RxStream.init |>.withInc (some inc) |>.withCum (seqPrev first))

/-- A SYNC that is none of Table 16.3's is answered with OUV_LENGTH (R470); such an answer is discarded.
DEDUCED (log entry 47). -/
def State.refuseSync (s : State) (b : List Byte) (k : Nat) : State :=
  if hResp b then s.badFrame else s.sendLoose k (s.header k 0x0A Fl.resp 0 0 0xFFF St.ouvLength 0 0 0)

/-- A SYNC arrives. The answer to this chip's own SYNC at the first exchange ends no operation.
DEDUCED (log entry 45). -/
def execSync (s : State) : Out :=
  match s.takeFrame (fun b => decide (hOp b = 0x0A)) with
  | none => .next s
  | some (f, s) =>
    let k := streamOf f
    let inc := beAt (ouvPayload f.bytes) 0 4
    let first := beAt (ouvPayload f.bytes) 4 4
    let held := (s.rxs k).inc
    let full := s.bootMode && held.isNone && decide ((s.net.rx.filter (fun e => e.2.inc.isSome)).length ≥ 64)
    if looseBad f.bytes then .next (s.refuseSync f.bytes k)
    else if full then .next s
    else
      let resp := hResp f.bytes
      let s := if held = some inc then s
        else
          let s := if resp && held.isNone then s else s.peerReset k
          s.hearSync k inc first
      if resp then
        let x := s.txs k
        if x.synced then .next s
        else .next (((s.count 0x70060 63 48 1).setTx k (x |>.withSynced true |>.withSyncSends 0 |>.withCwnd 4096)).pumpAll k)
      else
        let s := s.sendSync k true
        let x := s.txs k
        .next (if held = some inc then s
          else ((s.count 0x70060 63 48 1).setTx k (x |>.withSynced true |>.withSyncSends 0 |>.withCwnd 4096)).pumpAll k)

/-- A RESYNC completes the operations outstanding toward its sender, and SYNC goes out (R477).
DEDUCED (log entry 45). -/
def execResync (s : State) : Out :=
  match s.takeFrame (fun b => decide (hOp b = 7 ∧ beAt b 32 1 = 3) && !hResp b) with
  | none => .next s
  | some (f, s) =>
    let k := streamOf f
    let s := if looseBad f.bytes then s.badFrame else s.peerReset k
    if s.net.quiet || looseBad f.bytes then .next s
    else
      let s := s.sendSync k false
      .next (s.setTx k ((s.txs k) |>.withSyncSends 1 |>.withSyncAt s.now))

/-- 4 ms after a reset, sequenced frames may leave: streams with frames that wait begin with SYNC (R477). -/
def execResetQuietEnd (s : State) : Out :=
  if s.now < s.net.resetAt + 16000000 then .next s
  else
    let s := s.withNet (s.net.withQuiet false)
    .next (s.net.tx.foldl (fun (s : State) e =>
      let x := s.txs e.1
      if !x.wait.isEmpty && !x.synced && decide (x.syncSends = 0) && s.ouvRuns then
        let s := s.sendSync e.1 false
        s.setTx e.1 ((s.txs e.1) |>.withSyncSends 1 |>.withSyncAt s.now)
      else s.pumpAll e.1) s)

/-! ## ACK and retransmission (R475, R476) -/

/-- A frame leaves again: RETX, its salt raised (R475). -/
def State.resend (s : State) (k : Nat) (f : TxFrame) : State :=
  let x := s.txs k
  let b := setHopsFlags f.bytes (hHops f.bytes) (hFlags f.bytes ||| Fl.retx)
  let g := f |>.withBytes b |>.withSalt (f.salt + 1) |>.withSends (f.sends + 1) |>.withLast s.now |>.withOrder x.order
  match s.streamEgress k (hAddr b) (x.salt + g.salt) b with
  | none => s
  | some e =>
    let s := s.setTx k (x |>.withUna (x.una.map (fun h => if h.seq = f.seq then g else h)) |>.withOrder (x.order + 1))
    (s.count 0x70060 31 0 1).queueOuv e b (x.salt + g.salt) none none

/-- The ranges of an ACK. -/
def ackRanges (p : List Byte) : List (Nat × Nat) := (List.range (min 64 (p.length / 8))).map (fun i => (beAt p (8 * i) 4, beAt p (8 * i + 4) 4))

/-- An ACK covers a sequence number. -/
def ackCovers (cum : Nat) (rs : List (Nat × Nat)) (n : Nat) : Bool :=
  decide (seqDist n cum < 2 ^ 31) || rs.any (fun r => decide (seqDist r.1 n ≤ seqDist r.1 r.2))

/-- Frames that an ACK covers are released: the operations they complete, and the tags of responses. -/
def State.release (s : State) (k : Nat) (fs : List TxFrame) : State :=
  let s := s.withNet (s.net.withOwed (s.net.owed.filter (fun o => !fs.any (fun f => decide (o.2.1 = 2 ^ 32 * k + f.seq) && o.2.2.isEmpty))))
  fs.foldl (fun (s : State) f =>
    match f.acks.bind s.netOp with
    | some o => s.answerOp o ⟨0, [], 0, false⟩
    | none => s) s

/-- CWND after an ACK (R475). -/
def TxStream.window (x : TxStream) (ce : Bool) (now : Nat) : TxStream :=
  if ce then
    let recent := match x.cutAt with
      | some t => decide (now < 80000 + t)
      | none => false
    if recent then x else x |>.withCwnd (max 16 (x.cwnd / 2)) |>.withCutAt (some now)
  else x.withCwnd (min 4096 (x.cwnd + 1))

/-- An ACK arrives (R473, R475). -/
def execAck (s : State) : Out :=
  match s.takeFrame (fun b => decide (hOp b = 8)) with
  | none => .next s
  | some (f, s) =>
    let k := streamOf f
    let rs := ackRanges (ouvPayload f.bytes)
    let x := s.txs k
    if looseBad f.bytes then .next s.badFrame else
    let covered := x.una.filter (fun g => ackCovers (hSeq f.bytes) rs g.seq)
    let rest := x.una.filter (fun g => !ackCovers (hSeq f.bytes) rs g.seq)
    let s := s.setTx k ((x.withUna rest).window (hCe f.bytes) s.now)
    let s := s.release k covered
    let late := rest.filter (fun g => decide ((covered.filter (fun h => h.order > g.order)).length ≥ 8))
    let s := late.foldl (fun (s : State) g => s.resend k g) s
    .next (s.pumpAll k)

/-- An acknowledgement of accepted frames is due (R473). -/
def execAckTimer (k : Nat) (s : State) : Out := .next (if (s.rxs k).due then s.sendAck k else s)

/-- RTO_US has passed since the last transmission of the oldest such frame, or of SYNC (R475, R477). -/
def execOuvRetransmit (k : Nat) (s : State) : Out :=
  let x := s.txs k
  if !x.synced && decide (x.syncSends > 0) then
    if x.syncAt + s.rto ≤ s.now ∧ x.syncSends ≤ s.retries then
      let s := s.sendSync k false
      .next (s.setTx k ((s.txs k) |>.withSyncSends (x.syncSends + 1) |>.withSyncAt s.now))
    else .next s
  else match x.una.find? (fun f => decide (f.last + s.rto ≤ s.now ∧ f.sends ≤ s.retries)) with
    | some f => .next (s.resend k f)
    | none => .next s

/-- The chip at the far end of stream k: for the stream of an egress, its neighbour when that is assigned. -/
def State.farChip (s : State) (k : Nat) : Option Nat :=
  if k < 0x4000 then some k
  else if s.rb (egReg (k - 0x4000) 0x18) 22 then some (s.rf (egReg (k - 0x4000) 0x18) 21 8) else none

/-- A frame, or SYNC, has been sent 1 + RETRIES times and the last has gone RTO_US without an ACK: the chip is declared lost (R476). -/
def execRetryLimit (k : Nat) (s : State) : Out :=
  let x := s.txs k
  let past := x.una.any (fun f => decide (f.sends ≥ 1 + s.retries ∧ f.last + s.rto ≤ s.now)) ||
    (!x.synced && decide (x.syncSends ≥ 1 + s.retries ∧ x.syncAt + s.rto ≤ s.now))
  if !past then .next s
  else
    let s := if k ≥ 0x4000 then (s.resetTx k).setRx k RxStream.init else s
    match s.farChip k with
    | some c => .next (s.declareLost c)
    | none => .next s

/-! ## UNREACHABLE, transit (R480, R485) -/

/-- UNREACHABLE raises the salt of the stream to the chip it names (R485). -/
def execUnreachable (s : State) : Out :=
  match s.takeFrame (fun b => decide (hOp b = 7 ∧ beAt b 32 1 = 4) && !hResp b) with
  | none => .next s
  | some (f, s) =>
    let c := beAt (ouvPayload f.bytes) 4 4 % 2 ^ 14
    let x := s.txs c
    .next (if looseBad f.bytes then s.badFrame else s.setTx c (x.withSalt (x.salt + 1)))

/-- UNREACHABLE to the source of a frame, at most once in 10 µs for a pair of chips. -/
def State.tellUnreachable (s : State) (src dst reason : Nat) : State :=
  if s.net.unreach.any (fun u => u.1 == src && u.2.1 == dst && decide (s.now < 40000 + u.2.2)) then s
  else
    let s := s.withNet (s.net.withUnreach ((src, dst, s.now) :: s.net.unreach.filter (fun u => !(u.1 == src && u.2.1 == dst))))
    s.sendNotice src 4 (dst + 2 ^ 16 * reason)

/-- A frame for another chip is forwarded, or dropped (R480).
DEDUCED (log entry 48). -/
def execOuvTransit (s : State) : Out :=
  match s.ouvFront with
  | none => .next s
  | some f =>
    if s.forMe f.bytes then .next s
    else
      let s := s.popOuv
      let b := f.bytes
      if hHops b = 0 then .next ((s.count 0x70070 31 16 1).tellUnreachable (hSrc b) (hDst b) 2)
      else match s.egressFor (hDst b) (hSrc b) (hAddr b) 0 true b with
        | some (some e) => .next (s.queueOuv e (setHopsFlags b (hHops b - 1) (hFlags b)) 0 (some f.tc) (some f.time))
        | _ => .next (s.tellUnreachable (hSrc b) (hDst b) 1)

/-- A transit frame that has waited 100 µs is dropped (R480). -/
def execTransitAge (e : Nat) (s : State) : Out :=
  let p := s.sub e
  match findPos (fun (f : OutFrame) => match f.born with
      | some t => decide (400000 + t ≤ s.now)
      | none => false) p.egress with
  | some i => .next ((s.setSub e (p.withEgress (dropAt p.egress i))).count 0x70070 15 0 1)
  | none => .next s

/-! ## Registers with rows of their own (R485-R489) -/

/-- A write of OUV_LOST_CLEAR: the mark clears; an entry that still has no way sets it again (R486).
DEDUCED (log entry 48). -/
def State.judgeLostClear (s : State) (v : W64) : Nat × State :=
  let c := fld v 13 0
  if !s.isLost c then (0, s)
  else
    let s := s.setLost c false
    (0, if s.unreachable c then s.declareLost c else s)

def execOuvLostClear (v : W64) (s : State) : Out := regRow s 0x70040 (fun s => s.judgeLostClear v)

/-- A write of OUV_MANIFEST starts hashing (R485, R489). -/
def State.judgeManifest (s : State) (v : W64) : Nat × State :=
  let off := fld v 25 0
  let n := fld v 55 32
  if s.rb 0x70010 26 then (St.ouvBusy, s)
  else if off % 64 ≠ 0 ∨ n = 0 ∨ off + n > 2 ^ 26 then (St.paramRange, s)
  else (0, (s.setRb 0x70010 26 true).withNet (s.net.withManifest (some (off, n))))

def execOuvManifest (v : W64) (s : State) : Out := regRow s 0x70010 (fun s => s.judgeManifest v)

/-- The digest is ready: BUSY clears, MEAS_MANIFEST is extended, and when the digest has changed every link is judged again and says so in a
hello (R483, R485, R561). -/
def execManifestHashDone (s : State) : Out :=
  match s.net.manifest with
  | none => .next s
  | some (off, n) =>
    let d := sha3Bytes (s.rdHub off n)
    let old := s.digest
    let s := (s.setRb 0x70010 26 false).withNet (s.net.withManifest none)
    let s := (List.range 4).foldl (fun (s : State) i => s.setReg (0x70018 + 8 * i) (BitVec.ofNat 64 (leAt d (8 * i) 8))) s
    let s := s.measure 0xC0140 8 d
    if s.digest = old then .next s
    else
      let s := (List.range 272).foldl (fun (s : State) e =>
        match (s.sub e).hello with
        | some h => s.judgeAgain e h.bytes
        | none => s) s
      .next s.helloAll

/-- A write of RELEASE to recall record k sends LOAN_RELEASE to the lender (R487). -/
def State.judgeRelease (s : State) (k : Nat) (v : W64) : Nat × State :=
  let o := recallReg k 0
  if !bit v 1 ∨ !s.rb o 0 then (0, s)
  else (0, s.sendRelease k)

def execRelease (k : Nat) (s : State) : Out :=
  if k ≥ 64 then .fault (.noSuchUnit "recall record") else regRow s (recallReg k 0) (fun s => s.judgeRelease k 2)

/-- DEADLINE of a recall record has passed (R487). -/
def execRecallDeadline (k : Nat) (s : State) : Out :=
  if k ≥ 64 then .fault (.noSuchUnit "recall record")
  else .next (if s.rb (recallReg k 0) 0 ∧ (s.reg (recallReg k 0x10)).toNat ≤ s.now then s.setRb (recallReg k 0) 0 false else s)

end Sys2Proof.Machine
end

