-- ==== Sys2Proof/Machine/TileRfu.lean ====
section
/-! DEFINITION. RFU instructions and SELECT (R94-R97, R145-R152). -/
namespace Sys2Proof.Machine

/-- The BSEL values that Table 4.13 allows for a function; none for a reserved function. -/
def rfuBsel (fn : Nat) : List Nat :=
  if fn ≤ 0x06 then [1, 2] else if fn ≤ 0x14 then [0] else if fn = 0x15 then [1] else []

/-- The function has C rows. -/
def rfuCRows (fn : Nat) : Bool := decide (fn = 0x03)
/-- The function has state slots in RING_C. -/
def rfuSlots (fn : Nat) : Bool := decide (0x12 ≤ fn ∧ fn ≤ 0x15)
def rfuScan (fn : Nat) : Bool := decide (0x13 ≤ fn ∧ fn ≤ 0x15)

/-- SUB is one that Table 4.13 allows for the function. -/
def rfuSubOk (fn sub : Nat) : Bool :=
  if fn = 0x06 then decide (sub < 6) else if fn = 0x12 then decide (sub < 16) else if rfuScan fn then true
  else decide (sub = 0)

/-- The scan takes a lane mask from registers: MASKEN. -/
def rfuMasken (w : W64) : Bool := rfuScan (fld w 51 46) && decide (fld w 5 0 ≥ 32)

/-- The checks of an RFU at issue, in order (R145-R150, R593). POPB without B rows is not judged.
DEDUCED (log entry 65). -/
def rfuChecks (x : Tile) (c : Nat) (w : W64) : List (Bool × Nat) :=
  let fn := fld w 51 46
  let sub := fld w 5 0
  let bsel := fld w 27 26
  let ra := x.ring c (fld w 45 42)
  let rb := x.ring c (fld w 36 33)
  let rd := x.ring c (fld w 25 22)
  let rc := x.ring c (fld w 16 13)
  let cc := x.ring c (sub % 16)
  let oa := xr x c (fld w 41 37)
  let ob := xr x c (fld w 32 28)
  let oc := xr x c (fld w 12 8)
  let n := xr x c (fld w 21 17)
  let useB := decide (bsel = 1)
  let useC := rfuCRows fn || rfuSlots fn
  let smx := decide (fn = 0x12)
  let intF (r : Ring) := decide (r.fmt > 6)
  [ (!(rfuBsel fn).contains bsel || !rfuSubOk fn sub, Exc.illegalField),
    (!ra.on || !rd.on || useB && !rb.on || useC && !rc.on || smx && !cc.on, Exc.ringOff),
    (intF ra || intF rd || useB && intF rb || useC && intF rc || smx && decide (cc.fmt ≠ 0), Exc.ringFmt),
    (decide (n > 4096), Exc.rfuCount),
    (decide (oa % 32 ≠ 0) || useB && decide (ob % 32 ≠ 0) || useC && decide (oc % 32 ≠ 0), Exc.spadAlign),
    (decide (oa + n * fmtBytes ra.fmt 64 > ra.size) || useB && decide (ob + n * fmtBytes rb.fmt 64 > rb.size) ||
      rfuCRows fn && decide (oc + n * fmtBytes rc.fmt 64 > rc.size) || rfuSlots fn && decide (oc + 8 * n > rc.size),
      Exc.ringRange),
    (bit w 7 && (ra.isStatic || decide (oa ≠ 0)) || bit w 6 && useB && (rb.isStatic || decide (ob ≠ 0)), Exc.ringPop),
    (rfuSlots fn && !rc.isStatic, Exc.ringMode),
    (rfuMasken w && decide (sub % 32 > 30), Exc.illegalField) ]

/-- The RFU instruction as it enters its queue. -/
def rfuEntry (x : Tile) (c : Nat) (w : W64) : RfuOp :=
  let m := fld w 5 0 % 32
  let ob := xr x c (fld w 32 28)
  ⟨false, w, (x.ctx c).pc, xr x c (fld w 21 17), 0, xr x c (fld w 41 37), ob, xr x c (fld w 12 8), ob,
    if rfuMasken w then xr x c m + 2 ^ 32 * xr x c (m + 1) else 0, false, ⟨0, 0, none⟩, ⟨0, 0, none⟩⟩

/-- RFU is checked at issue and enters the RFU queue (R145-R150, R593). -/
def execRfu (t : Nat) (s : State) : Out :=
  issueOp 0x28 t s (fun s _ c w _ =>
    let x := s.tile t
    checked (rfuChecks x c w)
      (if xr x c (fld w 21 17) = 0 then .go s
       else if x.u.rfuQ.length ≥ 4 then .wait 0x3008
       else .go (s.setTile t (x.withU (x.u.withRfuQ (x.u.rfuQ ++ [rfuEntry x c w]))))))

/-- The binary32 code of a source element: its exact value; a signalling NaN stays one (R147). -/
def toB32 (f code : Nat) : Nat :=
  if f = 0 then code
  else match decodeFloat f code with
    | .nan true => 0x7FA00000
    | .nan false => canonNan 0
    | v => (toFloat 0 .nearEven v).1

/-- Row `k` of a ring's rows at an offset from HEAD, as binary32 codes. -/
def rfuRow (x : Tile) (r : Ring) (off k : Nat) : List Nat :=
  let b := fmtBytes r.fmt 64
  let bs := x.rdRing r (off + k * b) b
  (List.range 64).map (fun i => toB32 r.fmt (unpackElem r.fmt bs i))

/-- One lane of an elementwise function (Table 4.13). -/
def rfuLane (rm : Rm) (fn sub a b cc : Nat) : Nat × Nat :=
  match fn with
  | 0x00 => fAdd rm a b
  | 0x01 => fSub rm a b
  | 0x02 => fMul rm a b
  | 0x03 => fFma rm a b cc
  | 0x04 => fMinMax false a b
  | 0x05 => fMinMax true a b
  | 0x06 => fCmp sub a b
  | _ => rfuUnary rm fn a

/-- What one row gives: the binary32 results for RING_D, the c value of SMX, the new state slot (bytes 0-3, and 4-7 for SMX), and
the flags. -/
structure RowOut where
  out : List Nat
  cval : List Nat
  slot : List Nat
  fl : Nat

/-- The result of one row (R95-R97, R146). -/
def rfuRowOut (x : Tile) (c : Nat) (op : RfuOp) : RowOut :=
  let w := op.word
  let rm := x.rm c
  let fn := fld w 51 46
  let sub := fld w 5 0
  let a := rfuRow x (x.ring c (fld w 45 42)) op.offA op.row
  let b := if fld w 27 26 = 1 then rfuRow x (x.ring c (fld w 36 33)) op.offB op.row else List.replicate 64 op.scalar
  let rc := x.ring c (fld w 16 13)
  let slot := x.rdRing rc (op.offC + 8 * op.row) 8
  if fn = 0x10 then let r := rowSum rm a; ⟨[r.1], [], [], r.2⟩
  else if fn = 0x11 then let r := rowMax a; ⟨[r.1], [], [], r.2⟩
  else if fn = 0x12 then
    let r := smxRow rm a (leAt slot 0 4) (leAt slot 4 4)
    ⟨r.1, [r.2.1], [r.2.2.1, r.2.2.2.1], r.2.2.2.2⟩
  else if rfuScan fn then
    let lin := decide (fn = 0x15)
    let r := scanRow rm (fn - 0x13) (if lin then a else []) (if lin then b else a) op.mask (leAt slot 0 4)
    ⟨r.1, [], [r.1.getD 63 0], r.2⟩
  else
    let cr := if rfuCRows fn then rfuRow x rc op.offC op.row else []
    let o := (List.range 64).map (fun i => rfuLane rm fn sub (a.getD i 0) (b.getD i 0) (cr.getD i 0))
    ⟨o.map (·.1), [], [], orFlags o⟩

/-- Bytes of further credit that an output run needs for `n` more bits (whole 32 B chunks). -/
def outNeed (o : OutRun) (n : Nat) : Nat := 32 * (ceilDiv (o.bits + n) 256 - ceilDiv o.bits 256)

/-- Codes of a format appended to an output run in ring `ri`: complete chunks are written and passed to the ring, the rest stays
reserved; at the end of the instruction the rest is padded with zeros (R149, R151). -/
def outPush (x : Tile) (c ri f : Nat) (o : OutRun) (codes : List Nat) (last : Bool) : Tile × OutRun :=
  let w := fmtWidth f
  let acc := o.acc + 2 ^ o.bits * codes.foldr (fun v a => v % 2 ^ w + 2 ^ w * a) 0
  let bits0 := o.bits + w * codes.length
  let bits := if last then roundUp bits0 256 else bits0
  -- the chunk already reserved, when it completes
  let (x, acc, bits) := match o.resv with
    | some id =>
      if bits ≥ 256 then
        let r := x.ring c ri
        let x := x.wrRing r (resvOff r.resv id) (toLe 32 acc)
        (x.setRing c ri ((r.hold id 32).finish id), acc / 2 ^ 256, bits - 256)
      else (x.setRing c ri ((x.ring c ri).hold id (ceilDiv bits 8)), acc, bits)
    | none => (x, acc, bits)
  let keepId := if bits0 < 256 ∧ !last then o.resv else none
  -- further complete chunks
  let whole := 32 * (bits / 256)
  let x := if whole = 0 then x else x.append .rfu c ri (toLe whole acc)
  let acc := acc / 2 ^ (8 * whole)
  let bits := bits - 8 * whole
  if bits = 0 then (x, ⟨0, 0, none⟩)
  else match keepId with
    | some id => (x, ⟨acc, bits, some id⟩)
    | none =>
      let r := x.ring c ri
      (x.setRing c ri (r.reserve .rfu 32 (ceilDiv bits 8)), ⟨acc, bits, some r.nextId⟩)

/-- The drain path has an array to read out through its RFU stage now: the RFU lanes are its own (R92). -/
def drainTakesLanes (x : Tile) (c : Nat) : Bool :=
  match x.u.drain with
  | none => false
  | some d =>
    let r := x.ring c (fld d.word 51 48)
    let room := match d.resv with
      | some id => r.roomFor id
      | none => r.room
    !bit d.word 20 && decide (fld d.word 41 38 ≠ 0) && decide (room ≥ fmtBytes (fld d.word 47 44) 64) && drainVectors x c d d.next

/-- One row of the RFU instruction at the head of the RFU queue is read and its result written; after the last row the run is
padded and the source rows are popped (R148, R149, R151). It waits while the drain path has the lanes (R92). -/
def execRfuRowRead (t : Nat) (s : State) : Out :=
  unitOp t s (fun _ c x =>
    match x.u.rfuQ with
    | [] => s
    | op :: rest =>
      if op.select then s
      else
        let w := op.word
        let fn := fld w 51 46
        let k := op.row
        let rowsIn (ri off : Nat) := let r := x.ring c ri; decide (r.used ≥ off + (k + 1) * fmtBytes r.fmt 64)
        let useB := decide (fld w 27 26 = 1)
        let rd := x.ring c (fld w 25 22)
        let ci := fld w 5 0 % 16
        let nOut := if fn = 0x10 ∨ fn = 0x11 then 1 else 64
        let ready := rowsIn (fld w 45 42) op.offA && (!useB || rowsIn (fld w 36 33) op.offB) &&
          (!rfuCRows fn || rowsIn (fld w 16 13) op.offC) &&
          (!rfuSlots fn || decide ((x.ring c (fld w 16 13)).used ≥ op.offC + 8 * (k + 1))) &&
          decide (rd.room ≥ outNeed op.out (fmtWidth rd.fmt * nOut)) &&
          (decide (fn ≠ 0x12) ||
            decide ((x.ring c ci).room ≥ outNeed op.cOut 32 + if ci = fld w 25 22 then outNeed op.out (fmtWidth rd.fmt * nOut) else 0))
        if !ready || drainTakesLanes x c then s.updTile t (fun x => x.stall 0x3030)
        else
          let rm := x.rm c
          let last := decide (k + 1 = op.n)
          let r := rfuRowOut x c op
          let conv := r.out.map (fun v => toFloat rd.fmt rm (f32 v))
          let x := x.flags c (r.fl ||| orFlags conv)
          let rc := x.ring c (fld w 16 13)
          let x := if rfuSlots fn then
              x.wrWrap rc.base rc.size (rc.head + op.offC + 8 * k) (r.slot.flatMap (toLe 4)) else x
          let p := outPush x c (fld w 25 22) rd.fmt op.out (conv.map (·.1)) last
          let q := if fn = 0x12 then outPush p.1 c ci 0 op.cOut r.cval last else (p.1, op.cOut)
          let x := q.1
          if !last then
            s.setTile t (x.withU (x.u.withRfuQ ((op |>.withRow (k + 1) |>.withOut p.2 |>.withCOut q.2) :: rest)))
          else
            let x := x.withU (x.u.withRfuQ rest)
            let pop (x : Tile) (ri : Nat) : Tile :=
              x.popRing c ri (roundUp (op.n * fmtBytes (x.ring c ri).fmt 64) 32)
            let x := if bit w 7 then pop x (fld w 45 42) else x
            let x := if bit w 6 && useB then pop x (fld w 36 33) else x
            s.setTile t x)

/-- SELECT is checked at issue and enters the RFU queue; at its head it copies N bytes from the ring that the predicate chose and
pops N bytes from both (R152), twice from a ring that it names twice.
DEDUCED (log entry 66). -/
def execSelect (t : Nat) (ph : Phase) (s : State) : Out :=
  match ph with
  | .issue => issueOp 0x1D t s (fun s _ c w _ =>
      let x := s.tile t
      let ra := x.ring c (fld w 51 48)
      let rb := x.ring c (fld w 47 44)
      let rd := x.ring c (fld w 43 40)
      let n := xr x c (fld w 39 35)
      checked
        [ (!ra.on || !rb.on || !rd.on, Exc.ringOff),
          (decide (ra.fmt ≠ rb.fmt) || decide (ra.fmt ≠ rd.fmt), Exc.ringFmt),
          (decide (n % 32 ≠ 0), Exc.spadAlign),
          (decide (n > ra.size) || decide (n > rb.size) || decide (n > rd.size), Exc.ringRange),
          (ra.isStatic || rb.isStatic, Exc.ringPop),
          (!rd.isStream, Exc.ringMode) ]
        (if n = 0 then .go s
         else if x.u.rfuQ.length ≥ 4 then .wait 0x3008
         else
           let op : RfuOp := ⟨true, w, (x.ctx c).pc, n, 0, 0, 0, 0, 0, 0, (x.ctx c).pr (fld w 34 32), ⟨0, 0, none⟩, ⟨0, 0, none⟩⟩
           .go (s.setTile t (x.withU (x.u.withRfuQ (x.u.rfuQ ++ [op]))))))
  | .unit => unitOp t s (fun _ c x =>
      match x.u.rfuQ with
      | [] => s
      | op :: rest =>
        if !op.select then s
        else
          let ia := fld op.word 51 48
          let ib := fld op.word 47 44
          let id := fld op.word 43 40
          let n := op.n
          if (x.ring c ia).used < n ∨ (x.ring c ib).used < n ∨ (x.ring c id).room < n then
            s.updTile t (fun x => x.stall 0x3030)
          else
            let bs := x.rdRing (x.ring c (if op.psel then ia else ib)) 0 n
            let x := x.append .rfu c id bs
            let x := (x.popRing c ia n).popRing c ib n
            s.setTile t (x.withU (x.u.withRfuQ rest)))

end Sys2Proof.Machine
end

