-- ==== Sys2Proof/Machine/SecRun.lean ====
section
/-! DEFINITION. Sections from start to end: start, end, fault, watchdog, spill and reinjection (R198, R212-R222). -/
namespace Sys2Proof.Machine

/-- A write of CHIP_NUMBER waits: the command processors hold every START_SECTION (R38). -/
def State.chipPending (s : State) : Bool := decide (s.rf 0x8 13 0 ≠ s.chipInForce)

/-- No tile of the section runs another context's section (R212). -/
def State.tilesFree (s : State) (x : Section) : Bool := x.tiles.all (fun t => (s.tile t).run.isNone)

/-- The units with no work of a run, but for pieces of earlier runs that are still outstanding (R216). -/
def Units.rest (u : Units) : Units := Units.init |>.withPieces u.pieces |>.withPort u.port

/-- A tile starts the section: its run state is reset and it fetches word 0 (R212). -/
def Tile.start (x : Tile) (g c : Nat) : Tile :=
  x.updCtx c (fun y => y |>.withP [] |>.withLc [] |>.withPc 0) |>.withRun (some (g, c)) |>.withU (x.u.rest.withIssue .running)

/-- The REARMs recorded for the context, applied in order (R170, R212). -/
def State.applyRearms (s : State) (c : Nat) (x : Section) : State :=
  x.rearmNext.foldl (fun (s : State) e =>
    let ts := if e.1 = 0xFFFF then x.tiles else [e.1]
    ts.foldl (fun (s : State) t => s.updTile t (fun y => y.updCtx c (fun y =>
      let b := y.bind e.2.1
      if b.bound then y.setBind e.2.1 (b.withBase e.2.2) else y))) s) s

/-- The held start of (g, c) begins once its tiles are free and the barriers of its layers are open (R349): lengths and bases recorded apply, and
START_SECTION completes (R121, R170, R212). A tile that has become dark meanwhile refuses it (R217); a tile that has become parked since the load, by
a park change that was pending when the load named it, does not. XCODE and XCODE_OR are 0 until the REPORT tile reports END, and so in the
completion of a run that faults before.
DEDUCED (log entry 35). DESIGN CHOICE (log entry 76). -/
def execSectionStart (g c : Nat) (s : State) : Out :=
  if g ≥ 16 ∨ c ≥ 8 then .fault (.noSuchUnit "section context")
  else
    let x := s.sec g c
    if !x.startHeld || x.st ≠ .loaded || s.chipPending || !s.tilesFree x || !s.barrierPassed g c then .next s
    else if s.sectionDark x then
      .next ((s.updSec g c (fun x => x.withStartHeld false)).completeCmd g c St.tileDark)
    else
      let s := (s.freeRun g c).applyRearms c x
      let s := x.tiles.foldl (fun (s : State) t => s.updTile t (fun y => y.start g c)) s
      let s := s.setSec g c (x |>.withSt .running |>.withStartHeld false |>.withReported [] |>.withXcode 0 |>.withXcodeOr 0
          |>.withFault none |>.withRunFires 0 |>.withRunPeak 0
          |>.withLens (x.lenNext.foldl (fun l e => Sparse.put (fun _ => 0) l e.1 e.2) x.lens) |>.withLenNext [] |>.withRearmNext [])
      .next (s.completeCmd g c St.ok)

/-- A token of the section is in a pass-through register or a cross-die queue (R214, R216). -/
def State.inFlight (s : State) (g c : Nat) : Bool :=
  s.flight.any (fun f => decide (f.ctx = c) && decide (f.token.region = g))

/-- The tile's part of a run is over: its apertures close and it runs nothing (R110, R214). -/
def Tile.endRun (x : Tile) (c : Nat) : Tile :=
  x.updCtx c (fun y => y.withApts (y.apts.map (fun a => (a.1, a.2.withCtl (setBit a.2.ctl 0 false))))) |>.withRun none
    |>.withU x.u.rest

/-- An ENDING section with no token in flight ends: LOADED, with its completion (R198, R214, R215). -/
def execSectionEnd (g c : Nat) (s : State) : Out :=
  if g ≥ 16 ∨ c ≥ 8 then .fault (.noSuchUnit "section context")
  else
    let x := s.sec g c
    if x.st ≠ .ending || x.fault.isSome || s.inFlight g c then .next s
    else
      let s := x.tiles.foldl (fun (s : State) t => s.updTile t (fun y => y.endRun c)) s
      .next ((s.setSec g c (x.withSt .loaded)).postSection g c)

/-! ## What a unit can do now (R155, R218) -/

/-- The state without the counters of waiting: the stall counters of tile `t` and the tag counters of its die. -/
def State.noWaits (s : State) (t : Nat) : State := (s.updTile t (fun x => x.withStalls [])).setReg (cdOff (tileDie t) 0x3900) 0

/-- An event changes more than the counters of waiting: it can come about. -/
def State.canMove (s : State) (t : Nat) (f : State → Out) : Bool :=
  match f s with
  | .next s' => decide (s'.noWaits t ≠ s.noWaits t)
  | _ => false

/-- Work already started in the array pipeline, the drain path, the fill unit and the RFU of a tile (R155). -/
def startedWork (t : Nat) : List (State → Out) :=
  [execMmaKblockRead t, execSwapExecute t, execDrainReadout t, execFillArrayWrite t, execRfuRowRead t]

/-- Started work of a tile of the section can still go on.
DEDUCED (log entry 64). -/
def State.workLeft (s : State) (x : Section) : Bool := x.tiles.any (fun t => (startedWork t).any (fun f => s.canMove t f))

/-- Once no token of the faulted run is in flight, and what its units had started is complete or cannot go on, the state is FAULTED and
the completion is posted (R155, R198, R216).
DEDUCED (log entry 64).
DEDUCED (log entry 19). -/
def execSectionFaulted (g c : Nat) (s : State) : Out :=
  if g ≥ 16 ∨ c ≥ 8 then .fault (.noSuchUnit "section context")
  else
    let x := s.sec g c
    if !x.active || x.fault.isNone || s.inFlight g c || s.workLeft x then .next s
    else
      let s := x.tiles.foldl (fun (s : State) t => s.updTile t (fun y => y.endRun c)) s
      .next ((s.setSec g c (x.withSt .faulted)).postSection g c)

/-! ## Spill (R219-R221) -/

/-- Blocks of 16 tokens that a queue's segment takes (R221). -/
def Queue.blocks (q : Queue) : Nat := if q.seg.isEmpty then 0 else ceilDiv (q.segOff + q.seg.length) 16

/-- Spill blocks in use by a section (R198, R221). -/
def State.spillBlocks (s : State) (x : Section) (c : Nat) : Nat :=
  x.tiles.foldl (fun a t => a + (((s.tile t).ctx c).queues.foldl (fun b q => b + q.2.blocks) 0)) 0

/-- The head entry of queue `qi` moves to the tail of its segment and its credit returns; none when there is no free slot (R219,
R220). -/
def State.spillHead (s : State) (g t c qi : Nat) : Option State :=
  let x := s.sec g c
  let q := ((s.tile t).ctx c).queue qi
  match q.entries with
  | [] => some s
  | k :: rest =>
    let q' := q |>.withEntries rest |>.withSeg (q.seg ++ [k])
    if q'.blocks > q.blocks ∧ s.spillBlocks x c ≥ 32 * x.spill.length then none
    else
      let s := s.updTile t (fun x => x.updCtx c (fun y => y.setQueue qi q'))
      let s := s.returnCredit t c q
      let n := s.spillBlocks x c
      some (s.updSec g c (fun x => x |>.withPeak (max x.peak n) |>.withRunPeak (max x.runPeak n)))

/-! ## The wait graph (R219) -/

/-- An edge: the waiting tile, the tile waited for, and the queue that labels it (tile, context, queue). -/
structure WaitEdge where
  src : Nat
  dst : Nat
  label : Option (Nat × Nat × Nat)
  deriving DecidableEq, Repr

/-- The routes of context `c` on whose credit the tile `t` waits: its SEND, SENDC, relaying RECV or STEER has its other needs and the route
holds no credit, or a piece of a relaying STRM waits at its arrival port (R171, R219). -/
def State.creditWaits (s : State) (t c : Nat) : List Nat :=
  let x := s.tile t
  let y := x.ctx c
  let send := match x.u.sendQ with
    | m :: _ =>
      if opOf m.word = 0x51 then [fld m.word 51 48]
      else
        let need := (if bit m.word 38 then 0 else m.done) + 64
        if (x.ring c (fld m.word 51 48)).used < need then [] else [fld m.word 47 44]
    | [] => []
  let recv := match x.u.recvQ with
    | m :: _ => if bit m.word 38 ∧ (x.ring c (fld m.word 47 44)).room ≥ 64 then [fld m.word 37 34] else []
    | [] => []
  let steer := match x.u.steerQ, x.u.pair with
    | m :: _, some 0 => [fld m.word 38 35]
    | m :: _, some 1 => [fld m.word 34 31]
    | _, _ => []
  let port := x.u.port.filterMap (fun a => if a.piece.ctx = c then s.portWaits t a.piece else none)
  (send ++ recv ++ steer).filter (fun r => y.routeOn r && decide (y.routeCredit r = 0)) ++ port

/-- The queues on whose token RECV, RECVC or STEER waits. -/
def Tile.tokenWaits (x : Tile) (c : Nat) : List Nat :=
  let y := x.ctx c
  let recv := match x.u.recvQ with
    | m :: _ => [fld m.word 51 48]
    | [] => []
  let recvc := match x.fetch c with
    | .instr w _ _ => if opOf w = 0x53 ∧ executes y w ∧ x.u.issue = .running then [fld w 46 43] else []
    | .exc _ => []
  let steer := match x.u.steerQ, x.u.pair with
    | m :: _, none => [fld m.word 51 48, fld m.word 47 44]
    | _, _ => []
  (recv ++ recvc ++ steer).filter (fun q => (y.queue q).on && (y.queue q).head.isNone)

/-- The edges of the region's wait graph.
DEDUCED (log entry 69). -/
def State.waitEdges (s : State) (g : Nat) : List WaitEdge :=
  s.tiles.flatMap (fun e =>
    match e.2.run with
    | some (h, c) =>
      if h ≠ g then []
      else
        let y := e.2.ctx c
        (s.creditWaits e.1 c).map (fun r =>
          let v := y.route r
          ⟨e.1, fld v 43 32, some (fld v 43 32, c, fld v 31 28)⟩) ++
        (e.2.tokenWaits c).map (fun q => ⟨e.1, fld (y.queue q).cfg 43 32, none⟩)
    | none => [])

/-- The tiles reached from a set by at most `n` edges. -/
def reach (es : List WaitEdge) : Nat → List Nat → List Nat
  | 0, r => r
  | n + 1, r => reach es n (es.foldl (fun r e => if r.contains e.src && !r.contains e.dst then e.dst :: r else r) r)

/-- Rising insertion of a queue label, without repeats. -/
def insertQ (n : Nat) (l : List Nat) : List Nat := insertNat n l

/-- The queues that label an edge on a cycle, in ascending order, as one number each: tile, context, queue. -/
def cycleQueues (es : List WaitEdge) : List Nat :=
  es.foldl (fun l e =>
    match e.label with
    | some (t, c, q) => if (reach es es.length [e.dst]).contains e.src then insertQ (128 * t + 16 * c + q) l else l
    | none => l) []

/-- The instructions as the sequencer of a tile may issue them, and the moves of its units. -/
def tileMoves (t : Nat) : List (State → Out) :=
  [execNop t, execAdd t, execSub t, execAnd t, execOr t, execXor t, execSll t, execSrl t, execSra t, execMul t, execMins t, execMaxs t,
    execMinu t, execMaxu t, execAddi t, execLi t, execAndi t, execOri t, execMfs t, execLdx t, execPcmp t, execPlog t, execPcmpi t,
    execSelx t, execMma t, execSwap t, execDrain t, execFill t, execRfu t, execSelect t .issue, execPush t .issue, execPop t .issue,
    execRcopy t .issue, execSend t, execSendc t .issue, execRecv t .issue, execRecvc t, execSteer t .issue, execLoop t,
    execOpenAperture t, execCloseAperture t, execStrm t, execRearm t .issue, execFence t, execEnd t] ++
  (startedWork t ++
    [execMmaFirstRead t, execDrainStart t, execFillStart t, execSelect t .unit, execPush t .unit, execPop t .unit, execRcopy t .unit,
      execTokenSend t, execSendc t .unit, execRecv t .unit, execSteerPairForm t, execSteer t .unit, execRearm t .unit,
      execStreamPieceIssue t 1, execEndReport t])

/-- The tile runs a section of region g. -/
def Tile.runs (x : Tile) (g : Nat) : Bool := decide (x.run.map (·.1) = some g)

/-- Some unit of a tile of the region executes: its sequencer, a unit with work that need not wait, or its stream arrival port (R218). -/
def State.tilesMove (s : State) (g : Nat) : Bool :=
  s.tiles.any (fun e => e.2.runs g &&
    ((tileMoves e.1).any (fun f => s.canMove e.1 f) ||
      e.2.u.port.any (fun a => s.canMove e.1 (fun s => .next (s.landAtPort e.1 a.piece.id)))))

/-- A queue that the spill engine serves: in the spill state, it reinjects a token, spills its head for a sender that waits on credit, or leaves
the spill state (R220). `t`, `c`, `q` name the queue. -/
def State.senderWaits (s : State) (g c : Nat) (k : Queue) : Bool :=
  let src := fld k.cfg 43 32
  decide ((s.tile src).run = some (g, c)) && (s.creditWaits src c).contains (fld k.cfg 47 44)

def Queue.reinjects (k : Queue) : Bool := k.spill && k.front.isNone
def State.spills (s : State) (g c : Nat) (k : Queue) : Bool :=
  k.spill && decide (k.entries.length ≥ 16) && !k.seg.isEmpty && s.senderWaits g c k

/-- The queues in the spill state of the tiles of die `n`, as 128·tile + 16·context + queue, ascending, that have a move to make.
DEDUCED (log entry 70). -/
def State.engineWork (s : State) (n : Nat) : List Nat :=
  s.tiles.flatMap (fun e =>
    if tileDie e.1 ≠ n then []
    else e.2.ctxs.flatMap (fun y => (y.2.queues.filter (fun q =>
      match s.regionOf e.1 with
      | some g => q.2.reinjects || s.spills g y.1 q.2
      | none => false)).map (fun q => 128 * e.1 + 16 * y.1 + q.1)))

/-- A section of the region may still move (R218): a token or a credit is on its way, a piece is outstanding, a unit executes, or a spill engine
has a move. A piece that waits at its arrival port is not outstanding: its wait counts as a producer's (R188).
DEDUCED (log entry 69). -/
def State.moving (s : State) (g : Nat) : Bool :=
  s.flight.any (fun f => decide (f.token.region = g)) || s.credits.any (fun k => s.inRegion g k.src) ||
    s.tiles.any (fun e => e.2.runs g && e.2.u.pieces.any (fun p => p.reg == g)) || s.tilesMove g ||
    (List.range 16).any (fun n => (s.engineWork n).any (fun k => s.inRegion g (k / 128)))

/-- The running contexts of a region. -/
def State.activeCtxs (s : State) (g : Nat) : List Nat := (List.range 8).filter (fun c => (s.sec g c).active)

/-- A firing counts in every running or ending section of the region (R198, R215). -/
def State.countFire (s : State) (g : Nat) : State :=
  (s.activeCtxs g).foldl (fun (s : State) c => s.updSec g c (fun x =>
    x |>.withFires (satAdd x.fires 1 0xFFFF) |>.withRunFires (satAdd x.runFires 1 0xFFFF))) s

/-- Sixteen moves of one queue; the flag says that the firing goes on (R219). -/
def State.spillQueue (s : State) (g k : Nat) : State × Bool :=
  let t := k / 128
  let c := k / 16 % 8
  let qi := k % 16
  let s := s.updTile t (fun x => x.updCtx c (fun y => y.setQueue qi ((y.queue qi).withSpill true)))
  (List.range 16).foldl (fun (acc : State × Bool) _ =>
    if acc.2 then
      match acc.1.spillHead g t c qi with
      | some s => (s, true)
      | none => (acc.1.faultSection g c ⟨3, 0, 0xFFFF⟩ 0, false)
    else acc) (s, true)

/-- After 4,096 quiet cycles with tokens queued the watchdog of region g fires (R218, R219).
DEDUCED (log entry 69). -/
def execWatchdogFire (g : Nat) (s : State) : Out :=
  if g ≥ 16 then .fault (.noSuchUnit "region")
  else
    let ctxs := s.activeCtxs g
    let holding := ctxs.filter (fun c => decide (s.residue (s.sec g c) c ≠ 0))
    let allEnded := ctxs.all (fun c => let x := s.sec g c; x.tiles.all (fun t => x.reported.contains t))
    if holding.isEmpty || allEnded || s.moving g then .next s
    else
      let s := s.countFire g
      match cycleQueues (s.waitEdges g) with
      | [] => .next (holding.foldl (fun (s : State) c => s.faultSection g c ⟨2, 0, 0xFFFF⟩ 0) s)
      | ks => .next (ks.foldl (fun (acc : State × Bool) k => if acc.2 then acc.1.spillQueue g k else acc) (s, true)).1

/-- The queue that the spill engine of die `n` serves now: the next one, in ascending order and round again, that has a move to make (R222).
DEDUCED (log entry 70). -/
def State.engineTurn (s : State) (n : Nat) : Option Nat :=
  let last := Sparse.get (fun _ => 0) s.engines n
  let w := s.engineWork n
  match w.find? (fun k => decide (k + 1 > last)) with
  | some k => some k
  | none => w.head?

/-- The engine has served queue `k`. -/
def State.served (s : State) (k : Nat) : State :=
  s.withEngines (Sparse.put (fun _ => 0) s.engines (tileDie (k / 128)) (k + 1))

/-- The spill engine moves the head entry of a full queue in the spill state whose sender waits for credit, when it is that queue's turn
(R220, R222).
DEDUCED (log entry 70). -/
def execSpillMove (t c q : Nat) (s : State) : Out :=
  if t ≥ tileCount then .fault (.noSuchUnit "tile")
  else
    let k := ((s.tile t).ctx c).queue q
    let key := 128 * t + 16 * c + q
    match s.regionOf t with
    | none => .next s
    | some g =>
      if !s.spills g c k || decide (s.engineTurn (tileDie t) ≠ some key) then .next s
      else
        let s := s.served key
        match s.spillHead g t c q with
        | some s => .next s
        | none => .next (s.faultSection g c ⟨3, 0, 0xFFFF⟩ 0)

/-- The oldest token of a segment lands in the empty front slot; a queue with an empty segment and front slot leaves the spill state
(R220, R222).
DEDUCED (log entry 70). -/
def execReinject (t c q : Nat) (s : State) : Out :=
  if t ≥ tileCount then .fault (.noSuchUnit "tile")
  else
    let k := ((s.tile t).ctx c).queue q
    let key := 128 * t + 16 * c + q
    if !k.reinjects || decide (s.engineTurn (tileDie t) ≠ some key) then .next s
    else
      let s := s.served key
      let put (k : Queue) : State := s.updTile t (fun y => y.updCtx c (fun y => y.setQueue q k))
      match k.seg with
      | x :: rest => .next (put (k |>.withFront (some x) |>.withSeg rest |>.withSegOff (if rest.isEmpty then 0 else (k.segOff + 1) % 16)))
      | [] => .next (put k.settle)

end Sys2Proof.Machine
end

