-- ==== Sys2Proof/Machine/Hub.lean ====
section
/-! DEFINITION. Event rings and mailboxes as registers, regions and spans, the chip number, and package network links (R31, R38, R415, R421-R425). -/
namespace Sys2Proof.Machine

/-! ## Package network links -/

/-- A package network link fails retry 16 times in a row: a fatal record, and every region of the chip is fenced and reset (R31, Table
19.2). `die` is the die that raises the record. -/
def execPkgnetLinkFail (link die : Nat) (s : State) : Out :=
  if link ≥ 40 ∨ die ≥ 25 then .fault (.noSuchUnit "package network link")
  else .next (s.fatal (List.range 16) { cls := 2, source := 0x0A, unit := link, die := die })

/-! ## Event rings and mailboxes (R413-R415, R591) -/

/-- A write of HUB_EVQ_CFG of ring k.
DEDUCED (log entry 41). -/
def State.judgeEvq (s : State) (k : Nat) (v : W64) : Nat × State :=
  let n := fld v 20 16
  s.judged (evqCfg k) v
    (if n < 6 ∨ n > 16 ∨ 4096 * fld v 13 0 + 64 * 2 ^ n > 2 ^ 26 then St.paramRange
     else if s.ringHeld (evqPtr k) > 0 then St.evqBusy
     else 0)

/-- A write of HUB_MBOX_CFG of mailbox j. -/
def State.judgeMbox (s : State) (j : Nat) (v : W64) : Nat × State :=
  s.judged (mboxCfg j) v
    (if 4096 * (fld v 13 0 + fld v 23 16) > 2 ^ 26 then St.paramRange
     else if s.ringHeld (mboxPtr j) > 0 then St.evqBusy
     else 0)

/-- A write of a ring's HEAD: it must not pass TAIL. -/
def State.judgeHead (s : State) (o : Nat) (v : W64) : Nat × State :=
  s.judged o v (if (2 ^ 32 + fld v 31 0 - s.rf o 31 0) % 2 ^ 32 > s.ringHeld o then St.paramRange else 0)

def execEvqCfgWrite (mbox : Bool) (k : Nat) (v : W64) (s : State) : Out :=
  if mbox then
    if k ≥ 8 then .fault (.noSuchUnit "mailbox") else regRow s (mboxCfg k) (fun s => s.judgeMbox k v)
  else if k ≥ 32 then .fault (.noSuchUnit "event ring")
  else regRow s (evqCfg k) (fun s => s.judgeEvq k v)

/-! ## Regions (R421) -/

def regionReg (n g k : Nat) : Nat := cdOff n (0x5000 + 0x18 * g + k * 8)

/-- A held command list. -/
def State.listsHeld (s : State) (g : Nat) : Bool := (List.range 8).any (fun c => !(s.cmdq g c).lists.isEmpty)

/-- The tiles that word k of CDn's registers stands for, by bit. -/
def wordTiles (n k : Nat) : List (Nat × Nat) :=
  ((List.range 64).filter (fun b => decide (64 * k + b < 144))).map (fun b => (b, tileAt n (64 * k + b)))

/-- Some queue of a context of the tile holds a token. -/
def Tile.holdsToken (x : Tile) : Bool := x.ctxs.any (fun y => decide (y.2.tokens > 0))

/-- A write of CD_REGION_TILES_k of region g on CDn (R421). -/
def State.judgeRegionTiles (s : State) (n g k : Nat) (v : W64) : Nat × State :=
  let o := regionReg n g k
  let new := writeFields ((regDesc o).elim [] (·.fields)) (s.reg o) v
  let diff := (wordTiles n k).filter (fun e => bit new e.1 != s.rb o e.1)
  let after := s.setReg o new
  let removed := diff.filter (fun e => s.rb o e.1)
  let st :=
    if diff.isEmpty then 0
    else if s.glareHolds g then St.glareActive
    else if (List.range 16).any (fun h => h != g && decide (new &&& s.reg (regionReg n h k) ≠ 0)) then St.regionOverlap
    else if s.contextsBusy g ||
        removed.any (fun e => (List.range 8).any (fun c => let x := s.sec g c; x.resident && x.names e.2)) ||
        s.listsHeld g ||
        (decide (after.leadDie g ≠ s.leadDie g) && (List.range 8).any (fun c => (s.sec g c).resident)) then St.regionBusy
    else if diff.any (fun e => (s.tile e.2).holdsToken) then St.busyEpoch
    else 0
  s.judged o v st

def execCdRegionTilesWrite (n g k : Nat) (v : W64) (s : State) : Out :=
  if n ≥ 16 ∨ g ≥ 16 ∨ k ≥ 3 then .fault (.noSuchUnit "region") else regRow s (regionReg n g k) (fun s => s.judgeRegionTiles n g k v)

/-! ## Spans (R422) -/

def hubRegion (g : Nat) : Nat := 0x51000 + 0x10 * g

/-- A write of HUB_REGION of region g. -/
def State.judgeHubRegion (s : State) (g : Nat) (v : W64) : Nat × State :=
  let o := hubRegion g
  let lit := s.rb o 12
  let st :=
    if s.glareHolds g then St.glareActive
    else if lit ∧ (fld v 11 0 ≠ s.rf o 11 0 ∨ fld v 47 16 ≠ s.rf o 47 16) then St.spanLit
    else if bit v 12 ∧ fld v 11 0 = 0xFFF then St.spanNone
    else if lit ∧ !bit v 12 ∧ s.regionActive g then St.regionBusy
    else 0
  s.judged o v st

def execHubRegionWrite (g : Nat) (v : W64) (s : State) : Out :=
  if g ≥ 16 then .fault (.noSuchUnit "region") else regRow s (hubRegion g) (fun s => s.judgeHubRegion g v)

/-! ## Region reset (R425) -/

/-- A write of HUB_REGION_CTL of region g. -/
def State.judgeRegionCtl (s : State) (g : Nat) (v : W64) : Nat × State := (0, if bit v 0 then s.resetRegion g else s)

def execRegionReset (g : Nat) (s : State) : Out :=
  if g ≥ 16 then .fault (.noSuchUnit "region") else regRow s (hubRegion g) (fun s => s.judgeRegionCtl g 1)

/-- The reset completes.
DESIGN CHOICE (log entry 2). -/
def execRegionResetDone (g : Nat) (s : State) : Out :=
  if g ≥ 16 then .fault (.noSuchUnit "region") else .next (s.setRb (hubRegion g + 8) 1 false)

/-! ## Chip number (R37, R38) -/

/-- The recorded number comes into force; a change goes out in hellos (R483). -/
def State.takeNumber (s : State) : State :=
  let n := s.rf 8 13 0
  if n = s.chipInForce then s else (s.withChipInForce n).helloAll

/-- A write of HUB_CHIP: in force at once when no section runs. -/
def State.judgeChip (s : State) (v : W64) : Nat × State :=
  let n := fld v 13 0
  let s := (s.setRf 8 13 0 n).setRb 8 14 (decide (n ≠ 0x3FFF))
  (0, if s.anyActive then s else s.takeNumber)

def execChipNumberWrite (v : W64) (s : State) : Out := regRow s 8 (fun s => s.judgeChip v)

def execChipNumberTakesEffect (s : State) : Out := .next (if s.anyActive then s else s.takeNumber)

end Sys2Proof.Machine
end

