-- ==== Sys2Proof/Machine/Resets.lean ====
section
/-! DEFINITION. What cold and warm resets leave, how they are asked for, and warm bring-up (R491-R494, R504-R511, R571, R576). -/
namespace Sys2Proof.Machine

/-! ## Fuses (R558, R564) -/

def secStatus : Nat := 0xC0000
/-- DBG_DISABLED, FW_FLOOR and FW_KEY_REVOKE: the fields of SEC_STATUS that read fuses. -/
def fuseBits (v : W64) : W64 := setFld (setFld (setFld v 2 1 0) 4 3 0) 63 20 0

/-- The fuses after a reset. A burn that it cuts short may have taken or not: each open bit is free, and the floor never falls. -/
def State.fusesAfter (s : State) : W64 × State :=
  let w := fuseBits (s.reg secStatus)
  let (w, s) : W64 × State := if s.rb 0xC0050 16 ∧ !bit w 0 then
      let (v, s) := s.freeVal
      (setBit w 0 (bit v 0), s)
    else (w, s)
  match s.trust.floor with
  | some n =>
    let old := fld w 15 8
    let (v, s) := s.freeVal
    (setFld w 15 8 (old + v.toNat % (n - old + 1)), s)
  | none => (w, s)

/-! ## The floor plan (R505) -/

/-- Tile t dark, with its bit of HUB_FLOOR_MAP. -/
def State.markDark (s : State) (t : Nat) : State :=
  (s.updTile t (fun x => x.withSt .dark)).setRb (0x10300 + t / 64 * 8) (t % 64) true

/-! ## Resets (R491-R494, Table 17.2) -/

def resetCause : Nat := 0x10028
/-- SNAP_VALID. -/
def State.snapValid (s : State) : Bool := s.rb resetCause 4

/-- What leaves the chip by its ports is outside it, and no reset takes it back. -/
def State.keepSent (s z : State) : State :=
  z |>.withPending s.pending |>.withReply s.reply |>.withFree s.free |>.withFused s.fused |>.withNet (z.net.withWire s.net.wire)
      |>.withEfn (z.efn.withSent s.efn.sent) |>.withPwr (z.pwr.withI3c s.pwr.i3c) |>.withTrust (z.trust.withSigned s.trust.signed)

/-- PWRWARN_N is low: the bit shows the pin. -/
def State.warnLow (s : State) : Bool := s.rb pwrStat 3

/-- A cold reset (R493, R499): nothing is kept but the fuses, and OUV_INC is drawn anew (R477).
DEDUCED (log entry 52). DEDUCED (log entry 53). -/
def State.coldReset (s : State) (source : Nat) : State :=
  let (fuses, s) := s.fusesAfter
  let (inc, s) := s.freeVal
  let z := s.fused.foldl State.markDark (s.keepSent State.reset)
  let z := (z.setReg secStatus fuses).setRf 0x70058 31 0 (fld inc 31 0)
  let z := (z.setRf resetCause 3 1 source).setRb pwrStat 3 s.warnLow
  (z.withTrust (z.trust.withClosed (bit fuses 0)))

/-- A tile after a warm reset: dark and SUSPECT are kept. -/
def Tile.warm (x : Tile) : Tile := Tile.init |>.withSt (if x.st = .dark then .dark else .active) |>.withSuspect x.suspect

/-- A sub-port after a warm reset: what its SAs have accepted is kept (R450, R461). -/
def SubPort.warm (p : SubPort) : SubPort := SubPort.init |>.withLowest p.lowest |>.withFails p.fails

/-- The uncertainty log after a warm reset has emptied it in `z`: it holds the interval that was open before, or, where the PTP bit was 1 and
clears with the reset, a new one (R529, R531).
DEDUCED (log entry 53). -/
def State.keepOpenUnc (s z : State) : State :=
  let o := uncFrom ((2 ^ 32 + s.rf uncCount 31 0 - 1) % 2 ^ 32 % 16)
  if s.uncertain then z.setReg o (s.reg o) else z.openUnc s.now

/-- Space 0x2 and above: what self-refresh keeps. -/
def inDram (k : Nat) : Bool := decide (2 * 2 ^ 46 ≤ k)

/-- Fields that outlive a warm reset in registers whose counters do not: OVERRUN of the event rings (R415), and FATALS, the fatal records since the
cold reset, by which HUB_FATAL is filled (R544, R555). -/
def State.keepMarks (s z : State) : State :=
  (List.range 32).foldl (fun (z : State) k => z.setRb (evqStat k) 32 (s.rb (evqStat k) 32)) (z.setRf 0xB0018 39 32 (s.rf 0xB0018 39 32))

/-- A warm reset (R494, Table 17.2). The chip is held until its bring-up begins.
DEDUCED (log entry 53).
DESIGN CHOICE (log entry 73). -/
def State.warmReset (s : State) (source : Nat) : State :=
  let (fuses, s) := s.fusesAfter
  let s := match s.glare.run with
    | some r => s.restoreClocks r
    | none => s
  let z := s.keepSent State.reset
  let z : State := z |>.withMem (Sparse.keep inDram s.mem) |>.withBad (s.bad.filter inDram)
      |>.withRegs (s.regs.filter (fun e => match regDesc e.1 with
      | some d => d.warm
      | none => false)) |>.withTiles ((s.tiles.map (fun e => (e.1, e.2.warm))).filter (fun e => decide (e.2 ≠ Tile.init)))
          |>.withLastEpoch s.lastEpoch |>.withDoneSerial s.doneSerial |>.withTime s.time |>.withLogs ⟨s.logs.store, [], s.logs.seq, [], []⟩
          |>.withChipInForce (s.rf 8 13 0)
  let z : State := z |>.withBoot (z.boot |>.withPh .held |>.withSettle true) |>.withPkg (z.pkg.withPlaced s.pkg.placed) |>.withNet (z.net |>.withResetAt s.now |>.withCut s.net.cut |>.withInbound s.net.inbound
      |>.withPorts ((s.net.ports.map (fun e => (e.1, e.2.warm))).filter (fun e => decide (e.2 ≠ SubPort.init)))) |>.withSrv (z.srv
      |>.withPeriod (s.rf 0x30008 19 0) |>.withCutoff (s.rf 0x30008 39 20) |>.withPhase ((s.reg 0x30010).toNat) |>.withSeqs s.srv.seqs
      |>.withEcho s.srv.echo) |>.withTrust (z.trust.withClosed (bit fuses 0)) |>.withPtp (z.ptp.withMost s.ptp.most) |>.withPwr (s.pwr
      |>.withStopped [] |>.withWantLit false |>.withTrip false)
  let z := s.keepMarks ((z.setReg secStatus fuses).setRf 0x70058 31 0 (s.inc + 1))
  let z := s.keepOpenUnc (z.setRb ptpStat 33 s.everLocked)
  let z := (z.setRb resetCause 0 true).setRf resetCause 3 1 source
  (z.count resetCause 31 16 1).setRb pwrStat 3 s.warnLow

/-- A reset is asked for, to take effect from the time `due`; a cold one goes before a warm one, and of one kind the earlier. -/
def State.askReset (s : State) (cold : Bool) (source due : Nat) : State :=
  let keep : Bool := match s.boot.reset with
    | some (c, _) => (c && !cold) || (c == cold && decide (s.boot.due ≤ due))
    | none => false
  if keep then s else s.withBoot (s.boot |>.withReset (some (cold, source)) |>.withDue due)

/-- The pin has been low for 1 µs (R491, R492). -/
def execResetColdN (s : State) : Out := .next (s.askReset true 1 s.now)
def execResetWarmN (s : State) : Out := .next (if s.pwrState = 4 ∨ s.boot.ph = .off then s else s.askReset false 2 s.now)

def hubReset : Nat := 0x10020

/-- A write of HUB_RESET: the reset takes effect 1 ms later; in Unlit a warm one is ignored (R492, R513, R576). -/
def State.judgeReset (s : State) (v : W64) : Nat × State :=
  let k := fld v 1 0
  if fld v 15 8 ≠ 0x5A ∨ k = 0 ∨ k = 3 then (St.paramRange, s)
  else (0, if k = 1 ∧ s.pwrState = 4 then s else s.askReset (k = 2) 3 (s.now + 4000000))

def execHubResetWarm (s : State) : Out := regRow s hubReset (fun s => s.judgeReset 0x5A01)
def execHubResetCold (s : State) : Out := regRow s hubReset (fun s => s.judgeReset 0x5A02)

/-- Every die sensor reads below 85 °C (R576). -/
def State.cool (s : State) : Bool :=
  (List.range 16).all (fun n => decide (s.rf (0xD0200 + 8 * n) 7 0 < 85)) &&
    (List.range 4).all (fun i => decide (s.rf 0xD0280 (8 * i + 7) (8 * i) < 85))

/-- The cold reset that has been asked for comes about, once its time has come (R492). From Unlit it is held until the dies are cool, and its source is the trip; with the
rails off it waits for the input (R499, R571, R576). -/
def execColdReset (s : State) : Out :=
  match s.boot.reset with
  | some (true, source) =>
    if s.now < s.boot.due then .next s
    else if s.pwrState = 4 then .next (if s.cool then s.coldReset 4 else s)
    else if s.boot.ph = .off ∧ source ≠ 0 then .next s
    else .next (s.coldReset source)
  | _ => .next s

/-- The warm reset that has been asked for comes about, once its time has come, or is carried out as a cold one (R493, R494). -/
def execWarmReset (s : State) : Out :=
  match s.boot.reset with
  | some (false, source) => .next (if s.now < s.boot.due then s else if s.snapValid then s.warmReset source else s.coldReset 5)
  | _ => .next s

/-- Warm bring-up begins (R494, R508), and the loan slots are settled (R510): RECALLING becomes SCRUBBING, and a scrub begins anew.
DESIGN CHOICE (log entry 77). -/
def execWarmBringup (s : State) : Out :=
  if s.boot.ph ≠ .held then .next s
  else
    let s := s.withBoot (s.boot.withPh .run)
    .next ((List.range 64).foldl (fun (s : State) k => if s.loanState k = 2 then s.setRf (loanReg k 0x10) 1 0 3 else s) s)

/-! ## Input power (R570, R571) -/

/-- The rails are off: nothing is kept but the fuses.
DEDUCED (log entry 53). -/
def State.railsOff (s : State) : State :=
  let (fuses, s) := s.fusesAfter
  let z := (s.keepSent State.reset).setReg secStatus fuses
  (z |>.withBoot (z.boot.withPh .off) |>.withTrust (z.trust.withClosed (bit fuses 0)))

/-- Input below the shutdown limits.
DEDUCED (log entry 53). -/
def execInputShutdown (s : State) : Out := .next s.railsOff

/-- Input above 42 V for 10 ms: the module makes a cold reset with SOURCE power. -/
def execInputRestart (s : State) : Out := .next (if s.boot.ph = .off then s.coldReset 0 else s)

end Sys2Proof.Machine
end

