-- ==== Sys2Proof/Machine/Packages.lean ====
section
/-! DEFINITION. Weight packages: posting, checking and running package jobs (R344-R364). -/
namespace Sys2Proof.Machine

def State.setPkg (s : State) (p : PkgSt) : State := s.withPkg p

/-! ## Posting (R350) -/

def State.judgePkgDoorbell (s : State) (v : W64) : Nat × State :=
  if fld v 5 0 ≠ 0 then (St.paramRange, s)
  else if s.pkg.jobs.length ≥ 8 then (St.pkgBusy, s)
  else (0, s.setPkg (s.pkg.withJobs (s.pkg.jobs ++ [⟨v.toNat, .posted, [], [], [], 0, 0, [], 0, 0, 0, 0xFFFF, false, 0, 0, 0⟩])))

def execSrvPkgDoorbell (v : W64) (s : State) : Out := regRow s 0x30510 (fun s => s.judgePkgDoorbell v)

/-! ## Descriptor, header and records (Tables 12.1-12.4) -/

def kPkg (d : List Byte) : Nat := leAt d 0 8
def kStage (d : List Byte) : Nat := leAt d 8 8
def kModel (d : List Byte) : Nat := leAt d 16 2
def kShare (d : List Byte) : Nat := leAt d 18 2
def kOp (d : List Byte) : Nat := leAt d 20 1 % 4
def kPolicy (d : List Byte) : Nat := leAt d 20 1 / 4 % 2
def kRegion (d : List Byte) : Nat := leAt d 21 1
def kSlots (d : List Byte) : Nat := leAt d 22 2
def kFrom (d : List Byte) : Nat := leAt d 24 2
def kNext (d : List Byte) : Nat := leAt d 26 2
def kJob (d : List Byte) : Nat := leAt d 28 4
/-- The job is part of a load chain. -/
def kChain (d : List Byte) : Bool := decide (kFrom d ≠ 0x3FFF ∨ kNext d ≠ 0x3FFF)

def hLayers (h : List Byte) : Nat := leAt h 6 2
def hModel (h : List Byte) : Nat := leAt h 8 4
def hGen (h : List Byte) : Nat := leAt h 12 4
def hBytes (h : List Byte) : Nat := leAt h 16 8
def hPartOff (h : List Byte) : Nat := leAt h 32 8
def hParts (h : List Byte) : Nat := leAt h 40 4
def hSections (h : List Byte) : Nat := leAt h 44 2
def hShares (h : List Byte) : Nat := leAt h 46 2
def hSecOff (h : List Byte) : Nat := leAt h 48 8

/-- The memory of this chip that may hold a package or a stage. -/
def State.tierHere (s : State) (a : Nat) : Bool := s.thisChip (gaChip a) && decide (gaSpace a = 2 ∨ gaSpace a = 3)

/-- Order 1 of Table 12.5. -/
def State.pkgDescOk (s : State) (d : List Byte) : Bool :=
  let fromSet := decide (kFrom d ≠ 0x3FFF)
  decide (kOp d ≠ 3) && decide (leAt d 20 1 < 8) && decide (kRegion d < 16) && decide (2 ≤ kSlots d ∧ kSlots d ≤ 256) &&
    decide (kFrom d < 2 ^ 14) && decide (kNext d < 2 ^ 14) && zeros (slice d 32 32) && decide (kModel d < 1024) &&
    (fromSet != decide (kPkg d ≠ 0)) && (!fromSet || decide (kStage d ≠ 0)) && (fromSet || decide (kStage d = 0)) &&
    (decide (kPkg d = 0) || s.tierHere (kPkg d)) && (decide (kStage d = 0) || (s.tierHere (kStage d) && decide (kStage d % 2 ^ 22 = 0)))

/-- A package header with its counts and offsets in range and its reserved bytes 0 (order 2). -/
def pkgHeadOk (h : List Byte) : Bool :=
  decide (leAt h 0 4 = 0x42525031) && decide (leAt h 4 2 = 1) && decide (1 ≤ hLayers h ∧ hLayers h ≤ 4096) &&
    decide (1 ≤ hGen h ∧ hGen h ≤ 0xFFFFFFFE) && decide (hBytes h % 4096 = 0 ∧ 256 ≤ hBytes h) && decide (hPartOff h % 64 = 0) &&
    decide (1 ≤ hParts h ∧ hParts h ≤ 1048576) && decide (1 ≤ hSections h ∧ hSections h ≤ 4096) &&
    decide (1 ≤ hShares h ∧ hShares h ≤ 16384) && decide (hSecOff h % 64 = 0) && zeros (slice h 56 8) && zeros (slice h 160 96) &&
    decide (hPartOff h + 64 * hParts h ≤ hBytes h) && decide (hSecOff h + 64 * hSections h ≤ hBytes h)

def pLayer (r : List Byte) : Nat := leAt r 0 2
def pShare (r : List Byte) : Nat := leAt r 2 2
def pT2 (r : List Byte) : Bool := decide (leAt r 4 1 % 2 = 1)
def pComp (r : List Byte) : Bool := decide (leAt r 4 1 / 2 % 2 = 1)
def pSrc (r : List Byte) : Nat := leAt r 8 8
def pBytes (r : List Byte) : Nat := leAt r 16 8
def pDest (r : List Byte) : Nat := leAt r 32 8

def partRecOk (h r : List Byte) : Bool :=
  decide (pLayer r < hLayers h) && decide (pShare r < hShares h) && decide (leAt r 4 1 < 4) && zeros (slice r 5 3) &&
    decide (pSrc r % 4096 = 0) && decide (pBytes r % 32 = 0) && zeros (slice r 24 8) && decide (pDest r % 4096 = 0) &&
    zeros (slice r 44 20) && decide (pSrc r + pBytes r ≤ hBytes h)

def sImg (r : List Byte) : Nat := leAt r 0 8
def sShare (r : List Byte) : Nat := leAt r 8 2
def sDest (r : List Byte) : Nat := leAt r 16 8

def secRecOk (h r : List Byte) : Bool :=
  decide (sImg r % 4096 = 0) && decide (sShare r < hShares h) && zeros (slice r 10 6) && decide (sDest r % 4096 = 0) &&
    (List.range 4).all (fun i => decide (leAt r (31 + 8 * i) 1 ≤ 3)) && zeros (slice r 56 8) && decide (sImg r + 64 ≤ hBytes h)

/-- STATE becomes TORN with the lowest layer whose word reads WRITING. -/
def State.tearModel (s : State) (m : Nat) (e : List Byte) : State :=
  let l := ((List.range (mLayers e)).find? (fun l => s.genWord e l == genWriting)).getD 0
  (s.setModel m 4).setModelF m 50 2 l

/-! ## Checks (R351) -/

/-- Bytes of a package of this chip, read with the region's partition. -/
def State.pkgRead (s : State) (j : PkgJob) (off n : Nat) : Except Park (Nat × List Byte × State) :=
  s.unitRead [] (kPkg j.desc + off) n (some (kRegion j.desc))

/-- Records of 64 bytes. -/
def recs64 (bs : List Byte) (n : Nat) : List (List Byte) := (List.range n).map (fun i => slice bs (64 * i) 64)

/-- Where a placed part or image of the share lies: its address and length. -/
def placeOf (e r : List Byte) (image : Option Nat) : Nat × Nat :=
  match image with
  | some n => (mT1 e + sDest r, n)
  | none => ((if pT2 r then mT2 e else mT1 e) + pDest r, pBytes r)

/-- Every byte of [a, a + n) lies in region g's carve-outs. -/
def State.spanInCarve (s : State) (g a n : Nat) : Bool :=
  n == 0 || (cutRange (2 ^ 21) (n / 2 ^ 21 + 2) a n).all (fun p => s.rangeInCarve g (gaSpace p.1) (gaOff p.1) p.2)

/-- The places of records of the share. -/
def sharePlaces (j : PkgJob) (parts secs : List (List Byte)) (imgs : List Nat) : List (Nat × Nat) :=
  ((parts.filter (fun r => pShare r == kShare j.desc)).map (fun r => placeOf j.entry r none)) ++
    (((secs.zip imgs).filter (fun r => sShare r.1 == kShare j.desc)).map (fun r => placeOf j.entry r.1 (some r.2)))

/-- Order 2 of Table 12.5 over part records, and section records with the bytes of each image. -/
def recsOk (h : List Byte) (parts secs : List (List Byte)) (imgs : List Nat) : Bool :=
  parts.all (partRecOk h) && secs.all (secRecOk h) && !(secs.zip imgs).any (fun r => decide (sImg r.1 + r.2 > hBytes h))

/-- Order 4: every place lies within the carve-outs of the job's region and off the generation words. -/
def State.placesOk (s : State) (j : PkgJob) (places : List (Nat × Nat)) : Bool :=
  let w := gaKey (mWords j.entry)
  places.all (fun p => s.spanInCarve (kRegion j.desc) p.1 p.2 &&
    !rangesMeet (gaKey p.1) (gaKey p.1 + p.2) w (w + 8 * hLayers j.header))

/-- A section of the model is loaded: of an image that the package names, or that an earlier package of the model has placed. -/
def State.modelLoaded (s : State) (j : PkgJob) (secs : List (List Byte)) : Bool :=
  (List.range 128).any (fun k =>
    let x := Sparse.get secD s.secs k
    x.resident && (secs.any (fun r => sShare r == kShare j.desc && gaKey x.src == gaKey (mT1 j.entry + sDest r)) ||
      (s.imageAt x.src).any (fun p => p.model == kModel j.desc)))

/-- Orders 2 to 7 of Table 12.5 over a header, its part records and section records with the bytes of each image. -/
def State.pkgCheck (s : State) (j : PkgJob) (parts secs : List (List Byte)) (imgs : List Nat) : Nat :=
  let h := j.header
  let e := j.entry
  let d := j.desc
  if !recsOk h parts secs imgs then St.pkgBad
  else if !entValid e ∨ leAt e 4 4 ≠ hModel h ∨ leAt e 2 2 ≠ hLayers h ∨ kShare d ≥ hShares h then St.modelEntry
  else if !s.placesOk j (sharePlaces j parts secs imgs) then St.pkgPlace
  else if kOp d = 0 ∧ s.modelLoaded j secs then St.modelBusy
  else if kOp d = 1 ∧ leAt h 128 8 ≠ leAt e 40 8 then St.pkgLayout
  else if kOp d = 1 ∧ !s.pkg.verified.any (fun v => v.1 == gaKey (kPkg d) && v.2 == slice h 64 64) then St.notVerified
  else 0

/-- What the records of the share place. -/
def placedBy (j : PkgJob) (parts secs : List (List Byte)) (imgs : List Nat) : List Placed :=
  ((parts.filter (fun r => pShare r == kShare j.desc)).map (fun r =>
    let p := placeOf j.entry r none
    ⟨kModel j.desc, pLayer r, p.1, p.2, pComp r, []⟩)) ++
  (((secs.zip imgs).filter (fun r => sShare r.1 == kShare j.desc)).map (fun r =>
    let p := placeOf j.entry r.1 (some r.2)
    ⟨kModel j.desc, imageLayer, p.1, p.2, false, slice r.1 24 32⟩))

/-- A package has placed parts and images: what stood at those places, and what `old` says of the model, is forgotten. -/
def State.setPlaced (s : State) (l : List Placed) (old : Placed → Bool) : State :=
  let kept := s.pkg.placed.filter (fun p => !old p &&
    !l.any (fun q => rangesMeet (gaKey p.addr) (gaKey p.addr + p.bytes) (gaKey q.addr) (gaKey q.addr + q.bytes)))
  s.setPkg (s.pkg.withPlaced (kept ++ l))

/-- The front job with what it has become. -/
def State.setFrontPkg (s : State) (j : PkgJob) : State := s.setPkg (s.pkg.withJobs (j :: s.pkg.jobs.drop 1))

/-- The front job ends: its completion is still to post. -/
def State.pkgEnd (s : State) (j : PkgJob) (status failed : Nat) : State :=
  s.setFrontPkg (j |>.withPh .ended |>.withStatus status |>.withFailed failed |>.withSeen [])

/-- A SWAP begins: TARGET_GEN is written and STATE becomes SWAPPING; POLICY is applied at a boundary (R358). -/
def State.swapBegin (s : State) (j : PkgJob) : State :=
  let m := kModel j.desc
  let s := (s.setModelF m 8 4 (hGen j.header)).setModel m 3
  let s := s.withSrv (s.srv.withSwaps (s.srv.swaps ++ [(m, hGen j.header, kPolicy j.desc)]))
  s.setFrontPkg (j.withPh .running)

/-- An INSTALL sets STATE to LOADING and every generation word to WRITING (R353). -/
def State.installBegin (s : State) (j : PkgJob) : State :=
  let s := s.setModel (kModel j.desc) 1
  let s := (List.range (hLayers j.header)).foldl (fun (s : State) l => s.setWord j.entry l genWriting) s
  s.setFrontPkg (j.withPh .running)

/-- A SWAP in front that waits for the step boundary begins. -/
def State.waitingSwap (s : State) : State :=
  match s.pkg.jobs with
  | j :: _ => if j.ph = PkgPh.waitSwap then s.swapBegin j else s
  | [] => s

/-- A checked job starts its work, or waits for the step boundary. -/
def State.pkgGo (s : State) (j : PkgJob) : State :=
  if kOp j.desc = 0 then s.installBegin j
  else if kOp j.desc = 2 then s.setFrontPkg (j.withPh .running)
  else if s.rb 0x30000 0 then s.setFrontPkg (j.withPh .waitSwap)
  else s.swapBegin j

/-- The lengths of the section images: IMAGE_BYTES of each header. -/
def imgLen (hd : List Byte) : Nat := ((parseHead hd).map (·.bytes)).getD 64

/-- The checks of a job whose package lies on this chip. -/
def State.pkgJudge (s : State) (j : PkgJob) : Except Park (Nat × State) :=
  let h := j.header
  if !pkgHeadOk h then .ok (St.pkgBad, s)
  else match s.pkgRead j (hPartOff h) (64 * hParts h) with
    | .error p => .error p
    | .ok (st, pb, s) =>
      if st ≠ 0 then .ok (st, s)
      else match s.pkgRead j (hSecOff h) (64 * hSections h) with
        | .error p => .error p
        | .ok (st, sb, s) =>
          if st ≠ 0 then .ok (st, s)
          else
            let secs := recs64 sb (hSections h)
            let imgs := secs.map (fun r => imgLen (s.rdMem (gaKey (kPkg j.desc + sImg r)) 64))
            .ok (s.pkgCheck j (recs64 pb (hParts h)) secs imgs, s)

/-- The front job reads its descriptor, its model entry and its header once, and is checked (R351). The job of a later chip of a chain is
checked when its first chunk has arrived.
DEDUCED (log entry 51). -/
def execPkgJobStart (s : State) : Out :=
  match s.pkg.jobs with
  | [] => .next s
  | j :: _ =>
    if j.ph ≠ PkgPh.posted ∨ j.desc ≠ [] then .next s
    else match s.unitRead [] j.addr 64 none with
      | .error p => .next (s.park p)
      | .ok (st, d, s1) =>
        if st ≠ 0 then .next (s1.pkgEnd (j.withDesc []) st 0xFFFF)
        else
          let j := j |>.withDesc d |>.withEntry (s1.modelEntry (kModel d)) |>.withHeard s1.now
          if !s1.pkgDescOk d then .next (s1.pkgEnd j St.pkgDesc 0xFFFF)
          else if kPkg d = 0 then .next (s1.setFrontPkg j)
          else match s1.pkgRead j 0 256 with
            | .error p => .next (s.park p)
            | .ok (st, h, s2) =>
              if st ≠ 0 then .next (s2.pkgEnd j st 0xFFFF)
              else
                let j := j.withHeader h
                match s2.pkgJudge j with
                | .error p => .next (s.park p)
                | .ok (0, s3) => .next (s3.pkgGo j)
                | .ok (st, s3) => .next (s3.pkgEnd j st 0xFFFF)

/-! ## INSTALL and VERIFY on one chip (R352, R353) -/

/-- A copy of a package job: source, destination, bytes, the layer whose part it is, and whether a part is whole with it. -/
structure PkgCopy where
  src : Nat
  dst : Nat
  bytes : Nat
  layer : Nat
  whole : Bool

/-- A list of copies: the first failure with its layer, else the parts and bytes copied. -/
def State.pkgCopies (s : State) (g : Nat) :
    List PkgCopy → Nat → Nat → Except Park (Nat × Nat × Nat × Nat × State)
  | [], parts, bytes => .ok (0, 0xFFFF, parts, bytes, s)
  | c :: rest, parts, bytes =>
    match s.copyPlain [] (some g) (2 * (c.bytes / 4096) + 4) c.src c.dst c.bytes 0 with
    | .error p => .error p
    | .ok (st, done, s) =>
      if st ≠ 0 then .ok (st, c.layer, parts, bytes + done, s)
      else State.pkgCopies s g rest (parts + c.whole.toNat) (bytes + done)

/-- The part records of a package of this chip. -/
def State.pkgPartRecs (s : State) (j : PkgJob) : List (List Byte) :=
  recs64 (s.rdMem (gaKey (kPkg j.desc + hPartOff j.header)) (64 * hParts j.header)) (hParts j.header)

def State.pkgSecRecs (s : State) (j : PkgJob) : List (List Byte) :=
  recs64 (s.rdMem (gaKey (kPkg j.desc + hSecOff j.header)) (64 * hSections j.header)) (hSections j.header)

/-- The length of the image of a section record of this chip's package. -/
def State.pkgImgLen (s : State) (j : PkgJob) (r : List Byte) : Nat := imgLen (s.rdMem (gaKey (kPkg j.desc + sImg r)) 64)

/-- The copies of the parts of the share that satisfy `p`. -/
def State.pkgParts (s : State) (j : PkgJob) (p : List Byte → Bool) : List PkgCopy :=
  ((s.pkgPartRecs j).filter (fun r => pShare r == kShare j.desc && p r)).map (fun r =>
    ⟨kPkg j.desc + pSrc r, (placeOf j.entry r none).1, pBytes r, pLayer r, true⟩)

/-- The copies of an INSTALL: the share's parts, then its section images. -/
def State.pkgWork (s : State) (j : PkgJob) : List PkgCopy :=
  s.pkgParts j (fun _ => true) ++ ((s.pkgSecRecs j).filter (fun r => sShare r == kShare j.desc)).map (fun r =>
    ⟨kPkg j.desc + sImg r, mT1 j.entry + sDest r, s.pkgImgLen j r, imageLayer, false⟩)

/-- The package passes the job: its digest is compared, and the verified list takes it (R352). -/
def State.pkgListed (s : State) (j : PkgJob) : State :=
  if kPkg j.desc = 0 then s
  else
    let l := s.pkg.verified.filter (fun v => v.1 != gaKey (kPkg j.desc)) ++ [(gaKey (kPkg j.desc), slice j.header 64 64)]
    s.setPkg (s.pkg.withVerified (l.drop (l.length - 64)))

def digestOk (h body : List Byte) : Bool := slice h 64 64 == toBe 64 (Config.sha3 body).toNat

/-- The status of a job whose package body has been read with status `st`. -/
def digestStatus (h : List Byte) (st : Nat) (body : List Byte) : Nat := if st ≠ 0 then st else if digestOk h body then 0 else St.pkgDigest

/-- INSTALL ends well: words, TARGET_GEN, LAYOUT and STATE READY (R353). -/
def State.installDone (s : State) (j : PkgJob) (placed : List Placed) : State :=
  let m := kModel j.desc
  let s := s.setPlaced placed (fun p => p.model == m)
  let s := (List.range (hLayers j.header)).foldl (fun (s : State) l => s.setWord j.entry l (hGen j.header)) s
  let s := (s.setModelF m 8 4 (hGen j.header)).setModelF m 40 8 (leAt j.header 128 8)
  (s.setModel m 2).pkgListed j

/-- The front job when it is running with operation `op` on a package of this chip; INSTALL and VERIFY of a chain pass by chunks instead. -/
def State.pkgRunning (s : State) (op : Nat) : Option PkgJob :=
  match s.pkg.jobs with
  | j :: _ => if j.ph = PkgPh.running ∧ kOp j.desc = op ∧ (op = 1 ∨ !kChain j.desc) then some j else none
  | [] => none

/-- The copies, the digest check and the end of an INSTALL (R353).
DEDUCED (log entry 51). -/
def execInstall (s : State) : Out :=
  match s.pkgRunning 0 with
  | none => .next s
  | some j =>
    let secs := s.pkgSecRecs j
    let placed := placedBy j (s.pkgPartRecs j) secs (secs.map (s.pkgImgLen j))
    match s.pkgCopies (kRegion j.desc) (s.pkgWork j) 0 0 with
    | .error p => .next (s.park p)
    | .ok (st, l, parts, bytes, s1) =>
      let j := j |>.withParts parts |>.withCopied bytes
      if st ≠ 0 then .next ((s1.tearModel (kModel j.desc) j.entry).pkgEnd j st l)
      else match s1.pkgRead j 256 (hBytes j.header - 256) with
        | .error p => .next (s.park p)
        | .ok (st, body, s2) =>
          let bad := digestStatus j.header st body
          if bad ≠ 0 then .next ((s2.tearModel (kModel j.desc) j.entry).pkgEnd j bad 0xFFFF)
          else .next ((s2.installDone j placed).pkgEnd j 0 0xFFFF)

/-- VERIFY hashes the package and places nothing (R352). -/
def execVerify (s : State) : Out :=
  match s.pkgRunning 2 with
  | none => .next s
  | some j =>
    match s.pkgRead j 256 (hBytes j.header - 256) with
    | .error p => .next (s.park p)
    | .ok (st, body, s1) =>
      let bad := digestStatus j.header st body
      if bad ≠ 0 then .next (s1.pkgEnd j bad 0xFFFF) else .next ((s1.pkgListed j).pkgEnd j 0 0xFFFF)

/-! ## SWAP (R359, R360) -/

/-- The chunks of a chain that a job still has to pass on. -/
def PkgJob.chunksLeft (j : PkgJob) : Bool := kChain j.desc && (j.passing || decide (2 ^ 22 * j.chunk < hBytes j.header))

/-- Every layer of a SWAP is done: the model is READY, and the job ends when it has no chunk left to pass on. -/
def State.swapDone (s : State) (j : PkgJob) : State :=
  let s := s.setModel (kModel j.desc) 2
  if j.chunksLeft then s.setFrontPkg j else s.pkgEnd j 0 0xFFFF

/-- The next layer of a SWAP whose word does not read the new GEN is written, once no run reads it; when none is left the model is READY
(R359, R360). -/
def execPkgSwapLayer (s : State) : Out :=
  match s.pkgRunning 1 with
  | none => .next s
  | some j =>
    let m := kModel j.desc
    let gen := hGen j.header
    match (List.range (hLayers j.header)).find? (fun l => s.genWord j.entry l != gen) with
    | none => .next (s.swapDone j)
    | some l =>
      let mine := fun r => pLayer r == l
      if (s.pkgParts j mine).any (fun c => s.rangeInUse c.dst c.bytes) then .next s
      else
        let placed := placedBy j ((s.pkgPartRecs j).filter mine) [] []
        let s1 := (s.setRf 0x30518 19 8 l).setWord j.entry l genWriting
        match s1.pkgCopies (kRegion j.desc) (s.pkgParts j mine) j.parts j.copied with
        | .error p => .next (s.park p)
        | .ok (st, _, n, bytes, s2) =>
          let j := j |>.withParts n |>.withCopied bytes |>.withLayer l
          if st ≠ 0 then .next ((s2.tearModel m j.entry).pkgEnd j st l)
          else
            let s2 := (placed.filter (·.comp)).foldl (fun (s : State) p => s.dropLines p.addr p.bytes) s2
            let s2 := (s2.setPlaced placed (fun p => p.model == m && p.layer == l)).setWord j.entry l gen
            if s2.allAt j.entry gen then .next (s2.swapDone j) else .next (s2.setFrontPkg j)

/-! ## Load chains (R355) -/

def chunkBytes : Nat := 2 ^ 22

/-- The records of a chain's package that have passed by byte `hi` and had not by byte `lo`: those of parts, and those of sections. -/
def chainRecs (j : PkgJob) (lo hi : Nat) : List (List Byte) × List (List Byte) :=
  let h := j.header
  let pick (off n : Nat) := (List.range n).filterMap (fun i =>
    let e := off + 64 * (i + 1)
    if lo < e ∧ e ≤ hi then some (slice j.seen (off + 64 * i) 64) else none)
  (pick (hPartOff h) (hParts h), pick (hSecOff h) (hSections h))

/-- The bytes of the share that chunk [lo, hi) holds, given the record positions known when `hi` bytes have passed; on the last chunk also
the parts whose records came after them. -/
def chainWork (j : PkgJob) (lo hi : Nat) (last : Bool) : List PkgCopy :=
  let h := j.header
  let recs := (List.range (hParts h)).filterMap (fun i =>
    let e := hPartOff h + 64 * (i + 1)
    let r := slice j.seen (hPartOff h + 64 * i) 64
    if e ≤ hi ∧ pShare r = kShare j.desc then some (e, pSrc r, (placeOf j.entry r none).1, pBytes r, pLayer r) else none)
  let secs := (List.range (hSections h)).filterMap (fun i =>
    let e := hSecOff h + 64 * (i + 1)
    let r := slice j.seen (hSecOff h + 64 * i) 64
    if e ≤ hi ∧ sShare r = kShare j.desc then
      some (max e (sImg r + 64), sImg r, mT1 j.entry + sDest r, imgLen (slice j.seen (sImg r) 64), imageLayer)
    else none)
  (recs ++ secs).filterMap (fun x =>
    let late := decide (x.1 > chunkBytes * (x.2.1 / chunkBytes + 1))
    let part := decide (x.2.2.2.2 ≠ imageLayer)
    if late then (if last then some ⟨x.2.1, x.2.2.1, x.2.2.2.1, x.2.2.2.2, part⟩ else none)
    else
      let a := max lo x.2.1
      let b := min hi (x.2.1 + x.2.2.2.1)
      if a < b then some ⟨a, x.2.2.1 + (a - x.2.1), b - a, x.2.2.2.2, part && decide (b = x.2.1 + x.2.2.2.1)⟩ else none)

/-- Copies whose source bytes have passed through the job. -/
def State.chainWrites (s : State) (g : Nat) (seen : List Byte) :
    List PkgCopy → Nat → Nat → Except Park (Nat × Nat × Nat × Nat × State)
  | [], parts, bytes => .ok (0, 0xFFFF, parts, bytes, s)
  | c :: rest, parts, bytes =>
    match s.writePieces [] (some g) (piecesAt c.dst (slice seen c.src c.bytes)) 0 with
    | .error p => .error p
    | .ok (st, done, s) =>
      if st ≠ 0 then .ok (st, c.layer, parts, bytes + done, s)
      else State.chainWrites s g seen rest (parts + c.whole.toNat) (bytes + done)

/-- A chunk is passed on to the slot that the successor has announced: the writes that are out and the first status of one that fails at once; none
while there is no tag. -/
def State.chainForward (s : State) (chip slot part : Nat) (bs : List Byte) : Option (Nat × Nat × State) :=
  (piecesAt slot bs).foldl (fun (acc : Option (Nat × Nat × State)) p =>
    acc.bind (fun (n, bad, s) => match s.sendOp chip 2 p.1 p.2.length p.2 part 0 .chain with
      | (.out _, s) => some (n + 1, bad, s)
      | (.now a, s) => some (n, if bad = 0 then a.status else bad, s)
      | (.full, _) => none)) (some (0, 0, s))

/-- The model of an INSTALL that fails is torn. -/
def State.tornBy (s : State) (j : PkgJob) : State := if kOp j.desc = 0 then s.tearModel (kModel j.desc) j.entry else s

/-- What a job of a chain that is not running yet finds in its first chunk: the checks of R351 over the records that the chunk holds. -/
def State.chainJudge (s : State) (j : PkgJob) (hi : Nat) : Nat :=
  if !pkgHeadOk j.header then St.pkgBad
  else
    let (parts, secs) := chainRecs j 0 hi
    s.pkgCheck j parts secs (secs.map (fun r => imgLen (slice j.seen (sImg r) 64)))

/-- What a running job of a chain finds in the records of a later chunk: they are checked when they have come (R351). -/
def State.chainLate (s : State) (j : PkgJob) (lo hi : Nat) : Nat :=
  let (parts, secs) := chainRecs j lo hi
  let imgs := secs.map (fun r => imgLen (slice j.seen (sImg r) 64))
  if !recsOk j.header parts secs imgs then St.pkgBad
  else if !s.placesOk j (sharePlaces j parts secs imgs) then St.pkgPlace
  else if kOp j.desc = 0 ∧ s.modelLoaded j secs then St.modelBusy
  else 0

/-- The chunk has been copied and passed on, both with OK: the job goes on, or its last chunk ends it as R352 and R353 state. A SWAP ends when its
layers are done too. -/
def State.chainNext (s : State) (j : PkgJob) : State :=
  let h := j.header
  if j.bad ≠ 0 then (s.tornBy j).pkgEnd j j.bad 0xFFFF
  else if j.chunksLeft then s.setFrontPkg j
  else if kOp j.desc = 1 then (if s.allAt j.entry (hGen h) then s.pkgEnd j 0 0xFFFF else s.setFrontPkg j)
  else if !digestOk h (slice j.seen 256 (hBytes h - 256)) then (s.tornBy j).pkgEnd j St.pkgDigest 0xFFFF
  else
    let (parts, secs) := chainRecs j 0 (hBytes h)
    let placed := placedBy j parts secs (secs.map (fun r => imgLen (slice j.seen (sImg r) 64)))
    (if kOp j.desc = 0 then s.installDone j placed else s.pkgListed j).pkgEnd j 0 0xFFFF

/-- A chunk `bs` from byte `lo` of the package at a running job: the share's bytes are copied and the chunk is passed on. -/
def State.chainTake (s : State) (j : PkgJob) (slot lo : Nat) (bs : List Byte) : Except Park State :=
  let d := j.desc
  let hi := min (lo + chunkBytes) (hBytes j.header)
  let last := decide (hi = hBytes j.header)
  match s.chainWrites (kRegion d) j.seen (if kOp d = 0 then chainWork j lo hi last else []) j.parts j.copied with
  | .error p => .error p
  | .ok (st, l, n, bytes, s) =>
    let j := j |>.withParts n |>.withCopied bytes |>.withPh .running |>.withChunk (j.chunk + 1)
    if st ≠ 0 then .ok ((s.tornBy j).pkgEnd j st l)
    else if kNext d = 0x3FFF then .ok (s.chainNext j)
    else match s.chainForward (kNext d) slot (s.partition (kRegion d)) (slice bs 0 (hi - lo)) with
      | none => .error .wait
      | some (away, bad, s) => .ok (s.setFrontPkg (j |>.withPassing true |>.withAway away |>.withBad bad))

/-- Where a job of a chain reads its next chunk: the package at the head, else the slot of its staging area. -/
def PkgJob.chunkAt (j : PkgJob) : Nat :=
  if kPkg j.desc ≠ 0 then kPkg j.desc + chunkBytes * j.chunk else kStage j.desc + chunkBytes * (j.chunk % kSlots j.desc)

/-- The next chunk is in its slot, or at the head is read from the package: the chip copies the bytes of its share and passes the chunk
to the slot at `slot` of its successor's staging area; the chunk is done, and its own slot free again, when the writes there are OK too (R355).
DEDUCED (log entry 51). -/
def execChainChunk (slot : Nat) (s : State) : Out :=
  match s.pkg.jobs with
  | [] => .next s
  | j :: _ =>
    let d := j.desc
    if d = [] ∨ !kChain d ∨ ¬ (j.ph = PkgPh.running ∨ (j.ph = PkgPh.posted ∧ kPkg d = 0)) ∨ (kOp d = 1 ∧ !j.chunksLeft) then .next s
    else if j.passing then (if j.away = 0 then .next (s.chainNext (j.withPassing false)) else .next s)
    else
      let lo := chunkBytes * j.chunk
      let total := if j.header = [] then chunkBytes else hBytes j.header
      match s.unitRead [] j.chunkAt (min chunkBytes (total - lo)) (some (kRegion d)) with
      | .error p => .next (s.park p)
      | .ok (st, bs, s1) =>
        if st ≠ 0 then .next ((if j.ph = PkgPh.running then s1.tornBy j else s1).pkgEnd j st 0xFFFF)
        else
          let j := j |>.withSeen (j.seen ++ bs) |>.withHeader (if j.header = [] then bs.take 256 else j.header) |>.withHeard s1.now
          let bad := if kPkg d ≠ 0 then 0 else if j.ph = PkgPh.running then s1.chainLate j lo (lo + bs.length) else s1.chainJudge j bs.length
          if bad ≠ 0 then .next ((if j.ph = PkgPh.running then s1.tornBy j else s1).pkgEnd j bad 0xFFFF)
          else match (if j.ph = PkgPh.running then s1 else s1.pkgGo j).chainTake j slot lo bs with
            | .error p => .next (s.park p)
            | .ok s2 => .next s2

/-- The predecessor has been silent for 2 ms (R355).
DEDUCED (log entry 71). -/
def execChainLost (s : State) : Out :=
  match s.pkg.jobs with
  | [] => .next s
  | j :: _ =>
    if j.desc = [] ∨ kFrom j.desc = 0x3FFF ∨ j.ph = PkgPh.ended ∨ s.now < j.heard + 8000000 then .next s
    else
      let s := if j.ph = PkgPh.running then s.tornBy j else s
      .next (s.pkgEnd j St.chainLost 0xFFFF)

/-! ## End (R354) -/

/-- The front job that has ended posts its completion, and the next job reaches the front.
DEDUCED (log entry 51). -/
def execPkgJobEnd (s : State) : Out :=
  match s.pkg.jobs with
  | [] => .next s
  | j :: rest =>
    if j.ph ≠ PkgPh.ended then .next s
    else
      let s := s.postEvent (s.evRoute 4) 0x07 16 0xFF 0
        (toLe 8 s.now ++ toLe 4 (kJob j.desc) ++ toLe 1 j.status ++ toLe 3 0 ++ toLe 4 j.parts ++ toLe 2 j.failed ++ toLe 2 0 ++ toLe 8 j.copied)
      let s := s.count 0x30518 47 32 1
      let s := if j.status = 0 then s else s.count 0x30518 63 48 1
      .next (s.setPkg (s.pkg.withJobs rest))

/-! ## Veils (R279) -/

def State.veilBase (s : State) : W64 := s.reg 0x30400
def State.veilEntry (s : State) (v : Nat) : List Byte :=
  if v < s.rf 0x30408 12 0 then s.tableEntry s.veilBase v else List.replicate 64 0

def State.judgeVeilPrime (s : State) (w : W64) : Nat × State :=
  let v := fld w 11 0
  let e := s.veilEntry v
  if !entValid e then (St.veilInvalid, s)
  else if leAt e 48 1 = 1 then (St.veilBusy, s)
  else (0, s.setEntry s.veilBase v 48 1 1)

def execSrvVeilPrime (w : W64) (s : State) : Out := regRow s 0x30410 (fun s => s.judgeVeilPrime w)

/-- Priming of veil v by the model at table index m has ended: READY with MODEL_GEN and PRIMED_AT, or FAILED (R279).
DESIGN CHOICE (log entry 2). -/
def execVeilPrimed (v m : Nat) (ok : Bool) (s : State) : Out :=
  let e := s.veilEntry v
  if leAt e 48 1 ≠ 1 then .next s
  else
    let x := s.modelEntry m
    if ok ∧ entValid x ∧ leAt x 4 4 = leAt e 4 4 ∧ (mState x = 2 ∨ mState x = 3) then
      let s := (s.setEntry s.veilBase v 8 4 (mTarget x)).setEntry s.veilBase v 52 8 s.now
      .next (s.setEntry s.veilBase v 48 1 2)
    else .next (s.setEntry s.veilBase v 48 1 3)

end Sys2Proof.Machine
end

