-- ==== Sys2Proof/Machine/Intake.lean ====
section
/-! DEFINITION. The serving engine's frames, tables, intake and echo filter (R365-R385, R398, R399). -/
namespace Sys2Proof.Machine

def State.setSrv (s : State) (v : SrvSt) : State := s.withSrv v

/-! ## Frames (R366, R373) -/

/-- The 32-byte header of an outbound frame as it is queued: TIME and UNCERTAIN are written when it is sent. -/
def srvHeader (type len tenant flags frag id seqno dest : Nat) : List Byte :=
  toBe 1 1 ++ toBe 1 type ++ toBe 2 len ++ toBe 2 tenant ++ toBe 1 flags ++ toBe 1 frag ++ toBe 8 id ++ toBe 8 0 ++ toBe 4 seqno ++
    toBe 2 dest ++ toBe 2 0

def vType (b : List Byte) : Nat := beAt b 1 1
def vTenant (b : List Byte) : Nat := beAt b 4 2
def vId (b : List Byte) : Nat := beAt b 8 8

/-- A serving frame as it is sent now: TIME and UNCERTAIN (R366). -/
def State.stampServe (s : State) (b : List Byte) : List Byte :=
  overlay (overlay b 16 (toBe 8 s.now)) 6 (toBe 1 (beAt b 6 1 % 2 + 2 * s.uncertain.toNat))

/-- Serving frames may be sent in UDP, or directly in Ethernet (R365). -/
def State.carriageOn (s : State) (udp : Bool) : Bool := if udp then s.rb 0x30078 33 else s.rb 0x30078 32

/-- An ANSWER or RESULT goes back to the source of the frame, by the same carriage on the same port and with its tag (R368, R444). -/
def State.srvAnswer (s : State) (f : InFrame) (type tenant id : Nat) (body : List Byte) : State :=
  if !s.carriageOn f.udp.isSome then s
  else s.queueOut f.egress
    { kind := .serve, tc := s.classOf f.egress .serve, mac := f.src
      vlan := match f.vlan with
        | some t => .tci t
        | none => .bare
      udp := f.udp, flow := 0, body := srvHeader type body.length tenant 1 0 id 0 0 ++ body, born := none }

/-- An ANSWER. -/
def State.answerReq (s : State) (f : InFrame) (status fin seq next first count : Nat) : State :=
  s.srvAnswer f 0x11 (vTenant f.bytes) (vId f.bytes)
    (toBe 1 status ++ toBe 1 fin ++ toBe 2 seq ++ toBe 4 next ++ toBe 4 first ++ toBe 2 count ++ toBe 2 0)

/-- The header rules of R367. -/
def srvHeadOk (b : List Byte) : Bool :=
  decide (32 ≤ b.length) && decide (beAt b 0 1 = 1) && decide (1 ≤ vType b ∧ vType b ≤ 3) && decide (beAt b 2 2 = b.length - 32) &&
    decide (beAt b 7 1 = 0) && decide (beAt b 6 1 % 2 = 1) && decide (beAt b 6 1 < 4) && decide (vTenant b < 4096) && decide (beAt b 30 2 = 0)

/-! ## Tables (R379-R383) -/

def tenantBase : Nat := 0x30028
def destBase : Nat := 0x30038
def gramBase : Nat := 0x30048

/-- The entry of a table, not VALID beyond its limit. -/
def State.srvEntry (s : State) (base limit hi i : Nat) : List Byte :=
  if i < s.rf limit hi 0 then s.tableEntry (s.reg base) i else List.replicate 64 0
def State.tenant (s : State) (i : Nat) : List Byte := s.srvEntry tenantBase 0x30030 12 i
def State.destEnt (s : State) (i : Nat) : List Byte := s.srvEntry destBase 0x30040 12 i
def State.gramEnt (s : State) (i : Nat) : List Byte := s.srvEntry gramBase 0x30050 12 i

/-- The entry as the steps use it: what a TABLE_SYNC has brought counts from the next boundary on (R381). -/
def State.stepSrv (s : State) (base limit hi i : Nat) : List Byte :=
  if i < s.rf limit hi 0 then s.stepEntry (s.reg base) i else List.replicate 64 0
def State.stepTenant (s : State) (i : Nat) : List Byte := s.stepSrv tenantBase 0x30030 12 i
def State.stepDest (s : State) (i : Nat) : List Byte := s.stepSrv destBase 0x30040 12 i
def State.stepGram (s : State) (i : Nat) : List Byte := s.stepSrv gramBase 0x30050 12 i

def State.setTenant (s : State) (i o n v : Nat) : State := s.setEntry (s.reg tenantBase) i o n v

/-- `v` added to a status field of a tenant entry, which saturates. -/
def State.addTenant (s : State) (i o n v : Nat) : State :=
  s.setTenant i o n (satAdd (leAt (s.tenant i) o n) v (2 ^ (8 * n) - 1))
def State.subTenant (s : State) (i o n v : Nat) : State := s.setTenant i o n (leAt (s.tenant i) o n - v)

def nWeight (e : List Byte) : Nat := leAt e 2 1
def nRate (e : List Byte) : Nat := leAt e 4 4
def nBurst (e : List Byte) : Nat := leAt e 8 4
def nQuantum (e : List Byte) : Nat := leAt e 12 4
def nMaxPending (e : List Byte) : Nat := leAt e 16 2
def nMaxRunning (e : List Byte) : Nat := leAt e 18 2
def nLevel (e : List Byte) : Nat := leAt e 32 4
def nDeficit (e : List Byte) : Nat := leAt e 36 4
def nPending (e : List Byte) : Nat := leAt e 40 2
def nRunning (e : List Byte) : Nat := leAt e 42 2

/-! ## Sequence entries (R382) -/

/-- Where sequence entry i stands; the entry is in this chip's T1, and is read and written at its home (R316, R320). -/
def State.seqAddr (s : State) (i : Nat) : Nat := (s.reg 0x30020).toNat + 256 * i
def State.seqKey (s : State) (i : Nat) : Nat := (s.tableKey true (s.seqAddr i) 5).getD (gaKey (s.seqAddr i))
def State.seqF (s : State) (i o n : Nat) : Nat := s.rdLe (s.seqKey i + o) n
def State.setSeqF (s : State) (i o n v : Nat) : State := s.cavorWrite none (s.seqAddr i + o) n v

def State.qState (s : State) (i : Nat) : Nat := s.seqF i 2 1
def State.qTenant (s : State) (i : Nat) : Nat := s.seqF i 4 2
def State.qModel (s : State) (i : Nat) : Nat := s.seqF i 6 2
def State.qId (s : State) (i : Nat) : Nat := s.seqF i 8 8
def State.qVeil (s : State) (i : Nat) : Nat := s.seqF i 22 2
def State.qDest (s : State) (i : Nat) : Nat := s.seqF i 24 2
def State.qFlags (s : State) (i : Nat) : Nat := s.seqF i 26 1
def State.qPrompt (s : State) (i : Nat) : Nat := s.seqF i 88 4
def State.qFilled (s : State) (i : Nat) : Nat := s.seqF i 92 4
def State.qMade (s : State) (i : Nat) : Nat := s.seqF i 104 4
def State.qPos (s : State) (i : Nat) : Nat := s.seqF i 108 4
def State.qVeiled (s : State) (i : Nat) : Bool := decide (s.qVeil i ≥ 2 ^ 15)
def State.qMask (s : State) (i : Nat) : Nat := s.qFlags i / 16 % 4

/-- The result ring of a sequence: 256 slots of 4 bytes (R372). -/
def State.ringAddr (s : State) (i slot : Nat) : Nat := (s.reg 0x30068).toNat + 1024 * i + 4 * (slot % 256)
def State.ringTok (s : State) (i slot : Nat) : Nat := leAt (s.cavorRead (s.ringAddr i slot) 4) 0 4

/-- VOCAB, page size and MAX_POS of model m (R385). -/
def State.vocab (s : State) (m : Nat) : Nat := s.rf (0x31000 + 8 * m) 17 0 + 1
def State.pageSize (s : State) (m : Nat) : Nat := 2 ^ s.rf (0x31000 + 8 * m) 23 20
def State.maxPos (s : State) (m : Nat) : Nat := s.rf (0x31000 + 8 * m) 52 32

/-- The sequences in a state. -/
def State.seqsIn (s : State) (st : Nat) : List Nat := s.srv.seqs.filter (fun i => s.qState i == st)

/-- USERS of a veil or grammar entry. -/
def State.veilUsers (s : State) (v : Nat) (up : Bool) : State :=
  let n := leAt (s.veilEntry v) 50 2
  s.setEntry s.veilBase v 50 2 (if up then min 0xFFFF (n + 1) else n - 1)
def State.gramUsers (s : State) (k : Nat) (up : Bool) : State :=
  let n := leAt (s.gramEnt k) 48 4
  s.setEntry (s.reg gramBase) k 48 4 (if up then n + 1 else n - 1)

/-! ## Destinations (R365, R380, R397, R458) -/

/-- A port of the emitter: its link is up, and it is not drained. -/
def State.emits (s : State) (e : Nat) : Bool := s.linkUp e && !s.rb (egSub e 0) 17

/-- A frame to a destination leaves by its port and carriage; none when no port takes it. -/
def State.srvEgress (s : State) (d : List Byte) : Option Nat :=
  let p := leAt d 4 1
  if !s.carriageOn (decide (leAt d 0 1 / 2 % 2 = 1)) then none
  else if p % 2 = 1 ∧ s.emits (34 * 8) then some (34 * 8) else if p / 2 % 2 = 1 ∧ s.emits (35 * 8) then some (35 * 8) else none

/-- A STEP or GAP frame for destination entry `d`. -/
def State.serveFrame (s : State) (e : Nat) (d b : List Byte) : OutFrame :=
  { kind := .serve, tc := s.classOf e .serve, mac := beAt d 8 6
    vlan := if leAt d 6 2 = 0 then .bare else .tci (leAt d 6 2)
    udp := if leAt d 0 1 / 2 % 2 = 1 then some (slice d 16 16, leAt d 14 2) else none
    flow := 0, body := b, born := none }

/-- A destination's gap with another one joined: of frames dropped one after another. -/
def joinGap (g : Gap) (l : List Gap) : List Gap :=
  match l.find? (fun x => x.dest == g.dest) with
  | some x => l.map (fun y => if y.dest = g.dest then Gap.mk g.dest (min g.first x.first) (if x.first < g.first then x.step else g.step) (g.count + x.count) else y)
  | none => l ++ [g]

/-- The state after a frame for destination k has been dropped with the SEQNO it was given. -/
def State.dropFrame (s : State) (k seqno step : Nat) : State :=
  let s := s.setEntry (s.reg destBase) k 44 4 (satAdd (leAt (s.stepDest k) 44 4) 1 0xFFFFFFFF)
  s.setSrv (s.srv.withGaps (joinGap ⟨k, seqno, step, 1⟩ s.srv.gaps))

/-- The destination and SEQNO of a queued STEP frame's fragment, with its step. -/
def stepFrag (f : OutFrame) : Option (Nat × Nat × Nat) :=
  if f.kind = OutKind.serve ∧ beAt f.body 1 1 = 0x12 then some (beAt f.body 28 2, beAt f.body 24 4, beAt f.body 8 8) else none

/-- Queued frames that will not be sent: each STEP frame of which a fragment is among them is dropped, and what a GAP frame among them says is
owed again (R395, R397). -/
def State.loseFrames (s : State) (l : List OutFrame) : State :=
  let s := (l.filterMap stepFrag).eraseDups.foldl (fun (s : State) x => s.dropFrame x.1 x.2.1 x.2.2) s
  (l.filter (fun f => f.kind == .serve && beAt f.body 1 1 == 0x13)).foldl (fun (s : State) f =>
    s.setSrv (s.srv.withGaps (joinGap ⟨beAt f.body 28 2, beAt f.body 24 4, beAt f.body 8 8, beAt f.body 32 4⟩ s.srv.gaps))) s

/-- A fragment of a STEP frame has been handed to the MAC: with its last one the frame counts as sent. -/
def State.fragSent (s : State) (f : OutFrame) : State :=
  match stepFrag f with
  | some x =>
    if beAt f.body 6 1 % 2 = 1 then s.setEntry (s.reg destBase) x.1 48 4 (satAdd (leAt (s.stepDest x.1) 48 4) 1 0xFFFFFFFF) else s
  | none => s

/-! ## Echo filter (R377) -/

def State.echoOf (s : State) (tenant id : Nat) : Option Echo := s.srv.echo.find? (fun e => e.tenant == tenant && e.id == id)

/-- The pair's window has passed.
DEDUCED (log entry 71). -/
def State.echoOver (s : State) (e : Echo) : Bool := match e.ended with
  | some t => decide (s.now ≥ t + 4000000000 * s.rf 0x30058 9 0)
  | none => false

/-- The entry of a pair has been taken again by another request. -/
def State.reused (s : State) (e : Echo) : Bool := decide (s.seqF e.seq 1 1 ≠ e.gen)

/-! ## Intake (R370, R371) -/

/-- The body of a REQUEST. -/
def qBody (b : List Byte) : List Byte := b.drop 32
def bModel (q : List Byte) : Nat := beAt q 0 2
def bTint (q : List Byte) : Nat := beAt q 2 2
def bVeil (q : List Byte) : Nat := beAt q 4 2
def bFlags (q : List Byte) : Nat := beAt q 6 1
def bDest (q : List Byte) : Nat := beAt q 8 2
def bLen (q : List Byte) : Nat := beAt q 36 4
def bByref (q : List Byte) : Bool := decide (bFlags q / 4 % 2 = 1)
def bMask (q : List Byte) : Nat := bFlags q / 16 % 4
def bMaskIdx (q : List Byte) : Nat := beAt q 48 4
def bMaskRef (q : List Byte) : Nat := beAt q 56 8
def bStops (q : List Byte) : List Nat := (List.range 4).map (fun i => beAt q (64 + 4 * i) 4)
def bTokens (q : List Byte) : List Nat := if bByref q then [] else (List.range (bLen q)).map (fun i => beAt q (96 + 4 * i) 4)
def bVeiled (q : List Byte) : Bool := decide (bVeil q ≥ 2 ^ 15)

/-- Order 1 of Table 13.3 passes. -/
def bodyOk (q : List Byte) : Bool :=
  decide (96 + (if bByref q then 0 else 4 * bLen q) ≤ q.length) && decide (bVeil q / 2 ^ 12 % 8 = 0) && decide (bFlags q / 8 % 2 = 0) &&
    decide (bFlags q < 64) && zeros (slice q 7 1) && zeros (slice q 52 4) && zeros (slice q 80 16) && decide (bMask q ≠ 3)

/-- Order 7: the tint may not be named. A die without a tint table ignores the tint (R420). -/
def State.tintDenied (s : State) (e : List Byte) (t : Nat) : Bool :=
  let dies := (List.range 16).filter (fun n => decide (s.reg (cdOff n 0x3408) ≠ 0))
  !(decide (leAt e 20 2 ≤ t ∧ t < leAt e 20 2 + leAt e 22 2)) || dies.isEmpty ||
    dies.any (fun n => decide (t ≥ s.rf (cdOff n 0x3410) 16 0) || !entValid (s.tableEntry (s.reg (cdOff n 0x3408)) t))

/-- Order 8 (R280): the status, 0 when the veil is accepted. -/
def State.veilStatus (s : State) (v tenant : Nat) (model : List Byte) : Nat :=
  let e := s.veilEntry v
  if !entValid e then 0x15
  else if leAt e 0 1 / 2 % 2 = 0 ∧ leAt e 12 2 ≠ tenant then 0x16
  else if leAt e 4 4 ≠ leAt model 4 4 then 0x21
  else if leAt e 48 1 = 0 ∨ leAt e 48 1 = 3 then 0x18
  else if leAt e 48 1 = 4 then 0x22
  else if leAt e 48 1 = 2 ∧ leAt e 8 4 ≠ mTarget model then 0x22
  else 0

/-- A READY veil whose MODEL_GEN is not the model's target becomes STALE (R280, order 7). -/
def State.veilStale (s : State) (v : Nat) (model : List Byte) : State :=
  let e := s.veilEntry v
  if leAt e 48 1 = 2 ∧ leAt e 8 4 ≠ mTarget model then s.setEntry s.veilBase v 48 1 4 else s

/-- Order 9. -/
def State.maskBad (s : State) (q : List Byte) (tenant : Nat) : Bool :=
  match bMask q with
  | 1 =>
    let e := s.gramEnt (bMaskIdx q)
    !entValid e || decide (leAt e 2 2 ≠ bModel q) || decide (leAt e 0 1 / 2 % 2 = 0 ∧ leAt e 12 2 ≠ tenant)
  | 2 => decide (bMaskRef q = 0 ∨ bMaskRef q % 8 ≠ 0)
  | _ => false

/-- Order 10. -/
def State.paramBad (s : State) (q : List Byte) : Bool :=
  let temp := beAt q 12 4
  let top := f32 (beAt q 16 4)
  let min := f32 (beAt q 20 4)
  let finite (x : FVal) : Bool := match x with
    | .fin _ _ _ => true
    | _ => false
  let v := s.vocab (bModel q)
  decide (beAt q 10 2 > 1024) || !finite (f32 temp) || decide (temp ≥ 2 ^ 31) || !finite top || decide (cmpV top (f32 0) ≤ 0) ||
    decide (cmpV top (f32 0x3F800000) > 0) || !finite min || decide (cmpV min (f32 0) < 0) || decide (cmpV min (f32 0x3F800000) ≥ 0) ||
    decide (beAt q 32 4 = 0) || decide (bLen q = 0) || (!bByref q && decide (bLen q > 2048)) ||
    (if bByref q then decide (beAt q 40 8 % 4 ≠ 0) else decide (beAt q 40 8 ≠ 0)) ||
    (match bMask q with
      | 0 => decide (bMaskIdx q ≠ 0 ∨ bMaskRef q ≠ 0)
      | 1 => decide (bMaskRef q ≠ 0)
      | _ => decide (bMaskIdx q = 0 ∨ bMaskIdx q > 4096)) ||
    (bTokens q).any (fun t => decide (t ≥ v)) || (bStops q).any (fun t => decide (t ≠ 0xFFFFFFFF ∧ t ≥ v))

/-- The positions that a veil puts before the prompt. -/
def State.veilLen (s : State) (veil : Nat) : Nat := if veil ≥ 2 ^ 15 then leAt (s.veilEntry (veil % 4096)) 2 2 else 0

/-- The lowest number that a rising list does not hold. -/
def firstFree : List Nat → Nat → Nat
  | [], n => n
  | x :: xs, n => if x = n then firstFree xs (n + 1) else n

/-- The entry that a new sequence takes: the lowest FREE one, else the ENDED one with the earliest END_TIME (R372). -/
def State.freeSeq (s : State) : Option Nat :=
  let n := firstFree s.srv.seqs 0
  if n < 65536 then some n
  else (s.seqsIn 4).foldl (fun b i => match b with
    | none => some i
    | some j => if s.seqF i 136 8 < s.seqF j 136 8 then some i else some j) none

/-- The first status of Table 13.3 from order 4 on that applies, or 0. -/
def State.reqStatus (s : State) (b : List Byte) : Nat :=
  let q := qBody b
  let t := vTenant b
  let e := s.tenant t
  let m := s.modelEntry (bModel q)
  let d := s.destEnt (bDest q)
  let veil := if bVeiled q then s.veilStatus (bVeil q % 4096) t m else 0
  if s.rb 0x30000 1 then 0x12
  else if !entValid m ∨ ¬ (mState m = 2 ∨ mState m = 3) then 0x13
  else if !entValid d ∨ (leAt d 0 1 / 4 % 2 = 0 ∧ leAt d 2 2 ≠ t) then 0x14
  else if bFlags q % 2 = 1 ∧ s.tintDenied e (bTint q) then 0x20
  else if veil ≠ 0 then veil
  else if s.maskBad q t then 0x19
  else if s.paramBad q then 0x1A
  else if s.veilLen (bVeil q) + bLen q + beAt q 32 4 > s.maxPos (bModel q) then 0x1B
  else if s.freeSeq.isNone then 0x1C
  else if s.srv.echo.length ≥ 1048576 ∧ !s.srv.echo.any (fun x => s.echoOver x) then 0x1D
  else if nPending e ≥ nMaxPending e then 0x1E
  else if nLevel e < bLen q * nWeight e then 0x1F
  else 0

/-- The 256 bytes of a new entry (R382). -/
def State.newSeq (s : State) (i gen : Nat) (b : List Byte) : List Byte :=
  let q := qBody b
  let m := bModel q
  let start := if bMask q = 1 then leAt (s.gramEnt (bMaskIdx q)) 8 4 else 0
  toLe 1 1 ++ toLe 1 gen ++ toLe 1 1 ++ toLe 1 0 ++ toLe 2 (vTenant b) ++ toLe 2 m ++ toLe 8 (vId b) ++
    toLe 4 (mTarget (s.modelEntry m)) ++ toLe 2 (bTint q) ++ toLe 2 (bVeil q) ++ toLe 2 (bDest q) ++ toLe 1 (bFlags q) ++ toLe 1 0 ++
    toLe 4 (bMaskIdx q) ++ toLe 8 (bMaskRef q) ++ toLe 4 start ++ toLe 4 (beAt q 12 4) ++ toLe 4 (beAt q 16 4) ++ toLe 4 (beAt q 20 4) ++
    toLe 2 (beAt q 10 2) ++ toLe 2 0 ++ toLe 4 (beAt q 32 4) ++ toLe 8 (beAt q 24 8) ++ (bStops q).flatMap (toLe 4) ++ toLe 4 (bLen q) ++
    toLe 4 0 ++ toLe 8 (if bByref q then beAt q 40 8 else (s.reg 0x30070).toNat + 8192 * i) ++ toLe 4 0 ++
    toLe 4 (s.veilLen (bVeil q)) ++ toLe 8 0 ++ toLe 4 0 ++ toLe 4 0 ++ toLe 8 s.now ++ toLe 8 0 ++ toLe 8 0 ++ toLe 4 0 ++
    List.replicate 100 0

/-- The request is accepted (R371): charge, entry, prompt, echo pair, ANSWER. -/
def State.acceptReq (s : State) (f : InFrame) (i : Nat) : State :=
  let b := f.bytes
  let q := qBody b
  let t := vTenant b
  let charge := bLen q * nWeight (s.tenant t)
  let gen := (s.seqF i 1 1 + 1) % 256
  let s := ((s.subTenant t 32 4 charge).addTenant t 48 8 charge).addTenant t 40 2 1
  let s := s.cavorBytes (s.seqAddr i) (s.newSeq i gen b)
  let s := if bByref q then s else s.cavorBytes ((s.reg 0x30070).toNat + 8192 * i) ((bTokens q).flatMap (toLe 4))
  let s := if bMask q = 1 then s.gramUsers (bMaskIdx q) true else s
  let keep := if s.srv.echo.length ≥ 1048576 then s.srv.echo.filter (fun x => !s.echoOver x) else s.srv.echo
  let s := s.setSrv (s.srv |>.withSeqs (insertNat i s.srv.seqs) |>.withEcho (keep ++ [⟨t, vId b, i, gen, none⟩]) |>.withCharges ((i, charge) :: s.srv.charges.filter (fun e => e.1 != i)))
  (s.count 0x30088 31 0 1).answerReq f 0 0 i 0 0 0

/-- What DONE and ATTACHED say of a pair (R373, R377). -/
def State.answerEcho (s : State) (f : InFrame) (e : Echo) : State :=
  if e.ended.isNone then s.answerReq f 1 0 e.seq (s.qMade e.seq) 0 0
  else if s.reused e then s.answerReq f 2 0 e.seq 0 0 0
  else
    let n := s.qMade e.seq
    s.answerReq f 2 (s.seqF e.seq 3 1) e.seq 0 (n - 256) (min n 256)

/-- The front inbound frame leaves the list. -/
def State.popSrv (s : State) : State := s.withNet (s.net.withSrvIn (s.net.srvIn.drop 1))

/-- A refused request of a valid tenant is counted in its entry and in REFUSED. -/
def State.refuseReq (s : State) (f : InFrame) (status : Nat) (tenant : Bool) : State :=
  let s := if tenant then s.addTenant (vTenant f.bytes) 44 4 1 else s
  (s.count 0x30088 47 32 1).answerReq f status 0 0 0 0 0

/-- The intake handles the REQUEST at the front (R371, R372, R377).
DEDUCED (log entry 50). -/
def execRequest (s : State) : Out :=
  match s.net.srvIn with
  | [] => .next s
  | f :: _ =>
    let b := f.bytes
    if !s.rb 0x30000 0 || !srvHeadOk b || vType b != 1 then .next s
    else
      let s := s.popSrv
      let q := qBody b
      if !bodyOk q then .next (s.refuseReq f 0x10 false)
      else if !entValid (s.tenant (vTenant b)) then .next (s.refuseReq f 0x11 false)
      else match s.echoOf (vTenant b) (vId b) with
        | some e => .next (s.answerEcho f e)
        | none =>
          let st := s.reqStatus b
          if st ≠ 0 then
            let s := if st = 0x22 ∧ bVeiled q then s.veilStale (bVeil q % 4096) (s.modelEntry (bModel q)) else s
            .next (s.refuseReq f st true)
          else match s.freeSeq with
            | some i => .next (s.acceptReq f i)
            | none => .next s

/-- The intake handles the CANCEL at the front (R375). -/
def execCancel (s : State) : Out :=
  match s.net.srvIn with
  | [] => .next s
  | f :: _ =>
    let b := f.bytes
    if !s.rb 0x30000 0 || !srvHeadOk b || vType b != 2 then .next s
    else
      let s := s.popSrv
      if !entValid (s.tenant (vTenant b)) then .next (s.refuseReq f 0x11 false)
      else match s.echoOf (vTenant b) (vId b) with
        | none => .next (s.answerReq f 3 0 0 0 0 0)
        | some e =>
          if e.ended.isSome then .next (s.answerEcho f e)
          else .next ((s.setSeqF e.seq 27 1 1).answerReq f 0 0 e.seq 0 0 0)

/-- The intake handles the FETCH at the front; one without its FROM is refused at order 1 (R371, R376). -/
def execFetch (s : State) : Out :=
  match s.net.srvIn with
  | [] => .next s
  | f :: _ =>
    let b := f.bytes
    if !s.rb 0x30000 0 || !srvHeadOk b || vType b != 3 then .next s
    else
      let s := s.popSrv
      if b.length < 36 then .next (s.refuseReq f 0x10 false)
      else if !entValid (s.tenant (vTenant b)) then .next (s.refuseReq f 0x11 false)
      else match s.echoOf (vTenant b) (vId b) with
        | none => .next (s.answerReq f 3 0 0 0 0 0)
        | some e =>
          let n := if s.reused e then 0 else s.qMade e.seq
          let from_ := beAt b 32 4
          let first := max from_ (n - 256)
          let count := if first ≥ n then 0 else n - first
          let toks := (List.range count).flatMap (fun k => toBe 4 (s.ringTok e.seq (first + k)))
          let fin := if s.reused e then 0 else s.seqF e.seq 3 1
          .next (s.srvAnswer f 0x14 (vTenant b) (vId b) (toBe 4 first ++ toBe 2 count ++ toBe 1 fin ++ toBe 1 0 ++ toks))

/-- An inbound frame that breaks the header rules is dropped and counted, and answered when it is long enough and inbound; while ENABLE is
0 every frame is dropped and counted (R367). -/
def execServingFrameBad (s : State) : Out :=
  match s.net.srvIn with
  | [] => .next s
  | f :: _ =>
    let b := f.bytes
    if !s.rb 0x30000 0 then .next (s.popSrv.count 0x30088 63 48 1)
    else if srvHeadOk b then .next s
    else
      let s := s.popSrv.count 0x30088 63 48 1
      if b.length ≥ 32 ∧ 1 ≤ vType b ∧ vType b ≤ 3 then .next (s.answerReq f 0x10 0 0 0 0 0) else .next s

/-- WINDOW seconds after its sequence ended a pair expires (R377). -/
def execEchoExpiry (tenant id : Nat) (s : State) : Out :=
  .next (s.setSrv (s.srv.withEcho (s.srv.echo.filter (fun e => !(e.tenant == tenant && e.id == id && s.echoOver e)))))

end Sys2Proof.Machine
end

