-- ==== Sys2Proof/Machine/Egress.lean ====
section
/-! DEFINITION. What leaves a sub-port: the order of classes, encapsulation, congestion marks, MACsec, and PFC as it is received and sent
(R440, R443, R444, R446-R449, R451, R452, R454, R458, R463). -/
namespace Sys2Proof.Machine

/-! ## Checks of frames and packets -/

/-- One bit of the reflected CRC with the polynomial of IEEE 802.3. -/
def fcsBit (c : Nat) : Nat := if c % 2 = 1 then (c / 2) ^^^ 0xEDB88320 else c / 2
def fcsByte (c : Nat) (b : Byte) : Nat :=
  let x := c ^^^ b.toNat
  fcsBit (fcsBit (fcsBit (fcsBit (fcsBit (fcsBit (fcsBit (fcsBit x)))))))

/-- The CRC register after a byte string. The match makes each step a number before the next byte. -/
def fcsList : List Byte → Nat → Nat
  | [], c => c
  | b :: bs, c =>
    match fcsByte c b with
    | 0 => fcsList bs 0
    | n + 1 => fcsList bs (n + 1)

/-- The four bytes of the FCS as they are sent. -/
def fcs (bs : List Byte) : List Byte := toLe 4 (fcsList bs 0xFFFFFFFF ^^^ 0xFFFFFFFF)

/-- The sum of big-endian 16-bit words. -/
def wordSum : List Byte → Nat
  | [] => 0
  | [a] => 256 * a.toNat
  | a :: b :: r => 256 * a.toNat + b.toNat + wordSum r

/-- The one's complement fold to 16 bits. -/
def fold16 (n : Nat) : Nat :=
  let a := n % 65536 + n / 65536
  let b := a % 65536 + a / 65536
  b % 65536 + b / 65536

/-- The pseudo-header of RFC 8200. -/
def pseudo (src dst : List Byte) (len next : Nat) : List Byte := src ++ dst ++ toBe 4 len ++ toBe 4 next

/-- The checksum that belongs in a datagram whose checksum bytes are 0; UDP sends 0 as 0xFFFF. -/
def checksum (src dst : List Byte) (next : Nat) (d : List Byte) : Nat :=
  let c := 0xFFFF - fold16 (wordSum (pseudo src dst d.length next) + wordSum d)
  if next = 17 ∧ c = 0 then 0xFFFF else c

/-- A received datagram's checksum is right. -/
def checksumOk (src dst : List Byte) (next : Nat) (d : List Byte) : Bool :=
  decide (fold16 (wordSum (pseudo src dst d.length next) + wordSum d) = 0xFFFF)

/-! ## Registers of a sub-port (R461, R462) -/

def subCfg (e : Nat) : Nat := egSub e 0
def subStat (e : Nat) : Nat := egSub e 8
def State.subMac (s : State) (e : Nat) : Nat := s.rf (egSub e 0x10) 47 0
/-- PORT_SUB_IP, most significant byte first. -/
def State.subIp (s : State) (e : Nat) : List Byte := toBe 8 (s.reg (egSub e 0x20)).toNat ++ toBe 8 (s.reg (egSub e 0x28)).toNat
def State.hasIp (s : State) (e : Nat) : Bool := decide (s.reg (egSub e 0x20) ≠ 0 ∨ s.reg (egSub e 0x28) ≠ 0)
/-- A counter of Table 15.7. -/
def State.tally (s : State) (e o n : Nat) : State := s.count (egSub e o) 47 0 n

def State.feedLow (s : State) (p : Nat) : Bool := s.rb (portOff p 8) 16

/-! ## MACsec (R449, R451, R452) -/

/-- The registers of SA `sa` = 4 × SC + AN of egress e. -/
def saReg (e sa o : Nat) : Nat := egSub e (0x400 + (o + 0x40 * sa))

def State.saKey (s : State) (e sa : Nat) : BitVec 256 :=
  BitVec.ofNat 256 ((s.reg (saReg e sa 0x10)).toNat + 2 ^ 64 * (s.reg (saReg e sa 0x18)).toNat +
    2 ^ 128 * (s.reg (saReg e sa 0x20)).toNat + 2 ^ 192 * (s.reg (saReg e sa 0x28)).toNat)

/-- Salt and SSCI. -/
def State.saSalt (s : State) (e sa : Nat) : BitVec 128 :=
  BitVec.ofNat 128 ((s.reg (saReg e sa 0x30)).toNat + 2 ^ 64 * s.rf (saReg e sa 0x38) 31 0 + 2 ^ 96 * s.rf (saReg e sa 0) 63 32)

/-- A frame from its addresses and tag and its data from the EtherType on, protected under the transmit SA: none when the SA sends nothing
more. The SecTAG has V, ES and SCB 0, SC, E and C 1.
DEDUCED (log entry 49). -/
def State.protect (s : State) (e : Nat) (head inner : List Byte) : Option (List Byte × State) :=
  let an := s.rf (egSub e 0x30) 1 0
  let pn := (s.reg (saReg e an 8)).toNat
  if !s.rb (saReg e an 0) 0 ∨ pn ≥ 2 ^ 64 - 1 then none
  else
    let tag := head ++ toBe 2 0x88E5 ++ toBe 1 (0x2C + an) ++ toBe 1 (if inner.length < 48 then inner.length else 0) ++ toBe 4 pn ++
      toBe 8 (s.reg (egSub e 0x300)).toNat
    let s := s.setReg (saReg e an 8) (BitVec.ofNat 64 (pn + 1))
    let s := if pn + 1 ≥ 2 ^ 64 - 2 ^ 32 then s.setRb (subStat e) 4 true else s
    some (tag ++ Config.gcmSeal (s.saKey e an) (s.saSalt e an) pn tag inner, s)

/-! ## Encapsulation -/

/-- Addresses and tag of a frame: of the sub-port's own tagging when the frame carries none (R444). -/
def State.macHeader (s : State) (e : Nat) (f : OutFrame) : List Byte :=
  let o := egSub e 0x18
  let tag (t : Nat) : List Byte := toBe 2 0x8100 ++ toBe 2 t
  toBe 6 f.mac ++ toBe 6 (s.subMac e) ++ (match f.vlan with
    | .own => if s.rb o 12 then tag (8192 * f.tc + s.rf o 11 0) else []
    | .bare => []
    | .tci t => tag t)

/-- The EtherType of what a kind of frame carries without UDP. -/
def State.etherType (s : State) (k : OutKind) : Nat :=
  match k with
  | .ptp => 0x88F7
  | .ouvCtl | .ouvData => s.rf 0x70000 15 0
  | .serve => s.rf 0x30078 15 0
  | .nd => 0x86DD
  | .pfc => 0x8808

def isOuv (k : OutKind) : Bool := k == .ouvCtl || k == .ouvData

/-- The frame's data from the EtherType on. `mark` sets the congestion mark, `port` is the UDP source port. -/
def State.innerOf (s : State) (e : Nat) (f : OutFrame) (mark : Bool) (port : Nat) : List Byte :=
  let b := if isOuv f.kind then
      let b := if mark ∧ f.udp.isNone then setHopsFlags f.body (hHops f.body) (hFlags f.body ||| Fl.ce) else f.body
      if f.born.isSome then b else withTrailer b
    else f.body
  match f.udp with
  | none => toBe 2 (s.etherType f.kind) ++ b
  | some (ip, dst) =>
    let ect := isOuv f.kind && s.rb (subCfg e) 18
    let ecn := if !ect then 0 else if mark then 3 else 2
    let u := toBe 2 port ++ toBe 2 dst ++ toBe 2 (8 + b.length) ++ [0, 0] ++ b
    let u := overlay u 6 (toBe 2 (checksum (s.subIp e) ip 17 u))
    toBe 2 0x86DD ++ toBe 4 (6 * 2 ^ 28 + 2 ^ 20 * (32 * f.tc + ecn) + f.flow % 2 ^ 20) ++ toBe 2 u.length ++ toBe 1 17 ++
      toBe 1 (s.rf (subCfg e) 39 32) ++ s.subIp e ++ ip ++ u

/-- Bytes from destination address to FCS before padding; the SecTAG and the ICV count (R443). -/
def State.rawLen (s : State) (e : Nat) (f : OutFrame) : Nat :=
  let sec := s.rb (subCfg e) 16 && f.kind != .pfc
  (s.macHeader e f).length + (s.innerOf e f false 0).length + (if sec then 32 else 0) + 4

/-- Bytes from destination address to FCS. -/
def State.outLen (s : State) (e : Nat) (f : OutFrame) : Nat := max 64 (s.rawLen e f)

/-- Bytes in the queue of a class. -/
def State.queueBytes (s : State) (e c : Nat) : Nat :=
  ((s.sub e).egress.filter (fun f => f.tc == c && f.kind != .pfc)).foldl (fun a f => a + s.outLen e f) 0

/-! ## PTP stamps of what leaves (R453, R454) -/

/-- messageType and sequenceId of a PTP message. -/
def pType (b : List Byte) : Nat := beAt b 0 1 % 16
def pSeq (b : List Byte) : Nat := beAt b 30 2

/-- A PTP timestamp of device time in qns: seconds and nanoseconds, and the quarter nanoseconds as a correction. -/
def ptpTime (q : Nat) : List Byte := toBe 6 (q / 4000000000) ++ toBe 4 (q / 4 % 1000000000)
def ptpRest (q : Nat) : Nat := 0x4000 * (q % 4)

/-- A Follow_Up, or a Pdelay_Resp_Follow_Up, takes the departure of the message that it follows. -/
def State.followUp (s : State) (e : Nat) (b : List Byte) : List Byte :=
  let of := if pType b = 8 then some 0 else if pType b = 0xA then some 3 else none
  match of with
  | none => b
  | some m => match (s.sub e).ptpSent.find? (fun x => x.1 == m && x.2.1 == pSeq b) with
    | some (_, _, t) => overlay (overlay b 34 (ptpTime t)) 8 (toBe 8 (beAt b 8 8 + ptpRest t))
    | none => b

/-- The departure of an event message is kept for its Follow_Up, or for the delay that it measures. -/
def State.stampOut (s : State) (e : Nat) (f : OutFrame) : State :=
  if f.kind = .ptp ∧ pType f.body < 4 then
    let p := s.sub e
    let sent := (pType f.body, pSeq f.body, s.now) :: p.ptpSent.filter (fun x => x.1 != pType f.body)
    let rx := if (pType f.body = 1 ∨ pType f.body = 2) ∧ pSeq f.body = p.ptp.reqSeq then p.ptp.withReqAt (some s.now) else p.ptp
    s.setSub e (p |>.withPtpSent sent |>.withPtp rx)
  else s

/-! ## The next frame (R447, R448) -/

/-- A received pause holds the class. -/
def SubPort.paused (p : SubPort) (c : Nat) : Bool := p.pauses.any (fun x => x.1 == c)

/-- The position of the first frame of a class that may start. -/
def SubPort.first (p : SubPort) (c : Nat) : Option Nat :=
  if p.paused c then none else findPos (fun (f : OutFrame) => f.tc == c && f.kind != .pfc) p.egress

/-- Bytes that a class of 0 to 5 sends in its turn (log entry 15). -/
def quantum : Nat := 9216

/-- The class of 0 to 5 to send from, and whether its turn begins.
DESIGN CHOICE (log entry 15). -/
def SubPort.robin (p : SubPort) : Option (Nat × Bool) :=
  if (p.first p.turn).isSome && decide (p.spent < quantum) then some (p.turn, false)
  else (((List.range 6).map (fun i => (p.turn + 1 + i) % 6)).find? (fun c => (p.first c).isSome)).map (fun c => (c, true))

/-- The frame to start: its position, and the class of 0 to 5 in turn when it is of one. -/
def SubPort.pick (p : SubPort) : Option (Nat × Option (Nat × Bool)) :=
  match findPos (fun (f : OutFrame) => f.kind == .pfc) p.egress with
  | some i => some (i, none)
  | none => match p.first 7 with
    | some i => some (i, none)
    | none => match p.first 6 with
      | some i => some (i, none)
      | none => match p.robin with
        | some (c, new) => (p.first c).map (fun i => (i, some (c, new)))
        | none => none

/-- The sub-port sends its next frame, or drops it when its SA or MAX_FRAME does not let it (R443, R452), with the fragments of its STEP frame that
wait behind it (R395).
DEDUCED (log entry 49). -/
def State.sendFrame (s : State) (e : Nat) : State :=
  let p := s.sub e
  match p.pick with
  | none => s
  | some (i, rr) =>
    match p.egress[i]? with
    | none => s
    | some f =>
      let len := s.outLen e f
      let mark := f.kind != .pfc && decide (s.queueBytes e f.tc > 4096 * s.rf (subCfg e) 55 40) && isOuv f.kind &&
        (f.udp.isNone || s.rb (subCfg e) 18)
      let q := match rr with
        | some (c, new) => p |>.withEgress (dropAt p.egress i) |>.withTurn c |>.withSpent ((if new then 0 else p.spent) + len)
        | none => p.withEgress (dropAt p.egress i)
      let (port, s) : Nat × State := if f.udp.isSome then
          let (v, s) := s.freeVal
          (fld v 15 0, s)
        else (0, s)
      let s := s.setSub e q
      let lost (s : State) : State :=
        let same := (s.sub e).egress.filter (fun g => (stepFrag g).isSome && stepFrag g == stepFrag f)
        let s := s.setSub e ((s.sub e).withEgress ((s.sub e).egress.filter (fun g => !((stepFrag g).isSome && stepFrag g == stepFrag f))))
        (s.tally e 0x158 (1 + same.length)).loseFrames [f]
      let f := if f.kind = .ptp then f.withBody (s.followUp e f.body) else if f.kind = .serve then f.withBody (s.stampServe f.body) else f
      let head := s.macHeader e f
      let inner := s.innerOf e f mark port
      let out := if s.rb (subCfg e) 16 ∧ f.kind ≠ .pfc then s.protect e head inner else some (head ++ inner, s)
      match out with
      | none => lost s
      | some (b, s1) =>
        let b := b ++ List.replicate (60 - b.length) 0
        let b := b ++ fcs b
        if b.length > s.rf (subCfg e) 13 0 then lost s
        else
          let s := (s1.tally e 0x110 1).tally e 0x118 b.length
          let s := if mark then s.tally e 0x160 1 else s
          let s := if f.kind = .pfc then s.tally e 0x170 1 else s
          let s := (s.stampOut e f).fragSent f
          (s.withNet (s.net.withWire (s.net.wire ++ [(e, b)])))

/-- The sub-port starts its next frame: its link is up and its transmitters run (R435, R447). -/
def execEgressFrameSend (e : Nat) (s : State) : Out :=
  if e ≥ 288 then .fault (.noSuchUnit "egress")
  else if !s.linkUp e || !s.subUsed e || s.feedLow (e / 8) then .next s
  else .next (s.sendFrame e)

/-! ## PFC (R448) -/

def macControl : Nat := 0x0180C2000001

/-- Classes with PFC on. -/
def State.pfcOn (s : State) (e c : Nat) : Bool := s.rb (portOff (e / 8) 0x18) (32 + c)
/-- XOFF, XON and HEAD in bytes. -/
def State.xoffBytes (s : State) (e : Nat) : Nat := 64 * s.rf (portOff (e / 8) 0x18) 15 0
def State.xonBytes (s : State) (e : Nat) : Nat := 64 * s.rf (portOff (e / 8) 0x18) 31 16
def State.headBytes (s : State) (e : Nat) : Nat := 64 * s.rf (portOff (e / 8) 0x18) 55 40

/-- A PFC frame with quanta for one class. -/
def State.sendPfc (s : State) (e c quanta : Nat) : State :=
  s.queueOut e
    { kind := .pfc, tc := 7, mac := macControl, vlan := .own, udp := none, flow := 0
      body := toBe 2 0x0101 ++ toBe 2 (2 ^ c) ++ (List.range 8).flatMap (fun i => toBe 2 (if i = c then quanta else 0))
      born := none }

/-- Bytes of ingress buffer that a class of a sub-port holds. -/
def State.heldBytes (s : State) (e c : Nat) : Nat :=
  ((s.net.ouvIn ++ s.net.srvIn ++ s.net.ptpIn ++ s.net.ndIn).filter (fun f => f.egress == e && f.tc == c)).foldl (fun a f => a + f.size) 0

/-- A pause time in qns, rounded up: quanta of 512 bit times at the rate of the sub-port. -/
def State.pauseQns (s : State) (e quanta : Nat) : Nat :=
  let m := s.portMode (e / 8)
  ceilDiv ((128 * quanta) * (if m = 0 then 1 else if m = 1 then 2 else 8)) 100

/-- The pauses of a sub-port with a class paused until a time, or running again. -/
def SubPort.pause (p : SubPort) (c : Nat) (until_ : Option Nat) : SubPort :=
  let l := p.pauses.filter (fun x => x.1 != c)
  (p.withPauses (match until_ with
      | some t => l ++ [(c, t)]
      | none => l))

/-- A received PFC frame stops or resumes the classes that it names and that have PFC on. -/
def State.takePfc (s : State) (e : Nat) (b : List Byte) : State :=
  (List.range 8).foldl (fun (s : State) c =>
    if bitsAt (beAt b 2 2) c 1 = 1 ∧ s.pfcOn e c then
      let q := beAt b (4 + 2 * c) 2
      s.setSub e ((s.sub e).pause c (if q = 0 then none else some (s.now + s.pauseQns e q)))
    else s) s

/-- The PFC frame waiting longest is acted on.
DEDUCED (log entry 49). -/
def execPfc (s : State) : Out :=
  match s.net.pfcIn with
  | [] => .next s
  | f :: l => .next ((s.withNet (s.net.withPfcIn l) : State).takePfc f.egress f.bytes)

/-- A received pause time has run out. -/
def execPfcPauseExpiry (e c : Nat) (s : State) : Out :=
  if e ≥ 288 ∨ c ≥ 8 then .fault (.noSuchUnit "traffic class")
  else
    let p := s.sub e
    .next (if p.pauses.any (fun x => x.1 == c && decide (x.2 ≤ s.now)) then s.setSub e (p.pause c none) else s)

/-- A class that has sent XOFF repeats it half a pause time after its last PFC frame while it holds more than XON; then it sends
quanta 0 (R448).
DEDUCED (log entry 71). -/
def execPfcRefresh (e c : Nat) (s : State) : Out :=
  if e ≥ 288 ∨ c ≥ 8 then .fault (.noSuchUnit "traffic class")
  else
    let p := s.sub e
    match p.xoff.find? (fun x => x.1 == c) with
    | none => .next s
    | some (_, t) =>
      let rest := p.xoff.filter (fun x => x.1 != c)
      if !(s.pfcOn e c && decide (s.heldBytes e c > s.xonBytes e)) then .next ((s.setSub e (p.withXoff rest)).sendPfc e c 0)
      else if s.now < t + s.pauseQns e 0xFFFF / 2 then .next s
      else .next ((s.setSub e (p.withXoff (rest ++ [(c, s.now)]))).sendPfc e c 0xFFFF)

end Sys2Proof.Machine
end

