-- ==== Sys2Proof/Machine/SrvStep.lean ====
section
/-! DEFINITION. The step of the serving engine: boundary, plans, mask unit, sampler and emission (R386-R398). -/
namespace Sys2Proof.Machine

/-! ## Ends and entries (R387, R395, R396) -/

/-- The sequence's entry of the step carries a status; a token sampled in the step stays with it. -/
def State.stepEnt (s : State) (i status : Nat) : State :=
  let v := s.srv
  if v.entries.any (fun e => e.seq == i) then
    s.setSrv (v.withEntries (v.entries.map (fun e => if e.seq = i then e.withStatus status else e)))
  else s.setSrv (v.withEntries (v.entries ++ [⟨i, s.qDest i, s.qId i, s.qTenant i, status, 0, s.qMade i, 0⟩]))

/-- The prompt charge of a sequence that ends while PENDING is returned as it was made, limited by BURST, unless a position has been prefilled. -/
def State.refundPrompt (s : State) (i : Nat) : State :=
  let t := s.qTenant i
  let e := s.stepTenant t
  match s.srv.charges.find? (fun x => x.1 == i) with
  | none => s
  | some (_, c) =>
    if s.qFilled i ≠ 0 ∨ t ≥ s.rf 0x30030 12 0 then s
    else (s.setTenant t 32 4 (min (nBurst e) (nLevel e + c))).subTenant t 48 8 c

/-- A sequence is PENDING no more; with the last one DEFICIT becomes 0 (R388). -/
def State.lessPending (s : State) (i : Nat) : State :=
  let t := s.qTenant i
  let s := s.subTenant t 40 2 1
  let s := s.setSrv (s.srv.withCharges (s.srv.charges.filter (fun e => e.1 != i)))
  if nPending (s.stepTenant t) = 0 then s.setTenant t 36 4 0 else s

/-- Sequence i is in no plan and no run of a step any more. -/
def State.dropWork (s : State) (i : Nat) : State :=
  let v := s.srv
  s.setSrv (v |>.withDecode (v.decode.filter (· != i)) |>.withLate (v.late.filter (fun e => e.1 != i))
      |>.withChunks (v.chunks.filter (fun c => c.seq != i)) |>.withRunning (v.running.filter (fun c => c.seq != i))
      |>.withRedo (v.redo.filter (fun e => e.1 != i)))

/-- Sequence i ends with a status of Table 13.8, and has an entry in the step. -/
def State.endSeq (s : State) (i status : Nat) : State :=
  let st := s.qState i
  if st = 0 ∨ st = 4 then s
  else
    let t := s.qTenant i
    let s := if st = 1 ∧ (status = 3 ∨ status = 9 ∨ status = 0xA) then s.refundPrompt i else s
    let s := if st = 1 then s.lessPending i else s.subTenant t 42 2 1
    let s := if st ≠ 1 ∧ s.qVeiled i then s.veilUsers (s.qVeil i % 4096) false else s
    let s := if s.qMask i = 1 then s.gramUsers (s.seqF i 28 4) false else s
    let s := ((s.setSeqF i 2 1 4).setSeqF i 3 1 status).setSeqF i 136 8 s.now
    let s := s.dropWork i
    let s := s.setSrv (s.srv.withEcho (s.srv.echo.map (fun e => if e.seq = i ∧ e.ended.isNone then e.withEnded (some s.now) else e)))
    s.stepEnt i status

/-- A sequence becomes PAUSED; an entry says so when it was RUNNING. -/
def State.pauseSeq (s : State) (i status : Nat) : State :=
  let was := s.qState i
  let s := (s.setSeqF i 2 1 3).setSeqF i 152 4 (s.seqF i 152 4 + 1)
  if was = 2 then s.stepEnt i status else s

/-! ## Prefill positions -/

/-- The positions that the sequence's prefill covers: its prompt, and after a swap its emitted tokens too (R358). -/
def State.qGoal (s : State) (i : Nat) : Nat := ((s.srv.redo.find? (fun e => e.1 == i)).map (·.2)).getD (s.qPrompt i)

/-- The positions of a sequence's started chunks whose runs have not ended. -/
def State.underWay (s : State) (i : Nat) : Nat := ((s.srv.running.filter (fun r => r.seq == i)).map (·.count)).sum

/-- A started chunk that ends what the sequence prefills: a token is to be sampled after it. -/
def State.endsPrompt (s : State) (i : Nat) : Bool :=
  s.srv.running.any (fun r => r.seq == i) && decide (s.qFilled i + s.underWay i ≥ s.qGoal i)

/-- Started chunks whose runs have ended: their positions are written. A chunk that ends its prompt stays until the token is sampled. -/
def State.settleChunks (s : State) : State :=
  s.srv.running.foldl (fun (s : State) c =>
    let i := c.seq
    let s := (s.setSeqF i 92 4 (s.qFilled i + c.count)).setSeqF i 108 4 (s.qPos i + c.count)
    let keep := decide (s.qFilled i ≥ s.qGoal i)
    s.setSrv (s.srv.withRunning (s.srv.running.filterMap (fun x =>
      if x.seq = i then (if keep then some (x.withCount 0) else none) else some x)))) s

/-! ## Boundary (R381, R386, R387, R397) -/

/-- When the step in progress began, and a time of it in µs from there (R386). -/
def State.stepAt (s : State) (us : Nat) : Nat := s.srv.phase + 4000 * (s.srv.period * (s.reg 0x30018).toNat + us)

/-- When the next step begins after `now`. -/
def nextDue (now phase period : Nat) : Nat :=
  if now < phase then phase else phase + 4000 * period * ((now - phase) / (4000 * period) + 1)

/-- GAP frames for the frames dropped since the last boundary (R397). A GAP that finds no port waits, and goes before the next frame to its
destination; one whose destination is not VALID is dropped (R380).
DEDUCED (log entry 50). -/
def State.sendGaps (s : State) : State :=
  s.srv.gaps.foldl (fun (s : State) g =>
    let d := s.stepDest g.dest
    let rest := s.setSrv (s.srv.withGaps (s.srv.gaps.filter (fun x => x.dest != g.dest)))
    if !entValid d then rest.count 0x30090 47 32 1
    else match s.srvEgress d with
      | none => s
      | some e =>
        let b := srvHeader 0x13 8 0 1 0 g.step g.first g.dest ++ toBe 4 g.count ++ toBe 4 0
        rest.queueOut e (s.serveFrame e d b)) s

/-- TABLE_SYNCs take effect in the steps (R381). -/
def State.applySyncs (s : State) : State :=
  let s := s.withNet (s.net.withOldTabs [])
  let s := s.syncs.foldl (fun (s : State) y =>
    if y.1 ≠ 1 then s
    else (List.range y.2.2).foldl (fun (s : State) k =>
      let t := y.2.1 + k
      let e := s.stepTenant t
      if !entValid e then s
      else if s.srv.gens.contains (t, leAt e 1 1) then s.setTenant t 32 4 (min (nLevel e) (nBurst e))
      else
        let s := s.setSrv (s.srv.withGens (s.srv.gens.filter (fun g => g.1 != t) ++ [(t, leAt e 1 1)]))
        (s.setTenant t 32 4 (nBurst e)).setTenant t 36 4 0) s) s
  (s.withSyncs [])

/-- POLICY of the swaps that have begun: running sequences bound to an older generation are requeued, or end (R358). What a run of theirs that goes
on has still to deliver is not taken.
DEDUCED (log entry 50). -/
def State.applySwaps (s : State) : State :=
  let s := s.srv.swaps.foldl (fun (s : State) w =>
    (s.seqsIn 2 ++ s.seqsIn 3).foldl (fun (s : State) i =>
      if s.qModel i ≠ w.1 ∨ s.seqF i 16 4 = w.2.1 then s
      else if w.2.2 = 1 then s.endSeq i 4
      else
        let s := s.dropWork i
        let s := s.setSrv (s.srv.withRedo (s.srv.redo ++ [(i, s.qPrompt i + s.qMade i)]))
        let s := ((s.setSeqF i 16 4 w.2.1).setSeqF i 92 4 0).setSeqF i 120 4 0
        s.setSeqF i 108 4 (s.veilLen (s.qVeil i))) s) s
  s.setSrv (s.srv.withSwaps [])

/-- LEVEL of every VALID tenant is refilled (R387). -/
def State.refill (s : State) : State :=
  (List.range (s.rf 0x30030 12 0)).foldl (fun (s : State) t =>
    let e := s.stepTenant t
    if entValid e then s.setTenant t 32 4 (min (nBurst e) (nLevel e + nRate e * s.srv.period / 1000)) else s) s

/-- Phase 1. -/
def State.boundary (s : State) (x : StepIn) : State :=
  let s := s.setSrv (s.srv |>.withPeriod (s.rf 0x30008 19 0) |>.withCutoff (s.rf 0x30008 39 20) |>.withPhase ((s.reg 0x30010).toNat)
      |>.withChunks [] |>.withEntries [] |>.withGoing true)
  let s := s.setReg 0x30018 (BitVec.ofNat 64 ((s.now - s.srv.phase) / (4000 * s.srv.period)))
  let s := s.setSrv (s.srv.withDue (nextDue s.now s.srv.phase s.srv.period))
  let s := (x.faulted.filter (fun i => s.srv.late.any (fun e => e.1 == i) || s.srv.running.any (fun r => r.seq == i))).foldl
    (fun (s : State) i => s.endSeq i 0xB) s
  let s := s.srv.seqs.foldl (fun (s : State) i => if s.seqF i 27 1 = 1 then s.endSeq i 3 else s) s
  let s := s.applySyncs
  let s := s.srv.seqs.foldl (fun (s : State) i => if entValid (s.stepTenant (s.qTenant i)) then s else s.endSeq i 0xA) s
  let s := s.waitingSwap
  let s := s.applySwaps
  let hold := if s.srv.holdDue then true else if s.srv.resumeDue then false else s.rb 0x30000 1
  let s := (s.setRb 0x30000 1 hold).setSrv (s.srv |>.withHoldDue false |>.withResumeDue false)
  s.refill.sendGaps

/-! ## Decode plan (R386, R387, R390) -/

/-- The pages allocated for a sequence. -/
def grantFor (x : StepIn) (i : Nat) : Option PageGrant := x.grants.find? (fun g => g.seq == i)

/-- The sequence has the page of its next position, or takes the first page allocated for it. -/
def State.takePage (s : State) (x : StepIn) (i : Nat) : Option State :=
  let n := s.seqF i 120 4
  if s.qPos i < n * s.pageSize (s.qModel i) then some s
  else match grantFor x i with
    | some g => match g.pages with
      | p :: _ =>
        let list := if n = 0 then g.list else s.seqF i 112 8
        let s := (s.setSeqF i 112 8 list).setSeqF i 120 4 (n + 1)
        some (s.cavorBytes (list + 8 * n) (toLe 8 p))
      | [] => none
    | none => none

/-- The members of a list after the one planned last, then those before it. -/
def rotateAfter (last : Option Nat) (l : List Nat) : List Nat :=
  match last with
  | none => l
  | some k => l.filter (fun i => decide (i > k)) ++ l.filter (fun i => decide (i ≤ k))

/-- The sequences that the decode plan takes: RUNNING or PAUSED, prefilled, and with their last token sampled. -/
def State.decodable (s : State) : List Nat :=
  s.srv.seqs.filter (fun i => (s.qState i == 2 || s.qState i == 3) && decide (s.qFilled i ≥ s.qGoal i) &&
    !s.srv.decode.contains i && !s.srv.late.any (fun e => e.1 == i) && !s.srv.running.any (fun c => c.seq == i))

/-- Phase 2. -/
def State.decodePlan (s : State) (x : StepIn) : State :=
  let all := s.decodable
  let tenants := (all.map (fun i => s.qTenant i)).foldl (fun l t => insertNat t l) []
  tenants.foldl (fun (s : State) t =>
    let mine := rotateAfter ((s.srv.lastSeq.find? (fun e => e.1 == t)).map (·.2)) (all.filter (fun i => s.qTenant i == t))
    mine.foldl (fun (s : State) i =>
      if nLevel (s.stepTenant t) < 16 then s.pauseSeq i 0x20
      else match s.takePage x i with
        | none => s.pauseSeq i 0x21
        | some s =>
          let s := (s.subTenant t 32 4 16).addTenant t 48 8 16
          let s := s.setSeqF i 2 1 2
          s.setSrv (s.srv |>.withDecode (s.srv.decode ++ [i]) |>.withLastSeq (s.srv.lastSeq.filter (fun e => e.1 != t) ++ [(t, i)]))) s) s

/-! ## Admission (R280, R281, R386, R388) -/

/-- Insertion by ACCEPT_TIME. -/
def State.insertOldest (s : State) (i : Nat) : List Nat → List Nat
  | [] => [i]
  | j :: js => if s.seqF i 128 8 < s.seqF j 128 8 then i :: j :: js else j :: State.insertOldest s i js

/-- PENDING sequences of a tenant, oldest first, without those whose veil is PRIMING. -/
def State.pendingOf (s : State) (t : Nat) : List Nat :=
  let l := (s.seqsIn 1).filter (fun i => s.qTenant i == t && !(s.qVeiled i && leAt (s.veilEntry (s.qVeil i % 4096)) 48 1 == 1))
  l.foldl (fun acc i => s.insertOldest i acc) []

/-- What comes of a sequence's pages: they are its own, they have not been allocated, the copy of the veil's partial page has no answer yet, or it has
failed. -/
inductive Paged where
  | ok (s : State)
  | short
  | parked (s : State)
  | failed (s : State)

/-- The pages of a sequence that is to prefill `total` positions after its veil: the veil's full pages, then its own; a partial veil page is copied
into the first of these for the region of the model (R281).
DESIGN CHOICE (log entry 77). -/
def State.admitPages (s : State) (x : StepIn) (i total : Nat) : Paged :=
  let p := s.pageSize (s.qModel i)
  let len := s.veilLen (s.qVeil i)
  let shared := len / p
  let own := ceilDiv (len + total) p - shared
  match grantFor x i with
  | none => .short
  | some g =>
    if g.pages.length < own then .short
    else
      let vl := leAt (s.veilEntry (s.qVeil i % 4096)) 24 8
      let vp := (List.range shared).map (fun k => leAt (s.cavorRead (vl + 8 * k) 8) 0 8)
      let pages := vp ++ g.pages.take own
      let have_ (s : State) : State :=
        ((s.cavorBytes g.list (pages.flatMap (toLe 8))).setSeqF i 112 8 g.list).setSeqF i 120 4 pages.length
      match (if len % p = 0 then none else g.pages.head?) with
      | none => .ok (have_ s)
      | some q =>
        match s.copyPlain x.net (some g.region) (2 * (g.size / 4096) + 4) (leAt (s.cavorRead (vl + 8 * shared) 8) 0 8) q g.size 0 with
        | .error k => .parked (s.park k)
        | .ok (st, _, s) => if st ≠ 0 then .failed s else .ok (have_ s)

/-- How an attempt to admit one sequence ends. -/
inductive Admit where
  | admitted (s : State)
  | ended (s : State)
  | full (s : State)

/-- Sequence i is admitted: its veil is checked again, its pages are there, and it is RUNNING. A veil page that cannot be copied is a veil that has
failed.
DESIGN CHOICE (log entry 77). -/
def State.admitSeqs (s : State) (x : StepIn) (i : Nat) : Admit :=
  let t := s.qTenant i
  let m := s.modelEntry (s.qModel i)
  let v := s.qVeil i % 4096
  let st := if s.qVeiled i then s.veilStatus v t m else 0
  if st ≠ 0 then .ended ((if st = 0x22 then s.veilStale v m else s).endSeq i 9)
  else match s.admitPages x i (s.qPrompt i) with
    | .short => .full s
    | .parked s => .full s
    | .failed s => .ended (s.endSeq i 9)
    | .ok s =>
      let s := ((s.setSeqF i 2 1 2).lessPending i).addTenant t 42 2 1
      let s := s.setSeqF i 16 4 (mTarget m)
      let s := if s.qVeiled i then s.veilUsers v true else s
      .admitted (s.setSeqF i 108 4 (s.veilLen (s.qVeil i)))

/-- A visit to a tenant: sequences are admitted while DEFICIT covers them. Answers the state, whether one was admitted, and whether admission
stops. -/
def State.visit (s : State) (x : StepIn) (t : Nat) : Nat → State × Bool × Bool
  | 0 => (s, false, false)
  | n + 1 =>
    match s.pendingOf t with
    | [] => (s, false, false)
    | i :: _ =>
      let e := s.stepTenant t
      if (s.seqsIn 2).length + (s.seqsIn 3).length ≥ 16384 then (s, false, true)
      else if nRunning e ≥ nMaxRunning e ∨ s.qPrompt i > nDeficit e then (s, false, false)
      else match s.admitSeqs x i with
        | .full s => (s, false, true)
        | .ended s => State.visit s x t n
        | .admitted s =>
          let s := s.subTenant t 36 4 (s.qPrompt i)
          let r := State.visit s x t n
          (r.1, true, r.2.2)

/-- Rounds of visits until one admits nothing, or admission stops. -/
def State.admission (s : State) (x : StepIn) : Nat → State
  | 0 => s
  | n + 1 =>
    let ts := ((s.seqsIn 1).map (fun i => s.qTenant i)).foldl (fun l t => insertNat t l) []
    let r := (rotateAfter (some s.srv.lastTenant) ts).foldl (fun (a : State × Bool × Bool) t =>
      if a.2.2 then a
      else
        let s := a.1
        let e := s.stepTenant t
        let s := s.setTenant t 36 4 (min 0xFFFFFFFF (nDeficit e + nQuantum e))
        let s := s.setSrv (s.srv.withLastTenant t)
        let v := s.visit x t (s.srv.seqs.length + 1)
        (v.1, a.2.1 || v.2.1, v.2.2)) (s, false, false)
    if r.2.1 && !r.2.2 then State.admission r.1 x n else r.1

/-! ## Prefill plan (R386) -/

/-- The chunks of one prompt. -/
def cutPrompt (i max : Nat) : Nat → Nat → List Chunk
  | 0, _ => []
  | n + 1, left => if left = 0 ∨ max = 0 then [] else ⟨i, min left max⟩ :: cutPrompt i max n (left - min left max)

/-- A sequence that was requeued takes its pages anew, or becomes PAUSED (R358, R390). -/
def State.repage (s : State) (x : StepIn) : State :=
  s.srv.redo.foldl (fun (s : State) e =>
    if s.seqF e.1 120 4 ≠ 0 then s
    else match s.admitPages x e.1 e.2 with
      | .ok s => s.setSeqF e.1 2 1 2
      | .short => s.pauseSeq e.1 0x21
      | .parked s => s.pauseSeq e.1 0x21
      | .failed s => s.endSeq e.1 9) s

/-- Phase 4: unfinished prompts, oldest ACCEPT_TIME first, cut into chunks of at most the MAX of the model's chunk-rows length map. -/
def State.prefillPlan (s : State) : State :=
  let l := s.srv.seqs.filter (fun i => s.qState i == 2 && decide (s.qFilled i + s.underWay i < s.qGoal i))
  let sorted := l.foldl (fun acc i => s.insertOldest i acc) []
  s.setSrv (s.srv.withChunks (sorted.flatMap (fun i =>
    let left := s.qGoal i - (s.qFilled i + s.underWay i)
    cutPrompt i (s.lmapMax (s.qModel i) 1) left left)))

/-- A step begins at its time, when the step before it is over: boundary work, decode plan, admission and prefill plan (R386).
DEDUCED (log entry 50).
DEDUCED (log entry 71). -/
def execStepBoundary (x : StepIn) (s : State) : Out :=
  if !s.rb 0x30000 0 || s.srv.going || decide (s.now < s.srv.due) then .next s
  else
    let s := s.boundary x
    let s := s.decodePlan x
    let s := if s.rb 0x30000 1 then s else s.admission x (s.srv.seqs.length + 1)
    .next (s.repage x).prefillPlan

/-! ## Prefill runs (R386, R389, R390) -/

/-- A first run of work for sequence i would be held at the barrier of layer 0 (R349). -/
def State.heldAtFirst (s : State) (i : Nat) : Bool :=
  let e := s.modelEntry (s.qModel i)
  entValid e && !s.layerOpen e 0 (s.seqF i 16 4)

/-- The next chunk in plan order starts before the cutoff, and the lengths of its sections are posted (R233). Its tokens are read with the partition
of region `g`; a by-reference prompt that cannot be read, or a token at or beyond VOCAB, ends the sequence.
DEDUCED (log entry 50). -/
def execPrefillChunkStart (g : Nat) (net : List NetAns) (s : State) : Out :=
  match s.srv.chunks with
  | [] => .next s
  | c :: rest =>
    let i := c.seq
    if s.now ≥ s.stepAt s.srv.cutoff ∨ s.heldAtFirst i then .next s
    else
      let first := s.qFilled i + s.underWay i
      let n := min c.count (s.qPrompt i - first)
      let go (s : State) : State :=
        let keys := s.qPos i + s.underWay i + c.count
        let s := (s.postLens (s.qModel i) 1 c.count).postLens (s.qModel i) 2 keys
        s.setSrv (s.srv |>.withChunks rest |>.withRunning (s.srv.running ++ [c]))
      let ended (st : Nat) (s : State) : State := s.endSeq i st
      if n = 0 then .next (go s)
      else
        let a := s.seqF i 96 8 + 4 * first
        match (if bitsAt (s.qFlags i) 2 1 = 1 then s.unitRead net a (4 * n) (some g) else .ok (0, s.cavorRead a (4 * n), s)) with
        | .error p => .next (s.park p)
        | .ok (st, bs, s) =>
          if st ≠ 0 then .next (ended 7 s)
          else if (List.range n).any (fun k => decide (leAt bs (4 * k) 4 ≥ s.vocab (s.qModel i))) then .next (ended 8 s)
          else .next (go s)

/-- At T + CUTOFF chunks that have not started leave the plan (R389). -/
def execPrefillCutoff (s : State) : Out :=
  if s.now < s.stepAt s.srv.cutoff then .next s
  else .next ((s.count 0x30090 31 16 s.srv.chunks.length).setSrv (s.srv.withChunks []))

/-! ## Mask unit (R384, R391) -/

/-- Ranges (LO, HI, NEXT) that R383 allows: rising and disjoint, with NEXT below STATES. -/
def rangesOk (states : Nat) : List (Nat × Nat × Nat) → Bool
  | [] => true
  | [r] => decide (r.1 ≤ r.2.1) && decide (r.2.2 < states)
  | r :: q :: rest => decide (r.1 ≤ r.2.1) && decide (r.2.2 < states) && decide (r.2.1 < q.1) && rangesOk states (q :: rest)

/-- A grammar state: ACCEPT, COUNT and its ranges; none when its records break R383 or cannot be read. -/
def State.gramState (s : State) (net : List NetAns) (e : List Byte) (k : Nat) : Except Park (Option (Bool × List (Nat × Nat × Nat)) × State) :=
  match s.unitRead net (leAt e 16 8 + 8 * k) 8 none with
  | .error p => .error p
  | .ok (st, w, s) =>
    let count := bitsAt (leAt w 0 8) 32 13
    if st ≠ 0 ∨ count > 4096 then .ok (none, s)
    else match s.unitRead net (leAt e 24 8 + 16 * leAt w 0 4) (16 * count) none with
      | .error p => .error p
      | .ok (st, b, s) =>
        let rs := (List.range count).map (fun j => (leAt b (16 * j) 4, leAt b (16 * j + 4) 4, leAt b (16 * j + 8) 4))
        if st ≠ 0 ∨ !rangesOk (leAt e 4 4) rs then .ok (none, s)
        else .ok (some (decide (bitsAt (leAt w 0 8) 45 1 = 1), rs), s)

/-- The ranges of the allowed set, and for a grammar its ACCEPT; none for MASK_FAULT. -/
def State.maskOf (s : State) (net : List NetAns) (i : Nat) : Except Park (Option (Bool × List (Nat × Nat × Nat)) × State) :=
  match s.qMask i with
  | 1 => s.gramState net (s.stepGram (s.seqF i 28 4)) (s.seqF i 40 4)
  | 2 =>
    let n := s.seqF i 28 4
    match s.unitRead net (s.seqF i 32 8) (8 * n) none with
    | .error p => .error p
    | .ok (st, b, s) =>
      let rs := (List.range n).map (fun j => (leAt b (8 * j) 4, leAt b (8 * j + 4) 4, 0))
      if st ≠ 0 ∨ !rangesOk 1 rs then .ok (none, s) else .ok (some (false, rs), s)
  | _ => .ok (some (false, [(0, s.vocab (s.qModel i) - 1, 0)]), s)

/-! ## Sampler (R392, R393) -/

/-- Insertion by descending value; of equal values the lower index stays first. -/
def insertRank (v y : Nat) : List (Nat × Nat) → List (Nat × Nat)
  | [] => [(v, y)]
  | x :: xs => if cmpV (f32 y) (f32 x.2) > 0 then (v, y) :: x :: xs else x :: insertRank v y xs

/-- Sum of the second components, in order. -/
def sumF : List (Nat × Nat) → Nat
  | [] => 0
  | x :: xs => xs.foldl (fun a e => (fAdd .nearEven a e.2).1) x.2

/-- The shortest prefix whose sum reaches `want`; at least one element. -/
def prefixTo (want : Nat) : List (Nat × Nat) → Nat → List (Nat × Nat)
  | [], _ => []
  | x :: xs, acc =>
    let a := if acc = 0 then x.2 else (fAdd .nearEven acc x.2).1
    if cmpV (f32 a) (f32 want) ≥ 0 then [x] else x :: prefixTo want xs a

/-- The first element whose running sum exceeds `want`; the last when none does. -/
def pickAt (want : Nat) : List (Nat × Nat) → Nat → Nat → Nat
  | [], _, last => last
  | x :: xs, acc, _ =>
    let a := if acc = 0 then x.2 else (fAdd .nearEven acc x.2).1
    if cmpV (f32 a) (f32 want) > 0 then x.1 else pickAt want xs a x.1

/-- u of a draw as binary32. -/
def drawU (seed : W64) (made : Nat) : Nat :=
  (roundV .nearEven (.fin false (fld (srHash seed 0 0 0 made) 63 40) (-24))).1

/-- The token chosen from candidates (token, logit) above −∞ in ascending token order. -/
def sampleToken (greedy : Bool) (temp topK topP minP u : Nat) (cand : List (Nat × Nat)) : Nat :=
  if greedy ∨ temp = 0 then ((cand.foldl (fun l x => insertRank x.1 x.2 l) []).headD (0, 0)).1
  else
    let y := cand.map (fun x => (x.1, (fDiv .nearEven x.2 temp).1))
    let useP := cmpV (f32 topP) (f32 0x3F800000) < 0
    let useM := cmpV (f32 minP) (f32 0) > 0
    let k := if topK = 0 ∧ (useP ∨ useM) then 1024 else topK
    let c := if k > 0 then (y.foldl (fun l x => insertRank x.1 x.2 l) []).take k else y
    let m := y.foldl (fun a x => if cmpV (f32 x.2) (f32 a) > 0 then x.2 else a) 0xFF800000
    let p := c.map (fun x => (x.1, expOf (fSub .nearEven x.2 m).1))
    let sum := sumF p
    let p := if useM then
        let bar := (fMul .nearEven minP (p.headD (0, 0)).2).1
        p.filter (fun x => decide (cmpV (f32 x.2) (f32 bar) ≥ 0))
      else p
    let p := if useP then prefixTo (fMul .nearEven topP sum).1 p 0 else p
    pickAt (fMul .nearEven u (sumF p)).1 p 0 0

/-- The stop tokens in use. -/
def State.qStops (s : State) (i : Nat) : List Nat :=
  ((List.range 4).map (fun k => s.seqF i (72 + 4 * k) 4)).filter (· != 0xFFFFFFFF)

/-- The grammar state that token v leads to. -/
def State.tokenNext (s : State) (i v : Nat) (mask : List (Nat × Nat × Nat)) : Nat :=
  ((mask.find? (fun r => decide (r.1 ≤ v ∧ v ≤ r.2.1))).map (·.2.2)).getD (s.seqF i 40 4)

/-- Sequence i with token v in its ring and counted, and its entry in the step's frame. A token of a step that is over belongs to that step
(R389, R394, R395). -/
def State.tokenRow (s : State) (i v : Nat) : State :=
  let n := s.qMade i
  let step := ((s.srv.late.find? (fun e => e.1 == i)).map (·.2)).getD (s.reg 0x30018).toNat
  let s := ((s.cavorBytes (s.ringAddr i n) (toLe 4 v)).setSeqF i 104 4 (n + 1)).setSeqF i 144 8 step
  s.setSrv (s.srv.withEntries (s.srv.entries ++ [⟨i, s.qDest i, s.qId i, s.qTenant i, 0, 1, n, v⟩]))

/-- What the records of the state after a token say (R384, R394): that it ends the grammar, that they break R383, or neither. -/
inductive NextState where
  | goes | ends | bad
  deriving DecidableEq, Repr

/-- The records of the grammar state after token v; they count only when no STOP token and no limit ends the sequence first. None while an answer has
still to come. -/
def State.nextState (s : State) (net : List NetAns) (i v next : Nat) : Except Park (NextState × State) :=
  if s.qMask i ≠ 1 ∨ (s.qStops i).contains v ∨ s.qMade i + 1 = s.seqF i 60 4 then .ok (.goes, s)
  else match s.gramState net (s.stepGram (s.seqF i 28 4)) next with
    | .error p => .error p
    | .ok (none, s) => .ok (.bad, s)
    | .ok (some (true, []), s) => .ok (.ends, s)
    | .ok (some _, s) => .ok (.goes, s)

/-- The sequence has taken token v (R394). -/
def State.tokenOut (s : State) (i v next : Nat) (n : NextState) : State :=
  let s := s.tokenRow i v
  let s := if s.qMask i = 1 then s.setSeqF i 40 4 next else s
  if (s.qStops i).contains v then s.endSeq i 1
  else if s.qMade i = s.seqF i 60 4 then s.endSeq i 2
  else match n with
    | .ends => s.endSeq i 5
    | .bad => s.endSeq i 0xD
    | .goes => s

/-- A token of sequence i is to be sampled: its run has started. Every layer's word reads the generation that the sequence is bound to, unless that
is no longer the model's (R349). -/
def State.toSample (s : State) (i : Nat) : Bool :=
  let e := s.modelEntry (s.qModel i)
  (s.srv.decode.contains i || s.srv.late.any (fun x => x.1 == i) || s.endsPrompt i) &&
    (!entValid e || decide (s.seqF i 16 4 ≠ mTarget e) || s.allAt e (mTarget e))

/-- The run that produced the logits has written its positions. -/
def State.runDone (s : State) (i : Nat) : State :=
  let s :=
    if s.srv.running.any (fun r => r.seq == i) then
      let c := s.underWay i
      (s.setSeqF i 92 4 (s.qFilled i + c)).setSeqF i 108 4 (s.qPos i + c)
    else s.setSeqF i 108 4 (s.qPos i + 1)
  s.setSrv (s.srv |>.withDecode (s.srv.decode.filter (· != i)) |>.withRunning (s.srv.running.filter (fun r => r.seq != i)))

/-- The token of sequence i is done with; what is sampled after its step is in no frame (R389). -/
def State.closeSample (s : State) (late : Bool) (i : Nat) : State :=
  s.setSrv (s.srv |>.withLate (s.srv.late.filter (fun e => e.1 != i)) |>.withEntries
    (if late then s.srv.entries.filter (fun e => e.seq != i) else s.srv.entries))

/-- The logits of sequence i's last position stand in hub SRAM at offset `off`: mask and sampler choose a token (R391-R394).
DEDUCED (log entry 50). -/
def State.sampleAt (s : State) (i off : Nat) (net : List NetAns) : Out :=
  if !s.toSample i then .next s
  else
    let vocab := s.vocab (s.qModel i)
    let s0 := s
    let late := s.srv.late.any (fun e => e.1 == i)
    match s.maskOf net i with
    | .error p => .next (s0.park p)
    | .ok (none, s) => .next (((s.runDone i).endSeq i 0xD).closeSample late i)
    | .ok (some (accept, rs), s) =>
      let stops := s.qStops i
      let allowed (v : Nat) : Bool := rs.any (fun r => decide (r.1 ≤ v ∧ v ≤ r.2.1)) || (s.qMask i == 1 && accept && stops.contains v)
      let logits := (List.range vocab).map (fun v => (v, s.rdLe (hubKey (off + 4 * v)) 4))
      let mine := logits.filter (fun x => allowed x.1)
      let nan := mine.any (fun x => isNan (f32 x.2))
      let cand := mine.filter (fun x => !isNan (f32 x.2) && decide (x.2 ≠ 0xFF800000))
      let noted (s : State) : State := (if nan then s.count 0x30090 63 48 1 else s).runDone i
      if cand.isEmpty then .next (((noted s).endSeq i 6).closeSample late i)
      else
        let v := sampleToken (decide (s.qFlags i / 2 % 2 = 1)) (s.seqF i 44 4) (s.seqF i 56 2) (s.seqF i 48 4) (s.seqF i 52 4)
          (drawU (BitVec.ofNat 64 (s.seqF i 64 8)) (s.qMade i)) cand
        let next := s.tokenNext i v rs
        match s.nextState net i v next with
        | .error p => .next (s0.park p)
        | .ok (n, s) => .next (((noted s).tokenOut i v next n).closeSample late i)

/-- A run of the step is under way for sequence i, or its token of an earlier step is still to come. -/
def State.inRun (s : State) (i : Nat) : Bool :=
  s.srv.decode.contains i || s.srv.late.any (fun e => e.1 == i) || s.srv.running.any (fun r => r.seq == i)

/-- The run of sequence i ends: its logits are sampled, or its section has faulted and the sequence ends with it (R390, R392).
DEDUCED (log entry 50). -/
def execSample (i : Nat) (off : RunEnd) (net : List NetAns) (s : State) : Out :=
  match off with
  | .logits o => s.sampleAt i o net
  | .faulted => .next (if s.inRun i then s.endSeq i 0xB else s)

/-! ## Emission (R395, R397) -/


/-- The 20 bytes of an entry. -/
def entBytes (e : StepEnt) : List Byte :=
  toBe 8 e.id ++ toBe 2 e.tenant ++ toBe 1 e.status ++ toBe 1 e.count ++ toBe 4 e.index ++ toBe 4 e.token

/-- Insertion by sequence index. -/
def insertEnt (e : StepEnt) : List StepEnt → List StepEnt
  | [] => [e]
  | x :: xs => if e.seq < x.seq then e :: x :: xs else x :: insertEnt e xs

/-- A list cut into pieces of at most n. -/
def piecesOf {α : Type} (n : Nat) : Nat → List α → List (List α)
  | 0, _ => []
  | k + 1, l => if l.isEmpty then [] else l.take n :: piecesOf n k (l.drop n)

/-- The largest serving frame to destination `d` by egress e: its MTU, and what MAX_FRAME leaves (R395, R443). -/
def State.fragRoom (s : State) (e : Nat) (d : List Byte) : Nat :=
  min (leAt d 32 2) (s.rf (subCfg e) 13 0 - s.rawLen e (s.serveFrame e d []))

/-- The STEP frame of destination k: its SEQNO is taken, and its fragments leave, or the frame is dropped when no port takes it, or a GAP has to go
first. -/
def State.emitStep (s : State) (k : Nat) (ents : List StepEnt) (send : Bool) : State :=
  let d := s.stepDest k
  if !entValid d then s.count 0x30090 47 32 1
  else
    let seqno := leAt d 40 4
    let step := (s.reg 0x30018).toNat
    let s := s.setEntry (s.reg destBase) k 40 4 (seqno + 1)
    match (if send && !s.srv.gaps.any (fun g => g.dest == k) then s.srvEgress d else none) with
    | none => s.dropFrame k seqno step
    | some e =>
      let per := max 1 ((s.fragRoom e d - 40) / 20)
      let fs := piecesOf per ents.length ents
      let n := fs.length
      fs.zipIdx.foldl (fun (s : State) f =>
        let body := toBe 4 f.1.length ++ toBe 4 0 ++ f.1.flatMap entBytes
        s.queueOut e (s.serveFrame e d (srvHeader 0x12 body.length 0 (decide (f.2 + 1 = n)).toNat f.2 step seqno k ++ body))) s

/-- The destinations that have entries. -/
def destsOf (l : List StepEnt) : List Nat := l.foldl (fun a e => insertNat e.dest a) []

/-- No run of the step is still to start, and no token of it is still to be sampled. -/
def State.stepRun (s : State) : Bool :=
  s.srv.chunks.isEmpty && s.srv.decode.isEmpty && !s.srv.running.any (fun r => s.endsPrompt r.seq && !s.srv.late.any (fun e => e.1 == r.seq))

/-- Every run of the step has ended: STEP frames are built and sent (R395).
DEDUCED (log entry 50). -/
def execStepEmission (s : State) : Out :=
  if !s.rb 0x30000 0 || !s.srv.going || !s.stepRun then .next s
  else
    let s := s.settleChunks.sendGaps
    let ents := s.srv.entries.foldl (fun l e => insertEnt e l) []
    let s := (destsOf ents).foldl (fun (s : State) k => s.emitStep k (ents.filter (fun e => e.dest == k)) true) s
    .next (s.setSrv (s.srv.withEntries []))

/-- A queued fragment of a STEP frame of step n. -/
def isStepFrag (n : Nat) (f : OutFrame) : Bool :=
  f.kind == .serve && decide (beAt f.body 1 1 = 0x12) && decide (beAt f.body 8 8 = n)

/-- The charge of a token that a decode run did not produce is returned. -/
def State.returnToken (s : State) (i : Nat) : State :=
  let t := s.qTenant i
  let e := s.stepTenant t
  (s.setTenant t 32 4 (min (nBurst e) (nLevel e + 16))).subTenant t 48 8 16

/-- The ports of the emitter. -/
def srvPorts : List Nat := [34 * 8, 35 * 8]

/-- The step in progress is over (R389, R395): fragments not handed to a MAC are dropped with their frames, sequences `unstarted` of the decode plan
yield no token, and what the others of its runs still deliver belongs to this step, with its frame dropped. -/
def State.closeStep (s : State) (unstarted : List Nat) (going : Bool) : State :=
  let n := (s.reg 0x30018).toNat
  let s := if going then s.count 0x30090 15 0 1 else s.settleChunks
  let gone := unstarted.filter s.srv.decode.contains
  let s := gone.foldl (fun (s : State) i => s.returnToken i) s
  let rest := s.srv.decode.filter (fun i => !gone.contains i) ++
    ((s.srv.running.map (·.seq)).eraseDups.filter (fun i => s.endsPrompt i && !s.srv.late.any (fun e => e.1 == i)))
  let queued := srvPorts.flatMap (fun e => (s.sub e).egress.filter (isStepFrag n))
  let s := srvPorts.foldl (fun (s : State) e => s.setSub e ((s.sub e).withEgress ((s.sub e).egress.filter (fun f => !isStepFrag n f)))) (s.loseFrames queued)
  let owing := rest.foldl (fun a i => insertNat (s.qDest i) a) (destsOf s.srv.entries)
  let s := (owing.filter (fun k => !queued.any (fun f => beAt f.body 28 2 == k))).foldl (fun (s : State) k => s.emitStep k [] false) s
  s.setSrv (s.srv |>.withDecode [] |>.withEntries [] |>.withChunks [] |>.withLate (s.srv.late ++ rest.map (fun i => (i, n))) |>.withGoing false)

/-- T + PERIOD (R386, R389, R397). -/
def execStepDeadline (unstarted : List Nat) (going : Bool) (s : State) : Out :=
  if !s.rb 0x30000 0 || !s.srv.going || decide (s.now < s.stepAt s.srv.period) then .next s else .next (s.closeStep unstarted going)

/-! ## SRV_CTL and the heartbeat (R398, R399) -/

/-- The heartbeat is within the last 2 s. -/
def State.beatFresh (s : State) : Bool := match s.srv.beat with
  | some t => decide (s.now - t ≤ 8000000000)
  | none => false

/-- ENABLE is set: the first boundary comes at the next start of a step by the registers. It is cleared: the step in progress is over, and a SWAP that
waits for a boundary begins (R358, R386).
DEDUCED (log entry 50). -/
def State.turnEngine (s : State) (was : Bool) : State :=
  if s.rb 0x30000 0 = was then s
  else if was then (if s.srv.going then s.closeStep [] true else s).waitingSwap
  else
    let phase := (s.reg 0x30010).toNat
    s.setSrv (s.srv.withDue (if s.now ≤ phase then phase else nextDue (s.now - 1) phase (s.rf 0x30008 19 0)))

/-- A write of SRV_CTL. -/
def State.judgeSrvCtl (s : State) (v : W64) : Nat × State :=
  let was := s.rb 0x30000 0
  if bit v 0 ∧ !s.ready 5 then (St.dieNotReady, s)
  else if bit v 2 ∧ !s.beatFresh then (St.hold, s)
  else
    let s1 := (s.writeReg 0x30000 v).turnEngine was
    (0, if bit v 2 then s1.setSrv (s1.srv.withResumeDue true) else s1)

/-- A write of SRV_CTL that starts or stops the engine. -/
def execServeEnable (v : W64) (s : State) : Out := regRow s 0x30000 (fun s => s.judgeSrvCtl v)

/-- A write of 1 to SRV_CTL.RESUME, the other bits as they are. -/
def execHoldResume (s : State) : Out := regRow s 0x30000 (fun s => s.judgeSrvCtl (setBit (s.reg 0x30000) 2 true))

def State.judgeHeartbeat (s : State) : Nat × State := (0, s.setSrv (s.srv.withBeat (some s.now)))
def execHeartbeat (_v : W64) (s : State) : Out := regRow s 0x30080 (fun s => s.judgeHeartbeat)

/-- With HB_ARM set no heartbeat has come for 2 s, or none since the reset: Hold is entered at the next boundary (R398).
DEDUCED (log entry 50).
DEDUCED (log entry 71). -/
def execHeartbeatTimeout (s : State) : Out :=
  .next (if s.rb 0x30000 3 && !s.beatFresh then s.setSrv (s.srv.withHoldDue true) else s)

end Sys2Proof.Machine
end

