-- ==== Sys2Proof/Machine/WarmBoot.lean ====
section
/-! DEFINITION. What Lantern firmware settles at a warm bring-up (R362, R378, R510). -/
namespace Sys2Proof.Machine

/-- The torn layers of a model: their words read WRITING. -/
def State.tornLayers (s : State) (e : List Byte) : List Nat := (List.range (mLayers e)).filter (fun l => s.genWord e l == genWriting)

/-- The entry of model m follows its generation words: TORN, SWAPPING or READY (R362). -/
def State.settleModel (s : State) (m : Nat) : State :=
  let e := s.modelEntry m
  if !entValid e then s
  else if !(s.tornLayers e).isEmpty then s.tearModel m e
  else s.setModel m (if s.allAt e (mTarget e) then 2 else 3)

/-- The models of the table. -/
def State.models (s : State) : List Nat := (List.range (s.rf 0x30508 10 0)).filter (fun m => entValid (s.modelEntry m))

/-- Every open sequence ends with RESET, and the window of its pair starts; no step frame tells of it (R378).
DESIGN CHOICE (log entry 77). -/
def State.resetSeqs (s : State) : State :=
  let s := s.srv.seqs.foldl (fun (s : State) i => s.endSeq i 0xC) s
  s.setSrv (s.srv.withEntries [])

/-- Veils whose priming was cut short. -/
def State.primingVeils (s : State) : List Nat := (List.range (s.rf 0x30408 12 0)).filter (fun v => leAt (s.veilEntry v) 48 1 == 1)

/-- Lantern firmware settles what the warm reset has cut short, in the order of R510; moves are settled by their queries. A record is written for
each torn layer and for each veil whose priming was cut short.
DESIGN CHOICE (log entry 77). -/
def State.settleWarm (s : State) : State :=
  let torn := s.models.flatMap (fun m => s.tornLayers (s.modelEntry m))
  let s := s.models.foldl (fun (s : State) m => s.settleModel m) s
  let s := s.resetSeqs
  let veils := s.primingVeils
  let s := veils.foldl (fun (s : State) v => s.setEntry s.veilBase v 48 1 3) s
  let s := torn.foldl (fun (s : State) l => s.raiseError { cls := 1, source := 0x0F, detail := l }) s
  veils.foldl (fun (s : State) _ => s.raiseError { cls := 1, source := 0x10 }) s

end Sys2Proof.Machine
end

