-- ==== Sys2Proof/Machine/Boot.lean ====
section
/-! DEFINITION. Bring-up: functions that become ready or fail, the image, and the dark list (R495-R508, R557, R561, R585). -/
namespace Sys2Proof.Machine

/-! ## Readiness (R496-R498) -/

/-- The functions whose own state machine sets their bit: SEC, HUB, SERVE, CD, HBM, MEMCH and PORT by their index in the map. -/
def ownMachine (i : Nat) : Bool := decide (i = 1 ∨ i = 2 ∨ i = 5 ∨ (16 ≤ i ∧ i < 100))

def State.isReady (s : State) (i : Nat) : Bool := if i < 64 then s.rb 0x10000 i else s.rb 0x10008 (i - 64)
def State.hasFailed (s : State) (i : Nat) : Bool := if i < 64 then s.rb 0x10010 i else s.rb 0x10018 (i - 64)
def State.setReady (s : State) (i : Nat) : State := if i < 64 then s.setRb 0x10000 i true else s.setRb 0x10008 (i - 64) true
def State.setFailed (s : State) (i : Nat) : State := if i < 64 then s.setRb 0x10010 i true else s.setRb 0x10018 (i - 64) true

/-- LANTERN, every CD[n] and every HBM[n] are set (R497). -/
def State.computeReady (s : State) : Bool := s.rb 0x10000 3 && decide (s.rf 0x10000 47 16 = 2 ^ 32 - 1)

/-- LANTERN is set in a warm bring-up, and no HBM stack is still to leave self-refresh: firmware can reach T1 and has not acted yet. -/
def State.settles (s : State) : Bool :=
  s.boot.settle && s.rb 0x10000 3 && (List.range 16).all (fun n => s.rb 0x10000 (32 + n) || s.rb 0x10010 (32 + n))

/-- What follows a change of the readiness map: the first cold bring-up that reaches compute-ready sets SNAP_VALID (R513), and in a warm one Lantern
firmware settles what the reset has cut short (R510). -/
def State.noteReady (s : State) : State :=
  let s := if s.computeReady then s.setRb resetCause 4 true else s
  if s.settles then (s.withBoot (s.boot.withSettle false)).settleWarm else s

/-- The chip runs with its rails on. -/
def State.running (s : State) : Bool := decide (s.boot.ph = BootPh.run) && decide (s.pwrState ≠ 4)

/-- Function i's state machine completes; EFNIL, LANTERN and PTP follow the link, the image and the lock, in their own rows. `cap` is the capacity in GiB of the DIMM that a memory channel has identified, 0 when its socket is
empty. The boot ROM starts them once EFNIL is set; no CD is set before APPLY (R507); with HUB set it opens image receipt (R499). -/
def execFunctionReady (i cap : Nat) (s : State) : Out :=
  if i ≥ 100 ∨ (6 ≤ i ∧ i < 16) then .fault (.noSuchUnit "function")
  else if !ownMachine i || !s.running || !s.ready 0 || s.isReady i || s.hasFailed i then .next s
  else if 16 ≤ i ∧ i < 32 then .next (if s.rb 0x10040 1 then (s.setReady i).noteReady else s)
  else if i = 2 then .next (s.setReady 2).openReceipt
  else if 48 ≤ i ∧ i < 64 then
    if cap = 0 then .next s
    else
      let n := i - 48
      .next (((s.setRf (0x10500 + 8 * n) 9 0 cap).setRb 0x10048 n true).setReady i)
  else .next (s.setReady i).noteReady

/-- The unit and the die of a training record. -/
def trainUnit (i : Nat) : Nat := if 32 ≤ i ∧ i < 48 then i - 32 else if 48 ≤ i ∧ i < 64 then i - 48 else 0xFFFF
def trainDie (i : Nat) : Nat :=
  if 16 ≤ i ∧ i < 32 then i - 16 else if 32 ≤ i ∧ i < 48 then i - 32
  else if 48 ≤ i ∧ i < 64 then 17 + (i - 48) / 8 else if 64 ≤ i then 19 + (i - 64) / 6 else 16

/-- Function i stays unusable: its bit of HUB_TRAIN_FAIL, the fatal record, and the fence of what would use it. -/
def State.failTraining (s : State) (i : Nat) : State :=
  if s.hasFailed i then s
  else (s.setFailed i).fenceFunction i { cls := 2, source := 0x0B, detail := i, unit := trainUnit i, die := trainDie i }

/-- Function i fails its third attempt, or a DIMM is of no kind that Cavor takes (R585). A failed CD fails its HBM. -/
def execTrainingFailed (i : Nat) (s : State) : Out :=
  if i ≥ 100 ∨ (6 ≤ i ∧ i < 16) then .fault (.noSuchUnit "function")
  else if !ownMachine i || !s.running || !s.ready 0 || s.isReady i || s.hasFailed i then .next s
  else
    let s := if 48 ≤ i ∧ i < 64 then (s.setRb 0x10048 (i - 48) true).setRf (0x10500 + 8 * (i - 48)) 9 0 0 else s
    let s := s.failTraining i
    .next (if 16 ≤ i ∧ i < 32 then s.failTraining (i + 16) else s).noteReady

/-! ## The image (R503, R557) -/

/-- The check of an image, of which words that read as uncorrectable never match. -/
def State.judgeImageArea (s : State) (total : Nat) : Nat ⊕ (Nat × List Byte × Nat) :=
  if s.hasBad 1 (hubKey 0) 256 then .inl 1
  else if s.hasBad 1 (hubKey 0) total then .inl 2
  else s.checkImage total

/-- The image that passed runs on every core: LANTERN is set, INC increases and boot-mode streams are discarded (R499, R502). -/
def State.startFirmware (s : State) (k : Nat) (msg : List Byte) (fwver : Nat) : State :=
  let s := (s.setRf secStatus 4 3 k).measure 0xC0100 0 msg
  let s := ((s.setRb 0x10000 3 true).setRf bootStat 2 0 4).setRf 0x70058 31 0 (s.inc + 1)
  let s := s |>.withNet (s.net |>.withTx [] |>.withRx [] |>.withOwed []) |>.withBoot (s.boot.withOpened false) |>.withTrust (s.trust.withFwver fwver)
  s.noteReady.helloAll

/-- A complete image is checked once SEC is set.
DEDUCED (log entry 52). -/
def execImageVerify (s : State) : Out :=
  match s.boot.total with
  | some total =>
    if s.bootState ≠ 3 ∨ !s.ready 1 then .next s
    else match s.judgeImageArea total with
      | .inl reason => .next (s.failImage reason)
      | .inr (k, msg, fwver) => .next (s.startFirmware k msg fwver)
  | none => .next s

def bootCtl : Nat := 0x10038

/-- A write of HUB_BOOT_CTL (R502, R503).
DEDUCED (log entry 52). -/
def State.judgeBootCtl (s : State) (v : W64) : Nat × State :=
  if !bit v 0 then (0, s.writeReg bootCtl v)
  else if !s.boot.opened then (St.bootClosed, s)
  else (0, (s.writeReg bootCtl v).failImage 0)

/-- RESTART written, FABRIC_EN as it stands. -/
def execRestart (s : State) : Out := regRow s bootCtl (fun s => s.judgeBootCtl (setBit (s.reg bootCtl) 0 true))

/-! ## The dark list (R506, R507) -/

def darkCtl : Nat := 0x10040

/-- Every tile of the dark list becomes dark. Which SOURCE the records carry is free; that they are of the contained
class is the model's choice, no row of Table 19.2 naming APPLY.
DEDUCED (log entry 62). -/
def State.applyDark (s : State) : State :=
  (List.range tileCount).foldl (fun (s : State) t =>
    if s.rb (0x10100 + t / 64 * 8) (t % 64) && decide ((s.tile t).st ≠ TileSt.dark) then
      let (v, s) := s.freeVal
      s.darkenTile t { cls := 1, source := 1 + v.toNat % 0x13 }
    else s) s

/-- A write of HUB_DARK_CTL. -/
def State.judgeDark (s : State) (v : W64) : Nat × State := (0, if bit v 0 then (s.setRb darkCtl 1 true).applyDark else s)

/-- DEDUCED (log entry 62). -/
def execApply (s : State) : Out := regRow s darkCtl (fun s => s.judgeDark 1)

end Sys2Proof.Machine
end

