-- ==== Sys2Proof/Machine/Errors.lean ====
section
/-! DEFINITION. Patrol scrub, coalesced records, the always-on store, and records of Lantern firmware (R533, R535, R543-R545). -/
namespace Sys2Proof.Machine

/-- An uncorrectable word that is read for no region: its record, and in the firmware image area the fence of LANTERN (Table 19.2). -/
def State.metBadWord (s : State) (space off : Nat) : State :=
  if imageArea space off && s.ready 3 then s.fenceFunction 3 ((badInfo s space off none) |>.withCls 2 |>.withSource 0x04 |>.withStatus 0)
  else s.raiseError ((badInfo s space off none).withStatus 0)

/-- The memory that holds a byte of spaces 0x1 to 0x3 is ready. -/
def State.memReady (s : State) (space off : Nat) : Bool :=
  match space with
  | 1 => if off < 2 ^ 29 then s.cdReady (off / 2 ^ 25) else s.ready 2
  | 2 => s.hbmReady (off / 2 ^ 36)
  | _ => s.t2On && s.chReady (s.t2Chan off)

/-- Patrol scrub reads the code word at offset `off` of a space, and finds what `ecc` says. An offset at which the space holds no word is not
scrubbed.
DEDUCED (log entry 59). -/
def execScrub (space off : Nat) (ecc : Ecc) (s : State) : Out :=
  if space = 0 ∨ space > 3 then .fault (.noSuchUnit "memory space")
  else if !s.inSpace space off 1 || !s.memReady space off || s.inDim then .next s
  else
    let w := off / wordBytes space * wordBytes space
    if s.bad.contains (memKey space w) then .next (s.metBadWord space w)
    else match ecc with
      | .fixed n d => .next (s.fixedWord space w n d)
      | .lost => .next ((s.spoil (memKey space w)).metBadWord space w)
      | _ => .next s

/-- An open corrected record is written 1 ms after its first occurrence, or when its COUNT is full (R545). -/
def execCorrectedRecordFlush (s : State) : Out :=
  match findPos (fun r => decide (4000000 + leAt r 0 8 ≤ s.now ∨ leAt r 12 2 = 0xFFFF)) s.logs.opened with
  | none => .next s
  | some i =>
    let r := s.logs.opened.getD i []
    .next ((s.withLogs (s.logs.withOpened (dropAt s.logs.opened i))).logRecord r)

/-- The log is usable: the records of the always-on store are written in order (R544). -/
def execErrorStoreDrain (s : State) : Out :=
  if !s.logUsable then .next s
  else
    let l := s.logs.store
    .next (l.foldl (fun (s : State) r => s.appendRecord r) (s.withLogs (s.logs.withStore [])))

/-- A write of HUB_ERR_INJECT: the record of Lantern firmware is stamped with TIME, and with SEQ as it is appended (R543). -/
def State.judgeInject (s : State) (v : W64) : Nat × State :=
  let off := v.toNat
  if off + 64 > 2 ^ 26 then (St.paramRange, s)
  else
    let r := s.rdMem (hubKey off) 64
    let src := leAt r 9 1
    if src ≠ 0x0E ∧ src ≠ 0x0F ∧ src ≠ 0x10 then (St.paramRange, s)
    else (0, s.logRecord (overlay r 0 (toLe 8 s.now)))

def execHubErrInject (v : W64) (s : State) : Out := regRow s 0xB0020 (fun s => s.judgeInject v)

/-- A write of MEM_ERASE[n]: 0 ends an erasure, 1 is refused (R535, R555).
DEDUCED (log entry 41). -/
def State.judgeErase (s : State) (n : Nat) (v : W64) : Nat × State :=
  s.judged (eraseReg n) v (if bit v 4 ∨ bit v 12 then St.paramRange else 0)

def execMemEraseClear (n : Nat) (v : W64) (s : State) : Out :=
  if n ≥ 16 then .fault (.noSuchUnit "memory channel") else regRow s (eraseReg n) (fun s => s.judgeErase n v)

end Sys2Proof.Machine
end

