-- ==== Sys2Proof/Machine/Power.lean ====
section
/-! DEFINITION. Power states, the cap, ramp and warning, sensors and the trip, and the I3C endpoint (R570-R590). -/
namespace Sys2Proof.Machine

def pwrCtl : Nat := 0xD0000
def State.setPwrState (s : State) (v : Nat) : State := s.setRf pwrStat 2 0 v

/-! ## Dim (R573-R575) -/

/-- Some job of Prism, the tint unit, a copy, a move or a package is held. -/
def State.jobsHeld (s : State) : Bool :=
  (List.range 16).any (fun n => !(s.prismQ n).isEmpty || !(s.tintU n).jobs.isEmpty) || !s.net.copies.isEmpty || !s.net.moves.isEmpty ||
    !s.pkg.jobs.isEmpty

/-- Dim cannot be entered now (R573). -/
def State.dimBusy (s : State) : Bool :=
  (List.range 16).any (fun g => s.contextsBusy g) || s.jobsHeld || s.rb 0x30000 0 || s.glare.run.isSome ||
    (List.range 64).any (fun k => decide (s.loanState k ≠ 0)) || !s.net.inbound.isEmpty

/-- A write of PWR_CTL. DIM is judged in Lit and while Dim is being left; LIT takes effect in Dim, or when ENTERING_DIM ends.
DEDUCED (log entry 54). -/
def State.judgePwrCtl (s : State) (v : W64) : Nat × State :=
  let st := s.pwrState
  if bit v 0 then
    if st = 0 ∨ st = 3 then
      if s.dimBusy then (St.pwrBusy, s) else (0, (s.writeReg pwrCtl v).setPwrState 2)
    else (0, (s.writeReg pwrCtl v).withPwr (s.pwr.withWantLit false))
  else
    let s := s.writeReg pwrCtl v
    if st = 1 then (0, s.setPwrState 3)
    else (0, s.withPwr (s.pwr.withWantLit (decide (st = 2))))

def execPwrTargetDim (s : State) : Out := regRow s pwrCtl (fun s => s.judgePwrCtl 1)
def execPwrTargetLit (s : State) : Out := regRow s pwrCtl (fun s => s.judgePwrCtl 0)

/-- The domains that are stopped in Dim (R572). -/
def dimDomains : List ClockDomain :=
  (List.range 16).map .array ++ (List.range 16).map .dieStore ++ (List.range 16).map .hbm ++ (List.range 16).map .ddr ++
    (List.range 2).map .mdCore

/-- The last clock has stopped. A LIT that waited takes effect. -/
def execDimEntered (s : State) : Out :=
  if s.pwrState ≠ 2 then .next s
  else
    let lit := s.pwr.wantLit
    let stopped := s.pwr.stopped ++ dimDomains.filter (fun d => !s.pwr.stopped.contains d)
    .next ((s.withPwr (s.pwr |>.withStopped stopped |>.withWantLit false) : State).setPwrState (if lit then 3 else 1))

/-- Every domain runs again. -/
def execDimLeft (s : State) : Out :=
  if s.pwrState ≠ 3 then .next s
  else .next ((s.withPwr (s.pwr.withStopped (s.pwr.stopped.filter (fun d => !dimDomains.contains d))) : State).setPwrState 0)

/-! ## Array clocks below FREQ (R577, R579, R581) -/

/-- The array clocks under the cap or a throttle of HD, MD or OD: how far each lies below FREQ is free. -/
def State.slowClocks (s : State) : State :=
  (List.range 16).foldl (fun (s : State) n =>
    if s.pwr.changing.contains n || s.pwr.hot.any (fun h => h.1 == n) then s
    else
      let (v, s) := s.freeVal
      let top := min (s.rf (cdClk n) 7 0) (s.rf (cdClk n) 15 8)
      s.setClock n (32 + v.toNat % (top - 31))) s

/-- Array clocks back at FREQ where nothing holds them down. -/
def State.freeClocks (s : State) : State :=
  (List.range 16).foldl (fun (s : State) n =>
    if s.pwr.changing.contains n || s.pwr.hot.any (fun h => h.1 == n) || s.glareDie n || decide (s.rf (cdClk n) 15 8 = s.rf (cdClk n) 7 0)
    then s else s.setClock n (s.rf (cdClk n) 7 0)) s

/-! ## Package power (R578-R580) -/

/-- The upper limit on P: the cap, and while PWRWARN_N is low the warning cap. -/
def State.limitW (s : State) : Nat :=
  let cap := s.rf 0xD0010 12 0
  if s.warnLow then min cap (s.rf 0xD0010 28 16) else cap

/-- The lowest P that ballast must hold: the floor in Lit, and a fall of RAMP_W in 100 µs. -/
def State.leastW (s : State) (before : Nat) : Nat :=
  let floor := if s.pwrState = 0 then min (s.rf 0xD0018 28 16) s.limitW else 0
  max floor (before - s.rf 0xD0018 12 0)

/-- An average in W: whether it is rounded down or up is free. -/
def State.nearPower (s : State) (sum n : Nat) : Nat × State :=
  if n = 0 ∨ sum % n = 0 then (sum / n, s)
  else
    let (v, s) := s.freeVal
    (sum / n + (bit v 0).toNat, s)

/-- Every 1 µs: package power `w` has been measured, with the input voltage in 0.1 V and the module's input power. P is the average of 10 µs.
CAPPED reads 1 while P stands at its limit, and the array clocks are then lowered. A fall that ballast does not hold is counted, at most once in
100 µs; the fall to the warning cap is exempt.
DESIGN CHOICE (log entry 8). DEDUCED (log entry 54). -/
def execPowerSample (w dv input : Nat) (s : State) : Out :=
  if s.boot.ph = .off then .next s
  else
    let l := (w :: s.pwr.samples).take 10
    let (p, s) := s.nearPower (l.foldl (· + ·) 0) l.length
    let before := s.pwr.history[99]?
    let miss : Bool := match before with
      | some b => decide (p < s.leastW b ∧ (s.pwrState = 0 ∨ s.pwrState = 2)) && !s.warnLow
      | none => false
    let s := if miss then s.count 0xD0028 63 48 1 else s
    let s := s.withPwr (s.pwr |>.withSamples l |>.withHistory (if miss then [p] else (p :: s.pwr.history).take 100) |>.withInputW input)
    let capped := decide (p ≥ s.limitW)
    let was := s.rb pwrStat 6
    let s := ((s.setRf pwrStat 28 16 (min p 8191)).setRf pwrStat 41 32 (min dv 1023)).setRb pwrStat 6 capped
    .next (if s.glare.run.isSome || s.pwrState != 0 then s
      else if capped || s.pwr.hotOther then s.slowClocks
      else if was then s.freeClocks else s)

/-- PWRWARN_N falls: it is counted, and a glare run ends (R554, R578). -/
def execPwrwarnFall (s : State) : Out :=
  if s.warnLow then .next s else .next ((s.setRb pwrStat 3 true).count 0xD0028 47 32 1).glareAbort

def execPwrwarnRise (s : State) : Out := .next (s.setRb pwrStat 3 false)

/-- EJECT_N has been low for 100 µs: Hold is entered at the next step boundary (R588). -/
def execEject (s : State) : Out := .next ((s.setRb pwrStat 4 true).withSrv (s.srv.withHoldDue true))

/-! ## Sensors (R581, R582) -/

/-- Reading `i` of a list of temperatures. -/
def tempAt (l : List Nat) (i : Nat) : Nat := l.getD i 0

/-- What the sensors read, in the registers; a socket without a DIMM reads 0. -/
def State.putTemps (s : State) (t : Temps) : State :=
  let s := (List.range 16).foldl (fun (s : State) n =>
    let o := 0xD0200 + 8 * n
    let s := (s.setRf o 7 0 (tempAt t.cd n)).raise o 15 8 (tempAt t.cd n)
    let s := s.setRf o 23 16 (tempAt t.hbm n)
    s.setRf (0xD0300 + 8 * n) 7 0 (if s.rb 0x10048 n then tempAt t.dimm n else 0)) s
  (((s.setRf 0xD0280 7 0 t.hd).setRf 0xD0280 15 8 t.md0).setRf 0xD0280 23 16 t.md1).setRf 0xD0280 31 24 t.od

/-- The hottest of HD, MD and OD. -/
def Temps.other (t : Temps) : Nat := max (max t.hd t.md0) (max t.md1 t.od)

/-- What the sensors of the dies read. -/
def Temps.dies (t : Temps) : List Nat := t.hd :: t.md0 :: t.md1 :: t.od :: (List.range 16).map (fun n => tempAt t.cd n)

/-- Every reading lies at least `m` below its threshold, or some reading is at or above it (m = 0). -/
def State.coolBy (s : State) (t : Temps) (m : Nat) : Bool :=
  let die := s.rf 0xD0020 7 0
  let hbm := s.rf 0xD0020 15 8
  (Temps.dies t).all (fun x => decide (x + m ≤ die)) &&
    (List.range 16).all (fun n => decide (tempAt t.hbm n + m ≤ hbm) && (!s.rb 0x10048 n || decide (tempAt t.dimm n + m ≤ 85)))

/-- The alert: THERM_ALERT_N goes low at a threshold, and high once every reading has been 3 °C below for 1 ms. -/
def State.alert (s : State) (t : Temps) : State :=
  if !s.coolBy t 1 then (s.setRb pwrStat 7 true).withPwr (s.pwr.withCoolSince none)
  else if !s.rb pwrStat 7 then s
  else if !s.coolBy t 3 then s.withPwr (s.pwr.withCoolSince none)
  else match s.pwr.coolSince with
    | none => s.withPwr (s.pwr.withCoolSince (some s.now))
    | some u => if 4000000 + u ≤ s.now then (s.setRb pwrStat 7 false).withPwr (s.pwr.withCoolSince none) else s

/-- The throttle of CDn: it falls by 100 MHz a sample while hot, and rises by 100 MHz a millisecond once cool, up to FREQ. -/
def State.throttleDie (s : State) (t : Temps) (n : Nat) : State :=
  let cd := tempAt t.cd n
  let hbm := tempAt t.hbm n
  let held := s.pwr.hot.find? (fun h => h.1 == n)
  let rest := s.pwr.hot.filter (fun h => h.1 != n)
  let now := s.rf (cdClk n) 15 8
  let hot := decide (cd ≥ 105 ∨ hbm ≥ 95)
  match held with
  | none => if hot then (s.setClock n (max 32 (now - 4))).withPwr (s.pwr.withHot ((n, s.now) :: rest)) else s
  | some (_, since) =>
    if cd > 103 ∨ hbm > 93 then (s.setClock n (max 32 (now - 4))).withPwr (s.pwr.withHot ((n, s.now) :: rest))
    else if 4000000 + since > s.now then s
    else
      let f := min (s.rf (cdClk n) 7 0) (now + 4)
      let s := s.setClock n f
      (s.withPwr (s.pwr.withHot (if f = s.rf (cdClk n) 7 0 then rest else (n, s.now) :: rest)))

/-- A trip: the fatal record, THERM_TRIP_N low, and every rail off but those of Unlit, so that no function is ready but the Efnil port
(R572, R576, R582). -/
def State.tripOff (s : State) : State :=
  let s := s.raiseError { cls := 2, source := 0x12 }
  let (fuses, s) := s.fusesAfter
  let z := s.keepSent State.reset
  let always (o : Nat) : Bool := decide ((0x10000 ≤ o ∧ o < 0x20000) ∨ (0xB0018 ≤ o ∧ o < 0xB0200) ∨ (0xD0000 ≤ o ∧ o < 0xE0000) ∨ o = 0 ∨ o = 8)
  let z : State := z |>.withRegs (Sparse.keep always s.regs) |>.withTime s.time |>.withLogs (z.logs |>.withStore s.logs.store
      |>.withSeq s.logs.seq) |>.withBoot (z.boot |>.withReset s.boot.reset |>.withDue s.boot.due) |>.withEfn s.efn |>.withPwr (s.pwr |>.withTrip true
      |>.withStopped [] |>.withWantLit false |>.withChanging [] |>.withHot [] |>.withHotOther false)
      |>.withTrust (z.trust.withClosed (bit fuses 0))
  let z := (z.setReg 0x10000 (if s.rb 0x10000 0 then 1 else 0)).setReg 0x10008 0
  (((z.setReg 0x60000 (s.reg 0x60000)).setReg efnStat (s.reg efnStat)).setReg secStatus fuses).setPwrState 4

/-- What the throttles do together, `other` being that of HD, MD and OD: THROTTLED and its counter, the end of a glare run that they
meet, and the slow clocks (R572, R582). -/
def State.throttled (s : State) (other : Bool) : State :=
  let any := other || !s.pwr.hot.isEmpty
  let s := (s.withPwr (s.pwr.withHotOther other)).setRb pwrStat 5 any
  let s := if any then s.count 0xD0028 31 0 10 else s
  let s := if other || s.pwr.hot.any (fun h => s.glareDie h.1) then s.glareAbort else s
  if other then s.slowClocks else s

/-- Every 10 µs the sensors are read.
DESIGN CHOICE (log entry 8). DEDUCED (log entry 54). -/
def execThermalSample (t : Temps) (s : State) : Out :=
  if s.boot.ph = .off then .next s
  else
    let s := s.putTemps t
    if s.pwrState = 4 then .next s
    else if (Temps.dies t).any (fun x => decide (x ≥ 120)) || (List.range 16).any (fun n => decide (tempAt t.hbm n ≥ 105)) then .next s.tripOff
    else
      let s := (List.range 16).foldl (fun (s : State) n => s.throttleDie t n) (s.alert t)
      .next (s.throttled (if s.pwr.hotOther then decide (Temps.other t > 103) else decide (Temps.other t ≥ 105)))

/-! ## I3C (R589) -/

/-- The reading of a sensor of Table 21.7. Entering Dim is part of Lit, and leaving it of Dim. -/
def State.sensor (s : State) (i : Nat) : Option Nat :=
  if i = 1 then some (s.rf pwrStat 41 32)
  else if i = 2 then some s.pwr.inputW
  else if i = 3 then some (s.rf pwrStat 28 16)
  else if 4 ≤ i ∧ i ≤ 19 then some (s.rf (0xD0200 + 8 * (i - 4)) 7 0)
  else if i = 20 then some ((List.range 4).foldl (fun a k => max a (s.rf 0xD0280 (8 * k + 7) (8 * k))) 0)
  else if 21 ≤ i ∧ i ≤ 36 then some (s.rf (0xD0200 + 8 * (i - 21)) 23 16)
  else if 37 ≤ i ∧ i ≤ 52 then (if s.rb 0x10048 (i - 37) then some (s.rf (0xD0300 + 8 * (i - 37)) 7 0) else none)
  else if i = 53 then some (if s.pwrState = 1 ∨ s.pwrState = 3 then 1 else if s.pwrState = 4 then 2 else 0)
  else none

/-- A request over I3C is answered: a reading, or none when the sensor is unavailable. What an MCTP control message is answered with is the
matter of DSP0236, and free.
DEDUCED (log entry 54). -/
def execI3cRequest (q : I3cReq) (s : State) : Out :=
  if s.boot.ph = .off then .next s
  else match q with
    | .reading i => .next (s.withPwr (s.pwr.withI3c (s.pwr.i3c ++ [(q, s.sensor i)])))
    | .control _ =>
      let (v, s) := s.freeVal
      .next (s.withPwr (s.pwr.withI3c (s.pwr.i3c ++ [(q, some v.toNat)])))

end Sys2Proof.Machine
end

