-- ==== Sys2Proof/Machine/Glare.lean ====
section
/-! DEFINITION. Glare packages and glare runs (R549-R555). -/
namespace Sys2Proof.Machine

/-! ## The package (R549, R550) -/

/-- `n` bytes of the glare area from byte `b`. -/
def State.glareAt (s : State) (b n : Nat) : List Byte := s.rdHub (glareBase + b) n
def State.glareBody (s : State) : Nat := leAt (s.glareAt 8 4) 0 4
def State.glarePoints (s : State) : Nat := leAt (s.glareAt 12 2) 0 2
def State.glareSections (s : State) : Nat := leAt (s.glareAt 14 2) 0 2

/-- Point record p. -/
def State.pointRec (s : State) (p : Nat) : List Byte := s.glareAt (256 + 16 * p) 16
/-- The offset of template k within the body, and its header. -/
def State.templateOff (s : State) (k : Nat) : Nat := leAt (s.glareAt (256 + 16 * s.glarePoints + 8 * k) 8) 0 8
def State.templateHead (s : State) (k : Nat) : Option ImgHead := parseHead (s.glareAt (256 + s.templateOff k) 64)

/-- A point record keeps the rules of Table 19.6; `n` is the number of templates. -/
def pointOk (n : Nat) (r : List Byte) : Bool :=
  let dv := leAt r 0 1
  let tj := leAt r 2 1
  decide (dv = 0 ∨ (6 ≤ dv ∧ dv ≤ 16)) && decide (leAt r 1 1 ≤ 10) && decide (tj = 0 ∨ (60 ≤ tj ∧ tj ≤ 100)) && decide (leAt r 3 1 ≥ 1) &&
    decide (leAt r 4 2 < 2 ^ n) && decide (1 ≤ leAt r 8 4 ∧ leAt r 8 4 ≤ 10 ^ 7) && zeros (slice r 12 4)

/-- A template is an image with one tile record, no routes and no bindings, inside the body. -/
def State.templateOk (s : State) (k : Nat) : Bool :=
  decide (s.templateOff k % 4096 = 0) && decide (s.templateOff k + 64 ≤ s.glareBody) && match s.templateHead k with
    | some h => decide (h.tiles = 1 ∧ h.routes = 0 ∧ h.binds = 0 ∧ s.templateOff k + h.bytes ≤ s.glareBody)
    | none => false

/-- Header and records. -/
def State.glareHeadOk (s : State) (total : Nat) : Bool :=
  let body := s.glareBody
  let np := s.glarePoints
  let ns := s.glareSections
  decide (leAt (s.glareAt 0 4) 0 4 = 0x474C5231 ∧ body % 32 = 0 ∧ total = 4896 + body ∧ 1 ≤ np ∧ np ≤ 64 ∧ 1 ≤ ns ∧ ns ≤ 16 ∧
      16 * np + 8 * ns ≤ body) &&
    (List.range np).all (fun p => pointOk ns (s.pointRec p)) && (List.range ns).all s.templateOk

/-- REASON of the first check that the package fails, or the signed message. -/
def State.checkGlare (s : State) (total : Nat) : Nat ⊕ List Byte :=
  let body := s.glareBody
  if s.hasBad 1 (hubKey glareBase) 256 || !s.glareHeadOk total then .inl 1
  else if s.hasBad 1 (hubKey glareBase) total || s.glareAt 64 64 != sha3Bytes (s.glareAt 256 body) then .inl 2
  else
    let msg := sha3Bytes (s.glareAt 0 (256 + body))
    match s.verifyKey ctxGlare msg (s.glareAt (256 + body) 4627) with
    | some _ => .inr msg
    | none => .inl 3

/-- A complete package is verified: READY with its measurement, or BAD with the reason.
DEDUCED (log entry 56). -/
def execGlarePackageVerify (s : State) : Out :=
  match s.glare.total with
  | none => .next s
  | some total =>
    if s.rf glareStat 2 0 ≠ 2 ∨ !s.ready 1 then .next s
    else match s.checkGlare total with
      | .inl r => .next ((s.setRf glareStat 2 0 5).setRf glareStat 5 3 r)
      | .inr msg =>
        let s := (s.setRf glareStat 2 0 3).setRf glareStat 5 3 0
        .next ((s.setRf 0xB1010 63 32 (leAt (s.glareAt 4 4) 0 4)).measure 0xC0180 16 msg)

/-! ## Runs (R552) -/

def State.setGlareRun (s : State) (r : GlareRun) : State := s.withGlare (s.glare.withRun (some r))

/-- The templates that a point selects. -/
def State.selected (s : State) (p : Nat) : List Nat :=
  (List.range s.glareSections).filter (fun k => decide (bitsAt (leAt (s.pointRec p) 4 2) k 1 = 1))

/-- The templates of a point's verdict runs: each selected one REPEAT times. -/
def State.verdictRuns (s : State) (p : Nat) : List Nat :=
  (s.selected p).flatMap (fun k => List.replicate (leAt (s.pointRec p) 3 1) k)

/-- The margins of a point on every affected die: 3.3 GHz × (1 + DF × 0.005), and nominal × (1 − DV × 0.005). -/
def State.setMargins (s : State) (r : GlareRun) : State :=
  let rec_ := s.pointRec r.point
  let f := 132 * (200 + leAt rec_ 1 1) / 200
  r.former.foldl (fun (s : State) e =>
    let (mv, s) := s.nearPower ((Config.railMv e.1 132).toNat * (200 - leAt rec_ 0 1)) 200
    (s.setRf (cdClk e.1) 15 8 f).setRf (cdClk e.1) 31 16 mv) s

/-- Point p begins: its margins are set and settle. -/
def State.beginPoint (s : State) (r : GlareRun) (p : Nat) : State :=
  let r := r |>.withPoint p |>.withPh .settling |>.withTodo [] |>.withCounts false |>.withHere [] |>.withFailedHere [] |>.withMarked []
  ((s.setMargins r).setRf glareStat 21 16 p).setGlareRun (r.withSince s.now)

/-- The section of a template for a region: its image in bytes, one tile record for each active tile, of which the lowest reports. -/
def State.glareImage (s : State) (k : Nat) (tiles : List Nat) : Option (ImgHead × List Byte) :=
  match s.templateHead k with
  | none => none
  | some h =>
    let b := s.glareAt (256 + s.templateOff k) h.bytes
    let r := slice (b.drop h.tileOff) 0 512
    let prog := slice (b.drop (leAt r 480 8)) 0 (8 * leAt r 488 4)
    let n := tiles.length
    let at_ := 64 + 512 * n
    let recs := tiles.zipIdx.flatMap (fun e =>
      overlay (overlay (overlay r 0 (toLe 2 e.1)) 2 (toLe 1 (if e.2 = 0 then 1 else 0))) 480 (toLe 8 at_))
    let rest := recs ++ prog
    some (⟨n, 0, 0, h.spill, 64 + rest.length, 64, 64, 64, crc32c rest⟩, List.replicate 64 0 ++ rest)

/-- The section of region g is loaded into context 7 and started, or its load is refused. -/
def State.glareLoad (s : State) (k g : Nat) : Nat × List Nat × State :=
  let tiles := (s.regionTiles g).filter (fun t => decide ((s.tile t).st = TileSt.active))
  let epoch := (s.lastE g + 1) % 2 ^ 32
  match s.glareImage k tiles with
  | none => (St.imageBad, [], s)
  | some (h, b) =>
    if tiles.isEmpty then (0, [], s)
    else match s.judgeImage g 7 epoch h b with
      | .no st => (st, [], s)
      | .yes im units =>
        let s := (s.acceptLoad g 7 epoch 0 im units).finishLoad g 7 im
        let x := s.sec g 7
        let s := tiles.foldl (fun (s : State) t => s.updTile t (fun y => y.start g 7)) s
        (0, tiles, s.setSec g 7 (x |>.withSt .running |>.withReported [] |>.withXcode 0 |>.withXcodeOr 0 |>.withFault none
            |>.withRunFires 0 |>.withRunPeak 0))

/-- The affected dies are restored, and the run ends with a result after 100 µs. -/
def State.glareRestore (s : State) (r : GlareRun) (result : Nat) : State :=
  (s.restoreClocks r).setGlareRun (r |>.withPh .restoring |>.withTodo [] |>.withCounts false |>.withResult result
    |>.withSince s.now)

/-- A run of template k in every target region; a load that is refused ends the glare run. -/
def State.glareStartRun (s : State) (r : GlareRun) (k : Nat) : State :=
  let (st, tiles, s) := (maskRegions r.regions).foldl (fun (a : Nat × List Nat × State) g =>
    if a.1 ≠ 0 then a
    else
      let (st, ts, s) := a.2.2.glareLoad k g
      (st, a.2.1 ++ ts, s)) (0, [], s)
  if st ≠ 0 then s.glareRestore r st
  else s.setGlareRun (r |>.withRunAt s.now |>.withHere (if r.counts then tiles.foldl (fun l t => insertNat t l) r.here else r.here))

/-- A point has its verdict: its register, and the next point, or the end. -/
def State.pointDone (s : State) (r : GlareRun) : State :=
  let s := s.setReg (0xB1400 + 8 * r.point) (BitVec.ofNat 64 (r.here.length + 2 ^ 16 * r.failedHere.length + 2 ^ 32))
  let r := r |>.withTested (r.here.foldl (fun l t => insertNat t l) r.tested) |>.withFailed (r.failedHere.foldl (fun l t => insertNat t l) r.failed)
  let s := (s.setRf glareStat 47 32 r.failed.length).setGlareRun r
  if r.point + 1 < s.glarePoints then s.beginPoint r (r.point + 1) else s.glareRestore r 0

/-- The first of the templates still to run is started for the verdict, or the point is done. -/
def State.verdictNext (s : State) (r : GlareRun) : State :=
  match r.todo with
  | [] => s.pointDone (r.withCounts false)
  | k :: _ => s.glareStartRun (r |>.withPh .verdict |>.withCounts true) k

/-- 100 µs after the margins were set: heating begins, or the verdict runs.
DEDUCED (log entry 71). -/
def execGlarePointSettled (s : State) : Out :=
  match s.glare.run with
  | none => .next s
  | some r =>
    if r.ph ≠ .settling ∨ s.now < r.since + 400000 then .next s
    else if leAt (s.pointRec r.point) 2 1 ≠ 0 then
      let r := r |>.withPh .heating |>.withTodo (s.selected r.point)
      .next (match r.todo with
        | [] => s.setGlareRun r
        | k :: _ => s.glareStartRun r k)
    else .next (s.verdictNext (r.withTodo (s.verdictRuns r.point)))

/-- The hottest sensor of every affected die reads the TJ of the point. -/
def State.heated (s : State) (r : GlareRun) : Bool :=
  r.former.all (fun e => decide (leAt (s.pointRec r.point) 2 1 ≤ s.rf (0xD0200 + 8 * e.1) 7 0))

/-- The hottest sensor of every affected die reads TJ, and the dwell begins. -/
def execGlareTjReached (s : State) : Out :=
  match s.glare.run with
  | some r => .next (if r.ph = .heating ∧ s.heated r then s.setGlareRun (r |>.withPh .dwelling |>.withSince s.now) else s)
  | none => .next s

/-- Some section of a target region's context 7 runs. -/
def State.glareBusy (s : State) (r : GlareRun) : Bool := (maskRegions r.regions).any (fun g => (s.sec g 7).active)

/-- DWELL_MS have passed. The heating run in progress ends without a verdict before the verdict runs begin. -/
def execGlareDwellEnd (s : State) : Out :=
  match s.glare.run with
  | none => .next s
  | some r =>
    if r.ph ≠ .dwelling ∨ s.now < r.since + 4000000 * leAt (s.pointRec r.point) 6 2 then .next s
    else
      let r := r |>.withPh .verdict |>.withTodo (s.verdictRuns r.point)
      .next (if s.glareBusy r then s.setGlareRun r else s.verdictNext r)

/-- Tiles that fail the point and have no record of it yet: each is SUSPECT, with its record (R553). -/
def State.glareMark (s : State) (r : GlareRun) : State :=
  (r.failedHere.filter (fun t => !r.marked.contains t)).foldl (fun (s : State) t =>
    (s.markSuspect t).raiseError { cls := 1, source := 0x11, unit := t, die := tileDie t, detail := r.point, aux := (tileCoord t).toNat }) s

/-- A template run is over; `more` are tiles that fail by other causes than their XCODE. -/
def State.glareRunOver (s : State) (r : GlareRun) (more : List Nat) : State :=
  if r.counts then
    let r := r.withFailedHere (more.foldl (fun l t => insertNat t l) r.failedHere)
    (s.glareMark r).verdictNext (r |>.withMarked r.failedHere |>.withTodo (r.todo.drop 1))
  else if r.ph = .verdict then s.verdictNext r
  else match r.todo with
    | k :: l => match l ++ [k] with
      | m :: l => s.glareStartRun (r.withTodo (m :: l)) m
      | [] => s
    | [] => s

/-- Every section of the run has ended or faulted; FAULT_T0 of a faulted run fails.
DEDUCED (log entry 56). -/
def execGlareTemplateRunEnd (s : State) : Out :=
  match s.glare.run with
  | none => .next s
  | some r =>
    if r.ph = .settling ∨ r.ph = .restoring ∨ s.glareBusy r then .next s
    else
      let faults := (maskRegions r.regions).filterMap (fun g => ((s.sec g 7).fault.map (·.t0)))
      .next (s.glareRunOver r (faults.filter (fun t => decide (t < tileCount))))

/-- TIMEOUT_US have passed: tiles without END fail, and the target regions are reset. -/
def execGlareTimeout (s : State) : Out :=
  match s.glare.run with
  | none => .next s
  | some r =>
    if r.ph = .settling ∨ r.ph = .restoring ∨ !s.glareBusy r ∨ s.now < r.runAt + 4000 * leAt (s.pointRec r.point) 8 4 then .next s
    else
      let late := (maskRegions r.regions).flatMap (fun g =>
        let x := s.sec g 7
        if x.active then x.tiles.filter (fun t => !x.reported.contains t) else [])
      let s := (maskRegions r.regions).foldl (fun (s : State) g => s.resetRegion g) s
      .next (s.glareRunOver r late)

/-- Context 7 of region g is left EMPTY. -/
def State.emptyCtx (s : State) (g : Nat) : State :=
  let s := (s.regionTiles g).foldl (fun (s : State) t => s.updTile t (fun x => x.unbind 7)) s
  s.updSec g 7 (fun x => Section.init |>.withLoadStatus x.loadStatus |>.withFires x.fires |>.withPeak x.peak |>.withLens x.lens
      |>.withLenNext x.lenNext)

/-- 100 µs after the dies were restored the run is over, and the event is posted. -/
def execGlareRunEnd (s : State) : Out :=
  match s.glare.run with
  | none => .next s
  | some r =>
    if r.ph ≠ .restoring ∨ s.now < r.since + 400000 then .next s
    else
      let s := (maskRegions r.regions).foldl (fun (s : State) g => s.emptyCtx g) s
      let s := s.withGlare (s.glare.withRun none)
      let s := ((s.setRf glareStat 2 0 3).setRf glareStat 15 8 r.result).count glareStat 63 48 1
      .next (s.postGlare r.result r.failed.length r.tested.length)

/-! ## HUB_GLARE_CTL (R551, R554) -/

def glareCtl : Nat := 0xB1000

/-- Region g stands in the way of a run over the regions of the mask (R551). -/
def State.glareScope (s : State) (mask g : Nat) : Bool :=
  s.rb (hubRegion g) 12 || s.regionActive g || s.listsHeld g || s.jobsFor g ||
    (List.range 16).any (fun n => s.regionOnDie g n && (List.range 16).any (fun h => decide (bitsAt mask h 1 = 0) && s.regionOnDie h n))

/-- A write of HUB_GLARE_CTL with START: the run begins at its first point. -/
def State.glareStart (s : State) (v : W64) : Nat × State :=
  let mask := fld v 15 0
  if s.glare.run.isSome then (St.glareActive, s)
  else if s.rf glareStat 2 0 ≠ 3 then (St.glarePkg, s)
  else if (maskRegions mask).any (fun g => s.glareScope mask g) then (St.glareScope, s)
  else
    let s := s.writeReg glareCtl v
    let dies := (List.range 16).filter (fun n => (maskRegions mask).any (fun g => s.regionOnDie g n))
    let r : GlareRun :=
      ⟨mask, 0, .settling, [], false, [], [], [], [], [], dies.map (fun n => (n, s.rf (cdClk n) 15 8)), 0, s.now, s.now⟩
    let s := (List.range 64).foldl (fun (s : State) p => s.setReg (0xB1400 + 8 * p) 0) s
    let s := ((s.setRf glareStat 2 0 4).setRf glareStat 15 8 0).setRf glareStat 47 32 0
    (0, s.beginPoint r 0)

/-- A write of HUB_GLARE_CTL. -/
def State.judgeGlareCtl (s : State) (v : W64) : Nat × State :=
  if bit v 16 then s.glareStart v
  else
    let s := s.writeReg glareCtl v
    (0, if bit v 17 then s.glareAbort else s)

/-- DEDUCED (log entry 56). -/
def execGlareStart (v : W64) (s : State) : Out := regRow s glareCtl (fun s => s.glareStart v)

/-- ABORT written, REGIONS as it stands. -/
def execGlareAbort (s : State) : Out := regRow s glareCtl (fun s => s.judgeGlareCtl (BitVec.ofNat 64 (s.rf glareCtl 15 0 + 2 ^ 17)))

end Sys2Proof.Machine
end

