-- ==== Sys2Proof/Machine/Ports.lean ====
section
/-! DEFINITION. Optical ports: links and training, and what arrives on a sub-port until an engine takes it (R435-R459, R463, R466, R484,
R486, R502). -/
namespace Sys2Proof.Machine

/-! ## Links (R455-R457) -/

def State.ptpState (s : State) (e : Nat) : Nat := if s.subUsed e then s.rf (subCfg e) 21 20 else 0

/-- The SLAVE sub-port. -/
def State.slave (s : State) : Option Nat := (List.range 288).find? (fun e => decide (s.ptpState e = 2))

/-- A tree whose child is egress e. -/
def State.treesOver (s : State) (e : Nat) : List Nat :=
  (List.range 16).filter (fun t =>
    let o := 0x70100 + 0x20 * t
    s.rb o 0 && (List.range (s.rf o 15 11)).any (fun i => decide (s.rf (o + 8 + i / 6 * 8) (9 * (i % 6) + 8) (9 * (i % 6)) = e)))

/-- The egress is dropped from the frames of the trees that it is a child of (R482).
DEDUCED (log entry 33). -/
def State.dropChild (s : State) (e : Nat) : State :=
  if (s.treesOver e).isEmpty then s
  else
    let k := 0x4000 + e
    let s := s.loseTree k
    let x := s.txs k
    let gone := (x.una ++ x.wait).filter (fun f => f.tree.isSome)
    let s := s.withNet (s.net.withOwed (s.net.owed.filter (fun o => !gone.any (fun f => decide (o.2.1 = 2 ^ 32 * k + f.seq)))))
    let s := s.setTx k (x |>.withUna (x.una.filter (fun f => f.tree.isNone)) |>.withWait (x.wait.filter (fun f => f.tree.isNone)))
    s.postOuv 8 0 e (s.rf (egReg e 0x18) 21 8) []

/-- The link of sub-port e goes down. -/
def State.linkDown (s : State) (e : Nat) : State :=
  if !s.linkUp e then s
  else
    let s := (s.tally e 0x158 (s.sub e).egress.length).loseFrames (s.sub e).egress
    let s := s.setSub e ((s.sub e) |>.withEgress [] |>.withTurn 0 |>.withSpent 0 |>.withPauses [] |>.withXoff [])
    let s := (s.setRb (subStat e) 0 false).count (subStat e) 63 32 1
    let s := if ouvEgress e then s.moveNeigh e 0 0 else s
    let s := s.setSub e ((s.sub e).withHello none)
    let s := s.dropChild e
    if s.ptpState e = 2 then s.unlock else s

/-- The link of a sub-port comes up: every lane of it is locked and has light.
DEDUCED (log entry 61). -/
def execPortLinkUp (e : Nat) (s : State) : Out :=
  if e ≥ 288 then .fault (.noSuchUnit "egress")
  else if s.linkUp e || !s.subUsed e || !s.portOn (e / 8) || (s.sub e).dark || !s.locksAll e then .next s
  else
    let s := ((s.setRb (subStat e) 0 true).setRb (subStat e) 1 false).setRb (subStat e) 2 false
    let s := s.setSub e ((s.sub e).withHello none)
    .next ((if ouvEgress e then s.moveNeigh e 1 0 else s).pumpStreams)

/-- The lanes of a sub-port have lost their light: LOS, and no lock. -/
def State.loseLight (s : State) (e : Nat) : State :=
  let s := ((s.setLanesOf e 0 true).setLanesOf e 8 false).setRb (subStat e) 1 true
  s.setSub e ((s.sub e).withDark true)

/-- The link goes down by a cause of R456 other than ENABLE. With light the sub-port retrains; without, it waits for light, as does one whose light
goes while its link is down. -/
def execPortLinkDown (e : Nat) (cause : LinkCause) (s : State) : Out :=
  if e ≥ 288 then .fault (.noSuchUnit "egress")
  else if !s.portOn (e / 8) || !s.subUsed e then .next s
  else if cause = .light then .next ((s.linkDown e).loseLight e)
  else if !s.linkUp e then .next s
  else
    let s := s.linkDown e
    let s := s.setRb (subStat e) (if cause = .remoteFault then 2 else 1) (decide (cause ≠ .codewords) || s.rb (subStat e) 1)
    .next (s.train (e / 8) [e % 8] false)

/-- Light returns to a sub-port that has lost it. -/
def execLightRestored (e : Nat) (s : State) : Out :=
  if e ≥ 288 then .fault (.noSuchUnit "egress")
  else if !(s.sub e).dark || !s.portOn (e / 8) then .next s
  else
    let s := (s.setLanesOf e 0 false).setSub e ((s.sub e).withDark false)
    .next (s.train (e / 8) [e % 8] false)

/-- A wavelength has been below +13 dBm for 10 µs (R435). -/
def execLaserFeedLow (p : Nat) (s : State) : Out :=
  if p ≥ 36 then .fault (.noSuchUnit "port") else .next (s.setRb (portStat p) 16 true)

/-- Every wavelength has held +14 dBm for 1 ms. -/
def execLaserFeedRestored (p : Nat) (s : State) : Out :=
  if p ≥ 36 then .fault (.noSuchUnit "port")
  else if !s.feedLow p then .next s
  else
    let s := s.setRb (portStat p) 16 false
    .next (if s.portOn p then s.train p (s.subs p) false else s)

/-- Training ends: every lane that has light is locked, and a full training stores its set; or a full training has failed.
DEDUCED (log entry 61). -/
def execPortTrainDone (p : Nat) (ok : Bool) (s : State) : Out :=
  if p ≥ 36 then .fault (.noSuchUnit "port")
  else
    let st := s.rf (portStat p) 19 17
    if st ≠ 1 ∧ st ≠ 2 then .next s
    else if !ok then .next (if st = 1 then s.setRf (portStat p) 19 17 4 else s)
    else
      let s := (s.subs p).foldl (fun (s : State) k =>
        let e := 8 * p + k
        if (s.sub e).dark then s else (s.setLanesOf e 8 true).setLanesOf e 0 false) (s.setRf (portStat p) 19 17 3)
      if st = 1 then .next (s.setRb (portEq p) (8 + s.rf (portEq p) 2 0) true)
      else .next (s.setSub (8 * p) ((s.sub (8 * p)).withFails 0))

/-- A fast retrain that has not locked every lane after 5 ms falls back to full training (R455). In a warm bring-up the second in a row to fail clears
the set (R508).
DEDUCED (log entry 61).
DEDUCED (log entry 71). -/
def execFastRetrainTimeout (p : Nat) (s : State) : Out :=
  if p ≥ 36 then .fault (.noSuchUnit "port")
  else if s.rf (portStat p) 19 17 ≠ 2 ∨ s.now < (s.sub (8 * p)).trainAt + 20000000 then .next s
  else
    let s := if s.rb 0x10028 0 && !s.rb 0x10000 3 then
        let n := (s.sub (8 * p)).fails + 1
        let s := s.setSub (8 * p) ((s.sub (8 * p)).withFails n)
        if n ≥ 2 then s.setRb (portEq p) (8 + s.rf (portEq p) 2 0) false else s
      else s
    .next (s.train p (s.subs p) true)

/-! ## Port registers (R438, R448, R451, R453, R460, R461) -/

/-- Every sub-port of the port goes down, its transmitters dark. -/
def State.portDark (s : State) (p : Nat) : State :=
  let s := (List.range 8).foldl (fun (s : State) k =>
    let s := s.linkDown (8 * p + k)
    s.setSub (8 * p + k) ((s.sub (8 * p + k)).withDark false)) s
  ((s.setRf (portStat p) 19 17 0).setRf (portStat p) 15 8 0).setRf (portStat p) 7 0 0

/-- Ingress buffer of a sub-port of a mode. -/
def bufferOf (mode : Nat) : Nat := 2 ^ 22 / subCount mode
def State.bufferBytes (s : State) (p : Nat) : Nat := bufferOf (s.portMode p)

/-- The reservations of PORT_PFC's value `v` exceed the buffer of a sub-port of a mode (R448). -/
def pfcOver (v : W64) (mode : Nat) : Bool := decide (64 * (popCount 8 (fld v 39 32) * (fld v 15 0 + fld v 55 40)) > bufferOf mode)

/-- A write of PORT_PFC. -/
def State.judgePortPfc (s : State) (p : Nat) (v : W64) : Nat × State :=
  s.judged (portOff p 0x18) v (if fld v 31 16 ≥ fld v 15 0 ∨ pfcOver v (s.portMode p) then St.paramRange else 0)

/-- HUB_PTP_STAT.SLAVE follows the sub-ports; with none LOCKED clears (R526). -/
def State.followSlave (s : State) : State :=
  match s.slave with
  | some e => s.setRf ptpStat 42 34 e
  | none => (s.setRf ptpStat 42 34 0).unlock

/-- The sub-ports in the state SLAVE. -/
def State.slaves (s : State) : List Nat := (List.range 288).filter (fun e => decide (s.ptpState e = 2))

/-- A write of PORT_CFG (R438): a MODE in which the reservations of PORT_PFC exceed the buffer (R448), or that would give a second SLAVE sub-port
(R453), is refused. Writing MODE as it stands is no MODE write. -/
def State.judgePortCfg (s : State) (p : Nat) (v : W64) : Nat × State :=
  let m := fld v 1 0
  let changes := decide (m ≠ s.portMode p)
  if m = 3 ∨ (isServing p ∧ m ≠ 0) then (St.paramRange, s)
  else if s.portOn p ∧ changes then (St.portBusy, s)
  else if changes ∧ (pfcOver (s.reg (portOff p 0x18)) m ∨ (s.setRf (portOff p 0) 1 0 m).slaves.length > 1) then (St.paramRange, s)
  else
    let was := s.portOn p
    let s := if was ∧ !bit v 2 then s.portDark p else s
    let s := s.writeReg (portOff p 0) v
    let s := if changes then s.followSlave else s
    (0, if bit v 2 ∧ (!was ∨ bit v 3) then s.train p (s.subs p) (bit v 3) else s)

def execPortCfgWrite (p : Nat) (v : W64) (s : State) : Out :=
  if p ≥ 36 then .fault (.noSuchUnit "port") else regRow s (portOff p 0) (fun s => s.judgePortCfg p v)

/-- FULL written, the other fields as they are. -/
def execFull (p : Nat) (s : State) : Out :=
  if p ≥ 36 then .fault (.noSuchUnit "port")
  else regRow s (portOff p 0) (fun s => s.judgePortCfg p (setBit (s.reg (portOff p 0)) 3 true))

/-- A write of PORT_SUB_CFG. -/
def State.judgeSubCfg (s : State) (e : Nat) (v : W64) : Nat × State :=
  let max := fld v 13 0
  let other : Bool := match s.slave with
    | some x => decide (x ≠ e)
    | none => false
  if max < 64 ∨ max > 9216 ∨ fld v 39 32 = 0 ∨ (decide (fld v 21 20 = 2) && other) then (St.paramRange, s)
  else (0, (s.writeReg (subCfg e) v).followSlave.pumpStreams)

/-- A write of a register of SA `sa`: 0 CTL, 1 PN, 2 to 5 KEY0 to KEY3, 6 and 7 SALT. The key and the salt are held where no read returns
them. -/
def State.judgeSa (s : State) (e sa r : Nat) (v : W64) : Nat × State :=
  let o := saReg e sa (8 * r)
  let on := s.rb (saReg e sa 0) 0
  if r = 0 then
    if on ∧ (fld v 63 32 ≠ s.rf o 63 32 ∨ (!bit v 0 ∧ sa = s.rf (egSub e 0x30) 1 0)) then (St.saInUse, s)
    else (0, s.writeReg o v)
  else if on then (St.saInUse, s)
  else if r = 1 then
    let p := s.sub e
    (0, (s.setReg o v).setSub e (p.withLowest (p.lowest.filter (fun x => x.1 != sa))))
  else (0, s.setReg o (if r = 7 then setFld v 63 32 0 else v))

/-- A write to a sub-port's register; one that the mode does not use ignores it (R438). -/
def subRow (s : State) (e o : Nat) (f : State → Nat × State) : Out :=
  if e ≥ 288 then .fault (.noSuchUnit "egress") else regRow s (egSub e o) (fun s => if s.subUsed e then f s else (0, s))

def execPortSaWrite (e sa r : Nat) (v : W64) (s : State) : Out :=
  if sa ≥ 20 ∨ r ≥ 8 then .fault (.noSuchUnit "secure association") else subRow s e (0x400 + 0x40 * sa + 8 * r) (fun s => s.judgeSa e sa r v)

def execPortSubSecWrite (e : Nat) (v : W64) (s : State) : Out :=
  subRow s e 0x30 (fun s => (0, s.writeReg (egSub e 0x30) v))

/-! ## Filters (R441, R444) -/

/-- The destination address is one of the sub-port's. -/
def State.addrOk (s : State) (e dst : Nat) : Bool :=
  decide (dst = s.subMac e ∨ dst = 0x011B19000000 ∨ dst = 0x0180C200000E ∨ dst = macControl) ||
    (s.hasIp e && decide (dst = 0x3333FF000000 + s.rf (egSub e 0x28) 23 0)) || (s.ouvRuns && decide (dst = ouvGroup))

/-- The tag, if any, is accepted. -/
def State.vlanOk (s : State) (e : Nat) (tci : Option Nat) : Bool :=
  let o := egSub e 0x18
  match tci with
  | none => !s.rb o 12
  | some t => if s.rb o 12 then s.rb o 13 || decide (t % 4096 = s.rf o 11 0) else decide (t % 4096 = 0)

/-! ## MACsec (R450) -/

/-- The packet number that lies REPLAY_WIN above the lowest acceptable one of an SA. -/
def State.pnBase (s : State) (e sa : Nat) : Nat :=
  (((s.sub e).lowest.find? (fun x => x.1 == sa)).map (·.2)).getD (s.reg (saReg e sa 8)).toNat

/-- The lowest acceptable packet number of an SA. -/
def State.lowestPn (s : State) (e sa : Nat) : Nat := s.pnBase e sa - s.rf (egSub e 0x30) 63 32

/-- The 64-bit packet number from its low 32 bits and the lowest acceptable one (IEEE 802.1AE for XPN). -/
def recoverPn (lowest low : Nat) : Nat :=
  let hi := lowest / 2 ^ 32
  if lowest % 2 ^ 32 ≥ 2 ^ 31 ∧ low < 2 ^ 31 then 2 ^ 32 * (hi + 1) + low else 2 ^ 32 * hi + low

/-- What a protected frame carries from its EtherType on: none when it is not accepted. `i` is where its EtherType stands. -/
def State.unprotect (s : State) (e i : Nat) (b : List Byte) : Option (List Byte × State) :=
  let tci := beAt b (i + 2) 1
  let an := tci % 4
  let sl := beAt b (i + 3) 1
  if b.length < i + 32 ∨ bitsAt tci 7 1 = 1 ∨ bitsAt tci 5 1 = 0 ∨ bitsAt tci 3 1 = 0 ∨ bitsAt tci 2 1 = 0 then none
  else
    match (List.range 4).find? (fun c => decide (s.reg (egSub e (0x308 + 8 * c)) = BitVec.ofNat 64 (beAt b (i + 8) 8)) &&
        (List.range 4).any (fun n => s.rb (saReg e (4 * (c + 1) + n) 0) 0)) with
    | none => none
    | some c =>
      let sa := 4 * (c + 1) + an
      if !s.rb (saReg e sa 0) 0 then none
      else
        let low := s.lowestPn e sa
        let pn := recoverPn low (beAt b (i + 4) 4)
        if pn < low then none
        else
          let data := b.drop (i + 16)
          let data := if sl = 0 then data else data.take (sl + 16)
          match Config.gcmOpen (s.saKey e sa) (s.saSalt e sa) pn (b.take (i + 16)) data with
          | none => none
          | some out =>
            let o := saReg e sa 8
            let p := s.sub e
            let base := max (s.pnBase e sa) (pn + 1)
            let s := s.setReg o (BitVec.ofNat 64 (max (s.reg o).toNat pn))
            some (out, s.setSub e (p.withLowest ((sa, base) :: p.lowest.filter (fun x => x.1 != sa))))

/-! ## Ingress buffers (R447, R448) -/

/-- The class has room for a frame. -/
def State.hasRoom (s : State) (e c size : Nat) : Bool :=
  let own := s.xoffBytes e + s.headBytes e
  if s.pfcOn e c then decide (s.heldBytes e c + size ≤ own)
  else
    let on := (List.range 8).filter (fun i => s.pfcOn e i)
    let off := (List.range 8).filter (fun i => !s.pfcOn e i)
    decide (off.foldl (fun a i => a + s.heldBytes e i) size ≤ s.bufferBytes (e / 8) - on.length * own)

/-- A class that now holds XOFF or more sends PFC. -/
def State.checkXoff (s : State) (e c : Nat) : State :=
  let p := s.sub e
  if s.pfcOn e c && !p.xoff.any (fun x => x.1 == c) && decide (s.heldBytes e c ≥ s.xoffBytes e) then
    (s.setSub e (p.withXoff (p.xoff ++ [(c, s.now)]))).sendPfc e c 0xFFFF
  else s

/-- A frame is accepted by the port and passed on by `put`, or dropped for want of room. -/
def State.takeIn (s : State) (e c size : Nat) (put : State → State) : State :=
  if !s.hasRoom e c size then s.tally e 0x148 1
  else (put ((s.tally e 0x100 1).tally e 0x108 size)).checkXoff e c

/-! ## Ouvuth on ingress (R463, R466, R484, R486, R502) -/

/-- The length of a frame with its trailer, by its header. -/
def ouvLen (b : List Byte) : Nat := if hOp b = 1 ∧ !hResp b then 36 else 36 + 4 * hLen b

/-- The source check: the frame came on an egress of its source's entry. -/
def State.rpfOk (s : State) (e : Nat) (b : List Byte) : Bool :=
  let c := hSrc b
  if !s.rb 0x70000 33 ∨ c = 0x3FFF then true
  else
    let o := 0x100000 + c * 8
    if s.rb o 39 then (List.range 6).any (fun i => decide (s.rf 0x70050 (9 * i + 8) (9 * i) = e))
    else (List.range (s.rf o 38 36)).any (fun i => decide (s.rf o (9 * i + 8) (9 * i) = e))

/-- What boot mode handles. -/
def bootOk (b : List Byte) : Bool :=
  decide (hOp b = 8 ∨ hOp b = 9 ∨ hOp b = 0xA) || decide (hOp b = 6 ∧ beAt b 32 1 = 2 ∧ beAt b 33 1 = 0)

/-- An Ouvuth frame reaches the engine, or is dropped and counted.
DEDUCED (log entry 48). -/
def State.ouvDeliver (s : State) (f : InFrame) : State :=
  let b := f.bytes
  let bad := s.count 0x70070 63 48 1
  if !s.ouvRuns ∨ b.length < 36 then bad
  else if hVersion b ≠ 1 ∨ b.length < ouvLen b then bad
  else
    let b := b.take (ouvLen b)
    let e := f.egress
    if s.neigh e = 3 ∧ !quarantineOk b s.myChip (s.rf (egReg e 0x18) 21 8) then s.count 0x70068 63 48 1
    else if s.forMe b ∧ !trailerOk b then s.count 0x70068 15 0 1
    else if !s.rpfOk e b ∨ (s.bootMode ∧ !bootOk b) ∨ (hOp b ≠ 9 ∧ hSrc b ≠ 0x3FFF ∧ s.isLost (hSrc b)) then bad
    else s.withNet (s.net.withOuvIn (s.net.ouvIn ++ [(f.withBytes b)]))

/-- The role admits an Ouvuth frame (R437). -/
def State.ouvRole (s : State) (e : Nat) (b : List Byte) : Bool := isFabric (e / 8) || (isStorage (e / 8) && s.forMe b)

/-! ## Classification (R442, R445) -/

/-- A frame on its way to its engine: how it came. -/
structure Came where
  egress : Nat
  src : Nat
  vlan : Option Nat
  size : Nat

/-- The class of a frame of a kind. -/
def State.classIn (s : State) (c : Came) (k : OutKind) : Nat :=
  match c.vlan with
  | some t => t / 8192
  | none => s.classOf c.egress k

def Came.frame (c : Came) (tc now : Nat) (udp : Option (List Byte × Nat)) (b : List Byte) : InFrame :=
  ⟨c.egress, tc, c.src, c.vlan, udp, b, now, c.size⟩

def State.takeOuv (s : State) (c : Came) (udp : Option (List Byte × Nat)) (b : List Byte) : State :=
  if !s.ouvRole c.egress b then s.tally c.egress 0x140 1
  else
    let tc := s.classIn c (ouvKind b)
    s.takeIn c.egress tc c.size (fun s => s.ouvDeliver (c.frame tc s.now udp b))

/-- A serving frame; what pads an Ethernet frame to 64 bytes follows it (R441). -/
def State.takeServe (s : State) (c : Came) (udp : Option (List Byte × Nat)) (b : List Byte) : State :=
  if !isServing (c.egress / 8) then s.tally c.egress 0x140 1
  else
    let tc := s.classIn c .serve
    let b := if udp.isNone ∧ c.size = 64 then b.take (32 + beAt b 2 2) else b
    s.takeIn c.egress tc c.size (fun s => s.withNet (s.net.withSrvIn (s.net.srvIn ++ [c.frame tc s.now udp b])))

def State.takePtp (s : State) (c : Came) (b : List Byte) : State :=
  let tc := s.classIn c .ptp
  s.takeIn c.egress tc c.size (fun s => s.withNet (s.net.withPtpIn (s.net.ptpIn ++ [c.frame tc s.now none b])))

/-- An IPv6 packet `b` is a Neighbor Solicitation for the sub-port's address (RFC 4861). -/
def State.isSolicitation (s : State) (e : Nat) (b : List Byte) : Bool :=
  let n := beAt b 4 2
  let d := slice b 40 n
  decide (beAt b 6 1 = 58 ∧ beAt b 7 1 = 255 ∧ n ≥ 24 ∧ beAt d 0 1 = 135 ∧ beAt d 1 1 = 0) && slice d 8 16 == s.subIp e &&
    checksumOk (slice b 8 16) (slice b 24 16) 58 d

/-- An IPv6 packet. -/
def State.takeIp (s : State) (c : Came) (b : List Byte) : State :=
  let e := c.egress
  let n := beAt b 4 2
  let drop := s.tally e 0x138 1
  if !s.hasIp e ∨ b.length < 40 ∨ beAt b 0 1 / 16 ≠ 6 ∨ !(b.length = 40 + n ∨ (c.size = 64 ∧ 40 + n < b.length)) then drop
  else if s.isSolicitation e b then
    let tc := s.classIn c .nd
    s.takeIn e tc c.size (fun s => s.withNet (s.net.withNdIn (s.net.ndIn ++ [c.frame tc s.now none (b.take (40 + n))])))
  else
    let d := slice b 40 n
    let src := slice b 8 16
    if beAt b 6 1 ≠ 17 ∨ slice b 24 16 ≠ s.subIp e ∨ n < 8 ∨ beAt d 4 2 ≠ n ∨ beAt d 6 2 = 0 ∨
        !checksumOk src (slice b 24 16) 17 d then drop
    else
      let udp := some (src, beAt d 0 2)
      let body := d.drop 8
      if beAt d 2 2 = s.rf 0x70000 31 16 then
        let ce := decide (beAt b 0 4 / 2 ^ 20 % 4 = 3)
        s.takeOuv c udp (if ce ∧ body.length ≥ 32 then setHopsFlags body (hHops body) (hFlags body ||| Fl.ce) else body)
      else if s.rb 0x30078 33 ∧ beAt d 2 2 = s.rf 0x30078 31 16 then s.takeServe c udp body
      else drop

/-- Orders 5 to 9 of Table 15.4, for a frame's data from the EtherType on. -/
def State.classify (s : State) (c : Came) (inner : List Byte) : State :=
  let t := beAt inner 0 2
  let b := inner.drop 2
  if t = 0x88F7 then s.takePtp c b
  else if t = s.rf 0x70000 15 0 then s.takeOuv c none b
  else if t = s.rf 0x30078 15 0 ∧ s.rb 0x30078 32 then s.takeServe c none b
  else if t = 0x86DD then s.takeIp c b
  else s.tally c.egress 0x138 1

/-- A frame arrives on sub-port e, from destination address to FCS. -/
def State.receive (s : State) (e : Nat) (f : List Byte) : State :=
  let b := f.take (f.length - 4)
  if f.length < 4 ∨ fcs b ≠ f.drop (f.length - 4) then s.tally e 0x120 1
  else if f.length < 64 ∨ f.length > s.rf (subCfg e) 13 0 then s.tally e 0x128 1
  else
    let tagged := decide (beAt b 12 2 = 0x8100)
    let vlan := if tagged then some (beAt b 14 2) else none
    let i := if tagged then 16 else 12
    let t := beAt b i 2
    let c : Came := ⟨e, beAt b 6 6, vlan, f.length⟩
    if !s.addrOk e (beAt b 0 6) ∨ !s.vlanOk e vlan then s.tally e 0x130 1
    else if t = 0x8808 then
      let p := b.drop (i + 2)
      if beAt p 0 2 = 0x0101 ∧ (List.range 8).any (fun k => decide (bitsAt (beAt p 2 2) k 1 = 1) && s.pfcOn e k) then
        let s := ((s.tally e 0x100 1).tally e 0x108 f.length).tally e 0x168 1
        (s.withNet (s.net.withPfcIn (s.net.pfcIn ++ [c.frame 7 s.now none p])))
      else s.tally e 0x138 1
    else if t ≠ 0x88E5 then
      if s.rb (subCfg e) 16 then s.tally e 0x150 1 else s.classify c (b.drop i)
    else match s.unprotect e i b with
      | none => s.tally e 0x150 1
      | some (inner, s) => s.classify c inner

/-- A frame is received; `corr` and `uncorr` count the RS codewords since the last.
DEDUCED (log entry 49). -/
def execEthFrameReceive (e : Nat) (f : List Byte) (corr uncorr : Nat) (s : State) : Out :=
  if e ≥ 288 then .fault (.noSuchUnit "egress")
  else if !s.linkUp e || !s.subUsed e then .next s
  else .next (((s.tally e 0x178 corr).tally e 0x180 uncorr).receive e f)

/-! ## Neighbor Solicitation (R445, R446) -/

/-- The solicitation waiting longest is answered with an advertisement that carries the sub-port's MAC, the Solicited flag set. One from
the unspecified address is answered to all nodes.
DEDUCED (log entry 49). -/
def execNeighborSolicitation (s : State) : Out :=
  match s.net.ndIn with
  | [] => .next s
  | f :: l =>
    let s := s.withNet (s.net.withNdIn l)
    let e := f.egress
    let src := slice f.bytes 8 16
    let all := [0xFF, 0x02] ++ List.replicate 13 0 ++ [0x01]
    let unspec := decide (src = List.replicate 16 0)
    let dst : List Byte := if unspec then all else src
    let tc := s.classOf e .nd
    let d := [136, 0, 0, 0, 0x40, 0, 0, 0] ++ s.subIp e ++ [2, 1] ++ toBe 6 (s.subMac e)
    let d := overlay d 2 (toBe 2 (checksum (s.subIp e) dst 58 d))
    let b := toBe 4 (6 * 2 ^ 28 + 2 ^ 20 * (32 * tc)) ++ toBe 2 d.length ++ [58] ++ toBe 1 (s.rf (subCfg e) 39 32) ++ s.subIp e ++ dst ++ d
    .next (s.queueOut e
      { kind := .nd, tc := tc, mac := if unspec then 0x333300000001 else f.src, vlan := .own, udp := none, flow := 0, body := b, born := none })

end Sys2Proof.Machine
end

