-- ==== Sys2Proof/Machine/Ptp.lean ====
section
/-! DEFINITION. PTP: its messages and the discipline of device time (R453, R454, R525-R528). The layout of messages is that of IEEE
1588-2019 (log entry 16). -/
namespace Sys2Proof.Machine

/-! ## Values of which the spec gives no rounding -/

/-- A quotient rounded down or up: which of the two is free. -/
def State.nearQuot (s : State) (num : Int) (den : Nat) : Int × State :=
  let q := num / (den : Int)
  if num % (den : Int) = 0 then (q, s)
  else
    let (v, s) := s.freeVal
    (if bit v 0 then q + 1 else q, s)

/-! ## Messages -/

/-- HUB_PTP_CFG, and an interval of it as the power of two by which a second is divided (negative logarithms) or multiplied. -/
def ptpCfg : Nat := 0x90010
/-- A field of HUB_PTP_CFG as a signed logarithm. -/
def State.ptpLog (s : State) (lo : Nat) : Int := sext 4 (s.rf ptpCfg (lo + 3) lo)
/-- 2^log seconds in qns. -/
def secondsLog (l : Int) : Nat := if l < 0 then 4000000000 / 2 ^ l.natAbs else 4000000000 * 2 ^ l.natAbs

/-- This sub-port's port identity. -/
def State.portId (s : State) (e : Nat) : List Byte := toBe 8 (s.reg 0x90040).toNat ++ toBe 2 (e + 1)

/-- A message of sub-port e: its header with a body.
PRESUMED (log entry 16). -/
def State.ptpMsg (s : State) (e type seq : Nat) (flags : Nat) (corr : Int) (control log : Nat) (body : List Byte) : List Byte :=
  toBe 1 type ++ [0x12] ++ toBe 2 (34 + body.length) ++ toBe 1 (s.rf (subCfg e) 31 24) ++ [0] ++ toBe 2 flags ++
    toBe 8 (wrapInt 64 corr) ++ toBe 4 0 ++ s.portId e ++ toBe 2 seq ++ toBe 1 control ++ toBe 1 log ++ body

/-- Destination addresses: peer delay messages, and all others. -/
def ptpMac (type : Nat) : Nat := if type = 2 ∨ type = 3 ∨ type = 0xA then 0x0180C200000E else 0x011B19000000

/-- A message queued at sub-port e. -/
def State.sendPtp (s : State) (e : Nat) (b : List Byte) : State :=
  s.queueOut e
    { kind := .ptp, tc := s.classOf e .ptp, mac := ptpMac (pType b), vlan := .own, udp := none, flow := 0, body := b, born := none }

/-- A periodic message of a type is due: its interval has passed since it was last sent, or device time has stepped back since. -/
def State.ptpDue (s : State) (e type : Nat) (gap : Nat) : Bool :=
  match (s.sub e).ptpAt.find? (fun x => x.1 == type) with
  | some (_, t) => decide (s.now < t ∨ t + gap ≤ s.now)
  | none => true

/-- The next sequence number of a type of periodic message, which is sent now. -/
def State.takePtpSeq (s : State) (e type : Nat) : Nat × State :=
  let p := s.sub e
  let n := ((p.ptpSeq.find? (fun x => x.1 == type)).map (·.2)).getD 0
  (n, s.setSub e (p |>.withPtpSeq ((type, (n + 1) % 65536) :: p.ptpSeq.filter (fun x => x.1 != type))
    |>.withPtpAt ((type, s.now) :: p.ptpAt.filter (fun x => x.1 != type))))

/-- A timestamp in a message, in qns. -/
def stampAt (b : List Byte) (i : Nat) : Nat := (beAt b i 6 * 1000000000 + beAt b (i + 6) 4) * 4
/-- correctionField, in 2^-14 qns. -/
def corrOf (b : List Byte) : Int := sext 64 (beAt b 8 8)

/-- Whether a message is one that the sub-port's PTP takes. -/
def State.ptpTakes (s : State) (e : Nat) (b : List Byte) : Bool :=
  decide (b.length ≥ 44 ∧ beAt b 1 1 % 16 = 2 ∧ beAt b 4 1 = s.rf (subCfg e) 31 24) && decide (s.ptpState e ≠ 0)

def State.p2p (s : State) (e : Nat) : Bool := s.rb (subCfg e) 19

/-! ## Timers of a sub-port (R528) -/

/-- Sync and Follow_Up of a MASTER sub-port. The Follow_Up takes the departure of its Sync as it leaves. -/
def execPtpSyncTimer (e : Nat) (s : State) : Out :=
  if e ≥ 288 then .fault (.noSuchUnit "egress")
  else if s.ptpState e ≠ 1 ∨ !s.linkUp e ∨ !s.ptpDue e 0 (secondsLog (s.ptpLog 0)) then .next s
  else
    let (n, s) := s.takePtpSeq e 0
    let l := wrapInt 8 (s.ptpLog 0)
    let s := s.sendPtp e (s.ptpMsg e 0 n 0x0200 0 0 l (List.replicate 10 0))
    .next (s.sendPtp e (s.ptpMsg e 8 n 0 0 2 l (List.replicate 10 0)))

/-- Announce with the dataset that the control node writes. The FLAGS of the dataset are leap61, leap59, currentUtcOffsetValid, ptpTimescale,
timeTraceable and frequencyTraceable. -/
def execPtpAnnounceTimer (e : Nat) (s : State) : Out :=
  if e ≥ 288 then .fault (.noSuchUnit "egress")
  else if s.ptpState e ≠ 1 ∨ !s.linkUp e ∨ !s.ptpDue e 0xB (secondsLog (s.ptpLog 4)) then .next s
  else
    let (n, s) := s.takePtpSeq e 0xB
    let d := 0x90028
    let body := List.replicate 10 (0 : Byte) ++ toBe 2 (s.rf d 63 48) ++ [0] ++ toBe 1 (s.rf d 7 0) ++ toBe 1 (s.rf d 23 16) ++
      toBe 1 (s.rf d 31 24) ++ toBe 2 (s.rf d 47 32) ++ toBe 1 (s.rf d 15 8) ++ toBe 8 (s.reg 0x90030).toNat ++
      toBe 2 (s.rf 0x90038 15 0) ++ toBe 1 (s.rf 0x90038 23 16)
    .next (s.sendPtp e (s.ptpMsg e 0xB n (s.rf 0x90038 29 24) 0 5 (wrapInt 8 (s.ptpLog 4)) body))

/-- A requesting sub-port sends Pdelay_Req, or the SLAVE with end-to-end delay Delay_Req. -/
def execPtpDelayTimer (e : Nat) (s : State) : Out :=
  if e ≥ 288 then .fault (.noSuchUnit "egress")
  else if s.ptpState e = 0 ∨ !s.linkUp e ∨ (!s.p2p e ∧ s.ptpState e ≠ 2) then .next s
  else if !s.ptpDue e (if s.p2p e then 2 else 1) (secondsLog (s.ptpLog 8)) then .next s
  else
    let type := if s.p2p e then 2 else 1
    let (n, s) := s.takePtpSeq e type
    let p := s.sub e
    let s := s.setSub e (p.withPtp (p.ptp |>.withReqSeq n |>.withReqAt none |>.withRespAt none))
    .next (s.sendPtp e (s.ptpMsg e type n 0 0 (if type = 1 then 1 else 5) 0x7F (List.replicate (if type = 1 then 10 else 20) 0)))

/-! ## Requests (R453, R528) -/

/-- The first waiting message that satisfies `q`, taken from the queue. -/
def State.takePtpMsg (s : State) (q : InFrame → Bool) : Option (InFrame × State) :=
  match findPos q s.net.ptpIn with
  | some i => (s.net.ptpIn[i]?).map (fun f => (f, s.withNet (s.net.withPtpIn (dropAt s.net.ptpIn i))))
  | none => none

def isPtpReq (f : InFrame) : Bool := decide (pType f.bytes = 1 ∨ pType f.bytes = 2)

/-- A Delay_Req is answered by a MASTER sub-port with end-to-end delay; a Pdelay_Req by a sub-port with peer-to-peer delay. -/
def State.answerPtp (s : State) (f : InFrame) : State :=
  let e := f.egress
  let b := f.bytes
  let who := slice b 20 10
  if !s.ptpTakes e b then s
  else if pType b = 1 then
    if s.p2p e ∨ s.ptpState e ≠ 1 then s
    else s.sendPtp e (s.ptpMsg e 9 (pSeq b) 0 (corrOf b - ptpRest f.time) 3 (wrapInt 8 (s.ptpLog 8)) (ptpTime f.time ++ who))
  else if !s.p2p e then s
  else
    let s := s.sendPtp e (s.ptpMsg e 3 (pSeq b) 0x0200 (-(ptpRest f.time : Int)) 5 0x7F (ptpTime f.time ++ who))
    s.sendPtp e (s.ptpMsg e 0xA (pSeq b) 0 (corrOf b) 5 0x7F (List.replicate 10 0 ++ who))

def execPtpDelayReq (s : State) : Out :=
  match s.takePtpMsg isPtpReq with
  | some (f, s) => .next (s.answerPtp f)
  | none => .next s

/-! ## The discipline (R526, R527) -/

/-- The nominal rate. -/
def rateNominal : Int := 0x199999999A

/-- HUB_PTP_RATE.ADJ, and the rate that follows from it. -/
def State.setAdj (s : State) (adj : Int) : State :=
  let (d, s) := s.nearQuot (rateNominal * adj) 1000000000
  (s.setRf 0x90020 31 0 (wrapInt 32 adj)).setReg 0x90008 (BitVec.ofNat 64 (rateNominal + d).toNat)

/-- An offset theta in qns disciplines device time. -/
def State.discipline (s : State) (theta : Int) : State :=
  let sat := max (-(2 ^ 31 : Int)) (min (2 ^ 31 - 1) theta)
  let s := s.setRf ptpStat 31 0 (wrapInt 32 sat)
  if !s.everLocked ∧ theta.natAbs > 4000 then
    let s := s.stepTime ((s.time : Int) - theta * 2 ^ 32).toNat
    (s.withPtp (s.ptp |>.withIntegral 0 |>.withGood 0)).count ptpStat 55 48 1
  else
    let integral := s.ptp.integral + theta
    let slow := (-(s.ptpLog 0)).toNat
    let (a, s) := s.nearQuot (-(32 * theta + integral) * (2 ^ slow : Nat)) 1024
    let top : Int := s.rf ptpCfg 24 16 * 1000
    let s := s.setAdj (max (-top) (min top a))
    let fine := decide (theta.natAbs ≤ 4000)
    let s := s.withPtp (s.ptp |>.withIntegral integral |>.withGood (if fine then s.ptp.good + 1 else 0))
    let s := if fine then s else s.unlock
    if s.ptp.good ≥ 8 then s.lock else s

/-- The mean path delay of a sub-port, from twice its value in 2^-14 qns. -/
def State.setDelay (s : State) (e : Nat) (twice : Int) : State :=
  let (d, s) := s.nearQuot (max 0 twice) (2 ^ 15)
  let p := s.sub e
  let s := s.setSub e (p.withPtp (p.ptp.withDelay (some d.toNat)))
  if s.ptpState e = 2 then s.setRf 0x90020 63 32 (min d.toNat (2 ^ 32 - 1)) else s

/-- Time in qns as 2^-14 qns. -/
def fine14 (q : Nat) : Int := (q : Int) * 2 ^ 14

/-- A message that is no request: what it adds to the sub-port's measurements, and the offset when it gives one.
PRESUMED (log entry 16). DEDUCED (log entry 55). -/
def State.hearPtp (s : State) (f : InFrame) : Option Int × State :=
  let e := f.egress
  let b := f.bytes
  let p := s.sub e
  let r := p.ptp
  if !s.ptpTakes e b then (none, s)
  else match pType b with
    | 0 =>
      -- one-step Syncs are not implemented
      if s.ptpState e ≠ 2 ∨ beAt b 6 2 / 0x200 % 2 = 0 then (none, s)
      else (none, (s.setSub e (p.withPtp (r |>.withSyncSeq (pSeq b) |>.withSyncAt (some f.time) |>.withSyncCorr (corrOf b)))).withPtp
        (s.ptp.withLastSync (some s.now)))
    | 8 =>
      match r.syncAt with
      | some t2 =>
        if s.ptpState e ≠ 2 ∨ pSeq b ≠ r.syncSeq then (none, s)
        else
          let t1 := fine14 (stampAt b 34) + r.syncCorr + corrOf b
          let s := s.setSub e (p.withPtp (r |>.withSyncAt none |>.withT1 (some t1) |>.withT2 t2))
          match r.delay with
          | some d =>
            let (q, s) := s.nearQuot (fine14 t2 - t1) (2 ^ 14)
            (some (q - d), s)
          | none => (none, s)
      | none => (none, s)
    | 9 =>
      match r.t1, r.reqAt with
      | some t1, some t3 =>
        if s.p2p e ∨ s.ptpState e ≠ 2 ∨ pSeq b ≠ r.reqSeq ∨ slice b 44 10 ≠ s.portId e then (none, s)
        else
          let s := s.setSub e (p.withPtp (r.withReqAt none))
          (none, s.setDelay e (fine14 r.t2 - t1 + (fine14 (stampAt b 34) - fine14 t3 - corrOf b)))
      | _, _ => (none, s)
    | 3 =>
      if !s.p2p e ∨ pSeq b ≠ r.reqSeq ∨ slice b 44 10 ≠ s.portId e then (none, s)
      else (none, s.setSub e (p.withPtp (r |>.withRespSeq (pSeq b) |>.withRespAt (some f.time) |>.withPeerIn (fine14 (stampAt b 34))
          |>.withPeerCorr (corrOf b))))
    | 0xA =>
      match r.respAt, r.reqAt with
      | some t4, some t1 =>
        if !s.p2p e ∨ pSeq b ≠ r.respSeq ∨ slice b 44 10 ≠ s.portId e then (none, s)
        else
          let s := s.setSub e (p.withPtp (r |>.withRespAt none |>.withReqAt none))
          (none, s.setDelay e (fine14 t4 - fine14 t1 - (fine14 (stampAt b 34) - r.peerIn) - r.peerCorr - corrOf b))
      | _, _ => (none, s)
    | _ => (none, s)

/-- Messages that are no requests are taken in order, until one gives an offset.
DEDUCED (log entry 55). -/
def State.ptpRun (s : State) : Nat → State
  | 0 => s
  | n + 1 => match s.takePtpMsg (fun f => !isPtpReq f) with
    | none => s
    | some (f, s) => match s.hearPtp f with
      | (some theta, s) => s.discipline theta
      | (none, s) => State.ptpRun s n

/-- A Sync with its Follow_Up gives an offset. -/
def execPtpSync (s : State) : Out := .next (s.ptpRun s.net.ptpIn.length)

/-- No Sync has arrived for 4 Sync intervals. -/
def execPtpSyncTimeout (s : State) : Out :=
  let late : Bool := match s.ptp.lastSync with
    | some t => decide (t + 4 * secondsLog (s.ptpLog 0) ≤ s.now)
    | none => true
  .next (if late then s.unlock else s)

end Sys2Proof.Machine
end

