-- ==== Sys2Proof/Machine/Trust.lean ====
section
/-! DEFINITION. The root of trust: attestation reports, the rollback floor, and debug (R556-R566, R569). -/
namespace Sys2Proof.Machine

/-! ## Attestation (R562) -/

/-- Eight registers of 8 bytes from offset `o`, least significant byte first. -/
def State.eightRegs (s : State) (o : Nat) : List Byte := (List.range 8).flatMap (fun i => toLe 8 (s.reg (o + 8 * i)).toNat)

/-- HUB_FLOOR_MAP in register order. -/
def State.floorBytes (s : State) : List Byte := (List.range 36).flatMap (fun i => toLe 8 (s.reg (0x10300 + 8 * i)).toNat)

/-- Bytes 0 to 511 of a report taken now (Table 20.2). -/
def State.reportBytes (s : State) : List Byte :=
  let flags := (s.rb secStatus 0).toNat + (s.rb secStatus 1).toNat * 2 + s.uncertain.toNat * 4 + (s.rb resetCause 0).toNat * 8
  let pkg := if s.rf glareStat 2 0 = 3 ∨ s.rf glareStat 2 0 = 4 then s.rf 0xB1010 63 32 else 0
  toLe 4 0x41545431 ++ toLe 2 1 ++ toLe 2 0x2548 ++ toLe 1 (s.rf 0 31 24) ++ toLe 1 flags ++ toLe 1 (s.rf secStatus 4 3) ++
    toLe 1 (s.rf secStatus 15 8) ++ toLe 4 s.trust.fwver ++ s.serial ++ toLe 8 s.now ++ toLe 2 (s.rf 8 13 0) ++
    toLe 2 (s.rf resetCause 31 16) ++ toLe 4 s.inc ++ toLe 4 pkg ++ toLe 1 (s.rf 0xC01C0 7 0) ++ toLe 1 (s.rf 0xC01C0 15 8) ++
    toLe 1 (s.rf 0xC01C0 23 16) ++ List.replicate 9 0 ++ s.eightRegs 0xC0010 ++ s.eightRegs 0xC0100 ++ s.eightRegs 0xC0140 ++
    s.eightRegs 0xC0180 ++ sha3Bytes s.floorBytes ++ List.replicate 128 0

def attestCtl : Nat := 0xC0008

/-- START takes the snapshot of a report for the 5152 bytes at `dest` of hub SRAM. -/
def State.takeReport (s : State) (dest : Nat) : Nat × State :=
  if s.rb secStatus 2 then (St.attestBusy, s)
  else if !s.ready 1 then (St.dieNotReady, s)
  else if dest % 64 ≠ 0 ∨ dest < 0x3000000 ∨ dest > 2 ^ 26 - 5152 then (St.paramRange, s)
  else (0, (s.setRb secStatus 2 true).withTrust (s.trust.withReport (some (dest, s.reportBytes))))

/-- A write of SEC_ATTEST_CTL.
DEDUCED (log entry 62). -/
def State.judgeAttest (s : State) (v : W64) : Nat × State := if bit v 26 then s.takeReport (fld v 25 0) else (0, s)

/-- A write of SEC_ATTEST_CTL with START. -/
def execAttestStart (v : W64) (s : State) : Out := regRow s attestCtl (fun s => s.takeReport (fld v 25 0))

/-- The report is signed and stands in hub SRAM.
DEDUCED (log entry 62). -/
def execAttestReportDone (s : State) : Out :=
  match s.trust.report with
  | none => .next s
  | some (dest, b) =>
    let sig := slice (Config.mlDsaSign s.trust.signed (sha3Bytes b)) 0 4627
    let s := s.wrHub dest (b ++ sig ++ List.replicate 13 0)
    .next ((s.setRb secStatus 2 false).withTrust (s.trust |>.withReport none |>.withSigned (s.trust.signed + 1)))

/-! ## Debug (R563, R564) -/

def dbgCtl : Nat := 0xC0050

/-- A refused register request of another chip is counted (R566). -/
def State.denyReg (s : State) (o : Origin) : State :=
  match o with
  | .chip _ => s.count 0xC0070 31 0 1
  | _ => s

/-- A write of SEC_DBG_CTL, from the Efnil port only. -/
def State.judgeBlow (s : State) (o : Origin) (v : W64) : Nat × State :=
  if o ≠ .efnil then (St.regDenied, s.denyReg o)
  else if fld v 15 8 ≠ 0xD5 then (St.paramRange, s)
  else if !bit v 0 then (0, s)
  else (0, (s.setRb dbgCtl 16 true).withTrust (s.trust.withClosed true))

def execBlow (o : Origin) (v : W64) (s : State) : Out := regRow s dbgCtl (fun s => s.judgeBlow o v)

/-- The burn ends. -/
def execBlowDone (s : State) : Out := .next (if s.rb dbgCtl 16 then (s.setRb dbgCtl 16 false).setRb secStatus 0 true else s)

/-- The debug facilities are closed: by BLOW, or by the fuse. -/
def State.debugClosed (s : State) : Bool := s.trust.closed || s.rb secStatus 0

/-- A debug access. Another chip never reaches a facility. After the close the JTAG port answers only BYPASS and IDCODE, and debug registers are
refused. What a debug register reads is free, and a write has no effect that the spec gives. -/
def execDebugAccess (o : Origin) (u : DebugUnit) (write : Bool) (s : State) : Out :=
  if s.debugClosed then
    if u = .jtag then .next s else .next ((s.denyReg o).answer St.regDenied)
  else match o with
    | .chip _ => .next ((s.denyReg o).answer St.regDenied)
    | _ =>
      let s := s.setRb secStatus 1 true
      if write then .next (s.answer 0)
      else
        let (v, s) := s.freeVal
        .next (s.answerData 0 (toLe 8 v.toNat))

/-! ## The rollback floor (R558) -/

def floorCtl : Nat := 0xC0058

/-- A write of SEC_FLOOR_CTL, from the Efnil port or a Lantern core. -/
def State.judgeFloor (s : State) (o : Origin) (v : W64) : Nat × State :=
  let n := fld v 7 0
  let chip : Bool := match o with
    | .chip _ => true
    | _ => false
  if chip then (St.regDenied, s.denyReg o)
  else if n ≤ s.rf secStatus 15 8 ∨ n > s.trust.fwver / 2 ^ 16 % 2 ^ 16 ∨ fld v 15 8 ≠ 0xD5 then (St.paramRange, s)
  else (0, s.withTrust (s.trust.withFloor (some n)))

def execSecFloorCtlWrite (o : Origin) (v : W64) (s : State) : Out := regRow s floorCtl (fun s => s.judgeFloor o v)

/-- The fuses are burnt, and the new floor applies. -/
def execFloorBurnt (s : State) : Out :=
  match s.trust.floor with
  | none => .next s
  | some n => .next ((s.setRf secStatus 15 8 (max n (s.rf secStatus 15 8))).withTrust (s.trust.withFloor none))

end Sys2Proof.Machine
end

