-- ==== Sys2Proof/Machine/RegView.lean ====
section
/-! DEFINITION. What a read of a register returns, for registers whose fields follow other state (R15, R114, R198, R211, R260, R275, R311, R343,
R364, R399, R404, R438, R458, R531). -/
namespace Sys2Proof.Machine

/-- STATE of CD_SEC_STATE (R198). -/
def secCode : SecSt → Nat
  | .empty => 0
  | .loading => 1
  | .loaded => 2
  | .running => 3
  | .ending => 4
  | .faulted => 5

/-- CD_SEC_STATE, CD_SEC_EPOCH or CD_SEC_SPILL (`r` 0, 1, 2) of (g, c) read on CDn: 0 where CDn is not the lead die of g (R198). -/
def State.secWord (s : State) (n g c r : Nat) : W64 :=
  if s.leadDie g ≠ some n then 0
  else
    let x := s.sec g c
    if r = 0 then pack [(0, secCode x.st), (8, x.loadStatus % 256), (16, x.tiles.length % 4096)]
    else if r = 1 then pack [(0, x.epoch % 2 ^ 32)]
    else pack [(0, s.spillBlocks x c % 1024), (16, x.peak % 1024), (32, min x.fires 0xFFFF)]

/-- CD_CMDQ_STAT of (g, c) read on CDn; DONE is kept in the register (R404). -/
def State.cmdqWord (s : State) (n g c : Nat) (kept : W64) : W64 :=
  if s.leadDie g ≠ some n then kept
  else
    let q := s.cmdq g c
    let w := setFld (setBit kept 5 q.stopped) 4 0 q.lists.length
    match q.cmd with
    | some r => setFld (setFld (setBit w 6 r.waits) 15 8 (leAt r.bytes 0 1)) 27 16 r.idx
    | none => w

/-- HELD, RUNNING and WAITING of a job queue. -/
def jobBits (sts : List JobSt) : Nat := sts.length + 16 * (sts.contains .running).toNat + 32 * (decide (sts.head? = some .waiting)).toNat

/-- The egress that an operation's frames leave by. -/
def State.opEgress (s : State) (o : NetOp) : Option Nat :=
  match s.egressFor o.chip s.myChip o.addr (s.txs o.chip).salt false (s.header o.chip o.op 0 0 0 o.span 0 0 0 o.addr) with
  | some e => e
  | none => none

/-- IN_USE and LENT of MEM_OD_TAG_STAT of OD[k] (R311). -/
def State.odTags (s : State) (k : Nat) : Nat × Nat :=
  let mine := s.net.ops.filter (fun o => o.die == k && o.done.isNone && decide (o.chip ≠ 0x3FFF))
  ((s.tagsHeld k).length, (mine.filter (fun o => match s.opEgress o with
    | some e => decide (e / 8 / 6 ≠ k)
    | none => false)).length)

/-- DRAINED of sub-port e (R458). -/
def State.drained (s : State) (e : Nat) : Bool := s.rb (subCfg e) 17 && (s.sub e).egress.all (fun f => decide (f.tc ≥ 6))

/-- An HD register as it is read. -/
def State.hdView (s : State) (o : Nat) (v : W64) : W64 :=
  if o = 0x90000 then BitVec.ofNat 64 s.now
  else if o = 0x30098 then
    pack [(0, (s.srv.seqs.filter (fun i => decide (s.qState i = 2 ∨ s.qState i = 3))).length), (16, s.srv.seqs.length)]
  else if o = 0x30518 then
    let run := s.pkg.jobs.find? (fun j => j.ph == PkgPh.running)
    let layer := match run with
      | some j => if kOp j.desc = 1 then j.layer else 0
      | none => 0
    setFld (setFld v 4 0 (min s.pkg.jobs.length 15 + 16 * run.isSome.toNat)) 19 8 layer
  else if o = 0x42018 then
    setFld (setFld (setFld v 4 0 s.net.moves.length) 12 8 s.net.inbound.length) 28 16 s.heldCount
  else v

/-- A CD[n] register as it is read, by its offset in the block. -/
def State.cdView (s : State) (n r : Nat) (v : W64) : W64 :=
  if r = 0x100 ∨ r = 0x108 ∨ r = 0x110 then s.parkWord n ((r - 0x100) / 8)
  else match arrIdx r 0x1F00 8 16 with
    | some g => pack [(0, s.lastE g)]
    | none =>
      if 0x2000 ≤ r ∧ r < 0x3000 then s.secWord n ((r - 0x2000) / 0x100) ((r - 0x2000) / 0x20 % 8) (r % 0x20 / 8)
      else if r = 0x3020 then setFld v 5 0 (jobBits ((s.prismQ n).map (·.st)))
      else if r = 0x3420 then setFld v 5 0 (jobBits ((s.tintU n).jobs.map (·.st)))
      else if r = 0x3900 then setFld (setFld v 12 0 (s.cdTags n)) 28 16 (max (fld v 28 16) (s.cdTags n))
      else if 0x4000 ≤ r ∧ r < 0x5000 ∧ r % 0x20 = 0x10 then s.cmdqWord n ((r - 0x4000) / 0x100) ((r - 0x4000) / 0x20 % 8) v
      else v

/-- The sub-port of an offset of an OD[k] block, when the offset lies in a sub-port's registers (R460, R461). -/
def subPortOf (k r : Nat) : Option Nat :=
  let q := (r - 0x100000) % 0x10000
  if 0x100000 ≤ r ∧ 0x1000 ≤ q ∧ q < 0x9000 then some ((6 * k + (r - 0x100000) / 0x10000) * 8 + (q - 0x1000) / 0x1000) else none

/-- An OD[k] register as it is read. -/
def State.odView (s : State) (k r : Nat) (v : W64) : W64 :=
  if r = 0x400 then
    let t := s.odTags k
    setFld (setFld v 13 0 t.1) 29 16 t.2
  else match subPortOf k r with
    | some e => if !s.subUsed e then 0 else if r % 0x1000 = 8 then setBit v 3 (s.drained e) else v
    | none => v

/-- A WO field reads 0 (R15). -/
def hideWo (fs : List Fld) (v : W64) : W64 :=
  fs.foldl (fun a f => if f.acc = .wo then BitVec.ofNat 64 (putBits a.toNat f.lo f.w 0) else a) v

/-- What a read of the register at offset `o` of register space returns, outside the tile windows. -/
def State.regView (s : State) (o : Nat) : W64 :=
  let fs := (regDesc o).elim [] (·.fields)
  let v := s.reg o
  hideWo fs (match regBlock o with
    | some (.hd, r) => s.hdView r v
    | some (.cd n, r) => s.cdView n r v
    | some (.od k, r) => s.odView k r v
    | _ => v)

/-- The register after a read of the fields `fs`: its RC fields among them clear. CD_SEC_SPILL's stand in the section (R15, R16). -/
def State.clearRead (s : State) (o : Nat) (fs : List Fld) : State :=
  let rc := fs.filter (fun f => f.acc = .rc)
  if rc.isEmpty then s
  else match regBlock o with
    | some (.cd n, r) =>
      if 0x2000 ≤ r ∧ r < 0x3000 then
        let g := (r - 0x2000) / 0x100
        if s.leadDie g ≠ some n then s
        else s.updSec g ((r - 0x2000) / 0x20 % 8) (fun x => rc.foldl (fun x f => if f.lo = 16 then x.withPeak 0 else x.withFires 0) x)
      else s.setReg o (clearRc rc (s.reg o))
    | some (.od k, r) => match subPortOf k r with
      | some e => if s.subUsed e then s.setReg o (clearRc rc (s.reg o)) else s
      | none => s.setReg o (clearRc rc (s.reg o))
    | _ => s.setReg o (clearRc rc (s.reg o))

end Sys2Proof.Machine
end

