-- ==== Sys2Proof/Machine/RegWrite.lean ====
section
/-! DEFINITION. What a write of each register does: which judge it meets, and the ranges and relations of R591 where no other rule names a status
(R15, R35, R399, R433, R489, R490, R531, R555, R569, R590, R591). -/
namespace Sys2Proof.Machine

/-! ## Ranges -/

/-- A base register's value is 0 or an aligned address of this chip's space 0x2. -/
def State.baseOk (s : State) (unit : Nat) (v : W64) : Bool :=
  decide (v = 0) || (s.thisChip (gaChip v.toNat) && decide (gaSpace v.toNat = 2 ∧ v.toNat % unit = 0))

/-- A write that must keep `ok`. -/
def State.ranged (s : State) (o : Nat) (v : W64) (ok : Bool) : Nat × State := s.judged o v (if ok then 0 else St.paramRange)

/-- A signed 4-bit field lies in a range (Table 18.3). -/
def logOk (v : W64) (lo : Nat) (least most : Int) : Bool :=
  let x := sext 4 (fld v (lo + 3) lo)
  decide (least ≤ x ∧ x ≤ most)

/-! ## HD -/

/-- Identity and bring-up (R37, R502, R503, R506, R513). -/
def State.bringWrite (s : State) (o : Nat) (v : W64) : Nat × State :=
  if o = 8 then s.judgeChip v
  else if o = 0x10020 then s.judgeReset v
  else if o = 0x10038 then s.judgeBootCtl v
  else if o = 0x10040 then s.judgeDark v
  else s.judged o v 0

/-- Serving engine, veils and packages (R283, R364, R385, R399). -/
def State.serveWrite (s : State) (o : Nat) (v : W64) : Nat × State :=
  let on := s.rb 0x30000 0
  if o = 0x30000 then s.judgeSrvCtl v
  else if o = 0x30008 then s.ranged o v (decide (1000 ≤ fld v 19 0 ∧ fld v 19 0 ≤ 1000000 ∧ fld v 39 20 < fld v 19 0))
  else if o = 0x30020 ∨ o = 0x30060 ∨ o = 0x30068 ∨ o = 0x30070 then
    if on then (St.serveBusy, s) else s.ranged o v (s.baseOk 4096 v)
  else if o = 0x30028 ∨ o = 0x30038 ∨ o = 0x30048 then
    if on then (St.serveBusy, s) else s.ranged o v (s.baseOk 64 v)
  else if o = 0x30030 ∨ o = 0x30040 ∨ o = 0x30050 ∨ o = 0x30408 then s.ranged o v (decide (fld v 12 0 ≤ 4096))
  else if o = 0x30058 then s.ranged o v (decide (1 ≤ fld v 9 0 ∧ fld v 9 0 ≤ 600))
  else if o = 0x30080 then s.judgeHeartbeat
  else if o = 0x30400 ∨ o = 0x30500 then s.ranged o v (s.baseOk 64 v)
  else if o = 0x30410 then s.judgeVeilPrime v
  else if o = 0x30508 then s.ranged o v (decide (fld v 10 0 ≤ 1024))
  else if o = 0x30510 then s.judgePkgDoorbell v
  else if o ≥ 0x31000 then s.ranged o v (decide (4 ≤ fld v 23 20 ∧ fld v 23 20 ≤ 8 ∧ fld v 52 32 ≤ 1048576))
  else s.judged o v 0

/-- Memory tiers, loans and homing (R295-R298, R306, R312, R343). -/
def State.memWrite (s : State) (o : Nat) (v : W64) : Nat × State :=
  if o = 0x40000 then s.judgeT2Cfg v
  else if o = 0x40008 then s.ranged o v (s.baseOk 64 v)
  else if o = 0x40010 then s.ranged o v (decide (fld v 16 0 ≤ 65536))
  else if o = 0x40018 then s.judgeCopyDoorbell v
  else if 0x40100 ≤ o ∧ o < 0x41000 then s.judgeT2Carve ((o - 0x40100) / 8) v
  else if 0x41000 ≤ o ∧ o < 0x42000 then
    let k := (o - 0x41000) / 0x20
    if o % 0x20 = 0 then s.judgeLoanRange k v
    else if o % 0x20 = 8 then s.judgeLoanPeer k v
    else if o % 0x20 = 0x10 then s.judgeLoanCtl k v
    else s.judged o v 0
  else if o = 0x42000 ∨ o = 0x42008 then s.judgeHometab ((o - 0x42000) / 8) v
  else if o = 0x42010 then s.judgeMoveCfg v
  else if o = 0x42020 then s.judgeMoveDoorbell v
  else if o = 0x42028 then s.judgeHomeCmd v
  else s.judged o v 0

/-- A write of EFN_CFG: a lane that may no longer be used is taken out of use (R433). -/
def State.judgeEfnCfg (s : State) (v : W64) : Nat × State :=
  let q := s.judged 0x60000 v (if fld v 5 0 ≠ 0 ∧ fld v 23 16 ≠ 0 ∧ (bit v 24 ∨ bit v 25) then 0 else St.paramRange)
  (q.1, if q.1 = 0 then q.2.setLanes (q.2.rb efnStat 0 && bit v 24) (q.2.rb efnStat 1 && bit v 25) else q.2)

/-- Rings, mailboxes, regions and Efnil (R413-R415, R422, R433). -/
def State.hubWrite (s : State) (o : Nat) (v : W64) : Nat × State :=
  if 0x50000 ≤ o ∧ o < 0x50400 then
    if o % 0x20 = 0 then s.judgeEvq ((o - 0x50000) / 0x20) v
    else if o % 0x20 = 8 then s.judgeHead o v
    else s.judged o v 0
  else if 0x50500 ≤ o ∧ o < 0x50600 then
    if o % 0x10 = 0 then s.judgeMbox ((o - 0x50500) / 0x10) v else s.judgeHead o v
  else if 0x51000 ≤ o ∧ o < 0x52000 then
    if o % 0x10 = 0 then s.judgeHubRegion ((o - 0x51000) / 0x10) v else s.judgeRegionCtl ((o - 0x51000) / 0x10) v
  else if o = 0x60000 then s.judgeEfnCfg v
  else s.judged o v 0

/-- A write after which frames that wait for a way may have one. -/
def rerouted (r : Nat × State) : Nat × State := (r.1, if r.1 = 0 then r.2.pumpStreams else r.2)

/-- Ouvuth (R487, R489, R490). -/
def State.ouvWrite (s : State) (o : Nat) (v : W64) : Nat × State :=
  let on := s.ouvOn
  if o = 0x70000 then
    let et := fld v 15 0
    if on ∧ (et ≠ s.rf o 15 0 ∨ fld v 31 16 ≠ s.rf o 31 16) then (St.ouvBusy, s)
    else if (bit v 32 ∧ !on ∧ s.reg 0x70038 = 0) ∨ et = s.rf 0x30078 15 0 ∨ [0x88F7, 0x88E5, 0x8808, 0x86DD].contains et ∨
        fld v 47 40 < 10 ∨ fld v 52 48 = 0 then (St.paramRange, s)
    else rerouted (s.judged o v 0)
  else if o = 0x70010 then s.judgeManifest v
  else if o = 0x70038 then (if on then (St.ouvBusy, s) else s.ranged o v (s.baseOk 4096 v))
  else if o = 0x70040 then s.judgeLostClear v
  else if o = 0x70048 then rerouted (s.ranged o v (decide (fld v 7 0 * fld v 15 8 * fld v 23 16 ≤ 16384)))
  else if 0x70100 ≤ o ∧ o < 0x71000 ∧ o % 0x20 = 0 then s.ranged o v (decide (fld v 15 11 ≤ 18))
  else if 0x71000 ≤ o ∧ o < 0x74000 ∧ o % 0x20 = 0 then s.judgeRelease ((o - 0x71000) / 0x20) v
  else if o ≥ 0x100000 then
    let n := fld v 38 36
    rerouted (s.ranged o v (decide (n ≤ 4) && (List.range n).all (fun i => decide (fld v (9 * i + 8) (9 * i) ≤ 271))))
  else rerouted (s.judged o v 0)

/-- Device time, errors and glare runs (R531, R535, R543, R551, R555). -/
def State.timeWrite (s : State) (o : Nat) (v : W64) : Nat × State :=
  if o = 0x90010 then
    s.ranged o v (logOk v 0 (-7) 0 && logOk v 4 (-3) 3 && logOk v 8 (-7) 3 && decide (1 ≤ fld v 24 16 ∧ fld v 24 16 ≤ 500))
  else if o = 0xB0000 then (if s.rb 0xB0008 5 then (St.serveBusy, s) else s.ranged o v (s.baseOk 4096 v))
  else if o = 0xB0008 then
    if s.rb o 5 ∧ fld v 4 0 ≠ s.rf o 4 0 then (St.serveBusy, s) else s.ranged o v (decide (10 ≤ fld v 4 0 ∧ fld v 4 0 ≤ 20))
  else if o = 0xB0020 then s.judgeInject v
  else if o = 0xB0200 then s.ranged o v (decide (1 ≤ fld v 15 0 ∧ fld v 15 0 ≤ 8760))
  else if 0xB0300 ≤ o ∧ o < 0xB1000 then s.judgeErase ((o - 0xB0300) / 8) v
  else if o = 0xB1000 then s.judgeGlareCtl v
  else s.judged o v 0

/-- Security and power (R558, R562, R564, R569, R573, R577, R590). -/
def State.secWrite (s : State) (who : Origin) (o : Nat) (v : W64) : Nat × State :=
  let cap := fld v 12 0
  if o = 0xC0008 then s.judgeAttest v
  else if o = 0xC0050 then s.judgeBlow who v
  else if o = 0xC0058 then s.judgeFloor who v
  else if o = 0xC0060 then s.ranged o v (s.baseOk 64 v)
  else if o = 0xC0068 then s.ranged o v (decide (fld v 14 0 ≤ 16384))
  else if o = 0xD0000 then s.judgePwrCtl v
  else if o = 0xD0010 then
    s.ranged o v (decide (200 ≤ cap ∧ cap ≤ 4800 ∧ 200 ≤ fld v 28 16 ∧ fld v 28 16 ≤ cap ∧ s.rf 0xD0018 28 16 ≤ cap))
  else if o = 0xD0018 then s.ranged o v (decide (50 ≤ cap ∧ cap ≤ 4800 ∧ fld v 28 16 ≤ s.rf 0xD0010 12 0))
  else if o = 0xD0020 then s.ranged o v (decide (85 ≤ fld v 7 0 ∧ fld v 7 0 ≤ 104 ∧ 75 ≤ fld v 15 8 ∧ fld v 15 8 ≤ 94))
  else if 0xD0100 ≤ o ∧ o < 0xD0200 then s.judgeCdClk ((o - 0xD0100) / 8) v
  else s.judged o v 0

/-- A write of an HD register (R32). -/
def State.hdWrite (s : State) (who : Origin) (o : Nat) (v : W64) : Nat × State :=
  if o < 0x30000 then s.bringWrite o v
  else if o < 0x40000 then s.serveWrite o v
  else if o < 0x50000 then s.memWrite o v
  else if o < 0x70000 then s.hubWrite o v
  else if o < 0x90000 ∨ (0xA0000 ≤ o ∧ o < 0xB0000) ∨ 0x100000 ≤ o then s.ouvWrite o v
  else if o < 0xC0000 then s.timeWrite o v
  else s.secWrite who o v

/-! ## CD[n] -/

/-- A write of CD_CMDQ_CTL of (g, c) on CDn: RESUME and FLUSH act on the queue, which the lead die holds (R404). -/
def State.cmdqCtlWrite (s : State) (n g c : Nat) (v : W64) : Nat × State :=
  let s := s.writeReg (cdOff n (0x4008 + 0x20 * secKey g c)) v
  if s.leadDie g ≠ some n then (0, s)
  else
    let s := if bit v 0 then s.setCmdq g c ((s.cmdq g c).withStopped false) else s
    (0, if bit v 1 then s.flushQueue g c else s)

/-- A write of a die register of CDn, by its offset in the block (R114, R241, R260, R263, R275, R295, R326, R404, R421). -/
def State.cdWrite (s : State) (n r : Nat) (v : W64) : Nat × State :=
  let o := cdOff n r
  if r < 0x1000 then s.judgePark n ((r - 0x100) / 8) v
  else if r = 0x3008 ∨ r = 0x3408 then s.ranged o v (s.baseOk 64 v)
  else if r = 0x3010 ∨ r = 0x3410 then s.ranged o v (decide (fld v 16 0 ≤ 65536))
  else if r = 0x3018 then s.judgePrismDoorbell n v
  else if r = 0x3400 then s.judgeTintCtl n v
  else if r = 0x3418 then s.judgeTintDoorbell n v
  else if 0x3800 ≤ r ∧ r < 0x3900 then
    if r % 0x10 = 0 then s.judgeDsCarve n ((r - 0x3800) / 0x10) v else s.judgeT1Carve n ((r - 0x3800) / 0x10) v
  else if r = 0x3910 then s.judgeRedirectFlush n v
  else if 0x4000 ≤ r ∧ r < 0x5000 then
    let g := (r - 0x4000) / 0x100
    let c := (r - 0x4000) / 0x20 % 8
    if r % 0x20 = 0 then s.judgePost n g c v
    else if r % 0x20 = 8 then s.cmdqCtlWrite n g c v
    else s.judged o v 0
  else if 0x5000 ≤ r then s.judgeRegionTiles n ((r - 0x5000) / 0x18) ((r - 0x5000) / 8 % 3) v
  else s.judged o v 0

/-! ## OD[k] -/

/-- A write of a register of OD[k], by its offset in the block; those of a sub-port that the mode does not use ignore it (R438, R448, R451,
R453, R460, R461). -/
def State.odWrite (s : State) (k r : Nat) (v : W64) : Nat × State :=
  let o := odOff k r
  let p := 6 * k + (r - 0x100000) / 0x10000
  match subPortOf k r with
  | some e =>
    let q := r % 0x1000
    if !s.subUsed e then (0, s)
    else if q = 0 then s.judgeSubCfg e v
    else if 0x400 ≤ q then s.judgeSa e ((q - 0x400) / 0x40) (q % 0x40 / 8) v
    else s.judged o v 0
  | none =>
    if r < 0x100000 then s.judged o v 0
    else if r % 0x10000 = 0 then s.judgePortCfg p v
    else if r % 0x10000 = 0x18 then s.judgePortPfc p v
    else s.judged o v 0

/-- A write of `v` to the register at offset `o` of register space, outside the tile windows.
DEDUCED (log entry 41). DEDUCED (log entry 60). -/
def State.regWrite (s : State) (who : Origin) (o : Nat) (v : W64) : Nat × State :=
  match regBlock o with
  | some (.hd, r) => s.hdWrite who r v
  | some (.cd n, r) => s.cdWrite n r v
  | some (.od k, r) => s.odWrite k r v
  | _ => (0, s)

end Sys2Proof.Machine
end

