-- ==== Sys2Proof/Machine/RegAccess.lean ====
section
/-! DEFINITION. Register accesses: admission, alignment, mapping and readiness, accesses of 4 B, and the commands that make them (R15-R17, R32-R35,
R563, R566). -/
namespace Sys2Proof.Machine

/-! ## Who is admitted (Table 20.3, R563) -/

/-- An offset of HD that chips may write only under SECRETS: key and SCI registers, and the SEC_ registers without a row of their own. -/
def secretReg (o : Nat) : Bool :=
  match regBlock o with
  | some (.hd, r) => decide (0xC0000 ≤ r ∧ r < 0xD0000)
  | some (.od k, r) => (subPortOf k r).isSome && decide (0x300 ≤ r % 0x1000 ∧ r % 0x1000 < 0x900)
  | _ => false

/-- The debug window of HD (R563). -/
def debugReg (o : Nat) : Bool := decide (0xC8000 ≤ o ∧ o < 0xD0000)

/-- Chip c is granted an access to offset `o`; `w` is the value written.
DEDUCED (log entry 42). -/
def State.regGrant (s : State) (c o : Nat) (w : Option W64) : Bool :=
  match w with
  | none => s.granted c 0 && !debugReg o
  | some v =>
    s.granted c 1 && !debugReg o &&
      (if o / 8 = 0x10020 / 8 then s.granted c 5
       else if o / 8 = 0xC0050 / 8 ∨ o / 8 = 0xC0058 / 8 then false
       else if 0xC0010 ≤ o ∧ o < 0xC0050 then s.granted c 7
       else if o / 8 = 0xC0008 / 8 then !(decide (o % 8 = 0) && bit v 26) || s.granted c 7
       else !secretReg o || s.granted c 6)

/-! ## Accesses of 4 B -/

/-- The fields that lie in the half at bit `sh`, or all of them for an access of 8 B.
DEDUCED (log entry 40). -/
def halfFields (len sh : Nat) (fs : List Fld) : List Fld := if len = 8 then fs else fs.filter (fun f => decide (f.lo < sh + 32 ∧ sh < f.lo + f.w))

/-- The part of a field that lies in the half at bit `sh`. -/
def clipField (len sh : Nat) (f : Fld) : Fld :=
  if len = 8 then f
  else
    let lo := max f.lo sh
    (f |>.withLo lo |>.withW (min (f.lo + f.w) (sh + 32) - lo))

/-- The whole value that a write of `len` bytes at bit `sh` stands for: of the other half, fields that hold what was written keep it, and the others
get 0, which does nothing (R15). `all` says that every field holds what was written.
DEDUCED (log entry 40). -/
def mergeHalf (fs : List Fld) (cur : W64) (len sh : Nat) (v : W64) (all : Bool) : W64 :=
  if len = 8 then v
  else
    let kept := fs.foldl (fun a f => if f.acc = .rw ∨ all then putBits a f.lo f.w (bitsAt cur.toNat f.lo f.w) else a) 0
    BitVec.ofNat 64 (putBits kept sh 32 (v.toNat % 2 ^ 32))

/-- What the fields of a register hold for the half that a write of 4 B leaves alone: for a park register, what was asked for.
DEDUCED (log entry 40). -/
def State.keptHalf (s : State) (o : Nat) : W64 :=
  match regBlock o with
  | some (.cd n, r) =>
    if r < 0x1000 then pack ((parkTiles n ((r - 0x100) / 8)).map (fun e => (e.1, (((s.tile e.2).parkTo).getD (s.tile e.2).parkBit).toNat)))
    else s.reg o
  | _ => s.reg o

/-- The bytes of a read: `len` bytes of the value from bit `sh`. -/
def halfOf (len sh : Nat) (v : W64) : W64 := if len = 8 then v else BitVec.ofNat 64 (fld v (sh + 31) sh)

/-! ## The access -/

/-- The tile and the offset in its window, when the offset of register space lies in a tile window (R33). -/
def windowOf (o : Nat) : Option (Nat × Nat) :=
  match regBlock o with
  | some (.cd n, r) => if 0x400000 ≤ r ∧ r < 0xD00000 then some (tileAt n ((r - 0x400000) / 0x10000), r % 0x10000) else none
  | _ => none

/-- An access to a register of a tile window (R112). -/
def State.windowAccess (s : State) (t o len : Nat) (w : Option W64) : Nat × W64 × State :=
  let sh := 8 * (o % 8)
  match winReg (o / 8 * 8) with
  | none => (St.regUnmapped, 0, s)
  | some r =>
    match w with
    | some v =>
      let q := s.winWrite t r (mergeHalf r.fields ((s.tile t).winGet t r) len sh v false)
      (q.1, 0, q.2)
    | none =>
      let q := s.winRead t r ((halfFields len sh r.fields).map (clipField len sh))
      (q.1, halfOf len sh q.2.1, q.2.2)

/-- An access to the debug window: what it reads is free, and a write has no effect that the spec gives (R563, R564).
DEDUCED (log entry 44). -/
def State.debugAccess (s : State) (write : Bool) : Nat × W64 × State :=
  if !s.ready 2 then (St.dieNotReady, 0, s)
  else if s.debugClosed then (St.regDenied, 0, s)
  else
    let s := s.setRb secStatus 1 true
    if write then (0, 0, s) else let (v, s) := s.freeVal; (0, v, s)

/-- An access to a die, port or HD register. -/
def State.plainAccess (s : State) (who : Origin) (o len : Nat) (w : Option W64) : Nat × W64 × State :=
  let base := o / 8 * 8
  let sh := 8 * (o % 8)
  match regDesc base with
  | none => (St.regUnmapped, 0, s)
  | some d =>
    if s.regDim base then (St.pwrDim, 0, s)
    else if !s.regReady base then (St.dieNotReady, 0, s)
    else match w with
      | some v =>
        let q := s.regWrite who base (mergeHalf d.fields (s.keptHalf base) len sh v (secretReg base && d.fields.all (fun f => decide (f.acc = .wo))))
        (q.1, 0, q.2)
      | none => (0, halfOf len sh (s.regView base), s.clearRead base ((halfFields len sh d.fields).map (clipField len sh)))

/-- An access of `len` bytes at offset `o` of register space: its status, the value read in the low bytes, and the state after it (Table 1.7).
`w` is the value written, none for a read.
DEDUCED (log entry 40). -/
def State.regAccess (s : State) (who : Origin) (o len : Nat) (w : Option W64) : Nat × W64 × State :=
  let denied : Bool := match who with
    | .chip c => !s.regGrant c o w
    | _ => false
  if denied then (St.regDenied, 0, s.denyReg who)
  else if (len ≠ 4 ∧ len ≠ 8) ∨ o % len ≠ 0 then (St.regAlign, 0, s)
  else if debugReg o then s.debugAccess w.isSome
  else match windowOf o with
    | some (t, r) => s.windowAccess t r len w
    | none => s.plainAccess who o len w

/-! ## The commands -/

/-- Origins that make register accesses.
DEDUCED (log entry 44). -/
def regOrigin : Origin → Bool
  | .efnil => true
  | .core i => decide (i < 32)
  | .region _ => false
  | .chip n => decide (n < 0x3FFF)

/-- A write to a register at an offset of register space.
DEDUCED (log entry 60). -/
def execRegisterWrite (who : Origin) (o len : Nat) (v : W64) (s : State) : Out :=
  if !regOrigin who then .fault (.noSuchUnit "register master")
  else
    let q := s.regAccess who o len (some v)
    .next (q.2.2.answer q.1)

/-- A read of a register at an offset of register space.
DEDUCED (log entry 60). -/
def execRcRead (who : Origin) (o len : Nat) (s : State) : Out :=
  if !regOrigin who then .fault (.noSuchUnit "register master")
  else
    let q := s.regAccess who o len none
    .next (q.2.2.answerData q.1 (if q.1 = 0 then toLe len q.2.1.toNat else []))

end Sys2Proof.Machine
end

