-- ==== Sys2Proof/Machine/Efnil.lean ====
section
/-! DEFINITION. The requests of the control node (R430-R432, R501, R527, R576, R594). -/
namespace Sys2Proof.Machine

/-! ## Taking a request -/

/-- A request whose payload does not match its type, or whose LENGTH is wrong (R431). -/
def State.efnShort (s : State) (f : List Byte) : State := s.efnReply (eCmd f) (eType f) (eClass f) St.efnLength 0 []

/-- A request of right CLASS and CMD_ID that is in no record is executed; where its LENGTH is wrong, only to see whether some status is not OK, and
EFN_LENGTH is given if none is (R431).
DEDUCED (log entry 38). -/
def State.efnExecute (s : State) (f : List Byte) (run : State → Bool → Option State) : Option State :=
  if efnLenOk f then run s false
  else if eLen f > 4096 then some (s.efnShort f)
  else match run s false with
    | none => none
    | some t => match t.efn.known (eCmd f) with
      | some r => some (if r.status = 0 then s.efnShort f else t)
      | none => some (s.efnShort f)

/-- A request that the link layer accepts: refused for its CLASS or CMD_ID, answered from the record, or executed by `run`, which is told whether it
repeats a BULK_READ. A frame with RESP set is no request. Nothing happens while `run` cannot carry it out. -/
def efnRequest (s : State) (f : List Byte) (mine : Bool) (run : State → Bool → Option State) : Out :=
  let cmd := eCmd f
  let cls := eClass f
  let type := eType f
  if !s.efnUp || !mine || cls == 3 then .next s
  else match s.efnArrive f with
    | .good s1 =>
      if eResp f then .next s1
      else if cls ≠ efnClassOf type then .next (s1.efnReply cmd type cls St.efnClass 0 [])
      else if cmd = 0 then .next (s1.efnReply 0 type cls St.efnCmdId 0 [])
      else if s1.efn.opened.any (fun o => o.cmd == cmd) then .next (s1.efnCredit cls)
      else match s1.efn.known cmd with
        | some r =>
          let s1 := s1.count efnStat 63 48 1
          if type = 3 ∧ r.type = 3 then
            match run s1 true with
            | some s2 => .next s2
            | none => .next s
          else .next (s1.efnReply cmd type cls r.status 32 r.data)
        | none => match s1.efnExecute f run with
          | some s2 => .next s2
          | none => .next s
    | _ => .next s

/-- In Unlit only reads of the registers of Table 17.7, HUB_FATAL and the PWR_ registers, and writes of HUB_RESET, are served (R576). -/
def State.unlitShut (s : State) (read : Bool) (a : Nat) : Bool :=
  decide (s.pwrState = 4) &&
    !(s.thisChip (gaChip a) && decide (gaSpace a = 8) &&
      (if read then decide (0x10000 ≤ gaOff a ∧ gaOff a < 0x20000) || unlitReg (gaOff a) else decide (gaOff a / 8 * 8 = 0x10020)))

/-! ## Registers -/

/-- An access to another chip's register leaves as an Ouvuth operation (R431). -/
def State.efnFar (s : State) (cmd type op a size : Nat) (data : List Byte) : Option State :=
  match s.sendOp (gaChip a) op a size data 0xFFF 0 (.efnil cmd 0) with
  | (.now x, s) => some (s.efnDone cmd type x.status 0 [])
  | (.out _, s) => some (s.setEfn (s.efn.withOpened (s.efn.opened ++ [(⟨cmd, type, 1, false⟩ : EfnOpen)])))
  | (.full, _) => none

/-- A register access of `size` bytes at address `a`; `w` is the value written. -/
def State.efnReg (s : State) (cmd type a size : Nat) (w : Option W64) : Option State :=
  if s.unlitShut w.isNone a then some (s.efnDone cmd type St.dieNotReady 0 [])
  else if gaSpace a ≠ 8 then some (s.efnDone cmd type St.addrSpace 0 [])
  else if size ≠ 4 ∧ size ≠ 8 then some (s.efnDone cmd type St.regAlign 0 [])
  else if s.thisChip (gaChip a) then
    let q := s.regAccess .efnil (gaOff a) size w
    some (q.2.2.efnDone cmd type q.1 0 (if w.isNone ∧ q.1 = 0 then toBe 8 q.2.1.toNat else []))
  else match w with
    | none => s.efnFar cmd type 1 a size []
    | some v => s.efnFar cmd type 2 a size (toLe size v.toNat)

def execRegRead (f : List Byte) (s : State) : Out :=
  efnRequest s f (decide (eType f = 1)) (fun s _ =>
    let p := ePay f
    if eLen f ≠ 16 then some (s.efnShort f) else s.efnReg (eCmd f) 1 (beAt p 0 8) (beAt p 8 1) none)

def execRegWrite (f : List Byte) (s : State) : Out :=
  efnRequest s f (decide (eType f = 2)) (fun s _ =>
    let p := ePay f
    if eLen f ≠ 24 then some (s.efnShort f)
    else s.efnReg (eCmd f) 2 (beAt p 0 8) (beAt p 8 1) (some (BitVec.ofNat 64 (beAt p 16 8))))

/-! ## Memory -/

/-- One access of at most 4 KiB of a request: none while it has no tag; otherwise its status when it is answered at once, and the state. -/
def State.efnPiece (s : State) (cmd i op a n : Nat) (data : List Byte) : Option (Option Nat × State) :=
  let c := Client.efnil cmd i
  let off := gaOff a
  if gaSpace a = 8 then some (some St.addrSpace, s.localOp a c ⟨St.addrSpace, [], 0, false⟩)
  else if s.thisChip (gaChip a) then
    if op = 2 ∧ gaSpace a = 0 then
      let q := s.apertureWrite ⟨0xFFF, s.chipInForce, none⟩ off data
      some (some q.1, q.2.localOp a c ⟨q.1, [], 0, false⟩)
    else match s.request ⟨op, a, n, data, 0xFFF, none, none, 4096, false, false⟩ c 5 with
      | (some x, s) =>
        let s := if op = 2 ∧ x.status = 0 ∧ gaSpace a = 1 ∧ 2 ^ 29 + glareBase ≤ off ∧ off < 2 ^ 29 + glareBase + glareBytes then
            s.glareBulk (off - 2 ^ 29 - glareBase) n
          else s
        some (some x.status, s.localOp a c x)
      | (none, s) => some (none, s)
  else match s.sendOp (gaChip a) op a n data 0xFFF 0 c with
    | (.now x, s) => some (some x.status, s.localOp a c x)
    | (.out _, s) => some (none, s)
    | (.full, _) => none

/-- The accesses of a request, in address order; the first that is refused at once ends them. The number made, and the state. -/
def State.efnPieces (s : State) (cmd op base : Nat) (data : List Byte) : List (Nat × Nat) → Nat → Option (Nat × State)
  | [], i => some (i, s)
  | p :: ps, i =>
    match s.efnPiece cmd i op p.1 p.2 (if op = 2 then slice data (p.1 - base) p.2 else []) with
    | none => none
    | some (some 0, s) => State.efnPieces s cmd op base data ps (i + 1)
    | some (some _, s) => some (i + 1, s)
    | some (none, s) => State.efnPieces s cmd op base data ps (i + 1)

/-- The pieces of a range of memory: at most 4 KiB each, cut at multiples of 4 KiB; a write to a scratchpad is whole. -/
def efnCut (op a n : Nat) : List (Nat × Nat) := if op = 2 ∧ gaSpace a = 0 then [(a, n)] else cutRange 4096 (n / 4096 + 2) a n

/-- A BULK_READ or BULK_WRITE of `n` bytes at `a`. -/
def State.efnMem (s : State) (cmd type op a n : Nat) (data : List Byte) (dup : Bool) : Option State :=
  match s.efnPieces cmd op a data (efnCut op a n) 0 with
  | none => none
  | some (k, s) => some ((s.setEfn (s.efn.withOpened (s.efn.opened ++ [(⟨cmd, type, k, dup⟩ : EfnOpen)]))).efnSettle cmd)

/-- DEDUCED (log entry 38). -/
def execBulkRead (f : List Byte) (s : State) : Out :=
  efnRequest s f (decide (eType f = 3)) (fun s dup =>
    let p := ePay f
    let n := beAt p 8 4
    if eLen f ≠ 16 ∨ n = 0 ∨ n > 2 ^ 20 ∨ n % 4 ≠ 0 then some (s.efnShort f)
    else if s.pwrState = 4 then some (s.efnBulk (eCmd f) St.dieNotReady (if dup then 32 else 0) [])
    else s.efnMem (eCmd f) 3 1 (beAt p 0 8) n [] dup)

/-- DEDUCED (log entry 38). -/
def execBulkWrite (f : List Byte) (s : State) : Out :=
  efnRequest s f (decide (eType f = 4)) (fun s _ =>
    let p := ePay f
    let n := beAt p 8 4
    if n = 0 ∨ n > 4080 ∨ n % 4 ≠ 0 ∨ eLen f ≠ 16 + n then some (s.efnShort f)
    else if s.pwrState = 4 then some (s.efnDone (eCmd f) 4 St.dieNotReady 0 [])
    else s.efnMem (eCmd f) 4 2 (beAt p 0 8) n (p.drop 16) false)

/-! ## DOORBELL -/

/-- The data of a DOORBELL written on this chip: the status, or none while a home holds the write. A DATA_ADDR that names another chip is refused:
with ADDR_SPACE in a space that is not memory (R285), with OUV_NO_ROUTE while Ouvuth is disabled (R594), else with a status that the spec does not
name. -/
def State.efnData (s : State) (a : Nat) (data : List Byte) : Option (Nat × State) :=
  if data.isEmpty then some (0, s)
  else if !s.thisChip (gaChip a) then
    if gaSpace a > 3 then some (St.addrSpace, s)
    else if !s.ouvOn then some (St.ouvNoRoute, s)
    else
      let (v, s) := s.freeVal
      some (1 + v.toNat % 255, s)
  else (efnCut 2 a data.length).foldl (fun (acc : Option (Nat × State)) p =>
    match acc with
    | some (0, s) =>
      match s.efnPiece 0 0 2 p.1 p.2 (slice data (p.1 - a) p.2) with
      | some (some st, s) => some (st, s.withNet (s.net.withOps (s.net.ops.filter (fun o => o.client != Client.efnil 0 0))))
      | _ => none
    | x => x) (some (0, s))

/-- DEDUCED (log entry 39). -/
def execDoorbell (f : List Byte) (s : State) : Out :=
  efnRequest s f (decide (eType f = 5)) (fun s _ =>
    let p := ePay f
    if eLen f < 24 ∨ eLen f % 4 ≠ 0 ∨ eLen f > 4096 then some (s.efnShort f)
    else if s.pwrState = 4 then some (s.efnDone (eCmd f) 5 St.dieNotReady 0 [])
    else match s.efnData (beAt p 16 8) (p.drop 24) with
      | none => none
      | some (0, s) => s.efnReg (eCmd f) 5 (beAt p 0 8) 8 (some (BitVec.ofNat 64 (beAt p 8 8)))
      | some (st, s) => some (s.efnDone (eCmd f) 5 st 0 []))

/-! ## TIME (R431, R527) -/

/-- T_RX, T_TX and the PTP state of a TIME response. -/
def State.timeData (s : State) (rx : Nat) : List Byte :=
  toBe 8 rx ++ toBe 8 s.now ++ toBe 1 (s.locked.toNat + 2 * s.everLocked.toNat + 4 * s.slave.isSome.toNat)

/-- TIME READ; a reserved OP does not match the type.
DEDUCED (log entry 38). -/
def execTimeRead (f : List Byte) (s : State) : Out :=
  efnRequest s f (decide (eType f = 7 ∧ beAt (ePay f) 0 1 ≠ 1)) (fun s _ =>
    if eLen f ≠ 16 ∨ beAt (ePay f) 0 1 ≠ 0 then some (s.efnShort f)
    else if s.pwrState = 4 then some (s.efnDone (eCmd f) 7 St.dieNotReady 0 [])
    else some (s.efnDone (eCmd f) 7 0 0 (s.timeData s.now)))

def execTimeSet (f : List Byte) (s : State) : Out :=
  efnRequest s f (decide (eType f = 7 ∧ beAt (ePay f) 0 1 = 1)) (fun s _ =>
    if eLen f ≠ 16 then some (s.efnShort f)
    else if s.pwrState = 4 then some (s.efnDone (eCmd f) 7 St.dieNotReady 0 [])
    else
      let rx := s.now
      let st := if s.locked then St.timeLocked else if s.everLocked then St.paramRange else 0
      let s := if st = 0 then s.stepTime (2 ^ 32 * beAt (ePay f) 8 8) else s
      some (s.efnDone (eCmd f) 7 st 0 (s.timeData rx)))

/-! ## BOOT_PUSH (R501) -/

def execBootPush (f : List Byte) (s : State) : Out :=
  efnRequest s f (decide (eType f = 8)) (fun s _ =>
    let p := ePay f
    if eLen f < 8 then some (s.efnShort f)
    else if s.pwrState = 4 then some (s.efnDone (eCmd f) 8 St.dieNotReady 0 [])
    else
      let q := s.bootPush (beAt p 0 4) (beAt p 4 4) (p.drop 8)
      if q.1 = St.efnLength then some (s.efnShort f) else some (q.2.efnDone (eCmd f) 8 q.1 0 []))

end Sys2Proof.Machine
end

