-- ==== Sys2Proof/Machine/Lantern.lean ====
section
/-! DEFINITION. Accesses of the Lantern cores, parity in their caches, and their interrupts (R400-R403, Table 19.2). -/
namespace Sys2Proof.Machine

/-- The operation code of Table 16.5 for an atomic of the A extension. -/
def amoCode : AmoKind → Nat
  | .swap => 0x01
  | .add => 0x03
  | .and => 0x04
  | .or => 0x05
  | .xor => 0x06
  | .min => 0x07
  | .max => 0x08
  | .minu => 0x09
  | .maxu => 0x0A

/-- Bytes of an access. -/
def lanternLen : LanternAct → Nat
  | .load n => n
  | .store d => d.length
  | .amo _ n _ => n

/-- The request to spaces 0x1 to 0x3 that an access makes (R292, R293). -/
def lanternReq (space off : Nat) (a : LanternAct) : MemReq :=
  let addr := 0x3FFF * 2 ^ 50 + 2 ^ 46 * space + off
  match a with
  | .load n => ⟨1, addr, n, [], 0xFFF, none, none, 64, false, false⟩
  | .store d => ⟨2, addr, d.length, d, 0xFFF, none, none, 64, false, false⟩
  | .amo k n v => ⟨3, addr, n, toBe 1 (amoCode k) ++ List.replicate 7 0 ++ toBe 8 v.toNat ++ toBe 8 0, 0xFFF, none, none, 64, false, false⟩

/-- A cached access to hub SRAM: any length of at most 64 B, and it goes on in Dim, since no router receives it (R402, R574). -/
def State.hubCached (s : State) (off : Nat) (a : LanternAct) : Nat × List Byte × State :=
  let r := lanternReq 1 off a
  let n := r.len
  if n = 0 ∨ n > 64 ∨ (r.op = 3 ∧ ¬ ((n = 4 ∨ n = 8) ∧ off % n = 0)) then (St.addrAlign, [], s)
  else if off + n > 2 ^ 29 + 2 ^ 26 then (St.addrRange, [], s)
  else if !s.ready 2 then (St.dieNotReady, [], s)
  else
    let q := s.perform r
    (q.1.status, if r.op = 3 then q.1.data.reverse else q.1.data, q.2)

/-- An access to a register; an atomic reads it and writes it. -/
def State.lanternReg (s : State) (i off : Nat) : LanternAct → Nat × List Byte × State
  | .load n =>
    let q := s.regAccess (.core i) off n none
    (q.1, if q.1 = 0 then toLe n q.2.1.toNat else [], q.2.2)
  | .store d =>
    let q := s.regAccess (.core i) off d.length (some (BitVec.ofNat 64 (leNat d)))
    (q.1, [], q.2.2)
  | .amo k n v =>
    let q := s.regAccess (.core i) off n none
    if q.1 ≠ 0 then (q.1, [], q.2.2)
    else
      let new := atomicNew (amoCode k) (8 * n) q.2.1.toNat v.toNat 0
      let w := q.2.2.regAccess (.core i) off n (some (BitVec.ofNat 64 new))
      (w.1, if w.1 = 0 then toLe n q.2.1.toNat else [], w.2.2)

/-- What a core's access completes with: its status and the data read, none while a home holds it; and the state after it. -/
def State.lanternAccess (s : State) (i pa : Nat) (a : LanternAct) : Option (Nat × List Byte) × State :=
  let space := pa / 2 ^ 44
  let off := pa % 2 ^ 44
  if space = 8 then
    let q := s.lanternReg i off a
    (some (q.1, q.2.1), q.2.2)
  else if space = 0 then
    match a with
    | .store d =>
      if d.length > 64 then (some (St.addrAlign, []), s)
      else
        let q := s.apertureWrite ⟨0xFFF, s.chipInForce, none⟩ off d
        (some (q.1, []), q.2)
    | _ => (some (St.addrSpace, []), s)
  else if space = 1 ∧ 2 ^ 29 ≤ off ∧ off < 2 ^ 29 + 2 ^ 26 then
    let q := s.hubCached off a
    (some (q.1, q.2.1), q.2.2)
  else
    let r := lanternReq space off a
    let q := s.request r (.core i pa (decide (r.op = 3))) 5
    (q.1.map (fun x => (x.status, if r.op = 3 then x.data.reverse else x.data)), q.2)

/-- An access that goes through the caches: hub SRAM (R402). -/
def lanternCached (pa : Nat) : Bool := decide (pa / 2 ^ 44 = 1 ∧ 2 ^ 29 ≤ pa % 2 ^ 44 ∧ pa % 2 ^ 44 < 2 ^ 29 + 2 ^ 26)

/-- An uncached access of core i is not complete: another chip has not answered it, or a home holds it. -/
def State.coreWaits (s : State) (i : Nat) : Bool :=
  let mine (c : Client) : Bool := match c with
    | .core j _ _ => j == i
    | _ => false
  s.net.ops.any (fun o => mine o.client && o.done.isNone) || s.net.moves.any (fun j => j.held.any (fun h => mine h.client))

/-- An error record of a Lantern core: `cls` its class. -/
def lanternError (cls i : Nat) : ErrInfo := { cls := cls, source := 0x0C, unit := i }

/-- Parity on a clean line: the line is refetched, with a corrected record; on a dirty line LANTERN is fenced, and SRV_CTL.HOLD is set (Table
19.2). -/
def State.cacheParity (s : State) (i : Nat) : CacheParity → State
  | .right => s
  | .clean => s.corrected (lanternError 0 i)
  | .dirty => s.fenceFunction 3 (lanternError 2 i)

/-- Core i makes an access to a physical address of 48 bits. An uncached access waits for the one before it to complete; one that a frozen home holds
completes when the home answers. A dirty line of bad parity ends the access.
DESIGN CHOICE (log entry 7). DEDUCED (log entry 43). -/
def execLanternAccess (i pa : Nat) (a : LanternOp) (s : State) : Out :=
  if i ≥ 32 then .fault (.noSuchUnit "Lantern core")
  else
    let pa := pa % 2 ^ 48
    if !lanternCached pa && s.coreWaits i then .next s
    else
      let s := s.cacheParity i a.parity
      if a.parity = CacheParity.dirty then .next s
      else match s.lanternAccess i pa a.act with
        | (none, s) => .next s
        | (some (st, d), s) => .next (s.coreDone i pa false st d)

/-! ## Interrupts (R403) -/

/-- What interrupts a Lantern core. -/
inductive IrqSource where
  | ring (k : Nat)
  | mailbox (j : Nat)
  | comparator
  deriving DecidableEq, Repr

/-- The sources that interrupt core i now: rings with IRQ 1 that hold an entry, mailboxes that hold a message, and its comparator. -/
def State.irqSources (s : State) (i : Nat) : List IrqSource :=
  ((List.range 32).filter (fun k => s.rb (evqCfg k) 23 && decide (s.ringHeld (evqPtr k) > 0))).map .ring ++
    ((List.range 8).filter (fun j => decide (s.ringHeld (mboxPtr j) > 0))).map .mailbox ++
    (if s.timerIrq.contains i then [.comparator] else [])

end Sys2Proof.Machine
end

