-- ==== Sys2Proof/Machine/Ouvuth.lean ====
section
/-! DEFINITION. Ouvuth operations as they arrive: requests at their home, moves at their destination, dispatches, multicast, loan notices,
and responses at their requester (R324, R330-R332, R412, R423, R465-R474, R482, R487, R502, R566). -/
namespace Sys2Proof.Machine

/-! ## Acceptance (R468-R474) -/

/-- A frame that must be sequenced is taken on its stream; without a number it is dropped. -/
def State.takeNumbered (s : State) (f : InFrame) (can : Bool) (full : Nat) : Taken :=
  if hSeq f.bytes = 0 then .dropped s.badFrame else s.takeSeq (streamOf f) (hSeq f.bytes) (hCe f.bytes) can full

/-- The tag of a response owed on stream k to the request in frame `b` (R474). -/
def State.owe (s : State) (k : Nat) (b : List Byte) (t : Nat × Nat) : State :=
  s.withNet (s.net.withOwed (s.net.owed ++ [(8192 * t.1 + t.2, 2 ^ 32 * k, b.take 32)]))

def allZero (bs : List Byte) : Bool := bs.all (· == 0)

/-- SUB of a MOVE. -/
def moveSub (b : List Byte) : Nat := beAt (ouvPayload b) 0 1
/-- KIND of a NOTICE. -/
def noticeKind (b : List Byte) : Nat := beAt (ouvPayload b) 0 1

/-- A payload of ATOMIC breaks Table 16.3: B is 0 but for CAS. -/
def atomicBad (p : List Byte) : Bool :=
  let kind := beAt p 0 1
  decide (p.length ≠ 24 ∨ kind = 0 ∨ kind > 0x0A ∨ beAt p 1 1 > 1) || !allZero (slice p 2 6) || (decide (kind ≠ 2) && !allZero (slice p 16 8))

/-- A payload of MOVE breaks Table 16.3. -/
def moveBad (p : List Byte) : Bool :=
  decide (p.length ≠ 16 ∨ beAt p 0 1 = 0 ∨ beAt p 0 1 > 4 ∨ beAt p 1 1 > 15) || !allZero (slice p 2 6)

/-- A request does not match its op (R469, R470).
DEDUCED (log entry 46). -/
def requestBad (b : List Byte) : Bool :=
  let p := ouvPayload b
  headerReserved b || match hOp b with
    | 1 => decide (hLen b = 0 ∨ hLen b > 1024)
    | 2 => decide (p.length < 4 ∨ p.length > 4096)
    | 3 => atomicBad p
    | 4 => moveBad p
    | _ => decide (p.length < 32 ∨ p.length > 4096 ∨ p.length % 32 ≠ 0 ∨ hAddr b % 2 ^ 50 / 2 ^ 11 ≠ 0)

/-- A frame that an unassigned chip refuses: neither discovery nor management (R38). -/
def State.refusesAll (s : State) (b : List Byte) : Bool := !s.assigned && decide (hSpan b ≠ 0xFFF)

/-- The status with which a request is refused before it is performed: OUV_OP, OUV_UNASSIGNED or OUV_LENGTH; 0 when it is not.
DEDUCED (log entry 46). -/
def State.requestFault (s : State) (b : List Byte) : Nat :=
  if hOp b = 0 ∨ hOp b > 0x0A then St.ouvOp
  else if s.refusesAll b then St.ouvUnassigned
  else if requestBad b then St.ouvLength
  else 0

/-- The answer of a request at once. -/
def State.sendBack (s : State) (k : Nat) (b : List Byte) (status : Nat) (data : List Byte) : State := s.respond k (b.take 32) ⟨status, data, 0, false⟩

/-- A request in front, of the ops that `p` takes: accepted once with its tag, then refused, or performed by `act`, which is told its stream and the
optical die that received it. A sequenced op without a number is dropped; a reserved op has none.
DEDUCED (log entry 46). -/
def requestRow (p : List Byte → Bool) (act : State → Nat → List Byte → Nat → State) (s : State) : Out :=
  match s.takeFrame (fun b => p b && !hResp b) with
  | none => .next s
  | some (f, s) =>
    let b := f.bytes
    let k := streamOf f
    let tag := s.freeTag f.egress
    let reserved := decide (hOp b = 0 ∨ hOp b > 0x0A)
    match (if hSeq b = 0 ∧ reserved ∧ tag.isSome then .accepted s else s.takeNumbered f tag.isSome 32) with
    | .dropped s => .next s
    | .accepted s =>
      let s := s.owe k b (tag.getD (0, 0))
      let st := s.requestFault b
      .next (if st = 0 then act s k b (f.egress / 48) else s.sendBack k b st [])

/-! ## READ, WRITE, ATOMIC (R469, R470) -/

/-- The client that answers a request of another chip later. -/
def peerClient (k : Nat) (b : List Byte) : Client := .peer k (hDie b) (hTag b) (b.take 32)

/-- The memory request that a frame makes. -/
def frameReq (b : List Byte) (len : Nat) : MemReq :=
  ⟨hOp b, hAddr b, len, ouvPayload b, hSpan b, some (hSrc b), none, 4096, hOp b == 2 && !hFwd b, hFwd b⟩

/-- Optical die d has received a request of another chip that is refused (R293). -/
def State.turnAway (s : State) (d : Nat) : State :=
  s.withNet (s.net.withTurnedAway (Sparse.put (fun _ => 0) s.net.turnedAway d (Sparse.get (fun _ => 0) s.net.turnedAway d + 1)))

/-- A request to spaces 0x1-0x3 that optical die d has received, answered now or later; a refusal is counted. -/
def State.memFrame (s : State) (k : Nat) (b : List Byte) (len d : Nat) : State :=
  match s.request (frameReq b len) (peerClient k b) 5 with
  | (some a, s) => (if a.status = 0 then s else s.turnAway d).respond k (b.take 32) a
  | (none, s) => s

/-- The region of the tile at offset `off` of space 0x0 has partition `part` and does not take part in its span (R423). -/
def State.tileUnlit (s : State) (part off : Nat) : Bool :=
  match s.regionOf (off / 2 ^ 20 % 2 ^ 12) with
  | some g => decide (s.partition g = part) && !s.rb (0x51000 + 0x10 * g) 12
  | none => false

/-- A write of another chip to space 0x0 (R107, R423, R566).
DEDUCED (log entry 25). -/
def State.tileFrame (s : State) (src span off : Nat) (data : List Byte) : Nat × State :=
  if span = 0xFFF ∧ !s.granted src 3 then (St.memDenied, s.count 0xC0070 63 32 1)
  else if s.tileUnlit span off then (St.spanUnlit, s)
  else s.apertureWrite ⟨span, src, none⟩ off data

/-- READ. A reserved op comes here too, to be refused.
DEDUCED (log entry 46). -/
def execOuvRead (s : State) : Out :=
  requestRow (fun b => decide (hOp b = 1 ∨ hOp b = 0 ∨ hOp b > 0x0A)) (fun s k b d =>
    let len := 4 * hLen b
    if gaSpace (hAddr b) = 8 then
      let q := s.regAccess (.chip (hSrc b)) (gaOff (hAddr b)) len none
      q.2.2.sendBack k b q.1 (if q.1 = 0 then toLe len q.2.1.toNat else [])
    else s.memFrame k b len d) s

/-- DEDUCED (log entry 46). -/
def execOuvWrite (s : State) : Out :=
  requestRow (fun b => decide (hOp b = 2)) (fun s k b d =>
    let data := ouvPayload b
    let off := gaOff (hAddr b)
    match gaSpace (hAddr b) with
    | 8 =>
      let q := s.regAccess (.chip (hSrc b)) off data.length (some (BitVec.ofNat 64 (leNat data)))
      q.2.2.sendBack k b q.1 []
    | 0 => let q := s.tileFrame (hSrc b) (hSpan b) off data; q.2.sendBack k b q.1 []
    | _ => s.memFrame k b data.length d) s

def execOuvAtomic (s : State) : Out :=
  requestRow (fun b => decide (hOp b = 3)) (fun s k b d => s.memFrame k b (4 + 4 * beAt (ouvPayload b) 1 1) d) s

/-! ## Moves at the other chip (R329-R332, R335, R470) -/

/-- The entry of the granule that a frame names is MOVING_IN from the granule in PEER, and the frame comes from that granule's chip (R332).
DEDUCED (log entry 30). -/
def State.movingInFrom (s : State) (b : List Byte) : Bool :=
  let e := s.home (gaTier (hAddr b)) (gaGranule (hAddr b))
  decide (e.st = 3 ∧ hSrc b = gaChip e.peer) && s.samePlace e.peer (beAt (ouvPayload b) 8 8)

/-- BEGIN; `ro` is RO of the source, which the destination copies. A MOVE with a reserved SUB comes here too, to be refused.
DEDUCED (log entry 31). -/
def execMoveBegin (ro : Bool) (s : State) : Out :=
  requestRow (fun b => decide (hOp b = 4 ∧ (moveSub b < 2 ∨ moveSub b > 4))) (fun s k b _ =>
    let st := s.beginStatus (hAddr b) (hSpan b) (some (hSrc b))
    let s := if st = 0 then s.beginIn (hAddr b) (beAt (ouvPayload b) 1 1) (beAt (ouvPayload b) 8 8) ro else s
    s.sendBack k b st []) s

/-- DEDUCED (log entry 31). DEDUCED (log entry 46). -/
def execMoveCommit (s : State) : Out :=
  requestRow (fun b => decide (hOp b = 4 ∧ moveSub b = 2)) (fun s k b _ =>
    let tier := gaTier (hAddr b)
    let g := gaGranule (hAddr b)
    let s := if s.movingInFrom b then s.endIn tier g (s.home tier g).ro else s
    s.sendBack k b 0 []) s

/-- DEDUCED (log entry 46). -/
def execMoveAbort (s : State) : Out :=
  requestRow (fun b => decide (hOp b = 4 ∧ moveSub b = 3)) (fun s k b _ =>
    let s := if s.movingInFrom b then s.abortIn (gaTier (hAddr b)) (gaGranule (hAddr b)) else s
    s.sendBack k b 0 []) s

def execMoveQuery (s : State) : Out :=
  requestRow (fun b => decide (hOp b = 4 ∧ moveSub b = 4)) (fun s k b _ =>
    let e := s.home (gaTier (hAddr b)) (gaGranule (hAddr b))
    s.sendBack k b 0 (toBe 1 e.st ++ List.replicate 7 0 ++ toBe 8 e.peer)) s

/-! ## DISPATCH (R412) -/

def execOuvDispatch (s : State) : Out :=
  requestRow (fun b => decide (hOp b = 5)) (fun s k b _ =>
    let q := s.dispatchIn (some (hSrc b)) (hSpan b) (hAddr b % 2 ^ 8) (hAddr b / 2 ^ 8 % 8) (ouvPayload b)
    q.2.sendBack k b q.1 []) s

/-! ## MCAST (R474, R482, R502) -/

/-- A prefix that Table 16.5 does not give, or a reserved header bit. -/
def castBad (b : List Byte) : Bool :=
  let p := ouvPayload b
  headerReserved b || decide (p.length < 16 ∨ beAt p 0 1 = 0 ∨ beAt p 0 1 > 3 ∨ beAt p 1 1 > 15 ∨ beAt p 2 2 ≠ 0)

/-- The frame came from the parent in its tree. In boot mode, with tree 0 not enabled, the egress of the first FIRMWARE frame is the parent.
DEDUCED (log entry 33). -/
def State.fromParent (s : State) (egress : Nat) (b : List Byte) : Bool :=
  let t := beAt (ouvPayload b) 1 1
  if s.bootMode && decide (t = 0) && !s.rb (treeReg 0 0) 0 then
    decide (s.bootSource ≠ 2 ∨ s.boot.total = none ∨ s.rf bootStat 16 8 = egress)
  else s.rb (treeReg t 0) 0 && !s.rb (treeReg t 0) 1 && decide (s.rf (treeReg t 0) 10 2 = egress)

/-- The children that get a copy of frame `b`, which arrived on another egress: those of an enabled tree, on fabric ports (R437), whose link is up, and
which are not drained unless the frame is of management (R458). Nothing goes on from a storage port. -/
def State.castChildren (s : State) (egress t : Nat) (b : List Byte) : List Nat :=
  if s.rb (treeReg t 0) 0 ∧ isFabric (egress / 8) then
    (s.treeChildren t).filter (fun e => isFabric (e / 8) && s.linkUp e && (ouvKind b == .ouvCtl || !s.rb (egSub e 0) 17))
  else []

/-- The copy of frame `b` to the child at egress e, of tree t, under a tag of a die. -/
def State.castCopy (s : State) (b : List Byte) (t e : Nat) (tag : Nat × Nat) : State :=
  let k := 0x4000 + e
  let p := ouvPayload b
  let c := s.header k 6 0 (p.length / 4) tag.1 (hSpan b) 0 tag.2 0 (hAddr b) ++ p
  let s := s.withNet (s.net.withOwed (s.net.owed ++ [(8192 * tag.1 + tag.2, 2 ^ 32 * k + (s.txs k).nextSeq, [])]))
  s.enqueue k c none (some t)

/-- A copy to each child under a tag of its own; none when the tags do not suffice.
DEDUCED (log entry 33). -/
def State.castCopies (s : State) (b : List Byte) (t : Nat) : List Nat → Option State
  | [] => some s
  | e :: rest =>
    match s.freeTag e with
    | none => none
    | some tag => State.castCopies (s.castCopy b t e tag) b t rest

/-- The frame is applied at this chip by KIND.
DEDUCED (log entry 33). -/
def State.castApply (s : State) (egress : Nat) (b : List Byte) : State :=
  let p := ouvPayload b
  let data := p.drop 16
  match beAt p 0 1 with
  | 1 =>
    let a := hAddr b
    if gaSpace a = 0 then
      let q := s.tileFrame (hSrc b) (hSpan b) (gaOff a) data
      if q.1 = 0 then q.2 else q.2.badFrame
    else match s.request ⟨2, a, data.length, data, hSpan b, some (hSrc b), none, 4096, false, false⟩ .none 5 with
      | (some x, s) => if x.status = 0 then s else s.badFrame
      | (none, s) => s
  | 2 => s.firmware egress (beAt p 8 4) (beAt p 12 4) data
  | _ => s.glareFrame (beAt p 4 4) (beAt p 8 4) (beAt p 12 4) data

/-- MCAST: copied to the children, then applied here; from elsewhere than the parent it is accepted, discarded and counted.
DEDUCED (log entry 33). -/
def execMcast (s : State) : Out :=
  match s.takeFrame (fun b => decide (hOp b = 6) && !hResp b) with
  | none => .next s
  | some (f, s) =>
    let b := f.bytes
    let good := !castBad b && s.fromParent f.egress b && !s.refusesAll b
    let t := beAt (ouvPayload b) 1 1
    let kids := if good then s.castChildren f.egress t b else []
    match s.takeNumbered f (s.castCopies b t kids).isSome 32 with
    | .dropped s => .next s
    | .accepted s => .next (if good then ((s.castCopies b t kids).getD s).castApply f.egress b else s.badFrame)

/-! ## Loan notices (R314, R487) -/

/-- A sequenced notice in front: accepted when `can`, then discarded and counted when it is not one of Table 16.3, or taken by `act`.
DEDUCED (log entry 47). -/
def noticeRow (p : Nat → Bool) (can : State → Bool) (act : State → List Byte → State) (s : State) : Out :=
  match s.takeFrame (fun b => decide (hOp b = 7) && !hResp b && p (noticeKind b)) with
  | none => .next s
  | some (f, s) =>
    let b := f.bytes
    let bad := noticeBad b || s.refusesAll b
    match s.takeNumbered f (bad || can s) 48 with
    | .dropped s => .next s
    | .accepted s => .next (if bad then s.badFrame else act s b)

/-- The first free recall record. -/
def State.freeRecall (s : State) : Option Nat := (List.range 64).find? (fun k => !s.rb (recallReg k 0) 0)

/-- LOAN_RECALL. A notice of a reserved KIND comes here too, to be discarded.
DEDUCED (log entry 47). -/
def execLoanRecall (s : State) : Out :=
  noticeRow (fun kind => decide (kind = 1 ∨ kind = 0 ∨ kind > 4)) (fun s => s.freeRecall.isSome) (fun s b =>
    let p := ouvPayload b
    match s.freeRecall with
    | none => s
    | some k =>
      let s := s.setReg (recallReg k 0) (pack [(0, 1), (2, beAt p 1 1), (8, beAt p 2 1), (16, hSrc b)])
      let s := s.setReg (recallReg k 8) (pack [(0, beAt p 8 4), (32, beAt p 12 4)])
      let s := s.setReg (recallReg k 0x10) (BitVec.ofNat 64 (s.now + 4000 * beAt p 4 4))
      s.postOuv 7 0 0xFFFF k []) s

/-- DEDUCED (log entry 32). -/
def execLoanRelease (s : State) : Out :=
  noticeRow (fun kind => decide (kind = 2)) (fun _ => true) (fun s b =>
    let k := beAt (ouvPayload b) 1 1
    if s.loanBorrower k = hSrc b then s.loanScrub k else s) s

/-! ## Responses (R468, R469, R476) -/

/-- The operation that a response answers. -/
def State.answered (s : State) (b : List Byte) : Option NetOp :=
  s.net.ops.find? (fun o => o.die == hDie b && o.tag == hTag b && o.chip == hSrc b && o.op == hOp b && o.done.isNone)

/-- A response completes its operation and frees the tag; one that comes too late is counted.
DEDUCED (log entry 46). -/
def execOuvResponse (s : State) : Out :=
  match s.takeFrame (fun b => hResp b && decide (hOp b ≠ 8 ∧ hOp b ≠ 9 ∧ hOp b ≠ 0x0A)) with
  | none => .next s
  | some (f, s) =>
    let b := f.bytes
    match s.takeNumbered f true 32 with
    | .dropped s => .next s
    | .accepted s => .next (match s.answered b with
      | some o => s.answerOp o ⟨hStatus b, ouvPayload b, hAddr b, hFwd b⟩
      | none => s.count 0x70078 15 0 1)

end Sys2Proof.Machine
end

