-- ==== Sys2Proof/Machine/Dispatch.lean ====
section
/-! DEFINITION. One arm per command: the meaning that command has. -/
namespace Sys2Proof.Machine

/-- The effect of a command on everything but the queue. -/
def exec (i : Instr) (s : State) : Host.Outcome State Fault Refusal :=
  match i with
  | .registerWrite who off len v => Sys2Proof.Machine.execRegisterWrite who off len v s
  | .rcRead who off len => Sys2Proof.Machine.execRcRead who off len s
  | .chipNumberWrite v => Sys2Proof.Machine.execChipNumberWrite v s
  | .chipNumberTakesEffect => Sys2Proof.Machine.execChipNumberTakesEffect s
  | .pkgnetLinkFail link die => Sys2Proof.Machine.execPkgnetLinkFail link die s
  | .tileRingCfgWrite t c r v => Sys2Proof.Machine.execTileRingCfgWrite t c r v s
  | .tileAptWinWrite t c a v => Sys2Proof.Machine.execTileAptWinWrite t c a v s
  | .tileAptSrcWrite t c a v => Sys2Proof.Machine.execTileAptSrcWrite t c a v s
  | .tileCtxPstoreWrite t c v => Sys2Proof.Machine.execTileCtxPstoreWrite t c v s
  | .tileCtxSpadWrite t c v => Sys2Proof.Machine.execTileCtxSpadWrite t c v s
  | .tileFpctlWrite t c v => Sys2Proof.Machine.execTileFpctlWrite t c v s
  | .cdTileParkWrite n k v => Sys2Proof.Machine.execCdTileParkWrite n k v s
  | .parkChangeDone t => Sys2Proof.Machine.execParkChangeDone t s
  | .apertureWrite w off data => Sys2Proof.Machine.execApertureWrite w off data s
  | .tileInternalError t k off => Sys2Proof.Machine.execTileInternalError t k off s
  | .nop t => Sys2Proof.Machine.execNop t s
  | .add t => Sys2Proof.Machine.execAdd t s
  | .sub t => Sys2Proof.Machine.execSub t s
  | .and t => Sys2Proof.Machine.execAnd t s
  | .or t => Sys2Proof.Machine.execOr t s
  | .xor t => Sys2Proof.Machine.execXor t s
  | .sll t => Sys2Proof.Machine.execSll t s
  | .srl t => Sys2Proof.Machine.execSrl t s
  | .sra t => Sys2Proof.Machine.execSra t s
  | .mul t => Sys2Proof.Machine.execMul t s
  | .mins t => Sys2Proof.Machine.execMins t s
  | .maxs t => Sys2Proof.Machine.execMaxs t s
  | .minu t => Sys2Proof.Machine.execMinu t s
  | .maxu t => Sys2Proof.Machine.execMaxu t s
  | .addi t => Sys2Proof.Machine.execAddi t s
  | .li t => Sys2Proof.Machine.execLi t s
  | .andi t => Sys2Proof.Machine.execAndi t s
  | .ori t => Sys2Proof.Machine.execOri t s
  | .mfs t => Sys2Proof.Machine.execMfs t s
  | .ldx t => Sys2Proof.Machine.execLdx t s
  | .pcmp t => Sys2Proof.Machine.execPcmp t s
  | .plog t => Sys2Proof.Machine.execPlog t s
  | .pcmpi t => Sys2Proof.Machine.execPcmpi t s
  | .selx t => Sys2Proof.Machine.execSelx t s
  | .select t ph => Sys2Proof.Machine.execSelect t ph s
  | .mma t => Sys2Proof.Machine.execMma t s
  | .mmaFirstRead t => Sys2Proof.Machine.execMmaFirstRead t s
  | .mmaKblockRead t => Sys2Proof.Machine.execMmaKblockRead t s
  | .swap t => Sys2Proof.Machine.execSwap t s
  | .swapExecute t => Sys2Proof.Machine.execSwapExecute t s
  | .drain t => Sys2Proof.Machine.execDrain t s
  | .drainStart t => Sys2Proof.Machine.execDrainStart t s
  | .drainReadout t => Sys2Proof.Machine.execDrainReadout t s
  | .fill t => Sys2Proof.Machine.execFill t s
  | .fillStart t => Sys2Proof.Machine.execFillStart t s
  | .fillArrayWrite t => Sys2Proof.Machine.execFillArrayWrite t s
  | .rfu t => Sys2Proof.Machine.execRfu t s
  | .rfuRowRead t => Sys2Proof.Machine.execRfuRowRead t s
  | .push t ph => Sys2Proof.Machine.execPush t ph s
  | .pop t ph => Sys2Proof.Machine.execPop t ph s
  | .rcopy t ph => Sys2Proof.Machine.execRcopy t ph s
  | .strm t => Sys2Proof.Machine.execStrm t s
  | .streamPieceIssue t pieces => Sys2Proof.Machine.execStreamPieceIssue t pieces s
  | .streamPieceArrival t id net => Sys2Proof.Machine.execStreamPieceArrival t id net s
  | .streamWritePieceComplete t id => Sys2Proof.Machine.execStreamWritePieceComplete t id s
  | .rearm t ph => Sys2Proof.Machine.execRearm t ph s
  | .send t => Sys2Proof.Machine.execSend t s
  | .sendc t ph => Sys2Proof.Machine.execSendc t ph s
  | .tokenSend t => Sys2Proof.Machine.execTokenSend t s
  | .tokenArrival t c r badParity => Sys2Proof.Machine.execTokenArrival t c r badParity s
  | .creditArrival t c r => Sys2Proof.Machine.execCreditArrival t c r s
  | .recv t ph => Sys2Proof.Machine.execRecv t ph s
  | .recvc t => Sys2Proof.Machine.execRecvc t s
  | .steer t ph => Sys2Proof.Machine.execSteer t ph s
  | .steerPairForm t => Sys2Proof.Machine.execSteerPairForm t s
  | .loop t => Sys2Proof.Machine.execLoop t s
  | .openAperture t => Sys2Proof.Machine.execOpenAperture t s
  | .closeAperture t => Sys2Proof.Machine.execCloseAperture t s
  | .fence t => Sys2Proof.Machine.execFence t s
  | .endInstr t => Sys2Proof.Machine.execEnd t s
  | .endReport t => Sys2Proof.Machine.execEndReport t s
  | .loadSection g c net => Sys2Proof.Machine.execLoadSection g c net s
  | .sectionLoaded g c => Sys2Proof.Machine.execSectionLoaded g c s
  | .startSection g c => Sys2Proof.Machine.execStartSection g c s
  | .sectionStart g c => Sys2Proof.Machine.execSectionStart g c s
  | .sectionEnd g c => Sys2Proof.Machine.execSectionEnd g c s
  | .sectionFaulted g c => Sys2Proof.Machine.execSectionFaulted g c s
  | .watchdogFire g => Sys2Proof.Machine.execWatchdogFire g s
  | .spillMove t c q => Sys2Proof.Machine.execSpillMove t c q s
  | .reinject t c q => Sys2Proof.Machine.execReinject t c q s
  | .prismDoorbell n v => Sys2Proof.Machine.execPrismDoorbell n v s
  | .prismJobStart n => Sys2Proof.Machine.execPrismJobStart n s
  | .prismTrigger n => Sys2Proof.Machine.execPrismTrigger n s
  | .prismJobEnd n net => Sys2Proof.Machine.execPrismJobEnd n net s
  | .tintDoorbell n v => Sys2Proof.Machine.execTintDoorbell n v s
  | .tintJobStart n net => Sys2Proof.Machine.execTintJobStart n net s
  | .tintTrigger n net => Sys2Proof.Machine.execTintTrigger n net s
  | .tintCacheFill n net => Sys2Proof.Machine.execTintCacheFill n net s
  | .tintRecordWrite n net => Sys2Proof.Machine.execTintRecordWrite n net s
  | .tintRecordRetry n => Sys2Proof.Machine.execTintRecordRetry n s
  | .tintDeliveryTimeout n => Sys2Proof.Machine.execTintDeliveryTimeout n s
  | .tintJobEnd n => Sys2Proof.Machine.execTintJobEnd n s
  | .tintCtlWrite n v => Sys2Proof.Machine.execTintCtlWrite n v s
  | .srvVeilPrime w => Sys2Proof.Machine.execSrvVeilPrime w s
  | .veilPrimed v m ok => Sys2Proof.Machine.execVeilPrimed v m ok s
  | .memoryRequest o span op addr len data ecc => Sys2Proof.Machine.execMemoryRequest o span op addr len data ecc s
  | .cdDsCarveWrite n g v => Sys2Proof.Machine.execCdDsCarveWrite n g v s
  | .cdT1CarveWrite n g v => Sys2Proof.Machine.execCdT1CarveWrite n g v s
  | .memT2CarveWrite g v => Sys2Proof.Machine.execMemT2CarveWrite g v s
  | .memT2CfgWrite v => Sys2Proof.Machine.execMemT2CfgWrite v s
  | .memCopyDoorbell v => Sys2Proof.Machine.execMemCopyDoorbell v s
  | .copyJobEnd net => Sys2Proof.Machine.execCopyJobEnd net s
  | .memLoanWrite k peer v => Sys2Proof.Machine.execMemLoanWrite k peer v s
  | .grant k => Sys2Proof.Machine.execGrant k s
  | .recall k => Sys2Proof.Machine.execRecall k s
  | .loanGraceExpiry k => Sys2Proof.Machine.execLoanGraceExpiry k s
  | .loanScrubDone k => Sys2Proof.Machine.execLoanScrubDone k s
  | .afterglowEnd tier g => Sys2Proof.Machine.execAfterglowEnd tier g s
  | .redirectFlush n v => Sys2Proof.Machine.execRedirectFlush n v s
  | .memHometabWrite tier v => Sys2Proof.Machine.execMemHometabWrite tier v s
  | .memMoveDoorbell v => Sys2Proof.Machine.execMemMoveDoorbell v s
  | .moveJobStart slot => Sys2Proof.Machine.execMoveJobStart slot s
  | .moveBeginAck slot => Sys2Proof.Machine.execMoveBeginAck slot s
  | .moveCopyAck slot => Sys2Proof.Machine.execMoveCopyAck slot s
  | .moveFlip slot => Sys2Proof.Machine.execMoveFlip slot s
  | .moveCommitAck slot => Sys2Proof.Machine.execMoveCommitAck slot s
  | .freezeTimeout slot => Sys2Proof.Machine.execFreezeTimeout slot s
  | .homeBusyReissue t id => Sys2Proof.Machine.execHomeBusyReissue t id s
  | .movingInQuery tier g => Sys2Proof.Machine.execMovingInQuery tier g s
  | .reclaim tier g => Sys2Proof.Machine.execReclaim tier g s
  | .setRo tier g => Sys2Proof.Machine.execSetRo tier g s
  | .clearRo tier g => Sys2Proof.Machine.execClearRo tier g s
  | .resolve tier g => Sys2Proof.Machine.execResolve tier g s
  | .abortOut tier g => Sys2Proof.Machine.execAbortOut tier g s
  | .operationTimeout id => Sys2Proof.Machine.execOperationTimeout id s
  | .srvPkgDoorbell v => Sys2Proof.Machine.execSrvPkgDoorbell v s
  | .pkgJobStart => Sys2Proof.Machine.execPkgJobStart s
  | .install => Sys2Proof.Machine.execInstall s
  | .verify => Sys2Proof.Machine.execVerify s
  | .pkgSwapLayer => Sys2Proof.Machine.execPkgSwapLayer s
  | .chainChunk slot => Sys2Proof.Machine.execChainChunk slot s
  | .chainLost => Sys2Proof.Machine.execChainLost s
  | .pkgJobEnd => Sys2Proof.Machine.execPkgJobEnd s
  | .servingFrameBad => Sys2Proof.Machine.execServingFrameBad s
  | .request => Sys2Proof.Machine.execRequest s
  | .cancel => Sys2Proof.Machine.execCancel s
  | .fetch => Sys2Proof.Machine.execFetch s
  | .serveEnable v => Sys2Proof.Machine.execServeEnable v s
  | .stepBoundary x => Sys2Proof.Machine.execStepBoundary x s
  | .prefillChunkStart g net => Sys2Proof.Machine.execPrefillChunkStart g net s
  | .prefillCutoff => Sys2Proof.Machine.execPrefillCutoff s
  | .sample j off net => Sys2Proof.Machine.execSample j off net s
  | .stepEmission => Sys2Proof.Machine.execStepEmission s
  | .stepDeadline unstarted going => Sys2Proof.Machine.execStepDeadline unstarted going s
  | .heartbeat v => Sys2Proof.Machine.execHeartbeat v s
  | .heartbeatTimeout => Sys2Proof.Machine.execHeartbeatTimeout s
  | .holdResume => Sys2Proof.Machine.execHoldResume s
  | .echoExpiry tenant id => Sys2Proof.Machine.execEchoExpiry tenant id s
  | .cmdqPost n g c v => Sys2Proof.Machine.execCmdqPost n g c v s
  | .cmdqResume g c => Sys2Proof.Machine.execCmdqResume g c s
  | .cmdqFlush g c => Sys2Proof.Machine.execCmdqFlush g c s
  | .setLength g c => Sys2Proof.Machine.execSetLength g c s
  | .rearmCommand g c => Sys2Proof.Machine.execRearmCommand g c s
  | .dispatch g c => Sys2Proof.Machine.execDispatch g c s
  | .fenceCommand g c => Sys2Proof.Machine.execFenceCommand g c s
  | .fenceFlagPoll g c => Sys2Proof.Machine.execFenceFlagPoll g c s
  | .signal g c => Sys2Proof.Machine.execSignal g c s
  | .tableSync g c => Sys2Proof.Machine.execTableSync g c s
  | .tableSyncComplete g c => Sys2Proof.Machine.execTableSyncComplete g c s
  | .lanternAccess j pa a => Sys2Proof.Machine.execLanternAccess j pa a s
  | .evqCfgWrite mbox k v => Sys2Proof.Machine.execEvqCfgWrite mbox k v s
  | .cdRegionTilesWrite n g k v => Sys2Proof.Machine.execCdRegionTilesWrite n g k v s
  | .hubRegionWrite g v => Sys2Proof.Machine.execHubRegionWrite g v s
  | .regionReset g => Sys2Proof.Machine.execRegionReset g s
  | .regionResetDone g => Sys2Proof.Machine.execRegionResetDone g s
  | .efnBadFrame f => Sys2Proof.Machine.execEfnBadFrame f s
  | .link f => Sys2Proof.Machine.execLink f s
  | .efnAckDue => Sys2Proof.Machine.execEfnAckDue s
  | .efnReplayTimeout => Sys2Proof.Machine.execEfnReplayTimeout s
  | .regRead f => Sys2Proof.Machine.execRegRead f s
  | .regWrite f => Sys2Proof.Machine.execRegWrite f s
  | .bulkRead f => Sys2Proof.Machine.execBulkRead f s
  | .bulkWrite f => Sys2Proof.Machine.execBulkWrite f s
  | .doorbell f => Sys2Proof.Machine.execDoorbell f s
  | .timeRead f => Sys2Proof.Machine.execTimeRead f s
  | .timeSet f => Sys2Proof.Machine.execTimeSet f s
  | .bootPush f => Sys2Proof.Machine.execBootPush f s
  | .event => Sys2Proof.Machine.execEvent s
  | .efnLaneLoss l => Sys2Proof.Machine.execEfnLaneLoss l s
  | .efnLaneRejoin l => Sys2Proof.Machine.execEfnLaneRejoin l s
  | .efnLinkDown => Sys2Proof.Machine.execEfnLinkDown s
  | .efnLinkUp => Sys2Proof.Machine.execEfnLinkUp s
  | .ethFrameReceive e f corr uncorr => Sys2Proof.Machine.execEthFrameReceive e f corr uncorr s
  | .neighborSolicitation => Sys2Proof.Machine.execNeighborSolicitation s
  | .pfc => Sys2Proof.Machine.execPfc s
  | .pfcPauseExpiry e c => Sys2Proof.Machine.execPfcPauseExpiry e c s
  | .pfcRefresh e c => Sys2Proof.Machine.execPfcRefresh e c s
  | .egressFrameSend e => Sys2Proof.Machine.execEgressFrameSend e s
  | .portCfgWrite p v => Sys2Proof.Machine.execPortCfgWrite p v s
  | .full p => Sys2Proof.Machine.execFull p s
  | .portTrainDone p ok => Sys2Proof.Machine.execPortTrainDone p ok s
  | .fastRetrainTimeout p => Sys2Proof.Machine.execFastRetrainTimeout p s
  | .portLinkUp e => Sys2Proof.Machine.execPortLinkUp e s
  | .portLinkDown e cause => Sys2Proof.Machine.execPortLinkDown e cause s
  | .laserFeedLow p => Sys2Proof.Machine.execLaserFeedLow p s
  | .laserFeedRestored p => Sys2Proof.Machine.execLaserFeedRestored p s
  | .portSaWrite e sa r v => Sys2Proof.Machine.execPortSaWrite e sa r v s
  | .portSubSecWrite e v => Sys2Proof.Machine.execPortSubSecWrite e v s
  | .ptpSync => Sys2Proof.Machine.execPtpSync s
  | .ptpDelayReq => Sys2Proof.Machine.execPtpDelayReq s
  | .ptpSyncTimer e => Sys2Proof.Machine.execPtpSyncTimer e s
  | .ptpAnnounceTimer e => Sys2Proof.Machine.execPtpAnnounceTimer e s
  | .ptpDelayTimer e => Sys2Proof.Machine.execPtpDelayTimer e s
  | .ptpSyncTimeout => Sys2Proof.Machine.execPtpSyncTimeout s
  | .ouvRead => Sys2Proof.Machine.execOuvRead s
  | .ouvWrite => Sys2Proof.Machine.execOuvWrite s
  | .ouvAtomic => Sys2Proof.Machine.execOuvAtomic s
  | .moveBegin ro => Sys2Proof.Machine.execMoveBegin ro s
  | .moveCommit => Sys2Proof.Machine.execMoveCommit s
  | .moveAbort => Sys2Proof.Machine.execMoveAbort s
  | .moveQuery => Sys2Proof.Machine.execMoveQuery s
  | .ouvDispatch => Sys2Proof.Machine.execOuvDispatch s
  | .mcast => Sys2Proof.Machine.execMcast s
  | .loanRecall => Sys2Proof.Machine.execLoanRecall s
  | .loanRelease => Sys2Proof.Machine.execLoanRelease s
  | .resync => Sys2Proof.Machine.execResync s
  | .unreachable => Sys2Proof.Machine.execUnreachable s
  | .ack => Sys2Proof.Machine.execAck s
  | .ackTimer k => Sys2Proof.Machine.execAckTimer k s
  | .hello => Sys2Proof.Machine.execHello s
  | .helloTimer e => Sys2Proof.Machine.execHelloTimer e s
  | .neighbourTimeout e => Sys2Proof.Machine.execNeighbourTimeout e s
  | .sync => Sys2Proof.Machine.execSync s
  | .ouvResponse => Sys2Proof.Machine.execOuvResponse s
  | .ouvTransit => Sys2Proof.Machine.execOuvTransit s
  | .transitAge e => Sys2Proof.Machine.execTransitAge e s
  | .ouvRetransmit k => Sys2Proof.Machine.execOuvRetransmit k s
  | .retryLimit k => Sys2Proof.Machine.execRetryLimit k s
  | .resetQuietEnd => Sys2Proof.Machine.execResetQuietEnd s
  | .ouvLostClear v => Sys2Proof.Machine.execOuvLostClear v s
  | .ouvManifest v => Sys2Proof.Machine.execOuvManifest v s
  | .manifestHashDone => Sys2Proof.Machine.execManifestHashDone s
  | .release k => Sys2Proof.Machine.execRelease k s
  | .recallDeadline k => Sys2Proof.Machine.execRecallDeadline k s
  | .resetColdN => Sys2Proof.Machine.execResetColdN s
  | .resetWarmN => Sys2Proof.Machine.execResetWarmN s
  | .hubResetWarm => Sys2Proof.Machine.execHubResetWarm s
  | .hubResetCold => Sys2Proof.Machine.execHubResetCold s
  | .warmReset => Sys2Proof.Machine.execWarmReset s
  | .coldReset => Sys2Proof.Machine.execColdReset s
  | .warmBringup => Sys2Proof.Machine.execWarmBringup s
  | .functionReady j cap => Sys2Proof.Machine.execFunctionReady j cap s
  | .trainingFailed j => Sys2Proof.Machine.execTrainingFailed j s
  | .imageVerify => Sys2Proof.Machine.execImageVerify s
  | .restart => Sys2Proof.Machine.execRestart s
  | .apply => Sys2Proof.Machine.execApply s
  | .pwrCdClkWrite n v => Sys2Proof.Machine.execPwrCdClkWrite n v s
  | .dvfsChangeDone n => Sys2Proof.Machine.execDvfsChangeDone n s
  | .domainStop d => Sys2Proof.Machine.execDomainStop d s
  | .domainWake d => Sys2Proof.Machine.execDomainWake d s
  | .timeMark => Sys2Proof.Machine.execTimeMark s
  | .ppsEdge => Sys2Proof.Machine.execPpsEdge s
  | .scrub space off ecc => Sys2Proof.Machine.execScrub space off ecc s
  | .correctedRecordFlush => Sys2Proof.Machine.execCorrectedRecordFlush s
  | .errorStoreDrain => Sys2Proof.Machine.execErrorStoreDrain s
  | .hubErrInject v => Sys2Proof.Machine.execHubErrInject v s
  | .memEraseClear n v => Sys2Proof.Machine.execMemEraseClear n v s
  | .glarePackageVerify => Sys2Proof.Machine.execGlarePackageVerify s
  | .glareStart v => Sys2Proof.Machine.execGlareStart v s
  | .glareAbort => Sys2Proof.Machine.execGlareAbort s
  | .glarePointSettled => Sys2Proof.Machine.execGlarePointSettled s
  | .glareTjReached => Sys2Proof.Machine.execGlareTjReached s
  | .glareDwellEnd => Sys2Proof.Machine.execGlareDwellEnd s
  | .glareTemplateRunEnd => Sys2Proof.Machine.execGlareTemplateRunEnd s
  | .glareTimeout => Sys2Proof.Machine.execGlareTimeout s
  | .attestStart v => Sys2Proof.Machine.execAttestStart v s
  | .attestReportDone => Sys2Proof.Machine.execAttestReportDone s
  | .blow o v => Sys2Proof.Machine.execBlow o v s
  | .blowDone => Sys2Proof.Machine.execBlowDone s
  | .secFloorCtlWrite o v => Sys2Proof.Machine.execSecFloorCtlWrite o v s
  | .floorBurnt => Sys2Proof.Machine.execFloorBurnt s
  | .debugAccess o u write => Sys2Proof.Machine.execDebugAccess o u write s
  | .pwrTargetDim => Sys2Proof.Machine.execPwrTargetDim s
  | .dimEntered => Sys2Proof.Machine.execDimEntered s
  | .pwrTargetLit => Sys2Proof.Machine.execPwrTargetLit s
  | .dimLeft => Sys2Proof.Machine.execDimLeft s
  | .inputShutdown => Sys2Proof.Machine.execInputShutdown s
  | .inputRestart => Sys2Proof.Machine.execInputRestart s
  | .pwrwarnFall => Sys2Proof.Machine.execPwrwarnFall s
  | .pwrwarnRise => Sys2Proof.Machine.execPwrwarnRise s
  | .eject => Sys2Proof.Machine.execEject s
  | .powerSample w dv input => Sys2Proof.Machine.execPowerSample w dv input s
  | .thermalSample t => Sys2Proof.Machine.execThermalSample t s
  | .i3cRequest q => Sys2Proof.Machine.execI3cRequest q s
  | .lightRestored e => Sys2Proof.Machine.execLightRestored e s
  | .deviceTimeComparator j => Sys2Proof.Machine.execDeviceTimeComparator j s
  | .glareRunEnd => Sys2Proof.Machine.execGlareRunEnd s

end Sys2Proof.Machine
end

