-- ==== Sys2Proof/Machine/Step.lean ====
section
/-! DEFINITION. One step of the block: the command in front of the queue, or one tick of the reference clock on an empty queue. -/
namespace Sys2Proof.Machine

/-- The command in front is taken from the queue and performed on the state with the rest of the queue. On an empty queue one tick of the
reference clock passes (R523, R524). DESIGN CHOICE (log entry 1).
DEDUCED (log entry 58). -/
def step (s : State) : Host.Outcome State Fault Refusal :=
  match s.pending with
  | [] => .next s.tick
  | c :: rest => exec c (s.withPending rest)

/-- The state with the command that a table word spells in front of its queue. The table gives no bits, so no word spells a command.
DESIGN CHOICE (log entry 1). -/
def State.withFetchWord (s : State) (nbits w : Nat) : State :=
  match decodeTableWord nbits w with
  | some c => s.withPending (c :: s.pending)
  | none => s

end Sys2Proof.Machine
end

