-- ==== Sys2Proof/WellFormed.lean ====
section
/-! DEFINITION. Well-formed commands: every unit that a command names is one that the package holds (R13, R14, R21, R22). -/
namespace Sys2Proof

/-- Who makes register accesses: the control node, a Lantern core, or another chip (R33, R563). -/
def regMaster : Origin → Bool
  | .efnil => true
  | .core i => decide (i < 32)
  | .region _ => false
  | .chip n => decide (n < 0x3FFF)

/-- A clock domain of Table 18.1 of a unit of the package. -/
def clockOk : ClockDomain → Bool
  | .array n | .dieStore n | .hbm n | .ddr n => decide (n < 16)
  | .mdCore m | .efnil m => decide (m < 2)
  | .odCore k => decide (k < 6)
  | .portTx p => decide (p < 36)
  | .portRx e => decide (e < 288)
  | .hub | .alwaysOn => true

/-- The command names units of the package only: tiles 0-2303, compute dies and regions 0-15, contexts 0-7, ports 0-35, sub-ports 0-287, and so on. -/
def Instr.wf : Instr → Bool
  | .registerWrite who _ _ _ => regMaster who
  | .rcRead who _ _ => regMaster who
  | .chipNumberWrite _ => true
  | .chipNumberTakesEffect => true
  | .pkgnetLinkFail l n => decide (l < 40 ∧ n < 25)
  | .tileRingCfgWrite t c r _ => decide (t < 2304 ∧ c < 8 ∧ r < 16)
  | .tileAptWinWrite t c a _ => decide (t < 2304 ∧ c < 8 ∧ a < 8)
  | .tileAptSrcWrite t c a _ => decide (t < 2304 ∧ c < 8 ∧ a < 8)
  | .tileCtxPstoreWrite t c _ => decide (t < 2304 ∧ c < 8)
  | .tileCtxSpadWrite t c _ => decide (t < 2304 ∧ c < 8)
  | .tileFpctlWrite t c _ => decide (t < 2304 ∧ c < 8)
  | .cdTileParkWrite n k _ => decide (n < 16 ∧ k < 3)
  | .parkChangeDone t => decide (t < 2304)
  | .apertureWrite _ _ _ => true
  | .tileInternalError t _ _ => decide (t < 2304)
  | .nop t => decide (t < 2304)
  | .add t => decide (t < 2304)
  | .sub t => decide (t < 2304)
  | .and t => decide (t < 2304)
  | .or t => decide (t < 2304)
  | .xor t => decide (t < 2304)
  | .sll t => decide (t < 2304)
  | .srl t => decide (t < 2304)
  | .sra t => decide (t < 2304)
  | .mul t => decide (t < 2304)
  | .mins t => decide (t < 2304)
  | .maxs t => decide (t < 2304)
  | .minu t => decide (t < 2304)
  | .maxu t => decide (t < 2304)
  | .addi t => decide (t < 2304)
  | .li t => decide (t < 2304)
  | .andi t => decide (t < 2304)
  | .ori t => decide (t < 2304)
  | .mfs t => decide (t < 2304)
  | .ldx t => decide (t < 2304)
  | .pcmp t => decide (t < 2304)
  | .plog t => decide (t < 2304)
  | .pcmpi t => decide (t < 2304)
  | .selx t => decide (t < 2304)
  | .select t _ => decide (t < 2304)
  | .mma t => decide (t < 2304)
  | .mmaFirstRead t => decide (t < 2304)
  | .mmaKblockRead t => decide (t < 2304)
  | .swap t => decide (t < 2304)
  | .swapExecute t => decide (t < 2304)
  | .drain t => decide (t < 2304)
  | .drainStart t => decide (t < 2304)
  | .drainReadout t => decide (t < 2304)
  | .fill t => decide (t < 2304)
  | .fillStart t => decide (t < 2304)
  | .fillArrayWrite t => decide (t < 2304)
  | .rfu t => decide (t < 2304)
  | .rfuRowRead t => decide (t < 2304)
  | .push t _ => decide (t < 2304)
  | .pop t _ => decide (t < 2304)
  | .rcopy t _ => decide (t < 2304)
  | .strm t => decide (t < 2304)
  | .streamPieceIssue t _ => decide (t < 2304)
  | .streamPieceArrival t _ _ => decide (t < 2304)
  | .streamWritePieceComplete t _ => decide (t < 2304)
  | .rearm t _ => decide (t < 2304)
  | .send t => decide (t < 2304)
  | .sendc t _ => decide (t < 2304)
  | .tokenSend t => decide (t < 2304)
  | .tokenArrival t _ _ _ => decide (t < 2304)
  | .creditArrival t _ _ => decide (t < 2304)
  | .recv t _ => decide (t < 2304)
  | .recvc t => decide (t < 2304)
  | .steer t _ => decide (t < 2304)
  | .steerPairForm t => decide (t < 2304)
  | .loop t => decide (t < 2304)
  | .openAperture t => decide (t < 2304)
  | .closeAperture t => decide (t < 2304)
  | .fence t => decide (t < 2304)
  | .endInstr t => decide (t < 2304)
  | .endReport t => decide (t < 2304)
  | .loadSection g c _ => decide (g < 16 ∧ c < 8)
  | .sectionLoaded g c => decide (g < 16 ∧ c < 8)
  | .startSection g c => decide (g < 16 ∧ c < 8)
  | .sectionStart g c => decide (g < 16 ∧ c < 8)
  | .sectionEnd g c => decide (g < 16 ∧ c < 8)
  | .sectionFaulted g c => decide (g < 16 ∧ c < 8)
  | .watchdogFire g => decide (g < 16)
  | .spillMove t _ _ => decide (t < 2304)
  | .reinject t _ _ => decide (t < 2304)
  | .prismDoorbell n _ => decide (n < 16)
  | .prismJobStart n => decide (n < 16)
  | .prismTrigger n => decide (n < 16)
  | .prismJobEnd n _ => decide (n < 16)
  | .tintDoorbell n _ => decide (n < 16)
  | .tintJobStart n _ => decide (n < 16)
  | .tintTrigger n _ => decide (n < 16)
  | .tintCacheFill n _ => decide (n < 16)
  | .tintRecordWrite n _ => decide (n < 16)
  | .tintRecordRetry n => decide (n < 16)
  | .tintDeliveryTimeout n => decide (n < 16)
  | .tintJobEnd n => decide (n < 16)
  | .tintCtlWrite n _ => decide (n < 16)
  | .srvVeilPrime _ => true
  | .veilPrimed _ _ _ => true
  | .memoryRequest _ _ _ _ _ _ _ => true
  | .cdDsCarveWrite n g _ => decide (n < 16 ∧ g < 16)
  | .cdT1CarveWrite n g _ => decide (n < 16 ∧ g < 16)
  | .memT2CarveWrite g _ => decide (g < 16)
  | .memT2CfgWrite _ => true
  | .memCopyDoorbell _ => true
  | .copyJobEnd _ => true
  | .memLoanWrite k _ _ => decide (k < 64)
  | .grant k => decide (k < 64)
  | .recall k => decide (k < 64)
  | .loanGraceExpiry k => decide (k < 64)
  | .loanScrubDone k => decide (k < 64)
  | .afterglowEnd _ _ => true
  | .redirectFlush n _ => decide (n < 16)
  | .memHometabWrite tier _ => decide (tier < 2)
  | .memMoveDoorbell _ => true
  | .moveJobStart _ => true
  | .moveBeginAck _ => true
  | .moveCopyAck _ => true
  | .moveFlip _ => true
  | .moveCommitAck _ => true
  | .freezeTimeout _ => true
  | .homeBusyReissue t _ => decide (t < 2304)
  | .movingInQuery _ _ => true
  | .reclaim tier _ => decide (tier < 2)
  | .setRo tier _ => decide (tier < 2)
  | .clearRo tier _ => decide (tier < 2)
  | .resolve tier _ => decide (tier < 2)
  | .abortOut tier _ => decide (tier < 2)
  | .operationTimeout _ => true
  | .srvPkgDoorbell _ => true
  | .pkgJobStart => true
  | .install => true
  | .verify => true
  | .pkgSwapLayer => true
  | .chainChunk _ => true
  | .chainLost => true
  | .pkgJobEnd => true
  | .servingFrameBad => true
  | .request => true
  | .cancel => true
  | .fetch => true
  | .serveEnable _ => true
  | .stepBoundary _ => true
  | .prefillChunkStart _ _ => true
  | .prefillCutoff => true
  | .sample _ _ _ => true
  | .stepEmission => true
  | .stepDeadline _ _ => true
  | .heartbeat _ => true
  | .heartbeatTimeout => true
  | .holdResume => true
  | .echoExpiry _ _ => true
  | .cmdqPost n g c _ => decide (n < 16 ∧ g < 16 ∧ c < 8)
  | .cmdqResume g c => decide (g < 16 ∧ c < 8)
  | .cmdqFlush g c => decide (g < 16 ∧ c < 8)
  | .setLength g c => decide (g < 16 ∧ c < 8)
  | .rearmCommand g c => decide (g < 16 ∧ c < 8)
  | .dispatch g c => decide (g < 16 ∧ c < 8)
  | .fenceCommand g c => decide (g < 16 ∧ c < 8)
  | .fenceFlagPoll g c => decide (g < 16 ∧ c < 8)
  | .signal g c => decide (g < 16 ∧ c < 8)
  | .tableSync g c => decide (g < 16 ∧ c < 8)
  | .tableSyncComplete g c => decide (g < 16 ∧ c < 8)
  | .lanternAccess i _ _ => decide (i < 32)
  | .evqCfgWrite mbox k _ => decide (k < if mbox then 8 else 32)
  | .cdRegionTilesWrite n g k _ => decide (n < 16 ∧ g < 16 ∧ k < 3)
  | .hubRegionWrite g _ => decide (g < 16)
  | .regionReset g => decide (g < 16)
  | .regionResetDone g => decide (g < 16)
  | .efnBadFrame _ => true
  | .link _ => true
  | .efnAckDue => true
  | .efnReplayTimeout => true
  | .regRead _ => true
  | .regWrite _ => true
  | .bulkRead _ => true
  | .bulkWrite _ => true
  | .doorbell _ => true
  | .timeRead _ => true
  | .timeSet _ => true
  | .bootPush _ => true
  | .event => true
  | .efnLaneLoss l => decide (l < 2)
  | .efnLaneRejoin l => decide (l < 2)
  | .efnLinkDown => true
  | .efnLinkUp => true
  | .ethFrameReceive e _ _ _ => decide (e < 288)
  | .neighborSolicitation => true
  | .pfc => true
  | .pfcPauseExpiry e c => decide (e < 288 ∧ c < 8)
  | .pfcRefresh e c => decide (e < 288 ∧ c < 8)
  | .egressFrameSend e => decide (e < 288)
  | .portCfgWrite p _ => decide (p < 36)
  | .full p => decide (p < 36)
  | .portTrainDone p _ => decide (p < 36)
  | .fastRetrainTimeout p => decide (p < 36)
  | .portLinkUp e => decide (e < 288)
  | .portLinkDown e _ => decide (e < 288)
  | .laserFeedLow p => decide (p < 36)
  | .laserFeedRestored p => decide (p < 36)
  | .portSaWrite e sa r _ => decide (e < 288 ∧ sa < 20 ∧ r < 8)
  | .portSubSecWrite e _ => decide (e < 288)
  | .ptpSync => true
  | .ptpDelayReq => true
  | .ptpSyncTimer e => decide (e < 288)
  | .ptpAnnounceTimer e => decide (e < 288)
  | .ptpDelayTimer e => decide (e < 288)
  | .ptpSyncTimeout => true
  | .ouvRead => true
  | .ouvWrite => true
  | .ouvAtomic => true
  | .moveBegin _ => true
  | .moveCommit => true
  | .moveAbort => true
  | .moveQuery => true
  | .ouvDispatch => true
  | .mcast => true
  | .loanRecall => true
  | .loanRelease => true
  | .resync => true
  | .unreachable => true
  | .ack => true
  | .ackTimer _ => true
  | .hello => true
  | .helloTimer e => decide (e < 272)
  | .neighbourTimeout e => decide (e < 272)
  | .sync => true
  | .ouvResponse => true
  | .ouvTransit => true
  | .transitAge _ => true
  | .ouvRetransmit _ => true
  | .retryLimit _ => true
  | .resetQuietEnd => true
  | .ouvLostClear _ => true
  | .ouvManifest _ => true
  | .manifestHashDone => true
  | .release k => decide (k < 64)
  | .recallDeadline k => decide (k < 64)
  | .resetColdN => true
  | .resetWarmN => true
  | .hubResetWarm => true
  | .hubResetCold => true
  | .warmReset => true
  | .coldReset => true
  | .warmBringup => true
  | .functionReady i _ => decide (i < 6 ∨ (16 ≤ i ∧ i < 100))
  | .trainingFailed i => decide (i < 6 ∨ (16 ≤ i ∧ i < 100))
  | .imageVerify => true
  | .restart => true
  | .apply => true
  | .pwrCdClkWrite n _ => decide (n < 16)
  | .dvfsChangeDone n => decide (n < 16)
  | .domainStop d => clockOk d
  | .domainWake d => clockOk d
  | .timeMark => true
  | .ppsEdge => true
  | .scrub space _ _ => decide (1 ≤ space ∧ space ≤ 3)
  | .correctedRecordFlush => true
  | .errorStoreDrain => true
  | .hubErrInject _ => true
  | .memEraseClear n _ => decide (n < 16)
  | .glarePackageVerify => true
  | .glareStart _ => true
  | .glareAbort => true
  | .glarePointSettled => true
  | .glareTjReached => true
  | .glareDwellEnd => true
  | .glareTemplateRunEnd => true
  | .glareTimeout => true
  | .attestStart _ => true
  | .attestReportDone => true
  | .blow _ _ => true
  | .blowDone => true
  | .secFloorCtlWrite _ _ => true
  | .floorBurnt => true
  | .debugAccess _ _ _ => true
  | .pwrTargetDim => true
  | .dimEntered => true
  | .pwrTargetLit => true
  | .dimLeft => true
  | .inputShutdown => true
  | .inputRestart => true
  | .pwrwarnFall => true
  | .pwrwarnRise => true
  | .eject => true
  | .powerSample _ _ _ => true
  | .thermalSample _ => true
  | .i3cRequest _ => true
  | .lightRestored e => decide (e < 288)
  | .deviceTimeComparator i => decide (i < 32)
  | .glareRunEnd => true

end Sys2Proof
end

