-- ==== Sys2Proof/Safety.lean ====
section
/-! DEFINITION. What holds of every state of a run, and the terms that claims use: invariants, where a tile stands, and what a command leaves
alone. -/
namespace Sys2Proof.Machine

/-! ## Invariants -/

/-- Memory is in its canonical form: addresses strictly rising, and no entry equal to what an unlisted address reads as. -/
def Memory.wf (m : List (Nat × Byte)) : Bool := Sparse.wf memD m

/-- The state's memory is in its canonical form. -/
def State.memOk (s : State) : Bool := Memory.wf s.mem

/-- Every command that waits names units of the package only. -/
def State.queueOk (s : State) : Bool := s.pending.all Instr.wf

/-! ## Tiles -/

/-- Tile t runs the section of context c of region g. -/
def State.runs (s : State) (t g c : Nat) : Prop := t < tileCount ∧ (s.tile t).run = some (g, c)

/-- Tile t runs context c of region g and stands at an instruction of opcode `op`, of `n` words `w` and `w2`, that executes (R124) and has
its reserved bits 0 (R126). -/
structure State.standsAt (s : State) (t g c op : Nat) (w w2 : W64) (n : Nat) : Prop where
  runs : s.runs t g c
  issues : (s.tile t).u.issue = .running
  fetched : (s.tile t).fetch c = .instr w w2 n
  opcode : opOf w = op
  executed : executes ((s.tile t).ctx c) w = true
  clean : reservedSet w w2 = false

/-- Nothing but tile t differs. -/
structure OnlyTile (s u : State) (t : Nat) : Prop where
  rest : u.withTiles s.tiles = s
  others : ∀ j, j ≠ t → u.tile j = s.tile j

/-- Of a tile at most registers, predicates, loop counters, the program counter and the loops of context c differ. -/
structure OnlyRegs (x y : Tile) (c : Nat) : Prop where
  body : (y.withCtxs x.ctxs).withU x.u = x
  units : y.u.withLoops x.u.loops = x.u
  others : ∀ d, d ≠ c → y.ctx d = x.ctx d
  here : (y.ctx c |>.withX (x.ctx c).x |>.withP (x.ctx c).p |>.withLc (x.ctx c).lc |>.withPc (x.ctx c).pc) = x.ctx c

/-- Where no body of a loop ends (R179), the sequencer goes on at word `pc` and leaves loops and counters alone. -/
def GoesOn (x y : Tile) (c pc : Nat) : Prop :=
  (∀ f, x.u.loops.head? = some f → f.stop ≠ pc) → (y.ctx c).pc = pc ∧ y.u.loops = x.u.loops ∧ (y.ctx c).lc = (x.ctx c).lc

/-- Tile t of `u` has taken an instruction of `n` words: x[d] := v, with x0 kept 0, and nothing else but the way to the next word. -/
structure WroteX (s u : State) (t c n d : Nat) (v : W32) : Prop where
  only : OnlyTile s u t
  regs : OnlyRegs (s.tile t) (u.tile t) c
  goes : GoesOn (s.tile t) (u.tile t) c (((s.tile t).ctx c).pc + n)
  x : ∀ j, ((u.tile t).ctx c).xr j = if j = d ∧ d ≠ 0 then v else ((s.tile t).ctx c).xr j
  p : ∀ j, ((u.tile t).ctx c).pr j = ((s.tile t).ctx c).pr j

/-- The same for a predicate: p[d] := v, d not 0. -/
structure WroteP (s u : State) (t c n d : Nat) (v : Bool) : Prop where
  only : OnlyTile s u t
  regs : OnlyRegs (s.tile t) (u.tile t) c
  goes : GoesOn (s.tile t) (u.tile t) c (((s.tile t).ctx c).pc + n)
  x : ∀ j, ((u.tile t).ctx c).xr j = ((s.tile t).ctx c).xr j
  p : ∀ j, ((u.tile t).ctx c).pr j = if j = d then v else ((s.tile t).ctx c).pr j

/-- Tile t of `u` has taken an instruction of `n` words into its units: they become `v`, loops aside, and nothing else changes but the way to
the next word. -/
structure Entered (s u : State) (t c n : Nat) (v : Units) : Prop where
  only : OnlyTile s u t
  body : ((u.tile t).withCtxs (s.tile t).ctxs).withU (s.tile t).u = s.tile t
  units : (u.tile t).u.withLoops v.loops = v
  others : ∀ d, d ≠ c → (u.tile t).ctx d = (s.tile t).ctx d
  here : ((u.tile t).ctx c |>.withLc ((s.tile t).ctx c).lc |>.withPc ((s.tile t).ctx c).pc) = (s.tile t).ctx c
  goes : GoesOn ((s.tile t).withU v) (u.tile t) c (((s.tile t).ctx c).pc + n)

end Sys2Proof.Machine
end

