-- ==== Sys2Proof/Certificates/Slice0/Obligations.lean ====
section
/-! DEFINITION. The statements for the provers. A statement is a conjunction of the parts that stand before it; the docstring of each part says what it states and
which rules of the spec it follows. -/
open Sys2Proof Sys2Proof.Machine

/-- x[n] of a context as a number. -/
def regN (x : Tile) (c n : Nat) : Nat := ((x.ctx c).xr n).toNat

/-- An instruction that issue checks and then sends to the queue of a unit: its form, its opcode, the conditions of its rules on the tile, the
context and its word, and the units with it queued. -/
structure Queued where
  instr : Nat → Instr
  op : Nat
  ok : Tile → Nat → W64 → Prop
  units : Tile → Nat → W64 → Units

/-- Register `o` can be written now (R34, R574): Dim does not close it and its function is ready. -/
def RegOpen (s : State) (o : Nat) : Prop := s.regDim o = false ∧ s.regReady o = true

/-- The scalar operations on two registers (R129): constructor, opcode (Table 4.4), result. -/
def scalarOps : List ((Nat → Instr) × Nat × (W32 → W32 → W32)) :=
  [ (.add, 0x01, fun a b => BitVec.ofNat 32 (a.toNat + b.toNat)), (.sub, 0x02, fun a b => BitVec.ofInt 32 (a.toInt - b.toInt)),
    (.mul, 0x09, fun a b => BitVec.ofNat 32 (a.toNat * b.toNat)), (.and, 0x03, fun a b => a &&& b),
    (.or, 0x04, fun a b => a ||| b), (.xor, 0x05, fun a b => a ^^^ b),
    (.sll, 0x06, fun a b => BitVec.ofNat 32 (a.toNat * 2 ^ (b.toNat % 32))), (.srl, 0x07, fun a b => BitVec.ofNat 32 (a.toNat / 2 ^ (b.toNat % 32))),
    (.sra, 0x08, fun a b => BitVec.ofInt 32 (a.toInt / 2 ^ (b.toNat % 32))),
    (.mins, 0x0A, fun a b => BitVec.ofInt 32 (min a.toInt b.toInt)), (.maxs, 0x0B, fun a b => BitVec.ofInt 32 (max a.toInt b.toInt)),
    (.minu, 0x0C, fun a b => BitVec.ofNat 32 (min a.toNat b.toNat)), (.maxu, 0x0D, fun a b => BitVec.ofNat 32 (max a.toNat b.toNat)) ]

/-- R129: each scalar operation on two registers writes its result to x[DST], and leaves everything else as it was: other registers, every
predicate, the floating-point flags, rings, memory and other tiles. -/
def ScalarRegisterResults : Prop :=
  ∀ e ∈ scalarOps, ∀ (s : State) (t g c : Nat) (w w2 : W64) (n : Nat), s.standsAt t g c e.2.1 w w2 n →
    ∃ u : State, exec (e.1 t) s = .next u ∧
      WroteX s u t c n (fld w 51 47) (e.2.2 (((s.tile t).ctx c).xr (fld w 46 42)) (((s.tile t).ctx c).xr (fld w 41 37)))

/-- The scalar operations with an immediate (R129): constructor, opcode, result from x[SRC1] and IMM. -/
def immediateOps : List ((Nat → Instr) × Nat × (W32 → W32 → W32)) :=
  [ (.addi, 0x10, fun a i => BitVec.ofNat 32 (a.toNat + i.toNat)), (.li, 0x11, fun _ i => i), (.andi, 0x12, fun a i => a &&& i),
    (.ori, 0x13, fun a i => a ||| i) ]

/-- R125, R129: ADDI, LI, ANDI and ORI take IMM from [31:0] of the second word; the program counter advances by 2; nothing else changes. -/
def ScalarImmediateResults : Prop :=
  ∀ e ∈ immediateOps, ∀ (s : State) (t g c : Nat) (w w2 : W64) (n : Nat), s.standsAt t g c e.2.1 w w2 n →
    n = 2 ∧ ∃ u : State, exec (e.1 t) s = .next u ∧ WroteX s u t c 2 (fld w 51 47) (e.2.2 (((s.tile t).ctx c).xr (fld w 46 42)) (w2.extractLsb' 0 32))

/-- R129: SELX writes x[SRC1] when p[PSEL] is 1 and x[SRC2] otherwise, and nothing else changes. -/
def SelxResults : Prop :=
  ∀ (s : State) (t g c : Nat) (w w2 : W64) (n : Nat), s.standsAt t g c 0x1C w w2 n →
    ∃ u : State, exec (.selx t) s = .next u ∧ WroteX s u t c n (fld w 51 47)
      (if ((s.tile t).ctx c).pr (fld w 36 34) = true then ((s.tile t).ctx c).xr (fld w 46 42) else ((s.tile t).ctx c).xr (fld w 41 37))

/-- R127, R131, R132: MFS writes the special value of Table 4.6 that SEL names; LDX writes the 4 bytes at HEAD + x[XO] of its ring, once TAIL has
passed them, and does not pop; NOP changes nothing but the program counter. -/
def SpecialValuesAndLoads : Prop :=
  (∀ (s : State) (t g c : Nat) (w w2 : W64) (n : Nat) (v : W32), s.standsAt t g c 0x14 w w2 n → mfsValue s t g c (fld w 46 39) = some v →
    ∃ u : State, exec (.mfs t) s = .next u ∧ WroteX s u t c n (fld w 51 47) v) ∧
  (∀ (s : State) (t g c : Nat) (w w2 : W64) (n : Nat), s.standsAt t g c 0x15 w w2 n →
    let r := (s.tile t).ring c (fld w 46 43)
    let o := (((s.tile t).ctx c).xr (fld w 42 38)).toNat
    r.on = true → o % 4 = 0 → o + 4 ≤ r.size → o + 4 ≤ r.used →
    ∃ u : State, exec (.ldx t) s = .next u ∧ WroteX s u t c n (fld w 51 47) (BitVec.ofNat 32 (leNat ((s.tile t).rdRing r o 4)))) ∧
  (∀ (s : State) (t g c : Nat) (w w2 : W64) (n : Nat), s.standsAt t g c 0x00 w w2 n →
    ∃ u : State, exec (.nop t) s = .next u ∧ OnlyTile s u t ∧ OnlyRegs (s.tile t) (u.tile t) c ∧
      GoesOn (s.tile t) (u.tile t) c (((s.tile t).ctx c).pc + n) ∧
      (∀ j, ((u.tile t).ctx c).xr j = ((s.tile t).ctx c).xr j) ∧ ∀ j, ((u.tile t).ctx c).pr j = ((s.tile t).ctx c).pr j)

/-- R130: the comparison that COND selects. -/
def comparison : Nat → Option (W32 → W32 → Prop)
  | 0 => some (fun a b => a = b)
  | 1 => some (fun a b => a ≠ b)
  | 2 => some (fun a b => a.toInt < b.toInt)
  | 3 => some (fun a b => b.toInt ≤ a.toInt)
  | 4 => some (fun a b => a.toNat < b.toNat)
  | 5 => some (fun a b => b.toNat ≤ a.toNat)
  | _ => none

/-- R130: the operation that FN selects. -/
def logical : Nat → Option (Bool → Bool → Bool)
  | 0 => some (fun a b => a && b)
  | 1 => some (fun a b => a || b)
  | 2 => some (fun a b => xor a b)
  | 3 => some (fun a b => a && !b)
  | _ => none

/-- R130: PCMP, PCMPI and PLOG write p[PD] for every COND and FN that is not reserved and every PD but 0, and nothing else but the program
counter; PD = 0 and the reserved codes raise ILLEGAL_FIELD. -/
def PredicateResults : Prop :=
  ∀ (s : State) (t g c : Nat) (w w2 : W64) (n : Nat),
    let y := (s.tile t).ctx c
    let pd := fld w 51 49
    (s.standsAt t g c 0x18 w w2 n → match comparison (fld w 38 36) with
      | some f => if pd = 0 then exec (.pcmp t) s = .next (s.tileExc t y.pc Exc.illegalField)
        else ∃ u v, exec (.pcmp t) s = .next u ∧ WroteP s u t c n pd v ∧ (v = true ↔ f (y.xr (fld w 48 44)) (y.xr (fld w 43 39)))
      | none => exec (.pcmp t) s = .next (s.tileExc t y.pc Exc.illegalField)) ∧
    (s.standsAt t g c 0x1A w w2 n → match comparison (fld w 38 36) with
      | some f => if pd = 0 then exec (.pcmpi t) s = .next (s.tileExc t y.pc Exc.illegalField)
        else ∃ u v, exec (.pcmpi t) s = .next u ∧ WroteP s u t c n pd v ∧ (v = true ↔ f (y.xr (fld w 48 44)) (w2.extractLsb' 0 32))
      | none => exec (.pcmpi t) s = .next (s.tileExc t y.pc Exc.illegalField)) ∧
    (s.standsAt t g c 0x19 w w2 n → match logical (fld w 42 40) with
      | some f => if pd = 0 then exec (.plog t) s = .next (s.tileExc t y.pc Exc.illegalField)
        else ∃ u : State, exec (.plog t) s = .next u ∧ WroteP s u t c n pd (f (y.pr (fld w 48 46)) (y.pr (fld w 45 43)))
      | none => exec (.plog t) s = .next (s.tileExc t y.pc Exc.illegalField))

/-- The entry of a move: its word, its word's place, its byte count and the register values that it carries. -/
def moveEntry (x : Tile) (c : Nat) (w : W64) (n : Nat) (vals : List W32) : MoveOp := ⟨w, (x.ctx c).pc, n, 0, vals⟩

/-- Table 5.1 with R162-R164, R172-R174, R177: the instructions of the ring queue (depth 4), the send queue (4), the receive queue (4) and the
steer unit (2). Fields as in Table 5.3. -/
def moveQueued : List Queued :=
  [ ⟨fun t => .push t .issue, 0x40, fun x c w => (x.ring c (fld w 51 48)).on = true ∧ fld w 47 43 ≤ 24 ∧ x.u.ringQ.length < 4,
      fun x c w => x.u.withRingQ (x.u.ringQ ++ [moveEntry x c w 0 ((List.range 8).map (fun i => (x.ctx c).xr (fld w 47 43 + i)))])⟩,
    ⟨fun t => .pop t .issue, 0x41, fun x c w => let r := x.ring c (fld w 51 48); let n := regN x c (fld w 47 43)
        r.on = true ∧ n % 32 = 0 ∧ n ≤ r.size ∧ r.isStatic = false ∧ n ≠ 0 ∧ x.u.ringQ.length < 4,
      fun x c w => x.u.withRingQ (x.u.ringQ ++ [moveEntry x c w (regN x c (fld w 47 43)) []])⟩,
    ⟨fun t => .rcopy t .issue, 0x42, fun x c w => let rs := x.ring c (fld w 51 48); let rd := x.ring c (fld w 47 44); let n := regN x c (fld w 43 39)
        rs.on = true ∧ rd.on = true ∧ rs.fmt = rd.fmt ∧ n % 32 = 0 ∧ rs.isStatic = false ∧ rd.isStream = true ∧ n ≠ 0 ∧ x.u.ringQ.length < 4,
      fun x c w => x.u.withRingQ (x.u.ringQ ++ [moveEntry x c w (regN x c (fld w 43 39)) []])⟩,
    ⟨.send, 0x50, fun x c w => let r := x.ring c (fld w 51 48); let n := regN x c (fld w 43 39)
        (x.ctx c).routeOn (fld w 47 44) = true ∧ r.on = true ∧ n % 64 = 0 ∧ (bit w 38 = true → r.isStatic = false) ∧
          (bit w 38 = false → n ≤ r.size) ∧ n ≠ 0 ∧ x.u.sendQ.length < 4,
      fun x c w => x.u.withSendQ (x.u.sendQ ++ [moveEntry x c w (regN x c (fld w 43 39)) []])⟩,
    ⟨fun t => .sendc t .issue, 0x51, fun x c w => (x.ctx c).routeOn (fld w 51 48) = true ∧ x.u.sendQ.length < 4,
      fun x c w => x.u.withSendQ (x.u.sendQ ++ [moveEntry x c w 0 [(x.ctx c).xr (fld w 47 43)]])⟩,
    ⟨fun t => .recv t .issue, 0x52, fun x c w => let rd := x.ring c (fld w 47 44); let n := regN x c (fld w 43 39)
        ((x.ctx c).queue (fld w 51 48)).on = true ∧ (bit w 38 = true → (x.ctx c).routeOn (fld w 37 34) = true) ∧ rd.on = true ∧ n % 64 = 0 ∧
          rd.isStream = true ∧ n ≠ 0 ∧ x.u.recvQ.length < 4,
      fun x c w => x.u.withRecvQ (x.u.recvQ ++ [moveEntry x c w (regN x c (fld w 43 39)) []])⟩,
    ⟨fun t => .steer t .issue, 0x54, fun x c w => let n := regN x c (fld w 43 39)
        ((x.ctx c).queue (fld w 51 48)).on = true ∧ ((x.ctx c).queue (fld w 47 44)).on = true ∧ n % 64 = 0 ∧ n ≠ 0 ∧ x.u.steerQ.length < 2,
      fun x c w => x.u.withSteerQ (x.u.steerQ ++ [moveEntry x c w (regN x c (fld w 43 39)) []])⟩ ]

/-- R156, R162-R164, R172-R174, R177: PUSH, POP, RCOPY, SEND, SENDC, RECV and STEER that break no rule go to the end of their queue when it has
room, with the registers they read; nothing else changes, and the sequencer goes on. -/
def Obligations.MoveInstructionsQueue : Prop :=
  ∀ e ∈ moveQueued, ∀ (s : State) (t g c : Nat) (w w2 : W64) (n : Nat), s.standsAt t g c e.op w w2 n → e.ok (s.tile t) c w →
    ∃ u : State, exec (e.instr t) s = .next u ∧ Entered s u t c n (e.units (s.tile t) c w)

/-- R133-R136: what an MMA that issue accepts meets, with its depth `k`: KSRC's reserved bits are 0; K is at most 65535; both formats are of the
nine operand formats, and the rings are enabled and hold them; offsets are multiples of 32 B and the panels lie in their rings; POP takes no
STATIC ring and no offset; an extent mask lies in range; four mask registers exist. -/
structure MmaOk (x : Tile) (c : Nat) (w : W64) (k : Nat) : Prop where
  depth : k = if bit w 15 then regN x c (fld w 4 0) else fld w 11 0 + 1
  kField : bit w 15 = true → fld w 11 5 = 0
  kRange : bit w 15 = true → k ≤ 65535
  formats : fld w 50 47 < 9 ∧ fld w 46 43 < 9
  on : (x.ring c (fld w 42 39)).on = true ∧ (x.ring c (fld w 38 35)).on = true
  ringFmt : (x.ring c (fld w 42 39)).fmt = fld w 50 47 ∧ (x.ring c (fld w 38 35)).fmt = fld w 46 43
  aligned : regN x c (fld w 34 30) % 32 = 0 ∧ regN x c (fld w 29 25) % 32 = 0
  range : regN x c (fld w 34 30) + ceilDiv k 8 * aBlock (bit w 51) (fld w 50 47) ≤ (x.ring c (fld w 42 39)).size ∧
    regN x c (fld w 29 25) + ceilDiv k 8 * bBlock (bit w 51) (fld w 46 43) ≤ (x.ring c (fld w 38 35)).size
  popA : bit w 17 = true → (x.ring c (fld w 42 39)).isStatic = false ∧ regN x c (fld w 34 30) = 0
  popB : bit w 16 = true → (x.ring c (fld w 38 35)).isStatic = false ∧ regN x c (fld w 29 25) = 0
  mask1 : fld w 24 23 = 1 → extentsOk (bit w 51) (regN x c (fld w 22 18) % 65536) (regN x c (fld w 22 18) / 65536) = true
  mask2 : fld w 24 23 = 2 → fld w 22 18 ≤ 28
  room : x.u.arrayQ.length < 2

/-- R133, R136: MMA goes to the end of the array queue (depth 2) with K, its offsets and its masks: all ones for MSRC 0, and for MSRC 2 what
four registers hold. -/
def MmaQueues : Prop :=
  ∀ (s : State) (t g c : Nat) (w w2 : W64) (n k : Nat), s.standsAt t g c 0x20 w w2 n → MmaOk (s.tile t) c w k →
    ∃ u op, exec (.mma t) s = .next u ∧
      Entered s u t c n ((s.tile t).u |>.withArrayQ ((s.tile t).u.arrayQ ++ [op]) |>.withSeqNo ((s.tile t).u.seqNo + 1)) ∧
      op.word = w ∧ op.k = k ∧ op.offA = regN (s.tile t) c (fld w 34 30) ∧ op.offB = regN (s.tile t) c (fld w 29 25) ∧
      op.started = false ∧ op.block = 0 ∧ op.seq = (s.tile t).u.seqNo ∧
      (fld w 24 23 = 0 → op.rowMask = BitVec.allOnes 64 ∧ op.colMask = BitVec.allOnes 64) ∧
      (fld w 24 23 = 2 → op.rowMask = BitVec.ofNat 64 (regN (s.tile t) c (fld w 22 18) + 2 ^ 32 * regN (s.tile t) c (fld w 22 18 + 1)) ∧
        op.colMask = BitVec.ofNat 64 (regN (s.tile t) c (fld w 22 18 + 2) + 2 ^ 32 * regN (s.tile t) c (fld w 22 18 + 3)))

/-- R145-R150: what an RFU instruction that issue accepts meets: BSEL and SUB as Table 4.13 allows them for the function; the rings that it uses are
enabled and hold floating formats, the c ring of SMX binary32; at most 4096 rows; offsets are multiples of 32 B and the rows and slots lie in their
rings; POPA and POPB take no STATIC ring and no offset; state slots stand in a STATIC ring. -/
structure RfuOk (x : Tile) (c : Nat) (w : W64) : Prop where
  bsel : (rfuBsel (fld w 51 46)).contains (fld w 27 26) = true
  sub : rfuSubOk (fld w 51 46) (fld w 5 0) = true
  ringA : (x.ring c (fld w 45 42)).on = true ∧ (x.ring c (fld w 45 42)).fmt ≤ 6
  ringD : (x.ring c (fld w 25 22)).on = true ∧ (x.ring c (fld w 25 22)).fmt ≤ 6
  ringB : fld w 27 26 = 1 → (x.ring c (fld w 36 33)).on = true ∧ (x.ring c (fld w 36 33)).fmt ≤ 6
  ringC : fld w 51 46 = 0x03 ∨ 0x12 ≤ fld w 51 46 → (x.ring c (fld w 16 13)).on = true ∧ (x.ring c (fld w 16 13)).fmt ≤ 6
  smx : fld w 51 46 = 0x12 → (x.ring c (fld w 5 0 % 16)).on = true ∧ (x.ring c (fld w 5 0 % 16)).fmt = 0
  rows : regN x c (fld w 21 17) ≠ 0 ∧ regN x c (fld w 21 17) ≤ 4096
  alignA : regN x c (fld w 41 37) % 32 = 0
  alignB : fld w 27 26 = 1 → regN x c (fld w 32 28) % 32 = 0
  alignC : fld w 51 46 = 0x03 ∨ 0x12 ≤ fld w 51 46 → regN x c (fld w 12 8) % 32 = 0
  rangeA : regN x c (fld w 41 37) + regN x c (fld w 21 17) * fmtBytes (x.ring c (fld w 45 42)).fmt 64 ≤ (x.ring c (fld w 45 42)).size
  rangeB : fld w 27 26 = 1 →
    regN x c (fld w 32 28) + regN x c (fld w 21 17) * fmtBytes (x.ring c (fld w 36 33)).fmt 64 ≤ (x.ring c (fld w 36 33)).size
  rangeC : fld w 51 46 = 0x03 →
    regN x c (fld w 12 8) + regN x c (fld w 21 17) * fmtBytes (x.ring c (fld w 16 13)).fmt 64 ≤ (x.ring c (fld w 16 13)).size
  slots : 0x12 ≤ fld w 51 46 →
    regN x c (fld w 12 8) + 8 * regN x c (fld w 21 17) ≤ (x.ring c (fld w 16 13)).size ∧ (x.ring c (fld w 16 13)).isStatic = true
  popA : bit w 7 = true → (x.ring c (fld w 45 42)).isStatic = false ∧ regN x c (fld w 41 37) = 0
  popB : bit w 6 = true → fld w 27 26 = 1 → (x.ring c (fld w 36 33)).isStatic = false ∧ regN x c (fld w 32 28) = 0
  mask : 0x13 ≤ fld w 51 46 → 32 ≤ fld w 5 0 → fld w 5 0 % 32 ≤ 30
  room : x.u.rfuQ.length < 4

/-- R152: what a SELECT that issue accepts meets. -/
structure SelectOk (x : Tile) (c : Nat) (w : W64) (ra rb rd : Ring) (n : Nat) : Prop where
  rings : ra = x.ring c (fld w 51 48) ∧ rb = x.ring c (fld w 47 44) ∧ rd = x.ring c (fld w 43 40)
  count : n = regN x c (fld w 39 35) ∧ n ≠ 0 ∧ n % 32 = 0
  on : ra.on = true ∧ rb.on = true ∧ rd.on = true
  fmt : ra.fmt = rb.fmt ∧ ra.fmt = rd.fmt
  range : n ≤ ra.size ∧ n ≤ rb.size ∧ n ≤ rd.size
  modes : ra.isStatic = false ∧ rb.isStatic = false ∧ rd.isStream = true
  room : x.u.rfuQ.length < 4

/-- R145-R152: RFU and SELECT go to the end of the RFU queue (depth 4) with their row count or byte count, the offsets and the broadcast
scalar that they read, and SELECT with its predicate. -/
def RowInstructionsQueue : Prop :=
  ∀ (s : State) (t g c : Nat) (w w2 : W64) (n : Nat),
    let x := s.tile t
    (s.standsAt t g c 0x28 w w2 n → RfuOk x c w → ∃ u op, exec (.rfu t) s = .next u ∧
      Entered s u t c n (x.u.withRfuQ (x.u.rfuQ ++ [op])) ∧ op.select = false ∧ op.word = w ∧ op.n = regN x c (fld w 21 17) ∧ op.row = 0 ∧
      op.offA = regN x c (fld w 41 37) ∧ op.offB = regN x c (fld w 32 28) ∧ op.offC = regN x c (fld w 12 8) ∧
      op.scalar = regN x c (fld w 32 28)) ∧
    (∀ ra rb rd k, s.standsAt t g c 0x1D w w2 n → SelectOk x c w ra rb rd k → ∃ u op, exec (.select t .issue) s = .next u ∧
      Entered s u t c n (x.u.withRfuQ (x.u.rfuQ ++ [op])) ∧ op.select = true ∧ op.word = w ∧ op.n = k ∧
      op.psel = (x.ctx c).pr (fld w 34 32))

/-- R82, R141-R144, R156: SWAP, DRAIN and FILL go to the end of the accumulator control queue (depth 4); DRAIN with its reserved codes
unused. -/
def accQueued : List Queued :=
  [ ⟨.swap, 0x21, fun x _ _ => x.u.accQ.length < 4, fun x c w => x.u |>.withAccQ (x.u.accQ ++ [⟨.swap, w, (x.ctx c).pc, x.u.seqNo⟩]) |>.withSeqNo (x.u.seqNo + 1)⟩,
    ⟨.drain, 0x22, fun x _ w => x.u.accQ.length < 4 ∧ (bit w 20 = true → fld w 51 21 = 0) ∧
        (bit w 20 = false → fld w 47 44 < 10 ∧ fld w 43 42 < 3 ∧ fld w 41 38 < 9),
      fun x c w => x.u |>.withAccQ (x.u.accQ ++ [⟨.drain, w, (x.ctx c).pc, x.u.seqNo⟩]) |>.withSeqNo (x.u.seqNo + 1)⟩,
    ⟨.fill, 0x23, fun x _ _ => x.u.accQ.length < 4, fun x c w => x.u |>.withAccQ (x.u.accQ ++ [⟨.fill, w, (x.ctx c).pc, x.u.seqNo⟩]) |>.withSeqNo (x.u.seqNo + 1)⟩ ]

/-- R156, R165, R170: STRM and REARM go to the end of the stream queue (depth 8). -/
def streamQueued : List Queued :=
  [ ⟨.strm, 0x48, fun x c w => let b := (x.ctx c).bind (fld w 51 48); let r := x.ring c (fld w 47 44); let n := regN x c (fld w 38 34)
        b.bound = true ∧ (if bit w 33 then b.wr else b.rd) = true ∧ r.on = true ∧ r.isStream = true ∧ regN x c (fld w 43 39) % 32 = 0 ∧
          n % 32 = 0 ∧ n ≤ 1048576 ∧ (bit w 32 = true → bit w 33 = false ∧ (x.ctx c).routeOn (fld w 31 28) = true ∧ n % 64 = 0) ∧ n ≠ 0 ∧
          x.u.strmQ.length < 8,
      fun x c w => x.u |>.withStrmQ (x.u.strmQ ++ [⟨false, w, (x.ctx c).pc, regN x c (fld w 43 39), regN x c (fld w 38 34), 0, 0, x.u.seqNo⟩])
        |>.withSeqNo (x.u.seqNo + 1)⟩,
    ⟨fun t => .rearm t .issue, 0x49, fun x c w => ((x.ctx c).bind (fld w 51 48)).bound = true ∧
          (regN x c (fld w 47 43) + 2 ^ 32 * regN x c (fld w 42 38)) % 32 = 0 ∧ x.u.strmQ.length < 8,
      fun x c w => x.u |>.withStrmQ (x.u.strmQ ++
          [⟨true, w, (x.ctx c).pc, 0, 0, 0, regN x c (fld w 47 43) + 2 ^ 32 * regN x c (fld w 42 38), x.u.seqNo⟩]) |>.withSeqNo (x.u.seqNo + 1)⟩ ]

/-- SWAP, DRAIN, FILL, STRM and REARM that break no rule go to the end of their queue when it has room; nothing else changes. -/
def AccumulatorAndStreamInstructionsQueue : Prop :=
  ∀ e ∈ accQueued ++ streamQueued, ∀ (s : State) (t g c : Nat) (w w2 : W64) (n : Nat), s.standsAt t g c e.op w w2 n → e.ok (s.tile t) c w →
    ∃ u : State, exec (e.instr t) s = .next u ∧ Entered s u t c n (e.units (s.tile t) c w)

/-- A ring whose pointers lie in it, TAIL not ahead of HEAD by more than its size, with no range reserved. -/
structure RingOk (r : Ring) : Prop where
  head : r.head < r.size
  tail : r.tail < r.size
  same : r.headWrap = r.tailWrap → r.head ≤ r.tail
  wrapped : r.headWrap ≠ r.tailWrap → r.tail ≤ r.head
  free : r.resv = []

/-- R102, R158: bytes appended to a ring that has room for them stand after the bytes that it held, which stay; bytes popped leave from its
front, and the bytes behind them come to the front. -/
def RingsAppendAndPop : Prop :=
  (∀ (x : Tile) (p : Producer) (c ri : Nat) (bs : List Byte), RingOk (x.ring c ri) → (x.ring c ri).used + bs.length ≤ (x.ring c ri).size →
    let r := x.ring c ri
    let y := x.append p c ri bs
    let q := y.ring c ri
    RingOk q ∧ q.cfg = r.cfg ∧ q.used = r.used + bs.length ∧ y.rdRing q r.used bs.length = bs ∧
      ∀ o n, o + n ≤ r.used → y.rdRing q o n = x.rdRing r o n) ∧
  (∀ (x : Tile) (c ri n : Nat), RingOk (x.ring c ri) → n ≤ (x.ring c ri).used →
    let r := x.ring c ri
    let y := x.popRing c ri n
    let q := y.ring c ri
    RingOk q ∧ q.cfg = r.cfg ∧ q.used = r.used - n ∧ ∀ o k, n + o + k ≤ r.used → y.rdRing q o k = x.rdRing r (n + o) k)

/-- R162-R164: at the head of the ring queue PUSH appends its eight registers once there is room for 32 B; POP pops N bytes once the ring holds
them; RCOPY moves a chunk of at most 256 B once the source holds it and the destination has room, and leaves its queue with the last. Nothing but
the tile's rings, its scratchpad and the ring queue changes. -/
def RingInstructionsMoveBytes : Prop :=
  ∀ (s : State) (t g c : Nat) (m : MoveOp) (rest : List MoveOp), s.runs t g c → (s.tile t).u.ringQ = m :: rest →
    let x := s.tile t
    let w := m.word
    (opOf w = 0x40 → 32 ≤ (x.ring c (fld w 51 48)).room →
      exec (.push t .unit) s = .next (s.setTile t ((x.append .ring c (fld w 51 48) (m.vals.flatMap (fun v => toLe 4 v.toNat))).withU (x.u.withRingQ rest)))) ∧
    (opOf w = 0x41 → m.n ≤ (x.ring c (fld w 51 48)).used →
      exec (.pop t .unit) s = .next (s.setTile t ((x.popRing c (fld w 51 48) m.n).withU (x.u.withRingQ rest)))) ∧
    (∀ k, opOf w = 0x42 → k = min 256 (m.n - m.done) → k ≤ (x.ring c (fld w 47 44)).room → k ≤ (x.ring c (fld w 51 48)).used →
      exec (.rcopy t .unit) s = .next (s.setTile t
        ((((x.append .ring c (fld w 47 44) (x.rdRing (x.ring c (fld w 51 48)) 0 k)).popRing c (fld w 51 48) k)).withU
          (x.u.withRingQ (if m.done + k < m.n then m.withDone (m.done + k) :: rest else rest)))))

/-- The word of a route after a token has left on it: one credit less, the next sequence number (R176, R202). -/
def routeAfter (v : W64) : W64 := setFld (setFld v 4 0 (fld v 4 0 - 1)) 53 48 ((fld v 53 48 + 1) % 64)

/-- The tokens on the mesh after one has left tile t on route r of context c (R25, R176, R201, R202): it is addressed by the route, with its
sequence number, the section's epoch and its region, and comes by the transit entries as far as its receiving tile or the first die-edge queue;
where an entry is missing it is on the mesh no more. -/
def flightAfter (s : State) (t g c r : Nat) (control : Bool) (payload : List Byte) : List Flight :=
  let v := ((s.tile t).ctx c).route r
  let k : Token := ⟨control, c, fld v 14 9, fld v 53 48, (s.sec g c).epoch % 65536, g, payload, false⟩
  match s.leg c (fld v 14 9) maxHops t with
  | .stray _ => s.flight
  | .home d _ => s.flight ++ [⟨t, c, r, fld v 43 32, k, d, none, 0⟩]
  | .edge d p => s.flight ++ [⟨t, c, r, fld v 43 32, k, d, some (d, p), s.nextTurn⟩]

/-- Another tile `j` after a token has left tile t on route r: it counts the token if it drops it for want of a transit entry, and is else as it
was (R201). -/
def OthersAfter (s u : State) (t c r : Nat) : Prop :=
  ∀ j, j ≠ t → u.tile j = match s.leg c (fld (((s.tile t).ctx c).route r) 14 9) maxHops t with
    | .stray d => if d = j then (s.tile j).stray else s.tile j
    | _ => s.tile j

/-- R25, R172, R173, R176, R202: the next token of SEND leaves once its 64 bytes lie in the ring, the route has a credit and the first die-edge
queue of its path has room: it joins the tokens on the mesh, takes the credit, and with POP = 1 its bytes leave the ring; SENDC sends one control
token that holds its register. -/
def TokensLeave : Prop :=
  ∀ (s : State) (t g c : Nat) (m : MoveOp) (rest : List MoveOp), s.runs t g c → (s.tile t).u.sendQ = m :: rest →
    let x := s.tile t
    let w := m.word
    let next := if m.done + 64 < m.n then m.withDone (m.done + 64) :: rest else rest
    let off := if bit w 38 then 0 else m.done
    (opOf w = 0x50 → off + 64 ≤ (x.ring c (fld w 51 48)).used → (x.ctx c).routeCredit (fld w 47 44) ≠ 0 → s.linkFull t c (fld w 47 44) 1 = false →
      ∃ u : State, exec (.tokenSend t) s = .next u ∧
        u.flight = flightAfter s t g c (fld w 47 44) false (x.rdRing (x.ring c (fld w 51 48)) off 64) ∧
        (u.withFlight s.flight).withTiles s.tiles = s ∧ OthersAfter s u t c (fld w 47 44) ∧
        (u.tile t).u = x.u.withSendQ next ∧ (u.tile t).spad = x.spad ∧
        ((u.tile t).ctx c).route (fld w 47 44) = routeAfter ((x.ctx c).route (fld w 47 44)) ∧
        (u.tile t).ring c (fld w 51 48) = if bit w 38 then (x.ring c (fld w 51 48)).pop 64 else x.ring c (fld w 51 48)) ∧
    (opOf w = 0x51 → (x.ctx c).routeCredit (fld w 51 48) ≠ 0 → s.linkFull t c (fld w 51 48) 1 = false →
      ∃ u : State, exec (.sendc t .unit) s = .next u ∧
        u.flight = flightAfter s t g c (fld w 51 48) true (slice (m.vals.flatMap (fun v => toLe 4 v.toNat)) 0 64) ∧
        (u.withFlight s.flight).withTiles s.tiles = s ∧ OthersAfter s u t c (fld w 51 48) ∧
        (u.tile t).u = x.u.withSendQ rest ∧ (u.tile t).spad = x.spad ∧
        ((u.tile t).ctx c).route (fld w 51 48) = routeAfter ((x.ctx c).route (fld w 51 48)))

/-- The token that a dequeue takes from queue `qi` of context c of tile t (R176, R220): it leaves its queue, and unless it came back from the spill
segment one credit goes back to its route's sender. -/
def TookToken (s u : State) (t c qi : Nat) : Prop :=
  let q := ((s.tile t).ctx c).queue qi
  let src := fld q.cfg 43 32
  let r := fld q.cfg 47 44
  (u.tile t).withCtxs (s.tile t).ctxs = s.tile t ∧ (u.withCredits s.credits).withTiles s.tiles = s ∧ (∀ j, j ≠ t → u.tile j = s.tile j) ∧
  (∀ d, (u.tile t).ctx d = if d = c then ((s.tile t).ctx c).setQueue qi (match q.front with
    | some _ => (q.withFront none : Queue).settle
    | none => q.withEntries (q.entries.drop 1)) else (s.tile t).ctx d) ∧
  u.credits = match q.front with
    | some _ => s.credits
    | none => s.credits ++ [⟨src, c, r, t, fld (((s.tile src).ctx c).route r) 14 9⟩]

/-- R174-R176: RECV takes the data token at the head of its queue once its ring has 64 B of room and, with RELAY, the relay route a credit and
its first die-edge queue room: the
64 bytes are appended to the ring, and with RELAY a copy leaves on the route. RECVC, at issue, takes the control token at the head and writes
bytes 0-3 of its payload to x[DST]. -/
def TokensAreTaken : Prop :=
  (∀ (s : State) (t g c : Nat) (m : MoveOp) (rest : List MoveOp) (k : Token), s.runs t g c → (s.tile t).u.recvQ = m :: rest →
    let x := s.tile t
    let w := m.word
    ((x.ctx c).queue (fld w 51 48)).head = some k → k.control = false → k.poison = false → 64 ≤ (x.ring c (fld w 47 44)).room →
    (bit w 38 = true → (x.ctx c).routeCredit (fld w 37 34) ≠ 0 ∧ s.linkFull t c (fld w 37 34) 1 = false) →
    ∃ u : State, TookToken (s.setTile t ((x.append .recv c (fld w 47 44) k.payload).withU
        (x.u.withRecvQ (if m.done + 64 < m.n then m.withDone (m.done + 64) :: rest else rest)))) u t c (fld w 51 48) ∧
      exec (.recv t .unit) s = .next (if bit w 38 then u.sendToken t g c (fld w 37 34) false k.payload else u)) ∧
  (∀ (s : State) (t g c : Nat) (w w2 : W64) (n : Nat) (k : Token), s.standsAt t g c 0x53 w w2 n →
    (((s.tile t).ctx c).queue (fld w 46 43)).on = true → (((s.tile t).ctx c).queue (fld w 46 43)).head = some k → k.control = true → k.poison = false →
    ∃ v u, TookToken s v t c (fld w 46 43) ∧ exec (.recvc t) s = .next u ∧
      WroteX v u t c n (fld w 51 47) (BitVec.ofNat 32 (leAt k.payload 0 4)))

/-- R177, R178: the value of a control token steers to a bound route, to an enabled ring in STREAM mode, or nowhere. -/
def SteersTo (y : TileCtx) (w : W64) (v : Nat) : Prop :=
  v ≤ 3 ∧ (v = 0 → y.routeOn (fld w 38 35) = true) ∧ (v = 1 → y.routeOn (fld w 34 31) = true) ∧
    (v = 2 → (y.ring (fld w 30 27)).on = true ∧ (y.ring (fld w 30 27)).isStream = true)

/-- R177, R208: the steer unit pairs the control token and the data token at the heads of its queues when their sequence numbers are equal
and the value steers somewhere, and keeps the control value; it then passes the pair on as the value directs: to route RTA or RTB with a credit and room
in its first die-edge queue, to ring RING_L with 64 B of room,
or nowhere, counted. Both tokens leave their queues. -/
def SteerPassesPairs : Prop :=
  ∀ (s : State) (t g c : Nat) (m : MoveOp) (rest : List MoveOp) (k d : Token), s.runs t g c → (s.tile t).u.steerQ = m :: rest →
    let x := s.tile t
    let w := m.word
    ((x.ctx c).queue (fld w 51 48)).head = some k → ((x.ctx c).queue (fld w 47 44)).head = some d → k.control = true → d.control = false →
    (x.u.pair = none → k.seq = d.seq → k.poison = true ∨ SteersTo (x.ctx c) w (leAt k.payload 0 4) →
      exec (.steerPairForm t) s = .next (s.setTile t (x.withU (x.u |>.withSlot none |>.withPair (some (leAt k.payload 0 4)))))) ∧
    (∀ v, x.u.pair = some v → k.poison = false → d.poison = false →
      (∀ r, (v = 0 ∧ r = fld w 38 35 ∨ v = 1 ∧ r = fld w 34 31) → (x.ctx c).routeOn r = true → (x.ctx c).routeCredit r ≠ 0 → s.linkFull t c r 1 = false →
        exec (.steer t .unit) s = .next ((steerDone s t c).sendToken t g c r false d.payload)) ∧
      (v = 2 → (x.ring c (fld w 30 27)).on = true → (x.ring c (fld w 30 27)).isStream = true → 64 ≤ (x.ring c (fld w 30 27)).room →
        exec (.steer t .unit) s = .next (steerDone (s.setTile t (x.append .steer c (fld w 30 27) d.payload)) t c)) ∧
      (v = 3 → ∃ u : State, exec (.steer t .unit) s = .next u ∧
        fld (u.tile t).steerDrop 31 0 = min (fld x.steerDrop 31 0 + 1) 0xFFFFFFFF ∧ u.flight = s.flight ∧ (u.tile t).u.pair = none))

/-- R179-R181: a LOOP with legal fields sets its counter to 0 and takes its trip count from IMM, from x[XT], or from the length rounded up to
steps and limited by IMM. With a count above 0 its body is entered, which ends BODY words after the LOOP; with 0 the sequencer goes on after
the body. -/
def LoopsEnterTheirBody : Prop :=
  ∀ (s : State) (t g c : Nat) (w w2 : W64) (n : Nat), s.standsAt t g c 0x58 w w2 n →
    let x := s.tile t
    let pc := (x.ctx c).pc
    let lc := fld w 51 50
    let stop := pc + 2 + fld w 47 36
    let trips := if fld w 49 48 = 0 then fld w2 31 0 else if fld w 49 48 = 1 then regN x c (fld w 25 21)
      else min (fld w2 31 0) (ceilDiv ((Sparse.get (fun _ => (0 : W32)) (s.sec g c).lens (fld w 35 34)).toNat) (fld w 31 26 + 1))
    fld w 47 36 ≠ 0 → fld w 49 48 ≠ 3 → (fld w 49 48 = 1 → fld w2 31 0 = 0) → (bit w 32 = true → fld w 49 48 = 2) →
    (∀ f ∈ x.u.loops, f.lc ≠ lc) → x.u.loops.length < 4 → (∀ f, x.u.loops.head? = some f → stop ≤ f.stop) →
    (trips ≠ 0 → ∃ u f, exec (.loop t) s = .next u ∧ OnlyTile s u t ∧ (u.tile t).u.loops = f :: x.u.loops ∧ f.lc = lc ∧ f.start = pc + 2 ∧
      f.stop = stop ∧ f.trips = trips ∧ ((u.tile t).ctx c).pc = pc + 2 ∧ ((u.tile t).ctx c).lcr lc = 0 ∧
      ∀ j, ((u.tile t).ctx c).xr j = (x.ctx c).xr j) ∧
    (trips = 0 → ∃ u : State, exec (.loop t) s = .next u ∧ OnlyTile s u t ∧ GoesOn x (u.tile t |>.updCtx c (fun y => y.withLc (x.ctx c).lc)) c stop ∧
      ∀ j, ((u.tile t).ctx c).xr j = (x.ctx c).xr j)

/-- R183-R187: OPEN_APERTURE opens an aperture whose window lies in the context's share and, when bound, is exactly its STREAM ring;
CLOSE_APERTURE closes one, open or not; FENCE goes on when every condition that MASK selects holds; END stops the issue of the tile once
every one holds, and keeps XCODE. -/
def ApertureFenceEnd : Prop :=
  ∀ (s : State) (t g c : Nat) (w w2 : W64) (n : Nat),
    let x := s.tile t
    let y := x.ctx c
    let a := y.apt (fld w 51 49)
    (s.standsAt t g c 0x60 w w2 n → a.base < a.limit → fld y.spad 10 0 ≤ a.base → a.limit ≤ fld y.spad 26 16 →
      (a.isBound = true → a.base = fld (y.ring a.ring).cfg 10 0 ∧ a.limit = fld (y.ring a.ring).cfg 10 0 + fld (y.ring a.ring).cfg 26 16 ∧
        (y.ring a.ring).on = true ∧ (y.ring a.ring).isStream = true) →
      ∃ u : State, exec (.openAperture t) s = .next u ∧ OnlyTile s u t ∧ (u.tile t).u.withLoops x.u.loops = x.u ∧ (u.tile t).spad = x.spad ∧
        ((u.tile t).ctx c).apt (fld w 51 49) = a.withCtl (setBit a.ctl 0 true) ∧
        ∀ j, j ≠ fld w 51 49 → ((u.tile t).ctx c).apt j = y.apt j) ∧
    (s.standsAt t g c 0x61 w w2 n → ∃ u : State, exec (.closeAperture t) s = .next u ∧ OnlyTile s u t ∧ (u.tile t).u.withLoops x.u.loops = x.u ∧
      (u.tile t).spad = x.spad ∧ ((u.tile t).ctx c).apt (fld w 51 49) = a.withCtl (setBit a.ctl 0 false) ∧
      ∀ j, j ≠ fld w 51 49 → ((u.tile t).ctx c).apt j = y.apt j) ∧
    (s.standsAt t g c 0x68 w w2 n → (∀ i, i < 8 → bit w (44 + i) = true → fenceCond x g c (44 + i) = true) →
      ∃ u : State, exec (.fence t) s = .next u ∧ OnlyTile s u t ∧ OnlyRegs x (u.tile t) c ∧ GoesOn x (u.tile t) c (y.pc + n)) ∧
    (s.standsAt t g c 0x6F w w2 n → (∀ i, i < 8 → fenceCond x g c (44 + i) = true) →
      exec (.endInstr t) s = .next (s.setTile t (x.withU (x.u |>.withIssue .ended |>.withXcode (y.xr (fld w 51 47))))))

/-- R186, R198, R215: a tile's END is reported once: the section takes its XCODE, and XCODE of the reporting tile; with the last tile's
report a running section that has not faulted is ENDING. No tile but t, and no other section, changes. -/
def EndIsReported : Prop :=
  ∀ (s : State) (t g c : Nat), s.runs t g c → (s.tile t).u.issue = .ended → ∃ u : State, exec (.endReport t) s = .next u ∧
    let x := s.sec g c
    let y := u.sec g c
    (u.tile t).u.issue = .reported ∧ (∀ j, j ≠ t → u.tile j = s.tile j) ∧ (∀ k, k ≠ secKey g c → Sparse.get secD u.secs k = Sparse.get secD s.secs k) ∧
    y.reported = insertNat t x.reported ∧ y.xcodeOr = x.xcodeOr ||| (s.tile t).u.xcode ∧
    y.xcode = (if x.report = t then (s.tile t).u.xcode else x.xcode) ∧
    y.st = (if x.st = .running ∧ (∀ j ∈ x.tiles, j ∈ insertNat t x.reported) ∧ x.fault = none then .ending else x.st) ∧
    u.regs = s.regs ∧ u.mem = s.mem

/-- K-block b of an MMA lies in both rings (R137): the bytes up to its end have been passed by TAIL. -/
def BlockIn (x : Tile) (c : Nat) (m : MmaOp) (b : Nat) : Prop :=
  m.offA + (b + 1) * aBlock (bit m.word 51) (fld m.word 50 47) ≤ (x.ring c (fld m.word 42 39)).used ∧
  m.offB + (b + 1) * bBlock (bit m.word 51) (fld m.word 46 43) ≤ (x.ring c (fld m.word 38 35)).used

/-- The accumulator kind of an MMA is integer: both operands are I8 or I4 (R57). -/
def IntKind (w : W64) : Prop := (fld w 50 47 = 7 ∨ fld w 50 47 = 8) ∧ (fld w 46 43 = 7 ∨ fld w 46 43 = 8)

/-- R83, R84, R138, R139: at its first read the MMA at the head of the array queue meets the live set, or, when exactly one SWAP precedes it
and that one can execute, the set that this SWAP will make live. Where mode and kind agree it replaces the set's mask image with its own and has
started (with K = 0 it leaves the queue, having read and popped nothing); an unfilled set or another mode raises ACC_SEQ, another kind ACC_KIND. -/
def MmaFirstReads : Prop :=
  ∀ (s : State) (t g c : Nat) (m : MmaOp) (rest : List MmaOp) (swapped : Bool), s.runs t g c → (s.tile t).u.arrayQ = m :: rest →
    let x := s.tile t
    let before := (x.u.accQ.filter (fun o => decide (o.kind = .swap ∧ o.seq < m.seq))).length
    let set := if swapped then x.u.shadow else x.u.live
    m.started = false → (swapped = false → before = 0) →
    (swapped = true → before = 1 ∧ x.u.shadowSt = .ready ∧ ∃ o q, x.u.accQ = o :: q ∧ o.kind = .swap) → (m.k ≠ 0 → BlockIn x c m 0) →
    (set.unfilled = true ∨ set.sharedA ≠ bit m.word 51 → exec (.mmaFirstRead t) s = .next (s.tileExc t m.pc Exc.accSeq)) ∧
    (set.unfilled = false → set.sharedA = bit m.word 51 → ¬(set.int = true ↔ IntKind m.word) →
      exec (.mmaFirstRead t) s = .next (s.tileExc t m.pc Exc.accKind)) ∧
    (set.unfilled = false → set.sharedA = bit m.word 51 → (set.int = true ↔ IntKind m.word) → m.badMask = false →
      let new := set.withRowMask m.rowMask |>.withColMask m.colMask
      exec (.mmaFirstRead t) s = .next (s.setTile t (x.withU
        ((if swapped then x.u.withShadow new else x.u.withLive new).withArrayQ (if m.k = 0 then rest else m.withStarted true :: rest)))))

/-- The accumulator of cell n (array n / 64, row n / 8 % 8, column n % 8) after one K-step of an MMA (R57, R74, R76, R79): a masked cell keeps
its value. -/
def cellStep (rm : Rm) (m : MmaOp) (ab bb : List Byte) (n : Nat) (acc : W32) (k : Nat) : W32 :=
  let w := m.word
  let a := n / 64
  let i := n / 8 % 8
  let j := n % 8
  if bit m.rowMask (8 * a + i) = true ∧ bit m.colMask (8 * a + j) = true then
    let ea := unpackElem (fld w 50 47) ab (aPos (bit w 51) a i k)
    let eb := unpackElem (fld w 46 43) bb (bPos (bit w 51) a j k)
    BitVec.ofNat 32 (if mmaInt w then kStepInt (fld w 50 47) ea (fld w 46 43) eb acc.toNat
      else kStepFloat rm (fld w 50 47) ea (fld w 46 43) eb acc.toNat).1
  else acc

/-- R57, R74, R79, R137: a K-block of the started MMA is read once it lies in both rings: every one of the 512 cells takes the block's K-steps in
order. After the last block the MMA leaves the array queue and, with POPA and POPB, its panels leave their rings. Nothing else of the tile changes
but the sticky flags of the context. -/
def MmaBlocksAccumulate : Prop :=
  ∀ (s : State) (t g c : Nat) (m : MmaOp) (rest : List MmaOp), s.runs t g c → (s.tile t).u.arrayQ = m :: rest →
    let x := s.tile t
    let w := m.word
    let sa := aBlock (bit w 51) (fld w 50 47)
    let sb := bBlock (bit w 51) (fld w 46 43)
    let ab := x.rdRing (x.ring c (fld w 42 39)) (m.offA + m.block * sa) sa
    let bb := x.rdRing (x.ring c (fld w 38 35)) (m.offB + m.block * sb) sb
    let blocks := ceilDiv m.k 8
    let popped (on : Bool) (ri bytes : Nat) (z : Tile) : Tile := if on then z.popRing c ri (roundUp bytes 32) else z
    m.started = true → (∀ o ∈ x.u.accQ, o.kind = .swap → m.seq ≤ o.seq) → BlockIn x c m m.block →
    ∃ y, exec (.mmaKblockRead t) s = .next (s.setTile t y) ∧
      (8 * m.block < m.k → y.u.live.vals.length = 512) ∧
      (∀ n, n < 512 → y.u.live.vals.getD n 0 =
        (List.range (min 8 (m.k - 8 * m.block))).foldl (cellStep (x.rm c) m ab bb n) (x.u.live.vals.getD n 0)) ∧
      (y.withCtxs x.ctxs).withU x.u = x ∧ (∀ d, d ≠ c → y.ctx d = x.ctx d) ∧
      (((y.ctx c).withFpstat (x.ctx c).fpstat).withRings (x.ctx c).rings) = x.ctx c ∧
      (((y.u.withLive x.u.live).withArrayQ x.u.arrayQ) = x.u) ∧ y.u.live.withVals x.u.live.vals = x.u.live ∧
      (if m.block + 1 < blocks then y.u.arrayQ = m.withBlock (m.block + 1) :: rest ∧ (y.ctx c).rings = (x.ctx c).rings
        else y.u.arrayQ = rest ∧ ∀ ri, y.ring c ri =
          (popped (bit w 16) (fld w 38 35) (blocks * sb) (popped (bit w 17) (fld w 42 39) (blocks * sa) x)).ring c ri)

/-- Table 3.5, R82, R83: SWAP at the head of the accumulator control queue waits for earlier MMAs and for a FILLING set, exchanges the sets when the
shadow set is READY, and raises ACC_SEQ in every other state of it. -/
def SwapExchangesTheSets : Prop :=
  ∀ (s : State) (t g c : Nat) (o : AccOp) (rest : List AccOp), s.runs t g c → (s.tile t).u.accQ = o :: rest → o.kind = .swap →
    let x := s.tile t
    (x.u.shadowSt = .ready → (∀ m ∈ x.u.arrayQ, o.seq ≤ m.seq) →
      exec (.swapExecute t) s =
        .next (s.setTile t (x.withU (x.u |>.withLive x.u.shadow |>.withShadow x.u.live |>.withShadowSt .held |>.withAccQ rest)))) ∧
    (x.u.shadowSt ≠ .ready → x.u.shadowSt ≠ .filling → exec (.swapExecute t) s = .next (s.tileExc t o.pc Exc.accSeq)) ∧
    (x.u.shadowSt = .filling ∨ x.u.shadowSt = .ready ∧ (∃ m ∈ x.u.arrayQ, m.seq < o.seq) →
      exec (.swapExecute t) s = .next (s.setTile t (x.stall 0x3018)))

/-- What a DRAIN that writes a record meets at the head of its queue (R142): the destination is an enabled STREAM ring of the DFMT format; scale
and bias rings in use are enabled and STATIC; a scale ring holds the format that its type bit names, a bias ring one of the formats 0-2. -/
structure DrainOk (x : Tile) (c : Nat) (w : W64) : Prop where
  dest : (x.ring c (fld w 51 48)).on = true ∧ (x.ring c (fld w 51 48)).fmt = fld w 47 44 ∧ (x.ring c (fld w 51 48)).isStream = true
  rows : bit w 33 = true → (x.ring c (fld w 37 34)).on = true ∧ (x.ring c (fld w 37 34)).isStatic = true ∧
    (x.ring c (fld w 37 34)).fmt = if bit w 32 then 7 else 1
  cols : bit w 27 = true → (x.ring c (fld w 31 28)).on = true ∧ (x.ring c (fld w 31 28)).isStatic = true ∧
    (x.ring c (fld w 31 28)).fmt = if bit w 26 then 7 else 1
  bias : bit w 21 = true → (x.ring c (fld w 25 22)).on = true ∧ (x.ring c (fld w 25 22)).isStatic = true ∧ (x.ring c (fld w 25 22)).fmt ≤ 2

/-- What a FILL meets at the head of its queue (R144): the I32 form has RESID alone, in a ring of format I32; otherwise RESID and BIAS stand in rings of
the binary formats and DELTA in a binary32 ring; RESID and DELTA rings are STREAM, BIAS is STATIC. -/
structure FillOk (x : Tile) (c : Nat) (w : W64) : Prop where
  int : bit w 35 = true → bit w 47 = true ∧ bit w 42 = false ∧ bit w 37 = false
  resid : bit w 47 = true → (x.ring c (fld w 51 48)).on = true ∧ (x.ring c (fld w 51 48)).isStream = true ∧
    (if bit w 35 then (x.ring c (fld w 51 48)).fmt = 9 else (x.ring c (fld w 51 48)).fmt ≤ 2)
  delta : bit w 42 = true → (x.ring c (fld w 46 43)).on = true ∧ (x.ring c (fld w 46 43)).isStream = true ∧ (x.ring c (fld w 46 43)).fmt = 0
  bias : bit w 37 = true → (x.ring c (fld w 41 38)).on = true ∧ (x.ring c (fld w 41 38)).isStatic = true ∧ (x.ring c (fld w 41 38)).fmt ≤ 2

/-- Table 3.5, R142, R144: DRAIN at the head of the queue starts on a HELD set, which goes on DRAINING with the context's next drain number; FILL on an
EMPTY or a DRAINING one, which is FILLING, of the mode and kind that FILL names, with masks of all ones; in any other state of the set both raise
ACC_SEQ. -/
def DrainAndFillStart : Prop :=
  ∀ (s : State) (t g c : Nat) (o : AccOp) (rest : List AccOp), s.runs t g c → (s.tile t).u.accQ = o :: rest →
    let x := s.tile t
    let w := o.word
    (o.kind = .drain → x.u.shadowSt = .held → (bit w 20 = true ∨ DrainOk x c w) →
      ∃ u : State, exec (.drainStart t) s = .next u ∧ OnlyTile s u t ∧
        (u.tile t).u = (x.u |>.withAccQ rest |>.withShadowSt .draining |>.withDrain (some ⟨x.u.shadow, w, o.pc, 0, none, (x.ctx c).drains⟩)) ∧
        ((u.tile t).ctx c = (x.ctx c).withDrains ((x.ctx c).drains + 1)) ∧ (∀ d, d ≠ c → (u.tile t).ctx d = x.ctx d) ∧
        ((u.tile t).withU x.u).withCtxs x.ctxs = x) ∧
    (o.kind = .drain → x.u.shadowSt ≠ .held → exec (.drainStart t) s = .next (s.tileExc t o.pc Exc.accSeq)) ∧
    (o.kind = .fill → x.u.shadowSt = .empty ∨ x.u.shadowSt = .draining → FillOk x c w →
      exec (.fillStart t) s = .next (s.setTile t (x.withU (x.u |>.withAccQ rest |>.withShadowSt .filling |>.withFill (some ⟨w, o.pc, 0, []⟩)
        |>.withShadow ⟨false, bit w 35, bit w 36, BitVec.allOnes 64, BitVec.allOnes 64, List.replicate 512 0⟩)))) ∧
    (o.kind = .fill → x.u.shadowSt ≠ .empty → x.u.shadowSt ≠ .draining → exec (.fillStart t) s = .next (s.tileExc t o.pc Exc.accSeq))

/-- The scale and bias vectors of a drain hold what array `a` needs (R90): elements up to its last row, or its last channel. -/
def VectorsIn (x : Tile) (c : Nat) (d : DrainRun) (a : Nat) : Prop :=
  let w := d.word
  let rows := (if d.set.sharedA then 7 else 8 * a + 7) + 1
  let channels := (if d.set.sharedA then 8 * a + 7 else 7) + 1
  (bit w 33 = true → fmtBytes (if bit w 32 then 7 else 1) rows ≤ (x.ring c (fld w 37 34)).used) ∧
  (bit w 27 = true → fmtBytes (if bit w 26 then 7 else 1) channels ≤ (x.ring c (fld w 31 28)).used) ∧
  (bit w 21 = true → fmtBytes (x.ring c (fld w 25 22)).fmt channels ≤ (x.ring c (fld w 25 22)).used)

/-- R80, R82, R85, R89, R91: the read-out of array `a` of a drain writes its 64 elements to their places of the record, masked ones as zeros; TAIL
does not move before the last array, and then passes the whole record. The discard form writes nothing. The read-out of array 7 ends the drain,
and the set is EMPTY unless a fill has claimed it. -/
def DrainReadsOut : Prop :=
  ∀ (s : State) (t g c : Nat) (d : DrainRun), s.runs t g c → (s.tile t).u.drain = some d → d.next < 8 →
    let x := s.tile t
    let w := d.word
    let a := d.next
    let f := fld w 47 44
    let r := x.ring c (fld w 51 48)
    let next (v : Units) (e : DrainRun) : Units := if a < 7 then v.withDrain (some (e.withNext (a + 1)))
      else v |>.withDrain none |>.withShadowSt (if v.shadowSt = .draining then .empty else v.shadowSt)
    (bit w 20 = true → exec (.drainReadout t) s = .next (s.setTile t (x.withU (next x.u d)))) ∧
    (bit w 20 = false → (d.resv = none → a = 0) →
      r.resv = (match d.resv with | none => [] | some id => [⟨id, fmtBytes f 512, a * fmtBytes f 64, false, .drain⟩]) →
      r.used + (a + 1) * fmtBytes f 64 ≤ r.size → VectorsIn x c d a →
      let id := d.resv.getD r.nextId
      ∃ y, exec (.drainReadout t) s = .next (s.setTile t y) ∧ y.u = next x.u (d.withResv (some id)) ∧
        y.spad = ((List.range 8).foldl (fun (z : Tile) i => z.wrRing r
          (fmtWidth f * (outRow d.set.sharedA a i * recWidth d.set.sharedA + outChan d.set.sharedA a 0) / 8)
          (packElems f ((List.range 8).map (fun j => (drainElem x c d a i j).1)))) x).spad ∧
        (if a < 7 then (y.ring c (fld w 51 48)).resv = [⟨id, fmtBytes f 512, (a + 1) * fmtBytes f 64, false, .drain⟩] ∧
            (y.ring c (fld w 51 48)).used = r.used
          else (y.ring c (fld w 51 48)).resv = [] ∧
            ((y.ring c (fld w 51 48)).tail, (y.ring c (fld w 51 48)).tailWrap) = ptrAdd r.size r.tail r.tailWrap (fmtBytes f 512))) ∧
    (∀ i j, bit d.set.rowMask (8 * a + i) = false ∨ bit d.set.colMask (8 * a + j) = false → drainElem x c d a i j = (0, 0))

/-- R85, R93: the fill writes the 64 cells of one array of the shadow set, after the drain has read that array out and once its sources hold the lines
that it needs; array 0 reads BIAS whole; the other arrays keep their values. After array 7 the set is READY, and RESID and DELTA records leave their rings. -/
def FillWritesArrays : Prop :=
  ∀ (s : State) (t g c : Nat) (f : FillRun), s.runs t g c → (s.tile t).u.fill = some f →
    let x := s.tile t
    let w := f.word
    let a := f.next
    let lines := outRow (bit w 36) a 7 * recWidth (bit w 36) + outChan (bit w 36) a 7 + 1
    let popped (on : Bool) (ri bytes : Nat) (z : Tile) : Tile := if on then z.popRing c ri bytes else z
    a < 8 → x.u.shadow.vals.length = 512 → (∀ d, x.u.drain = some d → a < d.next) →
    (bit w 47 = true → fmtBytes (x.ring c (fld w 51 48)).fmt lines ≤ (x.ring c (fld w 51 48)).used) →
    (bit w 42 = true → fmtBytes (x.ring c (fld w 46 43)).fmt lines ≤ (x.ring c (fld w 46 43)).used) →
    (bit w 37 = true → a = 0 → fmtBytes (x.ring c (fld w 41 38)).fmt (recWidth (bit w 36)) ≤ (x.ring c (fld w 41 38)).used) →
    ∃ y, exec (.fillArrayWrite t) s = .next (s.setTile t y) ∧
      (∀ n, n < 512 → y.u.shadow.vals.getD n 0 =
        if n / 64 = a then BitVec.ofNat 32 (fillElem x c (fillBias x c f) a (n / 8 % 8) (n % 8)).1 else x.u.shadow.vals.getD n 0) ∧
      (y.withCtxs x.ctxs).withU x.u = x ∧ (((y.u.withShadow x.u.shadow).withShadowSt x.u.shadowSt).withFill x.u.fill) = x.u ∧
      (∀ d, d ≠ c → y.ctx d = x.ctx d) ∧ (((y.ctx c).withFpstat (x.ctx c).fpstat).withRings (x.ctx c).rings) = x.ctx c ∧
      (a < 7 → y.u.fill = some ((fillBias x c f).withNext (a + 1)) ∧ y.u.shadowSt = x.u.shadowSt ∧ (y.ctx c).rings = (x.ctx c).rings) ∧
      (a = 7 → y.u.fill = none ∧ y.u.shadowSt = .ready ∧ ∀ ri, y.ring c ri =
        (popped (bit w 42) (fld w 46 43) (fmtBytes 0 512) (popped (bit w 47) (fld w 51 48) (fmtBytes (x.ring c (fld w 51 48)).fmt 512) x)).ring c ri)

/-- An RFU instruction can read row `op.row` (R148, R149): the source rows lie in their rings, state slots too, and the destination has room for the
whole 32 B chunks that the row's results complete, as SMX's ring for c values has. -/
def RowIn (x : Tile) (c : Nat) (op : RfuOp) : Prop :=
  let w := op.word
  let fn := fld w 51 46
  let rows (ri off : Nat) : Prop := off + (op.row + 1) * fmtBytes (x.ring c ri).fmt 64 ≤ (x.ring c ri).used
  rows (fld w 45 42) op.offA ∧ (fld w 27 26 = 1 → rows (fld w 36 33) op.offB) ∧ (fn = 0x03 → rows (fld w 16 13) op.offC) ∧
  (0x12 ≤ fn ∧ fn ≤ 0x15 → op.offC + 8 * (op.row + 1) ≤ (x.ring c (fld w 16 13)).used) ∧
  outNeed op.out (fmtWidth (x.ring c (fld w 25 22)).fmt * (if fn = 0x10 ∨ fn = 0x11 then 1 else 64)) ≤ (x.ring c (fld w 25 22)).room ∧
  (fn = 0x12 → outNeed op.cOut 32 + (if fld w 5 0 % 16 = fld w 25 22 then
      outNeed op.out (fmtWidth (x.ring c (fld w 25 22)).fmt * (if fn = 0x10 ∨ fn = 0x11 then 1 else 64)) else 0) ≤ (x.ring c (fld w 5 0 % 16)).room)

/-- The lane results of an elementwise function (Table 4.13) for lane i of the row: with the row of RING_A, the row or the broadcast scalar of B, and
for FMA the row of RING_C. -/
def laneOut (x : Tile) (c : Nat) (op : RfuOp) (i : Nat) : Nat :=
  let w := op.word
  let b := if fld w 27 26 = 1 then (rfuRow x (x.ring c (fld w 36 33)) op.offB op.row).getD i 0 else op.scalar
  (rfuLane (x.rm c) (fld w 51 46) (fld w 5 0) ((rfuRow x (x.ring c (fld w 45 42)) op.offA op.row).getD i 0) b
    (if fld w 51 46 = 0x03 then (rfuRow x (x.ring c (fld w 16 13)) op.offC op.row).getD i 0 else 0)).1

/-- R92, R94-R97, R145-R151: once row `row` can be read and the drain path does not use the lanes, the RFU reads it and goes on to the next row, or after the last leaves its queue; no other
queue or accumulator set changes, and no other context. The elementwise functions give their lane results. -/
def RfuReadsRows : Prop :=
  ∀ (s : State) (t g c : Nat) (op : RfuOp) (rest : List RfuOp), s.runs t g c → (s.tile t).u.rfuQ = op :: rest → op.select = false →
    let x := s.tile t
    RowIn x c op → drainTakesLanes x c = false →
    (∃ y, exec (.rfuRowRead t) s = .next (s.setTile t y) ∧ (y.u.withRfuQ x.u.rfuQ) = x.u ∧ (∀ d, d ≠ c → y.ctx d = x.ctx d) ∧
      (((y.ctx c).withFpstat (x.ctx c).fpstat).withRings (x.ctx c).rings) = x.ctx c ∧
      (((y.withCtxs x.ctxs).withSpad x.spad).withU x.u) = x ∧
      (if op.row + 1 = op.n then y.u.rfuQ = rest
        else ∃ p q, y.u.rfuQ = (op |>.withRow (op.row + 1) |>.withOut p |>.withCOut q) :: rest)) ∧
    (fld op.word 51 46 < 0x10 → (rfuRowOut x c op).out = (List.range 64).map (laneOut x c op))

/-- R152: SELECT at the head of the RFU queue, once both sources hold N bytes and the destination has room for them, copies N bytes of the ring that
its predicate chose and pops N bytes from both; until then it waits and counts. -/
def SelectCopiesTheChosenRing : Prop :=
  ∀ (s : State) (t g c : Nat) (op : RfuOp) (rest : List RfuOp), s.runs t g c → (s.tile t).u.rfuQ = op :: rest → op.select = true →
    let x := s.tile t
    let a := fld op.word 51 48
    let b := fld op.word 47 44
    let d := fld op.word 43 40
    (op.n ≤ (x.ring c a).used → op.n ≤ (x.ring c b).used → op.n ≤ (x.ring c d).room →
      exec (.select t .unit) s = .next (s.setTile t
        ((((x.append .rfu c d (x.rdRing (x.ring c (if op.psel then a else b)) 0 op.n)).popRing c a op.n).popRing c b op.n).withU (x.u.withRfuQ rest)))) ∧
    ((x.ring c a).used < op.n ∨ (x.ring c b).used < op.n ∨ (x.ring c d).room < op.n →
      exec (.select t .unit) s = .next (s.setTile t (x.stall 0x3030)))

/-- The pieces that the STRM `m` at the head of the stream queue issues next, cut from its stream address `a` as `cuts` says (R166, R168, R309):
each stands for its run, in which the first one leads. -/
def piecesAt (s : State) (t g c : Nat) (m : StrmOp) (a : Nat) (cuts : List (Nat × Nat)) : List Piece :=
  let x := s.tile t
  let b := (x.ctx c).bind (fld m.word 51 48)
  let r := x.ring c (fld m.word 47 44)
  cuts.zipIdx.map (fun e =>
    ⟨s.net.nextOp + e.2, g, c, (s.sec g c).epoch, m.id, bit m.word 33, fld m.word 47 44, r.nextId + e.2, fld m.word 51 48, a + (e.1.1 - a),
      m.off + m.issued + (e.1.1 - a), e.1.2, if bit m.word 32 then some (fld m.word 31 28) else none,
      if bit m.word 33 then x.pieceData r b (e.1.1 - a) e.1.1 e.1.2 else [], m.pc, b, 0, s.now, false, s.net.nextOp, e.1.1 - a⟩)

/-- R166, R168, R307-R309: the next piece of the STRM at the head of the stream queue ends at the next multiple of 512 B of the stream address, or,
toward another chip, issues with up to seven more of one 4 KiB block as one operation. A read reserves its ranges of the ring, a write takes
its bytes from the ring, each piece takes a tag; the pieces are then outstanding and the STRM has moved on, leaving its queue with the last. -/
def StreamPiecesIssue : Prop :=
  ∀ (s : State) (t g c : Nat) (m : StrmOp) (rest : List StrmOp) (pieces : Nat), s.runs t g c → (s.tile t).u.strmQ = m :: rest → m.rearm = false →
    m.issued < m.n →
    let x := s.tile t
    let w := m.word
    let b := (x.ctx c).bind (fld w 51 48)
    let a := (b.base + (m.off + m.issued)) % 2 ^ 64
    let r := x.ring c (fld w 47 44)
    let left := m.n - m.issued
    let away := b.comp = false ∧ s.thisChip (gaChip a) = false
    (b.comp = true ∨ ∀ e ∈ s.redirects (tileDie t), e.1 ≠ a / 2 ^ 21) →
    ∀ cuts, (¬away → cuts = [(a, min left (512 - a % 512))]) →
      (away → cuts = cutRange 512 (min (max pieces 1) 8) a (min left (4096 - a % 4096))) →
      let n := (cuts.map (·.2)).sum
      let ps := piecesAt s t g c m a cuts
      let bytes := (ps.map Piece.below).sum
      let done (u : State) : Prop := (∀ j, j ≠ t → u.tile j = s.tile j) ∧ (u.tile t).u.pieces = x.u.pieces ++ ps ∧
        (u.tile t).u.strmQ = (if m.issued + n < m.n then m.withIssued (m.issued + n) :: rest else rest) ∧ (u.tile t).spad = x.spad ∧
        (u.tile t).ring c (fld w 47 44) = cuts.foldl (fun q e => if bit w 33 then q.pop e.2 else q.reserve .stream e.2 e.2) r ∧
        u.mem = s.mem ∧ u.secs = s.secs
      (if bit w 33 then n ≤ r.used else n ≤ r.room) → s.cdTags (tileDie t) + cuts.length ≤ 4096 →
      (¬away ∨ gaSpace a > 3 ∨ b.extent ≤ m.off + m.issued →
        ∃ u : State, exec (.streamPieceIssue t pieces) s = .next u ∧ done u ∧ u.net = s.net.withNextOp (s.net.nextOp + ps.length)) ∧
      (away → gaSpace a ≤ 3 → m.off + m.issued < b.extent → s.netBlock (gaChip a) (s.partition g) = none → (∀ e, (s.freeTag e).isSome = true) →
        ∃ u : State, exec (.streamPieceIssue t pieces) s = .next u ∧ done u ∧
          ∃ o ∈ u.net.ops, o.client = .piece t s.net.nextOp ∧ o.chip = gaChip a ∧ o.addr = a ∧ o.len = bytes ∧ o.op = if bit w 33 then 2 else 1)

/-- R170: REARM at the head of the stream queue sets the base of its binding, for the STRMs that follow. -/
def RearmMovesTheBase : Prop :=
  ∀ (s : State) (t g c : Nat) (m : StrmOp) (rest : List StrmOp), s.runs t g c → (s.tile t).u.strmQ = m :: rest → m.rearm = true →
    let x := s.tile t
    ∃ u : State, exec (.rearm t .unit) s = .next u ∧ OnlyTile s u t ∧ (u.tile t).u = x.u.withStrmQ rest ∧ (∀ d, d ≠ c → (u.tile t).ctx d = x.ctx d) ∧
      (∀ k, ((u.tile t).ctx c).bind k =
        if k = fld m.word 51 48 then ((x.ctx c).bind k).withBase m.base else (x.ctx c).bind k) ∧
      (((u.tile t).ctx c).withBinds (x.ctx c).binds) = x.ctx c ∧ (((u.tile t).withU x.u).withCtxs x.ctxs) = x

/-- The bytes of a read piece as the ring gets them (R167, R300): what was read, zeros beyond the binding's extent, in transposed groups where the binding
asks for it. -/
def landed (p : Piece) (data : List Byte) : List Byte :=
  let bs := slice data 0 p.below ++ List.replicate (p.len - p.below) 0
  if p.bind.xpose then transpose p.bind.xfmt bs else bs

/-- R158, R167-R169, R171, R300, R325: when the answer OK of a read piece is there and nothing waits at the tile's arrival port, its bytes are written
into its range of the ring, which is then written, and the piece leaves; with relay the pieces of a STRM are written in address order, and every
64 bytes of the STRM so far leave as a data token on its route, which has credit and room for them; a write piece leaves with its answer, and
nothing else of the tile changes. An answer with another status than HOME_MOVED and HOME_BUSY raises STREAM_FAULT with that status in the run
that issued the piece. -/
def StreamPiecesEnd : Prop :=
  ∀ (s : State) (t : Nat) (p : Piece) (net : List NetAns) (data : List Byte) (st loc : Nat) (v : State), t < tileCount →
    (s.tile t).u.pieces.find? (fun q => q.id == p.id) = some p → p.busy = false →
    (p.bind.xpose = true → wholeGroups p.bind.xfmt (p.bind.base + p.off) p.len = true) →
    s.pieceAnswer net t p = .got ⟨st, data, loc, false⟩ v →
    let x := v.tile t
    let r := x.ring p.ctx p.ring
    let gone := x.u.withPieces (x.u.pieces.filter (fun q => q.id != p.id))
    let tokens := ((restOf x.u p.strm).length + p.len) / 64
    (p.write = false → v.relayOf t p = none → x.u.port = [] → st = 0 → ∃ u : State, exec (.streamPieceArrival t p.id net) s = .next u ∧ OnlyTile v u t ∧
      (u.tile t).u = gone ∧ (u.tile t).ring p.ctx p.ring = r.finish p.resv ∧
      (u.tile t).spad = (x.wrRing r (resvOff r.resv p.resv) (landed p data)).spad ∧
      (∀ k, k ≠ p.ring → (u.tile t).ring p.ctx k = x.ring p.ctx k) ∧ ∀ d, d ≠ p.ctx → (u.tile t).ctx d = x.ctx d) ∧
    (∀ route, p.write = false → v.relayOf t p = some route → x.u.port = [] → st = 0 →
      (∀ q ∈ x.u.pieces, q.id ≠ p.id → q.reg = p.reg → q.ctx = p.ctx → q.epoch = p.epoch → q.strm = p.strm → p.off ≤ q.off) →
      tokens ≤ (x.ctx p.ctx).routeCredit route → v.linkFull t p.ctx route tokens = false →
      let all := restOf x.u p.strm ++ landed p data
      ∃ u : State, exec (.streamPieceArrival t p.id net) s = .next u ∧ (u.tile t).ring p.ctx p.ring = r.finish p.resv ∧
        (u.tile t).u.pieces = gone.pieces ∧ restOf (u.tile t).u p.strm = all.drop (64 * (all.length / 64)) ∧
        ∀ d q, v.leg p.ctx (fld ((x.ctx p.ctx).route route) 14 9) maxHops t = .home d q →
          ∃ out, u.flight = v.flight ++ out ∧ out.map (fun f => f.token.payload) = (List.range (all.length / 64)).map (fun i => slice all (64 * i) 64) ∧
            ∀ f ∈ out, f.src = t ∧ f.ctx = p.ctx ∧ f.route = route ∧ f.pos = d ∧ f.token.control = false) ∧
    (p.write = true → st = 0 → net = [] → exec (.streamWritePieceComplete t p.id) s = .next (v.setTile t (x.withU gone))) ∧
    (p.write = false → st ≠ 0 → st ≠ St.homeMoved → st ≠ St.homeBusy → exec (.streamPieceArrival t p.id net) s =
      .next (if v.pieceRun t p then (v.setTile t (x.withU gone)).faultSection p.reg p.ctx ⟨1, Exc.streamFault, t⟩ p.pc st
        else v.setTile t (x.withU gone)))

/-- R308, R331: a piece refused with HOME_BUSY, or for which an optical die had no tag, is issued again on its own: it waits no longer, and when it
needs no other chip nothing else changes. -/
def BusyPiecesAreReissued : Prop :=
  ∀ (s : State) (t : Nat) (p : Piece), t < tileCount → (s.tile t).u.pieces.find? (fun q => q.id == p.id && q.busy) = some p →
    let x := s.tile t
    let p' := p |>.withBusy false |>.withLead p.id |>.withPlace 0
    let again := x.withU (x.u.withPieces (x.u.pieces.map (fun q => if q.id = p.id then p' else q)))
    (s.pieceAway p = false → exec (.homeBusyReissue t p.id) s = .next (s.setTile t again)) ∧
    (s.pieceAway p = true → s.netBlock (gaChip p.addr) (s.partition p.reg) = none → (∀ e, (s.freeTag e).isSome = true) →
      ∃ u : State, exec (.homeBusyReissue t p.id) s = .next u ∧ u.tile t = again ∧ (∀ j, j ≠ t → u.tile j = s.tile j) ∧
        ∃ o ∈ u.net.ops, o.client = .piece t p.id ∧ o.addr = p.addr ∧ o.len = p.below)

/-- R25, R201-R203, R207, R537: the oldest token of a route, when no token stands before it in its die-edge queue, goes on by the transit entries of its
context and tag. Where they lead it to a queue of tile d that is bound, whose epoch tag agrees, with the tile in the token's region, it joins that
queue's end; otherwise tile d drops it and counts it in TILE_QSTRAY, as the tile does whose entry is missing. Before a die-edge queue that is full
it waits in the one that it has reached. Nothing else changes. -/
def TokensArriveInOrder : Prop :=
  ∀ (s : State) (before : List Flight) (f f' : Flight) (after : List Flight),
    s.flight = before ++ f :: after → (∀ e ∈ before, ¬(e.src = f.src ∧ e.ctx = f.ctx ∧ e.route = f.route)) →
    let k := f.token
    let stray (d : Nat) : State := (s.withFlight (before ++ after)).setTile d
      ((s.tile d).withQstray (setFld (s.tile d).qstray 31 0 (min (fld (s.tile d).qstray 31 0 + 1) 0xFFFFFFFF)))
    (s.atHead f = false → ∀ bad, exec (.tokenArrival f.src f.ctx f.route bad) s = .next s) ∧
    (∀ d i, s.atHead f = true → s.goOn maxHops f = (.home d i, f') →
      let x := s.tile d
      let q := (x.ctx k.ctx).queue i
      let fits := bit q.cfg 0 = true ∧ fld q.cfg 31 16 = k.etag ∧ s.inRegion k.region d = true
      (fits → ∃ u : State, exec (.tokenArrival f.src f.ctx f.route false) s = .next u ∧ u.flight = before ++ after ∧
        (u.withFlight s.flight).withTiles s.tiles = s ∧ (∀ j, j ≠ d → u.tile j = s.tile j) ∧
        ((u.tile d).withCtxs x.ctxs).withStalls x.stalls = x ∧ (∀ c, c ≠ k.ctx → (u.tile d).ctx c = x.ctx c) ∧
        (u.tile d).ctx k.ctx = (x.ctx k.ctx).setQueue i (q.withEntries (q.entries ++ [k.withPoison false]))) ∧
      (¬fits → ∀ bad, exec (.tokenArrival f.src f.ctx f.route bad) s = .next (stray d))) ∧
    (∀ d, s.atHead f = true → s.goOn maxHops f = (.stray d, f') → ∀ bad, exec (.tokenArrival f.src f.ctx f.route bad) s = .next (stray d)) ∧
    (∀ d p, s.atHead f = true → s.goOn maxHops f = (.edge d p, f') → ∀ bad, exec (.tokenArrival f.src f.ctx f.route bad) s =
      .next (s.withFlight (s.flight.map (fun k => if k = f then f' else k))))

/-- R176, R201: a credit reaches its route by the transit entries and adds one to its credits, at most 16; where an entry is missing it is lost. Nothing
else changes but the first such credit on its way, which is gone. -/
def CreditsReturn : Prop :=
  ∀ (s : State) (k : CreditFlight) (before after : List CreditFlight),
    let t := k.src
    let c := k.ctx
    let r := k.route
    s.credits = before ++ k :: after → (∀ e ∈ before, ¬(e.src = t ∧ e.ctx = c ∧ e.route = r)) →
    (s.backLeg c k.tag maxHops k.dst = some (t, r) →
      ∃ u : State, exec (.creditArrival t c r) s = .next u ∧ u.credits = before ++ after ∧ (u.withCredits s.credits).withTiles s.tiles = s ∧
        (∀ j, j ≠ t → u.tile j = s.tile j) ∧ (u.tile t).withCtxs (s.tile t).ctxs = s.tile t ∧ (∀ d, d ≠ c → (u.tile t).ctx d = (s.tile t).ctx d) ∧
        (∀ k, k ≠ r → ((u.tile t).ctx c).route k = ((s.tile t).ctx c).route k) ∧
        ((u.tile t).ctx c).routeCredit r = min 16 (((s.tile t).ctx c).routeCredit r + 1) ∧
        ((u.tile t).ctx c).routeOn r = ((s.tile t).ctx c).routeOn r) ∧
    (s.backLeg c k.tag maxHops k.dst ≠ some (t, r) → exec (.creditArrival t c r) s = .next (s.withCredits (before ++ after)))

/-- A command that writes one register of a tile window: the register, and the new values that Table 3.12 and R69 allow. -/
structure WindowWrite where
  instr : W64 → Instr
  reg : WinReg
  ok : W64 → Prop

/-- The fields of `v` from bit 0 up and from bit 16 up bound a share or window of another's. -/
def Apart (a b : Nat) (c d : Nat) : Prop := b ≤ a ∨ d ≤ c ∨ b ≤ c ∨ d ≤ a

/-- The six commands on context c, and ring or aperture k, of tile t (R33, R69, R592). -/
def windowWrites (s : State) (t c k : Nat) : List WindowWrite :=
  let y := (s.tile t).ctx c
  let others := s.otherResidents t c
  [ ⟨.tileFpctlWrite t c, .fpctl c, fun v => fld v 2 0 < 5⟩,
    ⟨.tileRingCfgWrite t c k, .ringCfg c k, fun v => bit v 48 = true → fld v 26 16 ≠ 0 ∧ fld v 10 0 + fld v 26 16 ≤ 1280 ∧ fld v 41 40 ≤ 1 ∧
      fld v 35 32 ≤ 9 ∧ fld y.spad 10 0 ≤ fld v 10 0 ∧ fld v 10 0 + fld v 26 16 ≤ fld y.spad 26 16⟩,
    ⟨.tileAptWinWrite t c (k % 8), .aptWin c (k % 8), fun v => fld v 26 16 ≤ 1280 ∧
      (fld v 10 0 < fld v 26 16 → fld y.spad 10 0 ≤ fld v 10 0 ∧ fld v 26 16 ≤ fld y.spad 26 16)⟩,
    ⟨.tileAptSrcWrite t c (k % 8), .aptSrc c (k % 8), fun v => fld v 1 0 ≠ 3⟩,
    ⟨.tileCtxPstoreWrite t c, .pstore c, fun v => fld v 11 0 + fld v 28 16 ≤ 4096 ∧ ∀ d ∈ others,
      let w := ((s.tile t).ctx d).pstore
      Apart (fld v 11 0) (fld v 11 0 + fld v 28 16) (fld w 11 0) (fld w 11 0 + fld w 28 16)⟩,
    ⟨.tileCtxSpadWrite t c, .spad c, fun v => fld v 26 16 ≤ 1280 ∧
      (∀ d ∈ others, let w := ((s.tile t).ctx d).spad; Apart (fld v 10 0) (fld v 26 16) (fld w 10 0) (fld w 26 16)) ∧
      (∀ e ∈ y.rings, bit e.2.cfg 48 = true → fld v 10 0 ≤ fld e.2.cfg 10 0 ∧ fld e.2.cfg 10 0 + fld e.2.cfg 26 16 ≤ fld v 26 16) ∧
      (∀ e ∈ y.apts, fld e.2.win 10 0 < fld e.2.win 26 16 → fld v 10 0 ≤ fld e.2.win 10 0 ∧ fld e.2.win 26 16 ≤ fld v 26 16)⟩ ]

/-- R15, R34, R69, R105, R592: a write of a register of a tile window of an active tile that belongs to no running section takes the bits of its fields and
keeps its reserved bits, if the resulting value is legal, and then answers OK; a write of TILE_RING_CFG also resets the ring's pointers. An illegal
value, and a write to a parked, dark or busy tile, leaves everything as it was and answers with another status. -/
def TileWindowWrites : Prop :=
  ∀ (s : State) (t c k : Nat), t < tileCount → c < 8 → k < 16 → ∀ e ∈ windowWrites s t c k, ∀ v : W64,
    let x := s.tile t
    let new := writeFields e.reg.fields (x.winGet t e.reg) v
    s.inDim = false → s.cdReady (tileDie t) = true →
    (x.st = .active → s.tileBusy t = false → e.ok new → exec (e.instr v) s = .next ((s.setTile t (x.winSet new e.reg)).answer 0)) ∧
    (x.st = .active → s.tileBusy t = false → ¬e.ok new → ∃ st, st ≠ 0 ∧ exec (e.instr v) s = .next (s.answer st)) ∧
    (x.st = .active → s.tileBusy t = true → exec (e.instr v) s = .next (s.answer St.tileBusy)) ∧
    (x.st = .parked → exec (e.instr v) s = .next (s.answer St.tileParked)) ∧
    (x.st = .dark → exec (e.instr v) s = .next (s.answer St.tileDark))

/-- R15, R17: a write of a register meets its fields one by one: an RW field takes the bits written, a W1C field clears where a 1 is written, a field of
another kind and every bit outside the fields stay as they were. -/
def Obligations.RegisterFieldsTakeWrites : Prop :=
  ∀ (fs : List Fld) (old v : W64), fs.Pairwise (fun f g => f.lo + f.w ≤ g.lo ∨ g.lo + g.w ≤ f.lo) → (∀ f ∈ fs, f.lo + f.w ≤ 64) →
    (∀ f ∈ fs, ∀ i, f.lo ≤ i → i < f.lo + f.w → bit (writeFields fs old v) i =
      (if f.acc = .rw then bit v i else if f.acc = .w1c then bit old i && !bit v i else bit old i)) ∧
    (∀ i, (∀ f ∈ fs, i < f.lo ∨ f.lo + f.w ≤ i) → bit (writeFields fs old v) i = bit old i)

/-- R114, R115: each bit of CD_TILE_PARK_k starts a change of its tile to or from PARKED, when it differs from what the tile is or is becoming; it is ignored
for a dark tile, and for a tile that a resident section names, which answers TILE_IN_USE. PARK_CHANGE_DONE ends a change: the tile is PARKED
or ACTIVE. -/
def TilesPark : Prop :=
  (∀ (s : State) (n k : Nat) (v : W64), n < 16 → k < 3 → RegOpen s (cdOff n (0x100 + 8 * k)) →
    ∃ u : State, exec (.cdTileParkWrite n k v) s = .next u ∧ (u.withReply s.reply).withTiles s.tiles = s ∧
      (∀ b, b < (if k < 2 then 64 else 16) →
        let t := tileAt n (64 * k + b)
        let x := s.tile t
        u.tile t = if x.st = .dark ∨ (bit v b = decide (x.st = .parked) ∧ x.parkTo = none) ∨ s.residentsOf t ≠ [] then x
          else x.withParkTo (some (bit v b))) ∧
      (∀ t, (∀ b, b < (if k < 2 then 64 else 16) → t ≠ tileAt n (64 * k + b)) → u.tile t = s.tile t) ∧
      u.reply.data = [] ∧ (u.reply.status = 0 ∨ u.reply.status = St.tileInUse) ∧
      (u.reply.status = St.tileInUse ↔ ∃ b, b < (if k < 2 then 64 else 16) ∧
        let t := tileAt n (64 * k + b)
        (s.tile t).st ≠ .dark ∧ bit v b ≠ decide ((s.tile t).st = .parked) ∧ s.residentsOf t ≠ [])) ∧
  (∀ (s : State) (t : Nat) (b : Bool), t < tileCount → (s.tile t).parkTo = some b →
    exec (.parkChangeDone t) s = .next (s.setTile t ((s.tile t) |>.withSt (if b then .parked else .active) |>.withParkTo none)))

/-- R113, R217, R539, R548: a tile that finds an error inside itself becomes dark, and its queues lose their tokens; its bit of the dark map is set. When a
running or ending section uses it, the region of that section is fenced and is being reset; otherwise no other tile changes. A tile
that is dark already changes nothing. -/
def TilesThatFailBecomeDark : Prop :=
  ∀ (s : State) (t k off : Nat), t < tileCount →
    ((s.tile t).st = .dark → exec (.tileInternalError t k off) s = .next s) ∧
    ((s.tile t).st ≠ .dark → ∃ u : State, exec (.tileInternalError t k off) s = .next u ∧ (u.tile t).st = .dark ∧ u.fused = s.fused ∧
      (∀ g c, (g, c) ∈ (s.usersOf t).head? → u.rb (0x51008 + 0x10 * g) 1 = true) ∧
      (s.usersOf t = [] → u.rb (0x10300 + 8 * (t / 64)) (t % 64) = true ∧ (∀ j, j ≠ t → u.tile j = s.tile j) ∧
        ∀ c q, (((u.tile t).ctx c).queue q).entries = [] ∧ (((u.tile t).ctx c).queue q).front = none ∧ (((u.tile t).ctx c).queue q).seg = []))

/-- Aperture i of context c of tile t takes a write of n bytes at offset b of the scratchpad (R107, Table 3.10): it is open, the write lies in
its window, and its source selector admits the writer. -/
def ApertureTakes (s : State) (t c i : Nat) (w : Writer) (b n : Nat) : Prop :=
  let a := ((s.tile t).ctx c).apt i
  let lo := fld a.src 31 16
  let hi := fld a.src 47 32
  bit a.ctl 0 = true ∧ 512 * fld a.win 10 0 ≤ b ∧ b + n ≤ 512 * fld a.win 26 16 ∧
  ((fld a.src 1 0 = 0 ∧ (s.regionOf t).map s.partition = some w.partition) ∨
    (fld a.src 1 0 = 1 ∧ lo % 2 ^ 14 ≤ w.chip ∧ w.chip ≤ hi % 2 ^ 14) ∨
    (fld a.src 1 0 = 2 ∧ ∃ m, w.tile = some m ∧ lo % 32 ≤ tileRow m ∧ tileRow m ≤ lo / 2 ^ 8 % 32 ∧ hi % 2 ^ 7 ≤ tileCol m ∧
      tileCol m ≤ hi / 2 ^ 8 % 2 ^ 7))

/-- R107-R109: a write to tile addresses, aligned and inside the scratchpad, goes through the first aperture in order of context and index that takes
it: to the scratchpad bytes, or, where the aperture is bound, to the end of its ring if there is room. It is refused as a whole and counted
when no aperture takes it, when the ring is full, or when it is not aligned to 32 B. -/
def ApertureWritesLand : Prop :=
  ∀ (s : State) (w : Writer) (off : Nat) (data : List Byte),
    let t := off / 2 ^ 20
    let b := off % 2 ^ 20
    let n := data.length
    let x := s.tile t
    let refused (lo : Nat) : State := s.setTile t (x.withRefused (setFld x.refused (lo + 31) lo (min (fld x.refused (lo + 31) lo + 1) (2 ^ 32 - 1))))
    s.inDim = false → t < tileCount → b + n ≤ 0xA0000 → s.cdReady (tileDie t) = true →
    (¬(b % 32 = 0 ∧ n % 32 = 0 ∧ n ≠ 0) → exec (.apertureWrite w off data) s = .next ((refused 0).answer St.apertureAlign)) ∧
    (b % 32 = 0 ∧ n % 32 = 0 ∧ n ≠ 0 → (∀ c i, c < 8 → i < 8 → ¬ApertureTakes s t c i w b n) →
      exec (.apertureWrite w off data) s = .next ((refused 0).answer St.apertureMiss)) ∧
    (b % 32 = 0 ∧ n % 32 = 0 ∧ n ≠ 0 → ∀ c i, c < 8 → i < 8 → ApertureTakes s t c i w b n →
      (∀ d j, d < 8 → j < 8 → (d < c ∨ d = c ∧ j < i) → ¬ApertureTakes s t d j w b n) →
      let a := (x.ctx c).apt i
      (bit a.ctl 1 = false → exec (.apertureWrite w off data) s = .next ((s.setTile t (x.wr b data)).answer 0)) ∧
      (bit a.ctl 1 = true → n ≤ (x.ring c (fld a.ctl 5 2)).room →
        exec (.apertureWrite w off data) s = .next ((s.setTile t (x.append .aperture c (fld a.ctl 5 2) data)).answer 0)) ∧
      (bit a.ctl 1 = true → (x.ring c (fld a.ctl 5 2)).room < n →
        exec (.apertureWrite w off data) s = .next ((refused 32).answer St.ringFull)))

/-- The command in progress of (g, c) is the record `r` (R404, R407). -/
structure Doing (s : State) (g c op : Nat) (r : CmdRun) : Prop where
  region : g < 16
  context : c < 8
  cmd : (s.cmdq g c).cmd = some r
  op : leAt r.bytes 0 1 = op

/-- The command in progress is held and tried again. -/
def waiting (s : State) (g c : Nat) (r : CmdRun) : State := s.setCmdq g c ((s.cmdq g c).withCmd (some (r.withWaits true)))

/-- R195, R196, R198, R211, R349: LOAD_SECTION is refused by the generation words of the image's model, or with the first status that its image meets, SECTION_ACTIVE and IMAGE_BAD for a misaligned address
before any read; an image that is accepted makes the context LOADING with it, and its epoch the region's last one, and the command waits. -/
def LoadsAreJudged : Prop :=
  ∀ (s : State) (g c : Nat) (r : CmdRun) (net : List NetAns), Doing s g c 0x01 r → (s.sec g c).st ≠ .loading →
    let addr := leAt r.bytes 8 8
    let epoch := leAt r.bytes 16 4
    let gen := s.loadGenStatus addr
    (gen ≠ 0 → exec (.loadSection g c net) s = .next (s.completeCmd g c gen)) ∧
    (gen = 0 → (s.sec g c).active = true → exec (.loadSection g c net) s = .next (s.completeCmd g c St.sectionActive)) ∧
    (gen = 0 → (s.sec g c).active = false → addr % 4096 ≠ 0 → exec (.loadSection g c net) s = .next (s.completeCmd g c St.imageBad)) ∧
    (∀ st v, gen = 0 → s.judgeLoad net g c addr epoch = .ok (.no st, v) → exec (.loadSection g c net) s = .next (v.completeCmd g c st)) ∧
    (∀ p, gen = 0 → s.judgeLoad net g c addr epoch = .error p → exec (.loadSection g c net) s = .next (waiting (s.park p) g c r)) ∧
    (∀ im units v, gen = 0 → s.judgeLoad net g c addr epoch = .ok (.yes im units, v) → ∃ u : State, exec (.loadSection g c net) s = .next u ∧
      (u.sec g c).st = .loading ∧ (u.sec g c).epoch = epoch ∧ (u.sec g c).image = some im ∧ (u.sec g c).tiles = im.tiles.map (·.t0) ∧
      (u.sec g c).spill = units ∧ (u.sec g c).fires = (v.sec g c).fires ∧ (u.sec g c).lens = (v.sec g c).lens ∧
      (u.sec g c).fault = none ∧ Sparse.get (fun _ => 0) u.lastEpoch g = epoch ∧
      (∀ k, k ≠ secKey g c → Sparse.get secD u.secs k = Sparse.get secD v.secs k) ∧ u.tiles = v.tiles ∧ u.mem = v.mem ∧ u.regs = v.regs)

/-- R196, R198: an accepted load makes its context LOADED: every tile of the image has the context's words of its record, x1 to x31 from it, p and counters
0, the program in its share of the program store, and no other context of any tile changes but in what tiles share. -/
def LoadedSectionsHoldTheirImage : Prop :=
  ∀ (s : State) (g c : Nat) (im : Image), g < 16 → c < 8 → (s.sec g c).st = .loading → (s.sec g c).image = some im →
    (im.tiles.map (·.t0)).Nodup →
    ∃ u : State, exec (.sectionLoaded g c) s = .next (u.completeCmd g c 0) ∧ (u.sec g c).st = .loaded ∧ (u.sec g c).image = none ∧
      (u.sec g c).epoch = (s.sec g c).epoch ∧ (∀ k, k ≠ secKey g c → Sparse.get secD u.secs k = Sparse.get secD s.secs k) ∧
      (∀ t d, d ≠ c → (u.tile t).ctx d = (s.tile t).ctx d) ∧ u.mem = s.mem ∧ u.regs = s.regs ∧
      ∀ r ∈ im.tiles, let y := (u.tile r.t0).ctx c
        y.fpctl = BitVec.ofNat 64 (leAt r.raw 16 8) ∧ y.srseed = BitVec.ofNat 64 (leAt r.raw 24 8) ∧ y.pc = 0 ∧ y.drains = 0 ∧
        (∀ n, 1 ≤ n → n ≤ 31 → y.xr n = BitVec.ofNat 32 (leAt r.raw (32 + 4 * (n - 1)) 4)) ∧ (∀ n, n ≠ 0 → y.pr n = false) ∧
        (∀ k, k < 16 → y.ring k = Ring.init.withCfg (BitVec.ofNat 64 (leAt r.raw (160 + 8 * k) 8))) ∧
        ∀ n, n < fld y.pstore 28 16 → Sparse.get (fun _ => (0 : W64)) (u.tile r.t0).pstore (fld y.pstore 11 0 + n) = r.prog.getD n 0

/-- R212, R349, R408: START_SECTION waits while the context runs; it is refused for another epoch, a context that is not LOADED, a dark tile, or tokens still held,
in that order; otherwise the start is held, with the command's tag, until its tiles are free and the barriers of its layers open. -/
def StartsAreChecked : Prop :=
  ∀ (s : State) (g c : Nat) (r : CmdRun), Doing s g c 0x03 r →
    let x := s.sec g c
    let refuse (st : Nat) : Prop := exec (.startSection g c) s = .next ((s.setSec g c (x.withStartHeld false)).completeCmd g c st)
    (x.active = true → exec (.startSection g c) s = .next (waiting s g c r)) ∧
    (x.active = false → leAt r.bytes 16 4 ≠ x.epoch → refuse St.epochMismatch) ∧
    (x.active = false → leAt r.bytes 16 4 = x.epoch → x.st ≠ .loaded → refuse St.sectionState) ∧
    (x.st = .loaded → leAt r.bytes 16 4 = x.epoch → (∃ t ∈ x.tiles ++ x.passes, (s.tile t).st = .dark) → refuse St.tileDark) ∧
    (x.st = .loaded → leAt r.bytes 16 4 = x.epoch → (∀ t ∈ x.tiles ++ x.passes, (s.tile t).st ≠ .dark) → s.ctxTokens g c = true → refuse St.queueResidue) ∧
    (x.st = .loaded → leAt r.bytes 16 4 = x.epoch → (∀ t ∈ x.tiles ++ x.passes, (s.tile t).st ≠ .dark) → s.ctxTokens g c = false →
      exec (.startSection g c) s = .next (waiting ((s.setSec g c (x |>.withStartHeld true |>.withTag (leAt r.bytes 4 4))).holdRun g c) g c r))

/-- R110, R121, R155, R170, R212, R214, R216, R349: a held start begins once no write of CHIP_NUMBER waits, its barriers are open and its tiles run nothing: the section is RUNNING with its
recorded lengths, and every one of its tiles runs it from word 0 with predicates and counters 0 and its registers and rings as they were. A section that
is ENDING, or has faulted with nothing that its units had started still to do, ends once none of its tokens is in flight: LOADED, or FAULTED, its tiles run nothing and
their apertures are closed, and its completion is posted. No tile of another section changes. -/
def SectionsStartAndEnd : Prop :=
  ∀ (s : State) (g c : Nat), g < 16 → c < 8 →
    let x := s.sec g c
    let ended (u : State) (st : SecSt) : Prop := ∃ v : State, u = v.postSection g c ∧ v.sec g c = x.withSt st ∧
      (∀ k, k ≠ secKey g c → Sparse.get secD v.secs k = Sparse.get secD s.secs k) ∧ (∀ t, t ∉ x.tiles → v.tile t = s.tile t) ∧
      (∀ t ∈ x.tiles, (v.tile t).run = none ∧ (v.tile t).u = (s.tile t).u.rest ∧ (v.tile t).spad = (s.tile t).spad ∧
        ∀ i, bit (((v.tile t).ctx c).apt i).ctl 0 = false) ∧ (v.withSecs s.secs).withTiles s.tiles = s
    (x.startHeld = true → x.st = .loaded → s.rf 0x8 13 0 = s.chipInForce → (∀ t ∈ x.tiles, (s.tile t).run = none) → s.barrierPassed g c = true →
      (∀ t ∈ x.tiles ++ x.passes, (s.tile t).st ≠ .dark) →
      ∃ u : State, exec (.sectionStart g c) s = .next (u.completeCmd g c 0) ∧ (u.sec g c).st = .running ∧ (u.sec g c).startHeld = false ∧
        (u.sec g c).reported = [] ∧ (u.sec g c).fault = none ∧ (u.sec g c).runFires = 0 ∧ (u.sec g c).lenNext = [] ∧ (u.sec g c).rearmNext = [] ∧
        (u.sec g c).lens = x.lenNext.foldl (fun l e => Sparse.put (fun _ => 0) l e.1 e.2) x.lens ∧
        (u.sec g c).tiles = x.tiles ∧ (u.sec g c).epoch = x.epoch ∧ (∀ t, t ∉ x.tiles → t ∉ x.rearmNext.map (·.1) → u.tile t = s.tile t) ∧
        ∀ t ∈ x.tiles, let y := (u.tile t).ctx c
          (u.tile t).run = some (g, c) ∧ (u.tile t).u = (s.tile t).u.rest.withIssue .running ∧ y.pc = 0 ∧ (∀ n, n ≠ 0 → y.pr n = false) ∧
            (∀ n, y.lcr n = 0) ∧ y.x = ((s.tile t).ctx c).x ∧ y.rings = ((s.tile t).ctx c).rings ∧ y.queues = ((s.tile t).ctx c).queues) ∧
    (x.st = .ending → x.fault = none → s.inFlight g c = false → ∃ u : State, exec (.sectionEnd g c) s = .next u ∧ ended u .loaded) ∧
    (x.active = true → x.fault ≠ none → s.inFlight g c = false → s.workLeft x = false →
      ∃ u : State, exec (.sectionFaulted g c) s = .next u ∧ ended u .faulted)

/-- R219-R222: in its turn among the queues of its die, the spill engine takes the head entry of a full queue in the spill state, whose segment holds
tokens and whose sender waits for credit, to the end of the segment; the credit goes back. With no block free the section faults. A token of the
segment lands in the empty front slot, in order; once both are empty the queue leaves the spill state. -/
def SpilledTokensKeepTheirOrder : Prop :=
  ∀ (s : State) (t c q g : Nat) (k : Token) (rest : List Token), t < tileCount →
    let x := s.tile t
    let e := (x.ctx c).queue q
    let src := fld e.cfg 43 32
    let r := fld e.cfg 47 44
    let key := 128 * t + 16 * c + q
    let set (v : Queue) : Tile := x.updCtx c (fun y => y.setQueue q v)
    s.regionOf t = some g → s.engineTurn (tileDie t) = some key → e.spill = true →
    (16 ≤ e.entries.length → e.entries = k :: rest → e.seg ≠ [] → s.senderWaits g c e = true →
      let v := e |>.withEntries rest |>.withSeg (e.seg ++ [k])
      (v.blocks ≤ e.blocks ∨ s.spillBlocks (s.sec g c) c < 32 * (s.sec g c).spill.length →
        ∃ u : State, exec (.spillMove t c q) s = .next u ∧ u.tile t = set v ∧ (∀ j, j ≠ t → u.tile j = s.tile j) ∧
          u.credits = s.credits ++ [⟨src, c, r, t, fld (((s.tile src).ctx c).route r) 14 9⟩] ∧ u.flight = s.flight ∧ u.mem = s.mem) ∧
      (e.blocks < v.blocks → 32 * (s.sec g c).spill.length ≤ s.spillBlocks (s.sec g c) c →
        exec (.spillMove t c q) s = .next ((s.served key).faultSection g c ⟨3, 0, 0xFFFF⟩ 0))) ∧
    (e.front = none → e.seg = k :: rest → exec (.reinject t c q) s = .next ((s.served key).setTile t
      (set (e |>.withFront (some k) |>.withSeg rest |>.withSegOff (if rest.isEmpty then 0 else (e.segOff + 1) % 16))))) ∧
    (e.front = none → e.seg = [] → exec (.reinject t c q) s = .next ((s.served key).setTile t (set (e |>.withSpill false |>.withSegOff 0))))

/-- R218, R219: the watchdog of a region fires when nothing of it moves or can move, some tile has not reported END and tokens
are queued: the firing counts in every running section. Without a cycle of the wait graph every such section that holds tokens faults with
cause 2. -/
def WatchdogFires : Prop :=
  ∀ (s : State) (g : Nat), g < 16 → s.moving g = false →
    (∃ c t, (s.sec g c).active = true ∧ c < 8 ∧ t ∈ (s.sec g c).tiles ∧ t ∉ (s.sec g c).reported) →
    (∃ c, c < 8 ∧ (s.sec g c).active = true ∧ s.residue (s.sec g c) c ≠ 0) →
    ∃ u : State, exec (.watchdogFire g) s = .next u ∧
      (∀ c, c < 8 → (s.sec g c).active = true → (u.sec g c).fires = min ((s.sec g c).fires + 1) 0xFFFF ∧
        (u.sec g c).runFires = min ((s.sec g c).runFires + 1) 0xFFFF) ∧
      (cycleQueues (s.waitEdges g) = [] → ∀ c, c < 8 → (s.sec g c).active = true → s.residue (s.sec g c) c ≠ 0 → (s.sec g c).fault = none →
        (u.sec g c).fault = some ⟨2, 0, 0xFFFF⟩)

/-- The commands of Table 14.3: constructor and opcode. -/
def listCommands : List ((Nat → Nat → Instr) × Nat) :=
  [ (fun g c => .loadSection g c [], 0x01), (.setLength, 0x02), (.startSection, 0x03), (.rearmCommand, 0x04), (.dispatch, 0x05), (.fenceCommand, 0x06),
    (.signal, 0x07), (.tableSync, 0x08) ]

/-- R404-R407: the command processor takes the next record of the oldest list once the one before is complete, the queue is not STOPPED and LANTERN is
ready; a record that can be read and is legal is then the command in progress and is carried out; one with a reserved opcode or operand is
refused with CMD_BAD; one that cannot be read stops the queue. -/
def CommandsAreTakenInOrder : Prop :=
  ∀ e ∈ listCommands, ∀ (s v : State) (g c : Nat) (l : CmdList) (rest : List CmdList) (st : Nat) (b : List Byte), g < 16 → c < 8 →
    (s.cmdq g c).cmd = none → (s.cmdq g c).lists = l :: rest → (s.cmdq g c).stopped = false → s.ready 3 = true → s.readRecord l = (st, b, v) →
    let taken := v.setCmdq g c ((v.cmdq g c).withCmd (some ⟨b, l.next, false⟩))
    (st = 0 → leAt b 0 1 = e.2 → operandsOk b = true → exec (e.1 g c) s = exec (e.1 g c) taken) ∧
    (st = 0 → (leAt b 0 1 = e.2 ∧ operandsOk b = false ∨ leAt b 0 1 = 0 ∨ 8 < leAt b 0 1) → exec (e.1 g c) s = .next (taken.completeCmd g c St.cmdBad)) ∧
    (st ≠ 0 → ∃ u : State, exec (e.1 g c) s = .next u ∧ (v.cmdq g c = s.cmdq g c → (u.cmdq g c).stopped = true ∧ (u.cmdq g c).cmd = none ∧
      (u.cmdq g c).lists = if l.next + 1 < l.count then l.withNext (l.next + 1) :: rest else rest))

/-- R404, R406, R420: TABLE_SYNC whose entries lie in their table waits until no cache holds them, TABLE_RANGE refuses the others; then it completes. The
completion of a command advances its list, or ends it with the last record, counts in DONE, and stops the queue where it was refused and says so. -/
def CommandsComplete : Prop :=
  ∀ (s : State) (g c : Nat) (r : CmdRun) (l : CmdList) (rest : List CmdList), Doing s g c 0x08 r → (s.cmdq g c).lists = l :: rest →
    (s.cmdq g c).flush = false →
    let b := r.bytes
    let done (u : State) (st : Nat) : Prop := (u.cmdq g c).cmd = none ∧
      (u.cmdq g c).lists = (if l.next + 1 < l.count then l.withNext (l.next + 1) :: rest else rest) ∧
      (u.cmdq g c).stopped = ((s.cmdq g c).stopped || (decide (st ≠ 0) && bit (BitVec.ofNat 64 (leAt b 1 1)) 0)) ∧
      (u.cmdq g c).dispatches = (s.cmdq g c).dispatches ∧
      (∀ k, k ≠ secKey g c → Sparse.get cmdqD u.cmdqs k = Sparse.get cmdqD s.cmdqs k) ∧ u.tiles = s.tiles ∧ u.secs = s.secs
    (s.syncOk (leAt b 8 1) (leAt b 12 4) (leAt b 16 4) = true → exec (.tableSync g c) s = .next (waiting s g c r)) ∧
    (s.syncOk (leAt b 8 1) (leAt b 12 4) (leAt b 16 4) = false → ∃ u : State, exec (.tableSync g c) s = .next u ∧ done u St.tableRange) ∧
    (∃ u : State, exec (.tableSyncComplete g c) s = .next u ∧ done u 0 ∧ u.syncs = s.syncs ++ [(leAt b 8 1, leAt b 12 4, leAt b 16 4)])

/-- R404, R406: a list posted to a queue of the die that leads its region joins its end; a post through another die, or of no record, or to a
full queue, is refused in that order. RESUME leaves STOPPED; FLUSH discards the held lists, after the command in progress if there is one. -/
def ListsAreHeld : Prop :=
  ∀ (s : State) (n g c : Nat) (v : W64), n < 16 → g < 16 → c < 8 →
    let q := s.cmdq g c
    (RegOpen s (cdOff n (0x4000 + 0x20 * secKey g c)) → s.ready 3 = true → s.glareHolds g = false →
      (s.leadDie g ≠ some n → exec (.cmdqPost n g c v) s = .next (s.answer St.cmdqNotLead)) ∧
      (s.leadDie g = some n → fld v 43 32 = 0 ∨ fld v 29 0 % 32 ≠ 0 → exec (.cmdqPost n g c v) s = .next (s.answer St.paramRange)) ∧
      (s.leadDie g = some n → fld v 43 32 ≠ 0 → fld v 29 0 % 32 = 0 → 16 ≤ q.lists.length → exec (.cmdqPost n g c v) s = .next (s.answer St.cmdqFull)) ∧
      (s.leadDie g = some n → fld v 43 32 ≠ 0 → fld v 29 0 % 32 = 0 → q.lists.length < 16 → exec (.cmdqPost n g c v) s =
        .next ((s.setCmdq g c (q.withLists (q.lists ++ [⟨fld v 29 0, fld v 43 32, 0, []⟩]))).answer 0))) ∧
    (s.leadDie g = some n → RegOpen s (cdOff n (0x4000 + 0x20 * secKey g c + 8)) →
      exec (.cmdqResume g c) s = .next ((s.setCmdq g c (q.withStopped false)).answer 0) ∧
      (q.cmd ≠ none → exec (.cmdqFlush g c) s = .next ((s.setCmdq g c (q.withFlush true)).answer 0)) ∧
      (q.cmd = none → ∃ u : State, exec (.cmdqFlush g c) s = .next u ∧ (u.cmdq g c).lists = [] ∧ (u.cmdq g c).stopped = false ∧
        (u.cmdq g c).dispatches = q.dispatches ∧ u.secs = s.secs ∧ u.tiles = s.tiles))

/-- R121, R170, R407, R409: SET_LENGTH records the lengths that its mask names, and REARM a base for its binding; neither takes effect before the next
start. A REARM that names no binding of the context, or a misaligned base, is refused with REARM_BAD. -/
def LengthsAndBasesAreRecorded : Prop :=
  ∀ (s : State) (g c : Nat) (r : CmdRun),
    let b := r.bytes
    let x := s.sec g c
    let tile := leAt b 8 2
    let bound (t : Nat) : Prop := (((s.tile t).ctx c).bind (leAt b 10 1)).bound = true
    let legal := x.st ≠ .empty ∧ x.st ≠ .loading ∧ leAt b 16 8 % 32 = 0 ∧ (if tile = 0xFFFF then ∃ t ∈ x.tiles, bound t else tile ∈ x.tiles ∧ bound tile)
    (Doing s g c 0x02 r → ∃ lens, exec (.setLength g c) s = .next ((s.setSec g c (x.withLenNext lens)).completeCmd g c 0) ∧
      ∀ i, i < 4 → (if bit (BitVec.ofNat 64 (leAt b 8 1)) i = true then (i, BitVec.ofNat 32 (leAt b (16 + 4 * i) 4)) ∈ lens
        else ∀ v, (i, v) ∈ x.lenNext → (i, v) ∈ lens)) ∧
    (Doing s g c 0x04 r → legal → exec (.rearmCommand g c) s =
      .next ((s.setSec g c (x.withRearmNext (x.rearmNext ++ [(tile, leAt b 10 1, leAt b 16 8)]))).completeCmd g c 0)) ∧
    (Doing s g c 0x04 r → ¬legal → exec (.rearmCommand g c) s = .next (s.completeCmd g c St.rearmBad))

/-- R410, R411: FENCE completes when no earlier run is active, every dispatch is acknowledged and, with a flag, a read of the flag word finds it equal to, or at
least, the operand; until then it waits. SIGNAL writes its 8 bytes and posts its event; with address 0 it writes nothing. An access
that a move holds or that has gone to another chip is waited for. -/
def FencesAndSignals : Prop :=
  ∀ (s : State) (g c : Nat) (r : CmdRun),
    let b := r.bytes
    let quiet := (s.sec g c).active = false ∧ (s.cmdq g c).dispatches = []
    let posted (v : State) : State := if leAt b 24 1 = 0xFF then v
      else v.postEvent (leAt b 24 1) 0x08 ((v.leadDie g).getD 0) (secKey g c) (leAt b 4 4) (toLe 8 v.now ++ slice b 16 8)
    let near (a : Nat) : Prop := s.thisChip (gaChip a) = true ∧ 1 ≤ gaSpace a ∧ gaSpace a ≤ 3
    (Doing s g c 0x06 r → leAt b 24 1 = 0 → quiet → exec (.fenceCommand g c) s = .next (s.completeCmd g c 0)) ∧
    (Doing s g c 0x06 r → leAt b 24 1 = 0 → ¬quiet → exec (.fenceCommand g c) s = .next (waiting s g c r)) ∧
    (Doing s g c 0x06 r → leAt b 24 1 ≠ 0 → near (leAt b 8 8) → exec (.fenceCommand g c) s = .next (waiting s g c r)) ∧
    (Doing s g c 0x06 r → leAt b 24 1 ≠ 0 → ¬near (leAt b 8 8) → exec (.fenceCommand g c) s = .next (s.completeCmd g c St.addrSpace)) ∧
    (∀ v, Doing s g c 0x06 r → leAt b 24 1 ≠ 0 → s.cmdAccess (unitReq s 1 (leAt b 8 8) 8 [] (some g)) = (none, v) →
      exec (.fenceFlagPoll g c) s = .next v) ∧
    (∀ (data : List Byte) (loc : Nat) (fwd : Bool) (v : State), Doing s g c 0x06 r → leAt b 24 1 ≠ 0 →
      s.cmdAccess (unitReq s 1 (leAt b 8 8) 8 [] (some g)) = (some ⟨0, data, loc, fwd⟩, v) → v.secs = s.secs → v.cmdqs = s.cmdqs →
      let holds := if leAt b 24 1 = 1 then leNat data = leAt b 16 8 else leAt b 16 8 ≤ leNat data
      (holds → quiet → exec (.fenceFlagPoll g c) s = .next (v.completeCmd g c 0)) ∧ (¬(holds ∧ quiet) → exec (.fenceFlagPoll g c) s = .next v)) ∧
    (Doing s g c 0x07 r → leAt b 8 8 = 0 → exec (.signal g c) s = .next ((posted s).completeCmd g c 0)) ∧
    (∀ v, Doing s g c 0x07 r → leAt b 8 8 ≠ 0 → near (leAt b 8 8) → s.cmdAccess (unitReq s 2 (leAt b 8 8) 8 (slice b 16 8) (some g)) = (none, v) →
      exec (.signal g c) s = .next (waiting v g c r)) ∧
    (∀ (data : List Byte) (loc : Nat) (fwd : Bool) (v : State), Doing s g c 0x07 r → leAt b 8 8 ≠ 0 → near (leAt b 8 8) →
      s.cmdAccess (unitReq s 2 (leAt b 8 8) 8 (slice b 16 8) (some g)) = (some ⟨0, data, loc, fwd⟩, v) →
      exec (.signal g c) s = .next ((posted v).completeCmd g c 0))

/-- R412: DISPATCH reads its buffer of space 0x1 with its region's partition. A list that it sends to a queue of this chip whose region has its partition and a lead die joins
the queue; one that holds a DISPATCH, or another partition, is refused with DISPATCH_DENIED; on another chip it leaves as one
operation and the command completes. -/
def DispatchesDeliverLists : Prop :=
  ∀ (s : State) (g c : Nat) (r : CmdRun), Doing s g c 0x05 r →
    let b := r.bytes
    let buf := leAt b 8 8
    let n := leAt b 16 2
    let req := unitReq s 1 buf n [] (some g)
    let data := s.rdMem (gaKey buf) n
    let h := leAt b 20 1 % 16
    let d := leAt b 20 1 / 16 % 8
    let nested := ∃ i, i < data.length / 32 ∧ leAt data (32 * i) 1 = 0x05
    (gaSpace buf ≠ 1 ∨ s.thisChip (gaChip buf) = false → exec (.dispatch g c) s = .next (s.completeCmd g c St.addrSpace)) ∧
    (gaSpace buf = 1 → s.thisChip (gaChip buf) = true → s.memCheck req = 0 → s.hasBad 1 (gaKey buf) n = false →
      (s.thisChip (leAt b 18 2) = true → leAt b 20 1 < 128 →
        (s.partition h ≠ s.partition g ∨ nested → exec (.dispatch g c) s = .next (s.completeCmd g c St.dispatchDenied)) ∧
        (s.partition h = s.partition g → ¬nested → s.leadDie h ≠ none → s.ready 3 = true → s.glareHolds h = false → (s.cmdq h d).lists.length < 16 →
          exec (.dispatch g c) s = .next
            ((s.setCmdq h d ((s.cmdq h d).withLists ((s.cmdq h d).lists ++ [⟨0, data.length / 32, 0, data⟩]))).completeCmd g c 0))) ∧
      (s.thisChip (leAt b 18 2) = true → 128 ≤ leAt b 20 1 →
        let q := s.mailIn (leAt b 21 1 % 8) s.myChip (s.partition g) data
        exec (.dispatch g c) s = .next (q.2.completeCmd g c q.1)) ∧
      (s.thisChip (leAt b 18 2) = false → s.netBlock (leAt b 18 2) (s.partition g) = none → (∀ e, (s.freeTag e).isSome = true) →
        ∃ v, exec (.dispatch g c) s = .next (State.completeCmd v g c 0) ∧ (∃ o ∈ v.net.ops, o.id = s.net.nextOp ∧ o.op = 5 ∧ o.chip = leAt b 18 2 ∧ o.data = data ∧
          o.span = s.partition g) ∧ (v.cmdq g c).dispatches.map (·.id) = (s.cmdq g c).dispatches.map (·.id) ++ [s.net.nextOp] ∧ v.mem = s.mem))

/-- The descriptor at a job's address can be read, with the management partition, and is `d`; the reading leaves `v` (R241, R243). -/
def DescIs (s : State) (net : List NetAns) (addr : Nat) (d : List Byte) (v : State) : Prop :=
  s.thisChip (gaChip addr) = true ∧ s.unitRead net addr 64 none = .ok (0, d, v)

/-- Job `j` running from state `u`, with the expert entries and PRISM_CTL of that moment; an entry that cannot be read counts as zeros, and
the error it shows is reported (R243, R246, R419). -/
def prismRunning (u : State) (n : Nat) (j : PrismJob) (rest : List PrismJob) (d : List Byte) : State :=
  let base := u.reg (cdOff n 0x3008)
  let is := (List.range (leAt d 10 1 + 1)).map (fun e => leAt d 16 4 + e)
  is.foldl (fun (w : State) i => w.entryMet (some (pRegion d)) true base i)
    (u.setPrismQ n (⟨j.addr, j.since, .running, d, is.map (fun i => (u.entryRead (some (pRegion d)) true base i).getD (List.replicate 64 0)),
      u.reg (cdOff n 0x3000), base⟩ :: rest))

/-- R241, R243, R244: a routing job posted by PRISM_DOORBELL joins the end of its die's queue; a misaligned address, PRISM_CTL.EN = 0 and a queue of 8
are refused in that order. At the front its descriptor is read: an illegal one, or one that cannot be read, ends the job with JOB_BAD; one with a trigger
waits; otherwise the job runs with the expert entries and PRISM_CTL of that moment. A waiting job runs when its section's
completion, posted since, says OK, and ends with SOURCE_FAULT when it says FAULT. -/
def PrismJobsStartInOrder : Prop :=
  ∀ (s : State) (n : Nat) (v : W64), n < 16 →
    (RegOpen s (cdOff n 0x3018) →
      (fld v 5 0 ≠ 0 → exec (.prismDoorbell n v) s = .next (s.answer St.paramRange)) ∧
      (fld v 5 0 = 0 → s.rb (cdOff n 0x3000) 0 = false → exec (.prismDoorbell n v) s = .next (s.answer St.prismOff)) ∧
      (fld v 5 0 = 0 → s.rb (cdOff n 0x3000) 0 = true → 8 ≤ (s.prismQ n).length → exec (.prismDoorbell n v) s = .next (s.answer St.prismBusy)) ∧
      (fld v 5 0 = 0 → s.rb (cdOff n 0x3000) 0 = true → (s.prismQ n).length < 8 → exec (.prismDoorbell n v) s =
        .next ((s.setPrismQ n (s.prismQ n ++ [⟨v.toNat, s.doneSerial, .posted, [], [], 0, 0⟩])).answer 0))) ∧
    (∀ (j : PrismJob) (rest : List PrismJob), s.prismQ n = j :: rest →
      (j.st = .posted → ∀ d u, DescIs s [] j.addr d u →
        (u.prismDescOk n d = false → exec (.prismJobStart n) s =
          .next ((u.setPrismQ n (j.withDesc d :: rest)).endPrism n 1 {})) ∧
        (u.prismDescOk n d = true → leAt d 36 1 % 2 = 1 → exec (.prismJobStart n) s =
          .next (u.setPrismQ n (((j.withDesc d).withSt .waiting) :: rest))) ∧
        (u.prismDescOk n d = true → leAt d 36 1 % 2 = 0 → exec (.prismJobStart n) s = .next (prismRunning u n j rest d))) ∧
      (j.st = .posted → s.thisChip (gaChip j.addr) = false → exec (.prismJobStart n) s = .next (s.endPrism n 1 {})) ∧
      (j.st = .posted → s.thisChip (gaChip j.addr) = true → ∀ st b u, s.unitRead [] j.addr 64 none = .ok (st, b, u) → st ≠ 0 →
        exec (.prismJobStart n) s = .next (u.endPrism n 1 {})) ∧
      (j.st = .posted → s.thisChip (gaChip j.addr) = true → ∀ p, s.unitRead [] j.addr 64 none = .error p → exec (.prismJobStart n) s = .next (s.park p)) ∧
      (j.st = .waiting →
        let e := Sparse.get (fun _ => SecDone.init) s.done (secKey (leAt j.desc 36 1 / 16) (leAt j.desc 37 1 % 8))
        (j.since < e.serial → e.epoch = leAt j.desc 40 4 → e.status = 0 → exec (.prismTrigger n) s = .next (prismRunning s n j rest j.desc)) ∧
        (j.since < e.serial → e.epoch = leAt j.desc 40 4 → e.status ≠ 0 → exec (.prismTrigger n) s = .next (s.endPrism n 2 {})) ∧
        (e.serial ≤ j.since ∨ e.epoch ≠ leAt j.desc 40 4 → exec (.prismTrigger n) s = .next s)))

/-- R246, R248: with the scores of all tokens, no expert accepts more choices than its capacity, each expert's accepted choices take the slots 0, 1, 2, … in
order of rank and then of token, and every choice of a token is accepted, overflowed or dropped as cold. -/
def PrismKeepsCapacities : Prop :=
  ∀ (d : List Byte) (ents : List (List Byte)) (drop : Bool) (sel : List TokenSel), (∀ x ∈ sel, ∀ p ∈ x.picks, p.1 < pExperts d) →
    let r := allocate d ents drop sel
    (∀ e, e < pExperts d → (r.1.getD e {}).accepted ≤ capOf d (ents.getD e [])) ∧
    (∀ e, e < pExperts d → (r.2.filter (fun c => decide (c.expert = e ∧ c.status = 0))).map (·.slot) = List.range (r.1.getD e {}).accepted) ∧
    (∀ t x k p, sel[t]? = some x → k < pK d → x.picks[k]? = some p →
      ∃ c ∈ r.2, c.tok = t ∧ c.rank = k ∧ c.expert = p.1 ∧ c.status ≤ 2) ∧
    ((drop = true → ∀ c ∈ r.2, c.status = 0 → entWarm (ents.getD c.expert []) = true))

/-- R249-R252, R259: a running job whose scores can be read and whose writes all lie in its region's carve-outs writes them, adds to the status fields of
the experts it chose and ends OK; a score that cannot be read ends it with SCORE_FAULT, a write that fails with OUT_FAULT; a write that the home holds or that needs an answer waits for it. Its queue goes on. -/
def PrismJobsEnd : Prop :=
  ∀ (s : State) (n : Nat) (net : List NetAns) (j : PrismJob) (rest : List PrismJob), n < 16 → s.prismQ n = j :: rest → j.st = .running →
    (∀ v, s.readScores net j.desc = .ok (none, v) → exec (.prismJobEnd n net) s = .next (v.endPrism n 3 {})) ∧
    (∀ p, s.readScores net j.desc = .error p → exec (.prismJobEnd n net) s = .next (s.park p)) ∧
    (∀ rows v, s.readScores net j.desc = .ok (some rows, v) →
      let d := j.desc
      let sel := rows.map (selectToken d j.ents)
      let r := allocate d j.ents (bit j.ctl 2) sel
      let gates := sel.zipIdx.map (fun x => finalGates d (bit j.ctl 1) x.1 (r.2.filter (fun c => c.tok == x.2)))
      let noted := if (sel.filter (·.nan)).length > 0 then v.setRb (cdOff n 0x3028) 0 true else v
      (∀ p, noted.outWrites net (pRegion d) (leAt d 24 8) (prismWrites d j.ents r.1 r.2 gates) = .error p →
        exec (.prismJobEnd n net) s = .next (s.park p)) ∧
      (∀ w, noted.outWrites net (pRegion d) (leAt d 24 8) (prismWrites d j.ents r.1 r.2 gates) = .ok (false, w) →
        exec (.prismJobEnd n net) s = .next (w.endPrism n 4 {})) ∧
      (∀ w, noted.outWrites net (pRegion d) (leAt d 24 8) (prismWrites d j.ents r.1 r.2 gates) = .ok (true, w) →
        ∃ k : PrismCounts, exec (.prismJobEnd n net) s = .next ((w.addExperts (pRegion d) j.base (leAt d 16 4) r.1).endPrism n 0 k) ∧
          k.accepted + k.overflowed + k.coldDropped = r.2.length ∧ k.accepted = (r.2.filter (fun c => c.status == 0)).length ∧
          k.nanTokens = (sel.filter (·.nan)).length)) ∧
    (∀ status k, (s.endPrism n status k).prismQ n = rest)

/-- R263, R265, R275: a tint job posted by TINT_DOORBELL joins its die's queue, or is refused for a misaligned address, TINT_CTL.EN = 0 or a queue of 8, in
that order. At the front an illegal descriptor ends it; one with a trigger waits; the others start. A write of TINT_CTL whose cache fields lie
in the cache is taken, and makes the lines stale. -/
def TintJobsStartInOrder : Prop :=
  ∀ (s : State) (n : Nat) (v : W64) (net : List NetAns), n < 16 →
    let t := s.tintU n
    (RegOpen s (cdOff n 0x3418) →
      (fld v 5 0 ≠ 0 → exec (.tintDoorbell n v) s = .next (s.answer St.paramRange)) ∧
      (fld v 5 0 = 0 → s.rb (cdOff n 0x3400) 0 = false → exec (.tintDoorbell n v) s = .next (s.answer St.tintOff)) ∧
      (fld v 5 0 = 0 → s.rb (cdOff n 0x3400) 0 = true → 8 ≤ t.jobs.length → exec (.tintDoorbell n v) s = .next (s.answer St.tintBusy)) ∧
      (fld v 5 0 = 0 → s.rb (cdOff n 0x3400) 0 = true → t.jobs.length < 8 → ∃ j : TintJob, exec (.tintDoorbell n v) s =
        .next ((s.setTintU n (t.withJobs (t.jobs ++ [j]))).answer 0) ∧ j.addr = v.toNat ∧ j.st = .posted ∧ j.since = s.doneSerial)) ∧
    (RegOpen s (cdOff n 0x3400) →
      (fld v 24 16 + fld v 41 32 ≤ 512 → ∃ u : State, exec (.tintCtlWrite n v) s = .next u ∧ u.reply.status = 0 ∧
        u.reg (cdOff n 0x3400) = (s.writeReg (cdOff n 0x3400) v).reg (cdOff n 0x3400) ∧ (u.tintU n).jobs = t.jobs ∧
        (u.tintU n).stale = true) ∧
      (512 < fld v 24 16 + fld v 41 32 → exec (.tintCtlWrite n v) s = .next (s.answer St.paramRange))) ∧
    (∀ j rest d u, t.jobs = j :: rest → j.st = .posted → DescIs s net j.addr d u →
      let at' (q : TintJob) : State := u.setTintU n (t.withJobs (q :: rest))
      (u.tintDescOk d = false → exec (.tintJobStart n net) s = .next ((at' (j.withDesc d)).endTint n 1)) ∧
      (u.tintDescOk d = true → leAt d 36 1 % 4 ≠ 0 → exec (.tintJobStart n net) s = .next (at' ((j.withDesc d).withSt .waiting))) ∧
      (u.tintDescOk d = true → leAt d 36 1 % 4 = 0 → ∀ w, (at' (j.withDesc d)).tintBegin net n = .ok w → exec (.tintJobStart n net) s = .next w) ∧
      (u.tintDescOk d = true → leAt d 36 1 % 4 = 0 → ∀ p, (at' (j.withDesc d)).tintBegin net n = .error p → exec (.tintJobStart n net) s = .next (s.park p))) ∧
    (∀ j rest, t.jobs = j :: rest → j.st = .waiting → leAt j.desc 36 1 % 4 = 1 →
      let e := Sparse.get (fun _ => SecDone.init) s.done (secKey (leAt j.desc 36 1 / 16) (leAt j.desc 37 1 % 8))
      (j.since < e.serial → e.epoch = leAt j.desc 40 4 → e.status = 0 → ∀ w, s.tintBegin net n = .ok w → exec (.tintTrigger n net) s = .next w) ∧
      (j.since < e.serial → e.epoch = leAt j.desc 40 4 → e.status ≠ 0 → exec (.tintTrigger n net) s = .next (s.endTint n 2)))

/-- R266: a job that begins reads its index list; when no token of it names an adapter, it runs with no factor to fetch. -/
def TintJobsBegin : Prop :=
  ∀ (s v : State) (n : Nat) (net : List NetAns) (j : TintJob) (rest : List TintJob) (bs : List Byte), n < 16 → (s.tintU n).jobs = j :: rest →
    let d := j.desc
    let fresh := s.setTintU n (s.tintU n |>.withLines (if (s.tintU n).stale then [] else (s.tintU n).lines) |>.withStale false)
    fresh.unitRead net (leAt d 20 8) (4 * leAt d 8 2) (some (leAt d 36 1 / 16)) = .ok (0, bs, v) → v.tint = fresh.tint →
    (∀ t, t < leAt d 8 2 → leAt bs (4 * t) 4 / 2 ^ 16 % 2 = 0) →
    ∃ w q, s.tintBegin net n = .ok w ∧ (w.tintU n).jobs = q :: rest ∧ q.st = .running ∧ q.ents = [] ∧ q.todo = [] ∧ q.desc = d ∧
      q.idx.length = leAt d 8 2 ∧ (w.tintU n).stale = false ∧ ((s.tintU n).stale = true → (w.tintU n).lines = [])

/-- R275: the next factor line of the running job is taken from the cache when it holds it, which makes it the most recently used, and is fetched
otherwise; the cache never holds more lines than TINT_CTL gave the job. -/
def TintFactorsAreCached : Prop :=
  ∀ (s : State) (n : Nat) (net : List NetAns) (j : TintJob) (rest : List TintJob) (i a : Nat) (e : Nat × List Byte), n < 16 →
    (s.tintU n).jobs = j :: rest → j.st = .running → j.ents.find? (fun x => x.1 == i) = some e → j.todo = [(i, a)] →
    let t := s.tintU n
    let gen := leAt e.2 1 1
    (∀ l, t.lines.find? (fun l => l.is i gen a) = some l → exec (.tintCacheFill n net) s = .next (s.setTintU n
      (t |>.withJobs ((j |>.withHits (j.hits + 1) |>.withFacts (j.facts ++ [(i, a, l.data)]) |>.withTodo []) :: rest)
        |>.withLines (l :: t.lines.filter (fun x => !x.is i gen a))))) ∧
    (t.lines.find? (fun l => l.is i gen a) = none → ∀ bs v, s.factRead net n (leAt e.2 8 8) a 4096 (some (tRegion j.desc)) = .ok (0, bs, v) →
      ∃ w q, exec (.tintCacheFill n net) s = .next w ∧ (w.tintU n).jobs = q :: rest ∧ q.todo = [] ∧ q.misses = j.misses + 1 ∧
        q.facts = j.facts ++ [(i, a, bs)] ∧ (t.lines.length ≤ 16 * fld j.ctl 41 32 → (w.tintU n).lines.length ≤ 16 * fld j.ctl 41 32) ∧
        (fld j.ctl 41 32 ≠ 0 → (w.tintU n).lines.head?.map (·.data) = some bs))

/-- R261, R262, R267, R274, R277: with its factors there, the running job's next record is passed over where its map entry is 0, and written through the
aperture of its address otherwise: delivered, held behind an earlier record or a full ring, or the job ends with DELIVERY_FAULT. A record's rows
that no token tints are zeros. Held records are tried again in order. A job whose records have all landed ends; so does one that has
held a record for 1 ms. -/
def TintRecordsAreDelivered : Prop :=
  ∀ (s v : State) (n : Nat) (net : List NetAns) (j : TintJob) (rest : List TintJob) (m : List Byte), n < 16 →
    (s.tintU n).jobs = j :: rest → j.st = .running →
    let d := j.desc
    let put (w : State) (q : TintJob) : State := w.setTintJob n q
    (j.todo = [] → j.next < recCount d → j.recs.length < 16 → s.unitRead net (leAt d 28 8 + 8 * j.next) 8 (some (tRegion d)) = .ok (0, m, v) →
      (leNat m = 0 → exec (.tintRecordWrite n net) s = .next (put v (j.withNext (j.next + 1)))) ∧
      (∀ rows w, leNat m ≠ 0 → v.recordRows net j j.next = .ok (0, rows, w) →
        let r : TintRec := ⟨j.next, leNat m, (recordBytes j j.next rows).1, none⟩
        let q := j |>.withNext (j.next + 1) |>.withFlags (j.flags ||| tintFlags (recordBytes j j.next rows).2)
        ((∃ h ∈ j.recs, w.sameDest (tRegion d) h r = true) → exec (.tintRecordWrite n net) s = .next (put w (q.withRecs (j.recs ++ [r])))) ∧
        ((∀ h ∈ j.recs, w.sameDest (tRegion d) h r = false) → gaSpace r.addr = 0 → w.thisChip (gaChip r.addr) = true →
          let p := w.apertureWrite ⟨w.partition (tRegion d), w.myChip, none⟩ (gaOff r.addr) r.data
          (p.1 = 0 → exec (.tintRecordWrite n net) s = .next (put p.2 q)) ∧
          (p.1 = St.ringFull ∨ p.1 = St.apertureMiss → exec (.tintRecordWrite n net) s =
            .next (put p.2 (q.withRecs (j.recs ++ [r.withSince (some p.2.now)])))) ∧
          (p.1 ≠ 0 → p.1 ≠ St.ringFull → p.1 ≠ St.apertureMiss → exec (.tintRecordWrite n net) s = .next ((put p.2 q).endTint n 5))))) ∧
    (j.recs = [] → exec (.tintRecordRetry n) s = .next (put s (j.withRecs []))) ∧
    (∀ r, j.recs = [r] → r.since.isSome = true → gaSpace r.addr = 0 → s.thisChip (gaChip r.addr) = true →
      let w := s.count (cdOff n 0x3420) 63 32 1
      let p := w.apertureWrite ⟨w.partition (tRegion d), w.myChip, none⟩ (gaOff r.addr) r.data
      (p.1 = 0 → exec (.tintRecordRetry n) s = .next (put p.2 (j.withRecs []))) ∧
      (p.1 = St.ringFull ∨ p.1 = St.apertureMiss → exec (.tintRecordRetry n) s = .next (put p.2 (j.withRecs [r])))) ∧
    ((∃ r ∈ j.recs, ∃ t, r.since = some t ∧ t + 4000000 ≤ s.now) → exec (.tintDeliveryTimeout n) s = .next (s.endTint n 5)) ∧
    (recCount d ≤ j.next → j.recs = [] → j.todo = [] → exec (.tintJobEnd n) s = .next ((s.addTints j).endTint n 0) ∧
      (j.ents = [] → s.addTints j = s)) ∧
    (∀ rho rows k, k < recRows d → j.adapter (rho / ceilDiv (tN d) (recCols d) * recRows d + k) = none → rows.length = recRows d →
      slice (recordBytes j rho rows).1 (4 * recCols d * k) (4 * recCols d) = List.replicate (4 * recCols d) 0)

/-- The bytes [k, k + n) of this chip's memory keys. -/
def Within (k n j : Nat) : Prop := k ≤ j ∧ j < k + n

/-- R284-R292, R12: bytes written at consecutive addresses read back, every other byte keeps its value, and the memory keeps its canonical form. -/
def MemoryHoldsWhatIsWritten : Prop :=
  ∀ (s : State) (k : Nat) (bs : List Byte), s.memOk = true →
    (s.wrMem k bs).rdMem k bs.length = bs ∧ (s.wrMem k bs).memOk = true ∧
    (∀ j n, j + n ≤ k ∨ k + bs.length ≤ j → (s.wrMem k bs).rdMem j n = s.rdMem j n) ∧
    ∀ n v, v < 256 ^ n → (s.wrLe k n v).rdLe k n = v

/-- R292, R337: the value that an atomic of `kind` leaves in a word of `bits` bits that held `old`. -/
def atomicLeaves (kind bits old a b : Nat) : Option Nat :=
  let m := 2 ^ bits
  let signed (v : Nat) : Int := if v % m < m / 2 then ((v % m : Nat) : Int) else ((v % m : Nat) : Int) - (m : Int)
  match kind with
  | 0x01 => some (a % m)
  | 0x02 => some (if old = a % m then b % m else old)
  | 0x03 => some ((old + a) % m)
  | 0x04 => some (old &&& (a % m))
  | 0x05 => some (old ||| (a % m))
  | 0x06 => some (old ^^^ (a % m))
  | 0x07 => some (if signed a < signed old then a % m else old)
  | 0x08 => some (if signed old < signed a then a % m else old)
  | 0x09 => some (min old (a % m))
  | 0x0A => some (max old (a % m))
  | _ => none

/-- The senders inside the package: LANTERN's cores, Efnil and a region's units. -/
def inside : Origin → Bool
  | .chip _ => false
  | _ => true

/-- R284, R292, R293, R337: a request of a sender in the package, in spaces 0x1-0x3 of this chip, that passes its checks and finds its granule at home
reads, writes or combines its bytes, and its sender gets OK with the bytes read, or those that stood there before an atomic. Nothing else
changes but the old entries kept of a device table that software writes before TABLE_SYNC, and no byte outside the range. -/
def MemoryRequestsAct : Prop :=
  ∀ (s : State) (o : Origin) (span addr len : Nat) (data : List Byte), inside o = true → s.thisChip (gaChip addr) = true →
    (gaSpace addr = 1 ∨ s.homeBase (gaSpace addr - 2) = 0) →
    let k := gaKey addr
    let ok (op : Nat) : Prop := s.memCheck (originReq s o span op addr len data) = 0 ∧ s.hasBad (gaSpace addr) k len = false
    (ok 1 → exec (.memoryRequest o span 1 addr len data .clean) s = .next (s.answerData 0 (s.rdMem k len))) ∧
    (ok 2 → ∃ u : State, exec (.memoryRequest o span 2 addr len data .clean) s = .next u ∧ u.reply = ⟨0, []⟩ ∧
      ((u.withMem s.mem).withBad s.bad).withReply s.reply = s.withNet (s.net.withTabs u.net.tabs) ∧ u.rdMem k len = slice data 0 len ∧
      ∀ j n, j + n ≤ k ∨ k + len ≤ j → u.rdMem j n = s.rdMem j n) ∧
    (ok 3 → ∀ v, atomicLeaves (beAt data 0 1) (8 * len) (s.rdLe k len) (beAt data 8 8) (beAt data 16 8) = some v →
      ∃ u : State, exec (.memoryRequest o span 3 addr len data .clean) s = .next u ∧ u.reply = ⟨0, toBe 8 (s.rdLe k len)⟩ ∧
        (u.withMem s.mem).withReply s.reply = s.withNet (s.net.withTabs u.net.tabs) ∧ u.rdLe k len = v ∧ ∀ j n, j + n ≤ k ∨ k + len ≤ j → u.rdMem j n = s.rdMem j n)

/-- R285-R292, R294, R327 (Table 10.3): the checks of a request of this chip come in order: Dim, the space, the range, length and alignment, readiness of the
memory, and the carve-outs of the partition. The first that fails is its status, and nothing else changes. -/
def MemoryRequestsAreChecked : Prop :=
  ∀ (s : State) (o : Origin) (span op addr len : Nat) (data : List Byte) (ecc : Ecc), inside o = true → s.thisChip (gaChip addr) = true →
    1 ≤ op → op ≤ 3 →
    let r := originReq s o span op addr len data
    let space := gaSpace addr
    let off := gaOff addr
    let answers (st : Nat) : Prop := exec (.memoryRequest o span op addr len data ecc) s = .next (s.answerData st [])
    let fits := 0 < len ∧ len % 4 = 0 ∧ off % 4 = 0 ∧ len ≤ r.top ∧ (op = 3 → off % len = 0) ∧ (space ≠ 1 → off / 2 ^ 21 = (off + (len - 1)) / 2 ^ 21)
    (s.inDim = true → space ≤ 3 → answers St.pwrDim) ∧
    (s.inDim = false → space = 0 ∨ 3 < space → answers St.addrSpace) ∧
    (s.inDim = false → 1 ≤ space → space ≤ 3 → s.inSpace space off (max 1 len) = false → answers St.addrRange) ∧
    (s.inDim = false → 1 ≤ space → space ≤ 3 → s.inSpace space off (max 1 len) = true → ¬fits → answers St.addrAlign) ∧
    (s.inDim = false → space = 2 → s.inSpace space off (max 1 len) = true → fits → s.hbmReady (off / 2 ^ 36) = false → answers St.dieNotReady) ∧
    (∀ g, s.inDim = false → o = .region g → g < 16 → s.partition g ≠ 0xFFF → space = 2 → s.inSpace space off (max 1 len) = true → fits →
      s.hbmReady (off / 2 ^ 36) = true → (∀ h, h < 16 → s.partition h = s.partition g → s.inCarve h space off = false) → answers St.memDenied)

/-- R533, R534, R541: a word that the codes cannot correct is stored as such: a read of it by a core ends with MEM_ERROR. -/
def LostWordsReadAsErrors : Prop :=
  ∀ (s : State) (i span addr len : Nat) (data : List Byte), s.thisChip (gaChip addr) = true → gaSpace addr = 1 →
    s.memCheck (originReq s (.core i) span 1 addr len data) = 0 →
    ∃ u : State, exec (.memoryRequest (.core i) span 1 addr len data .lost) s = .next u ∧ u.reply = ⟨St.memError, []⟩ ∧
      gaKey addr / 32 * 32 ∈ u.bad ∧ (gaOff addr < 2 ^ 29 → u.secs = s.secs ∧ u.tiles = s.tiles)

/-- R293, R308: a request whose address names another chip, with a route and a free tag, leaves as one operation and is answered later. -/
def RequestsOfOtherChipsLeave : Prop :=
  ∀ (s : State) (o : Origin) (span op addr len : Nat) (data : List Byte), inside o = true → 1 ≤ op → op ≤ 3 →
    s.thisChip (gaChip addr) = false → s.netBlock (gaChip addr) (originReq s o span op addr len data).part = none → (∀ e, (s.freeTag e).isSome = true) →
    ∃ u : State, exec (.memoryRequest o span op addr len data .clean) s = .next u ∧ u.reply = s.reply ∧ u.mem = s.mem ∧ u.tiles = s.tiles ∧
      ∃ p ∈ u.net.ops, p.id = s.net.nextOp ∧ p.op = op ∧ p.addr = addr ∧ p.len = len ∧ p.chip = gaChip addr ∧ p.done = none

/-- No other region's carve-out and no job stands in the way of a carve-out of region g (R295, R296). -/
def CarveFree (s : State) (g : Nat) : Prop :=
  s.glareHolds g = false ∧ (∀ c, c < 8 → (s.sec g c).active = false ∧ (s.sec g c).st ≠ .loading) ∧ s.jobsFor g = false

/-- R295-R297: a write of a carve-out register is taken when its range lies in the memory, meets no other region's (and, on a die store, not the factor
cache, and covers the spill units in use), and its region has no context at work and no job; it is refused otherwise. MEM_T2_CFG takes a map of 1, 2, 4, 8 or 16 ready
channels that hold the capacity, while T2 is off or unchanged, counts them in NCH, and leaves every byte at its place in its channel. -/
def CarveOutsAreJudged : Prop :=
  ∀ (s : State) (n g : Nat) (v : W64), n < 16 → g < 16 →
    let apart (b l : Nat) (o : Nat → Nat) (hi ll lh : Nat) : Prop := ∀ h, h < 16 → h ≠ g → Apart b l (s.rf (o h) hi 0) (s.rf (o h) lh ll)
    let result (c : Instr) (o : Nat) (legal : Prop) : Prop :=
      (legal → exec c s = .next ((s.writeReg o v).answer 0)) ∧ (¬legal → ∃ st, st ≠ 0 ∧ exec c s = .next (s.answer st))
    (RegOpen s (dsCarve n g) → result (.cdDsCarveWrite n g v) (dsCarve n g)
      (CarveFree s g ∧ fld v 25 16 ≤ 512 ∧ apart (fld v 8 0) (fld v 25 16) (dsCarve n) 8 16 25 ∧
        Apart (fld v 8 0) (fld v 25 16) (s.rf (cdOff n 0x3400) 24 16) (s.rf (cdOff n 0x3400) 24 16 + s.rf (cdOff n 0x3400) 41 32) ∧
        (s.leadDie g = some n → ∀ c, c < 8 → ∀ q ∈ (s.sec g c).spill, fld v 8 0 ≤ q ∧ q < fld v 25 16))) ∧
    (RegOpen s (t1Carve n g) → result (.cdT1CarveWrite n g v) (t1Carve n g)
      (CarveFree s g ∧ fld v 14 0 ≤ 24575 ∧ fld v 30 16 ≤ 24576 ∧ apart (fld v 14 0) (fld v 30 16) (t1Carve n) 14 16 30)) ∧
    (RegOpen s (t2Carve g) → result (.memT2CarveWrite g v) (t2Carve g)
      (CarveFree s g ∧ (fld v 21 0 < fld v 46 24 → fld v 46 24 ≤ s.granules 1) ∧ apart (fld v 21 0) (fld v 46 24) t2Carve 21 24 46)) ∧
    (RegOpen s 0x40000 → (s.t2On = true → fld v 15 0 = s.rf 0x40000 15 0 ∧ fld v 35 24 = s.rf 0x40000 35 24) → s.t2CarvedBeyond (2 ^ 9 * (popCount 16 (fld v 15 0) * fld v 35 24)) = false →
      popCount 16 (fld v 15 0) ∈ [1, 2, 4, 8, 16] → 1 ≤ fld v 35 24 → fld v 35 24 ≤ 512 →
      (∀ i, i < 16 → bit v i = true → s.chReady i = true ∧ fld v 35 24 ≤ s.rf (0x10500 + i * 8) 9 0) →
      exec (.memT2CfgWrite v) s = .next ((((s.remapT2 (fld v 15 0) (fld v 35 24)).writeReg 0x40000 v).setRf 0x40000 20 16 (popCount 16 (fld v 15 0))).answer 0))

/-- R306: a copy job joins the queue of 16, or is refused when 16 are held. Its descriptor is read; an address or a length that breaks
the rules ends it with its status; the copy of a legal job ends it with the bytes written, waits for a home that holds a write or an answer, and has written its whole length when it
ends OK. -/
def CopyJobsRun : Prop :=
  ∀ (s v : State) (w : W64) (net : List NetAns) (j : CopyJob) (rest : List CopyJob) (d : List Byte),
    (RegOpen s 0x40018 →
      (16 ≤ s.net.copies.length → exec (.memCopyDoorbell w) s = .next (s.answer St.copyBusy)) ∧
      (s.net.copies.length < 16 → exec (.memCopyDoorbell w) s =
        .next ((s.withNet (s.net.withCopies (s.net.copies ++ [⟨w.toNat, false, false⟩]))).answer 0))) ∧
    (s.net.copies = j :: rest → ∀ st, st ≠ 0 → s.unitRead net j.addr 32 none = .ok (st, d, v) → exec (.copyJobEnd net) s = .next (v.endCopy 0 st 0)) ∧
    (s.net.copies = j :: rest → s.unitRead net j.addr 32 none = .ok (0, d, v) → v.copyBad d = false →
      (v.copyAddr d ≠ 0 → exec (.copyJobEnd net) s = .next (v.endCopy (leAt d 28 4) (v.copyAddr d) 0)) ∧
      (v.copyAddr d = 0 → leAt d 24 1 ≠ 3 → ∀ p, v.copyWork net d = .error p → exec (.copyJobEnd net) s = .next (s.park p)) ∧
      (v.copyAddr d = 0 → leAt d 24 1 ≠ 3 → ∀ st n x, v.copyWork net d = .ok (st, n, x) →
        exec (.copyJobEnd net) s = .next (x.endCopy (leAt d 28 4) st n)) ∧
      (v.copyAddr d = 0 → leAt d 24 1 = 3 → j.lost = true → exec (.copyJobEnd net) s = .next (v.endCopy (leAt d 28 4) St.homeLost 0)) ∧
      (v.copyAddr d = 0 → leAt d 24 1 = 3 → j.lost = false → j.sent = true → v.treeBusy (leAt d 26 1 % 16) = false →
        exec (.copyJobEnd net) s = .next (v.endCopy (leAt d 28 4) 0 (leAt d 16 8))) ∧
      (v.copyAddr d = 0 → leAt d 24 1 = 3 → j.lost = false → j.sent = false → v.ouvOn = true → ∀ off x,
        v.castPieces net (copyFor d) (leAt d 26 1 % 16) (leAt d 26 1 / 16) (leAt d 28 4) (leAt d 16 8) (leAt d 0 8) (leAt d 8 8)
          (leAt d 26 1 / 16 == 1) (leAt d 16 8 / 2040 + 4) 0 = .ok (0, off, x) →
        exec (.copyJobEnd net) s = .next (x.withNet (x.net.withCopies (j.withSent true :: rest))))) ∧
    (leAt d 24 1 = 0 → ∀ st n x, s.copyWork net d = .ok (st, n, x) → n ≤ leAt d 16 8 ∧ (st = 0 → n = leAt d 16 8)) ∧
    (s.net.copies = j :: rest → ∀ job st n, (s.endCopy job st n).net.copies = rest)

/-- R312-R315: MEM_LOAN_RANGE and MEM_LOAN_PEER of a slot are written while it is FREE. GRANT makes a FREE slot ACTIVE when its range lies in its region's carve-out, meets no
other loan and is lent to another chip. RECALL makes an ACTIVE slot RECALLING, and its grace begins. GRACE microseconds later, not before, it is SCRUBBING; the end of
the scrub leaves zeros in every byte of the range, and the slot FREE. -/
def Obligations.LoansGoThroughTheirStates : Prop :=
  ∀ (s : State) (k : Nat) (v : W64), k < 64 →
    let first := s.rf (loanReg k 0) 21 0
    let count := s.rf (loanReg k 0) 45 24
    let tier := s.rf (loanReg k 0) 48 48
    let st (n : Nat) (u : State) : State := u.setRf (loanReg k 0x10) 1 0 n
    let clear := ∀ j, j < 64 → j ≠ k → s.loanState j ≠ 0 → s.rf (loanReg j 0) 48 48 = tier →
      Apart first (first + count) (s.rf (loanReg j 0) 21 0) (s.rf (loanReg j 0) 21 0 + s.rf (loanReg j 0) 45 24)
    (RegOpen s (loanReg k 0) → fld v 45 24 ≠ 0 → s.loanState k = 0 → exec (.memLoanWrite k false v) s = .next ((s.writeReg (loanReg k 0) v).answer 0)) ∧
    (RegOpen s (loanReg k 0) → s.loanState k ≠ 0 → exec (.memLoanWrite k false v) s = .next (s.answer St.loanBusy)) ∧
    (RegOpen s (loanReg k 0) → fld v 45 24 = 0 → s.loanState k = 0 → exec (.memLoanWrite k false v) s = .next (s.answer St.paramRange)) ∧
    (RegOpen s (loanReg k 8) → s.loanState k = 0 → exec (.memLoanWrite k true v) s = .next ((s.writeReg (loanReg k 8) v).answer 0)) ∧
    (RegOpen s (loanReg k 8) → s.loanState k ≠ 0 → exec (.memLoanWrite k true v) s = .next (s.answer St.loanBusy)) ∧
    (RegOpen s (loanReg k 0x10) →
      (s.loanState k = 0 → s.loanInCarve (s.loanRegion k) tier first count = true → clear → s.thisChip (s.loanBorrower k) = false →
        exec (.grant k) s = .next ((st 1 s).answer 0)) ∧
      (s.loanState k = 0 → s.loanInCarve (s.loanRegion k) tier first count = false → exec (.grant k) s = .next (s.answer St.loanRange)) ∧
      (s.loanState k = 0 → s.loanInCarve (s.loanRegion k) tier first count = true → ¬clear → exec (.grant k) s = .next (s.answer St.loanOverlap)) ∧
      (s.loanState k = 1 → ∃ u : State, exec (.recall k) s = .next u ∧ u.reply = ⟨0, []⟩ ∧ u.loanState k = 2 ∧ (k, s.now) ∈ u.net.grace ∧
        u.mem = s.mem ∧ u.tiles = s.tiles ∧ u.secs = s.secs)) ∧
    (∀ t, s.net.grace.find? (fun e => e.1 == k) = some (k, t) → s.now < t + 4000 * s.rf (loanReg k 8) 47 32 →
      exec (.loanGraceExpiry k) s = .next s) ∧
    (s.loanState k = 2 → (∀ e ∈ s.net.grace, e.1 = k → e.2 + 4000 * s.rf (loanReg k 8) 47 32 ≤ s.now) →
      ∃ u : State, exec (.loanGraceExpiry k) s = .next u ∧ u.regs = (st 3 s).regs ∧ (∀ e ∈ u.net.grace, e.1 ≠ k) ∧
      (u.withNet s.net).withRegs s.regs = s) ∧
    (s.loanState k = 3 → ∃ u : State, exec (.loanScrubDone k) s = .next u ∧ u.regs = (st 0 s).regs ∧
      (((u.withMem s.mem).withBad s.bad).withRegs s.regs) = s ∧
      (∀ p ∈ loanParts tier first count, ∀ a, memKey (2 + tier) p.1 ≤ a → a < memKey (2 + tier) p.2 → Sparse.get memD u.mem a = 0 ∧ a ∉ u.bad) ∧
      (∀ a, (∀ p ∈ loanParts tier first count, a < memKey (2 + tier) p.1 ∨ memKey (2 + tier) p.2 ≤ a) →
        Sparse.get memD u.mem a = Sparse.get memD s.mem a ∧ (a ∈ u.bad ↔ a ∈ s.bad)))

/-- R320-R323: an entry of a home table that is written reads back, and the entries of other granules keep what they hold. -/
def HomeEntriesReadBack : Prop :=
  ∀ (s : State) (tier g h : Nat) (e : HomeEnt), s.homeBase tier ≠ 0 → e.st < 8 → e.slot < 16 → e.peer < 2 ^ 64 → e.flip < 2 ^ 64 → g ≠ h →
    gaKey (s.homeBase tier) + 32 * max g h + 32 ≤ 2 ^ 50 →
    (s.setHome tier g e).home tier g = e ∧ (s.setHome tier g e).home tier h = s.home tier h

/-- R322, R324, R334-R336, R341, R343: the home tables move while no move is held; the commands of MEM_HOME_CMD act on a granule of a tier with a table: RECLAIM makes a
MOVED entry past its afterglow HOME again, SET_RO and CLEAR_RO set RO of a HOME entry, RESOLVE makes a MOVING_IN entry HOME, ABORT_OUT a MOVING_OUT entry whose move is
gone; each is refused in every other state of the entry. -/
def HomeCommandsAct : Prop :=
  ∀ (s : State) (tier g : Nat) (v : W64), tier < 2 →
    let e := s.home tier g
    let home := s.setHome tier g ⟨0, e.ro, 0, 0, 0⟩
    (RegOpen s (0x42000 + 8 * tier) →
      let legal := v = 0 ∨ s.thisChip (gaChip v.toNat) = true ∧ gaSpace v.toNat = 2 ∧ v.toNat % 4096 = 0
      (legal → s.net.moves = [] → s.net.inbound = [] → exec (.memHometabWrite tier v) s = .next ((s.writeReg (0x42000 + 8 * tier) v).answer 0)) ∧
      ((s.net.moves ≠ [] ∨ s.net.inbound ≠ []) → exec (.memHometabWrite tier v) s = .next (s.answer St.moveBusy)) ∧
      (¬legal → s.net.moves = [] → s.net.inbound = [] → exec (.memHometabWrite tier v) s = .next (s.answer St.paramRange))) ∧
    (RegOpen s 0x42028 → (s.granules tier ≤ g ∨ s.homeBase tier = 0) → ∀ c ∈ [Instr.reclaim tier g, .setRo tier g, .clearRo tier g, .resolve tier g,
      .abortOut tier g], exec c s = .next (s.answer St.moveRange)) ∧
    (RegOpen s 0x42028 → g < s.granules tier → s.homeBase tier ≠ 0 →
      (e.st = 2 → s.inGlow tier g e = false → exec (.reclaim tier g) s = .next (home.answer 0)) ∧
      (e.st ≠ 2 ∨ s.inGlow tier g e = true → exec (.reclaim tier g) s = .next (s.answer St.moveState)) ∧
      (e.st = 0 → exec (.setRo tier g) s = .next ((s.setHome tier g (e.withRo true)).answer 0)) ∧
      (e.st = 0 → exec (.clearRo tier g) s = .next ((s.setHome tier g (e.withRo false)).answer 0)) ∧
      (e.st ≠ 0 → exec (.setRo tier g) s = .next (s.answer St.moveState) ∧ exec (.clearRo tier g) s = .next (s.answer St.moveState)) ∧
      (e.st = 3 → exec (.resolve tier g) s = .next ((s.endIn tier g e.ro).answer 0)) ∧
      (e.st ≠ 3 → exec (.resolve tier g) s = .next (s.answer St.moveState)) ∧
      (e.st = 1 → s.net.moves = [] → ∃ u : State, exec (.abortOut tier g) s = .next u ∧ u.reply = ⟨0, []⟩ ∧ u.tiles = s.tiles ∧
        (s.thisChip (gaChip e.peer) = false → u.mem = home.mem ∧ (tier, g) ∉ u.net.cut)) ∧
      (e.st ≠ 1 → exec (.abortOut tier g) s = .next (s.answer St.moveState)))

/-- The move job of a slot, and its descriptor's source granule. -/
structure Moving (s : State) (slot : Nat) (j : MoveJob) (tier g : Nat) : Prop where
  job : s.moveJob slot = some j
  slot : j.slot = slot
  tier : tier = gaTier (mSrc j.desc)
  granule : g = gaGranule (mSrc j.desc)

/-- R328-R330: MEM_MOVE_DOORBELL puts a move into the lowest free slot of 16. A job that breaks an order of its checks ends with that status. To a destination on this
chip that accepts it, it begins at once: the destination's entry is MOVING_IN; a destination on another chip is asked. When the begin is
acknowledged and the checks still pass, the source's entry becomes MOVING_OUT and all 512 blocks are to be copied; otherwise the destination is told
that the move is aborted. -/
def MovesBegin : Prop :=
  ∀ (s : State) (v : W64) (slot : Nat) (j : MoveJob) (d : List Byte) (x : State) (tier g : Nat),
    (RegOpen s 0x42020 → fld v 4 0 = 0 → slot < 16 → (∀ x ∈ s.net.moves, x.slot ≠ slot) → (∀ k, k < slot → ∃ x ∈ s.net.moves, x.slot = k) →
      ∃ q : MoveJob, exec (.memMoveDoorbell v) s = .next ((s.withNet (s.net.withMoves (s.net.moves ++ [q]))).answer 0) ∧ q.slot = slot ∧
        q.addr = v.toNat ∧ q.ph = .posted ∧ q.held = []) ∧
    (RegOpen s 0x42020 → fld v 4 0 = 0 → (∀ k, k < 16 → ∃ x ∈ s.net.moves, x.slot = k) → exec (.memMoveDoorbell v) s = .next (s.answer St.moveBusy)) ∧
    (s.moveJob slot = some j → j.slot = slot → j.ph = .posted → x.moveJob slot = some j →
      (∀ p, s.unitRead [] j.addr 32 none = .error p → exec (.moveJobStart slot) s = .next (s.park p)) ∧
      (∀ st, st ≠ 0 → s.unitRead [] j.addr 32 none = .ok (st, d, x) → exec (.moveJobStart slot) s =
        .next (x.endMove (j.withDesc []) (if st = St.homeLost then 6 else if st = St.memError then 7 else 1) 0)) ∧
      (s.unitRead [] j.addr 32 none = .ok (0, d, x) →
        (x.moveCheck d ≠ 0 → exec (.moveJobStart slot) s = .next (x.endMove (j.withDesc d) (x.moveCheck d) 0)) ∧
        (x.moveCheck d = 0 → x.thisChip (gaChip (mDst d)) = true → x.beginStatus (mDst d) (x.partition (mRegion d)) none = 0 →
          ∃ u : State, exec (.moveJobStart slot) s = .next u ∧ u.moveJob slot = some ((j.withDesc d).withPh .beginning) ∧
            u.mem = (x.setHome (gaTier (mDst d)) (gaGranule (mDst d))
              ⟨3, (x.home (gaTier (mSrc d)) (gaGranule (mSrc d))).ro, slot, x.granuleAt (gaTier (mSrc d)) (gaGranule (mSrc d)), 0⟩).mem ∧
            (gaTier (mDst d), gaGranule (mDst d)) ∈ u.net.cut ∧ ∃ o ∈ u.net.ops, o.client = .moveBegin slot ∧ o.done = some ⟨0, [], 0, false⟩) ∧
        (x.moveCheck d = 0 → x.thisChip (gaChip (mDst d)) = false → x.netBlock (gaChip (mDst d)) (x.partition (mRegion d)) = none →
          (∀ e, (x.freeTag e).isSome = true) →
          ∃ u : State, exec (.moveJobStart slot) s = .next u ∧ u.moveJob slot = some ((j.withDesc d).withPh .beginning) ∧ u.mem = x.mem ∧
            ∃ o ∈ u.net.ops, o.client = .moveBegin slot ∧ o.chip = gaChip (mDst d) ∧ o.op = 4 ∧ o.done = none))) ∧
    (∀ o a w, Moving s slot j tier g → j.ph = .beginning → s.takeOp (fun c => c == Client.moveBegin slot) = some (o, a, w) →
      (a.status = St.homeLost → exec (.moveBeginAck slot) s = .next (w.endMove j 6 0)) ∧
      (a.status ≠ 0 → a.status ≠ St.homeLost → exec (.moveBeginAck slot) s = .next (w.endMove j 4 0)) ∧
      (a.status = 0 → w.moveCheck j.desc ≠ 0 → exec (.moveBeginAck slot) s = .next ((w.endMove j (w.moveCheck j.desc) 0).sendAbort tier g slot
        (w.partition (mRegion j.desc)) (mDst j.desc))) ∧
      (a.status = 0 → w.moveCheck j.desc = 0 → ∃ u : State, exec (.moveBeginAck slot) s = .next (u.issueCopies slot 256) ∧ (tier, g) ∈ u.net.cut ∧
        u.mem = (w.setHome tier g ⟨1, (w.home tier g).ro, slot, mDst j.desc, 0⟩).mem ∧
        u.moveJob slot = some (j |>.withPh .copying |>.withPass 0 |>.withTodo (List.range 512))))

/-- R330-R333: a block whose copy is acknowledged is no longer outstanding; a copy that fails aborts the move. When a pass has nothing left, the blocks written
meanwhile are copied in another one, and with at most 8 of them, or after the third pass, the granule freezes. The flip of a frozen move makes the
entry MOVED with its time, in afterglow, and sends the commit; its acknowledgement ends the move OK. A freeze that has lasted FREEZE_MAX aborts. -/
def MovesCopyAndFlip : Prop :=
  ∀ (s : State) (slot : Nat) (j : MoveJob) (tier g : Nat), Moving s slot j tier g →
    (∀ o a w b, s.takeOp (fun c => match c with | .moveCopy k _ => k == slot | _ => false) = some (o, a, w) → o.client = .moveCopy slot b →
      w.moveJob slot = some j →
      let out := j.out.filter (fun x => x != b)
      (a.status ≠ 0 → exec (.moveCopyAck slot) s =
        .next (w.abortMove j (if a.status = St.homeLost then 6 else if a.status = St.memError then 7 else 5))) ∧
      (a.status = 0 → j.todo = [] → out ≠ [] → exec (.moveCopyAck slot) s = .next (w.setMove (j.withOut out))) ∧
      (a.status = 0 → j.todo = [] → out = [] → j.ph = .copying → j.dirty = [] → exec (.moveCopyAck slot) s =
        .next ((w.setMove (j.withOut [])).setMove (j |>.withOut [] |>.withPh .frozen |>.withFrozenAt w.now |>.withTodo [] |>.withFrozenBlocks 0))) ∧
      (a.status = 0 → j.todo = [] → out = [] → j.ph = .copying → 8 < j.dirty.length → j.pass < 3 → exec (.moveCopyAck slot) s =
        .next (((w.setMove (j.withOut [])).setMove (j |>.withOut [] |>.withPass (j.pass + 1) |>.withTodo j.dirty)).issueCopies slot 256))) ∧
    (s.takeOp (fun c => match c with | .moveCopy k _ => k == slot | _ => false) = none → j.todo ≠ [] → exec (.moveCopyAck slot) s = .next (s.copyOn slot)) ∧
    (j.ph = .frozen → j.todo = [] → j.out = [] → j.held = [] → s.thisChip (gaChip (mDst j.desc)) = false →
      s.netBlock (gaChip (mDst j.desc)) (s.partition (mRegion j.desc)) = none → (∀ e, (s.freeTag e).isSome = true) →
      ∃ u : State, exec (.moveFlip slot) s = .next u ∧ u.mem = (s.setHome tier g ⟨2, (s.home tier g).ro, 0, mDst j.desc, s.now⟩).mem ∧
        (tier, g) ∈ u.net.glow ∧ (tier, g) ∉ u.net.cut ∧ (∃ o ∈ u.net.ops, o.client = .moveCommit slot ∧ o.op = 4 ∧ o.chip = gaChip (mDst j.desc)) ∧
        ∃ q, u.moveJob slot = some q ∧ q.ph = .committing ∧ q.flip = s.now) ∧
    (j.ph = .frozen → j.todo = [] → j.out = [] → s.thisChip (gaChip (mDst j.desc)) = true → ∃ u : State, exec (.moveFlip slot) s = .next (u.releaseHeld j.held) ∧
      (tier, g) ∈ u.net.glow ∧ ∃ o ∈ u.net.ops, o.client = .moveCommit slot ∧ o.done = some ⟨0, [], 0, false⟩) ∧
    (∀ o a w, s.takeOp (fun c => c == Client.moveCommit slot) = some (o, a, w) →
      exec (.moveCommitAck slot) s = .next (w.endMove j (if a.status = St.homeLost then 6 else 0) j.frozenAt)) ∧
    (j.ph = .frozen → j.frozenAt + 4000 * s.rf 0x42010 31 16 ≤ s.now → exec (.freezeTimeout slot) s = .next (s.abortMove j 5)) ∧
    (s.now < j.frozenAt + 4000 * s.rf 0x42010 31 16 → exec (.freezeTimeout slot) s = .next s) ∧
    (∀ st n, ((s.endMove j st n).moveJob slot = none) ∧ (s.endMove j st n).tiles = s.tiles ∧ (s.endMove j st n).secs = s.secs)

/-- R324-R326, R335, R340: the afterglow of an entry ends; a MOVING_IN entry that has heard nothing for 2 ms and whose source on this chip is at home again
becomes HOME; an operation without an answer for 2 ms, or to a lost chip, ends with HOME_LOST, which its client gets; a write of 1 to CD_REDIRECT_FLUSH empties the die's redirect cache. -/
def HomesSettle : Prop :=
  ∀ (s : State) (tier g id n : Nat) (v : W64),
    (s.inGlow tier g (s.home tier g) = true → exec (.afterglowEnd tier g) s = .next s) ∧
    (s.inGlow tier g (s.home tier g) = false → ∃ u : State, exec (.afterglowEnd tier g) s = .next u ∧ u.withNet s.net = s ∧ u.net.withGlow s.net.glow = s.net ∧
      ∀ e, e ∈ u.net.glow ↔ e ∈ s.net.glow ∧ e ≠ (tier, g)) ∧
    (∀ e, e = s.home tier g → e.st = 3 → s.thisChip (gaChip e.peer) = true → (∀ o ∈ s.net.ops, o.client ≠ .query tier g) →
      (∀ m ∈ s.net.inbound, m.tier = tier → m.granule = g → m.last + 8000000 ≤ s.now ∧ ∀ t, m.asked = some t → t + 4000000 ≤ s.now) →
      let p := s.home (gaTier e.peer) (gaGranule e.peer)
      (p.st = 0 ∨ p.st = 2 → exec (.movingInQuery tier g) s = .next (s.endIn tier g e.ro)) ∧
      (p.st = 1 ∨ p.st = 3 → exec (.movingInQuery tier g) s = .next s)) ∧
    (∀ o, s.netOp id = some o → s.now < o.born + 8000000 → s.isLost o.chip = false → exec (.operationTimeout id) s = .next s) ∧
    (∀ o, s.netOp id = some o → o.done = none → o.chip ≠ 0x3FFF → o.op ≠ 7 → (o.born + 8000000 ≤ s.now ∨ s.isLost o.chip = true) →
      exec (.operationTimeout id) s = .next (s.answerOp o ⟨St.homeLost, [], 0, false⟩) ∧
      (∀ t k, o.client = .piece t k → (∃ p ∈ (s.tile t).u.pieces, p.lead = k) → (∀ q ∈ s.net.ops, q.id = id → q = o) →
        ∃ u : State, exec (.operationTimeout id) s = .next u ∧ u.tiles = s.tiles ∧ ∃ q ∈ u.net.ops, q.id = id ∧ q.done = some ⟨St.homeLost, [], 0, false⟩)) ∧
    (n < 16 → RegOpen s (cdOff n 0x3910) → exec (.redirectFlush n v) s = .next ((if bit v 0 then s.setRedirects n [] else s).answer 0))

/-- Cavor's own writes of the `n` bytes at `a` are performed there: no home table moves them, and the memory is there and holds no lost word (R293, R320). -/
def CavorReaches (s : State) (a n : Nat) : Prop :=
  s.homeBase 0 = 0 ∧ s.homeBase 1 = 0 ∧ s.bad = [] ∧ s.memCheck (unitReq s 2 a n [] none) = 0

/-- The entry of model `m` lies in the table and can be written. -/
def ModelOpen (s : State) (m : Nat) : Prop := m < s.rf 0x30508 10 0 ∧ CavorReaches s (s.modelBase.toNat + 64 * m) 64

/-- The package job in front has ended with `status`, and the others wait behind it. -/
def FrontEnds (u : State) (rest : List PkgJob) (status : Nat) : Prop :=
  u.pkg.jobs.drop 1 = rest ∧ ∃ q ∈ u.pkg.jobs.head?, q.ph = .ended ∧ q.status = status

/-- R320, R418: Cavor writes a status field of a device table: the entry holds it, and at its other bytes what it held; no other byte of memory, no register
and no tile changes. -/
def StatusFieldsAreWritten : Prop :=
  ∀ (s : State) (base : W64) (i o n v : Nat), 0 < n → o + n ≤ 64 → v < 256 ^ n → CavorReaches s (base.toNat + 64 * i) 64 →
    let u := s.setEntry base i o n v
    let k := gaKey (base.toNat + 64 * i)
    slice (u.tableEntry base i) o n = toLe n v ∧
      (∀ p m, p + m ≤ o ∨ (o + n ≤ p ∧ p + m ≤ 64) → slice (u.tableEntry base i) p m = slice (s.tableEntry base i) p m) ∧
      u.rdMem (k + o) n = toLe n v ∧ (∀ a, a < k + o ∨ k + o + n ≤ a → u.rdMem a 1 = s.rdMem a 1) ∧
      (u.withMem s.mem).withNet (u.net |>.withTabs s.net.tabs |>.withOldTabs s.net.oldTabs) = s

/-- R350, R354: SRV_PKG_DOORBELL takes a descriptor aligned to 64 B into a list of at most 8 jobs, which run one at a time. The job in front that has ended posts
its completion, is counted, and as failed too when it failed, and gives way to the next. -/
def PackageJobsWaitInLine : Prop :=
  (∀ (s : State) (v : W64), RegOpen s 0x30510 →
    (fld v 5 0 ≠ 0 → exec (.srvPkgDoorbell v) s = .next (s.answer St.paramRange)) ∧
    (fld v 5 0 = 0 → 8 ≤ s.pkg.jobs.length → exec (.srvPkgDoorbell v) s = .next (s.answer St.pkgBusy)) ∧
    (fld v 5 0 = 0 → s.pkg.jobs.length < 8 → ∃ j : PkgJob, j.addr = v.toNat ∧ j.ph = .posted ∧ j.desc = [] ∧
      exec (.srvPkgDoorbell v) s = .next ((s.withPkg (s.pkg.withJobs (s.pkg.jobs ++ [j]))).answer 0))) ∧
  (∀ (s : State) (j : PkgJob) (rest : List PkgJob), s.pkg.jobs = j :: rest → j.ph = .ended →
    ∃ u : State, exec .pkgJobEnd s = .next u ∧ u.pkg.jobs = rest ∧ u.pkg.verified = s.pkg.verified ∧ u.srv = s.srv ∧ u.tiles = s.tiles ∧ u.net = s.net ∧
      u.rf 0x30518 47 32 = min (s.rf 0x30518 47 32 + 1) 0xFFFF ∧
      u.rf 0x30518 63 48 = (if j.status = 0 then s.rf 0x30518 63 48 else min (s.rf 0x30518 63 48 + 1) 0xFFFF) ∧
      ∃ c : List Byte, c.length = 32 ∧ slice c 0 8 = toLe 8 s.now ∧ slice c 8 4 = toLe 4 (kJob j.desc) ∧ slice c 12 1 = toLe 1 j.status ∧
        slice c 16 4 = toLe 4 j.parts ∧ slice c 20 2 = toLe 2 j.failed ∧ slice c 24 8 = toLe 8 j.copied ∧
        u.mem = (s.postEvent (s.evRoute 4) 0x07 16 0xFF 0 c).mem)

/-- R351, R353, R357, R358: pkgJobStart: a job that comes to the front reads its descriptor, model entry and header once. One that cannot be read, or that fails a check, ends with that
status. Without a package it waits for the first chunk; a VERIFY runs; an INSTALL runs with every generation word WRITING; a SWAP runs at once, or
at the next boundary. -/
def PackageJobsAreChecked : Prop :=
  ∀ (s v : State) (j : PkgJob) (rest : List PkgJob) (d : List Byte) (got : Nat), s.pkg.jobs = j :: rest → j.ph = .posted → j.desc = [] →
    s.unitRead [] j.addr 64 none = .ok (got, d, v) → v.pkg = s.pkg → d ≠ [] →
    let k := j.withDesc d |>.withEntry (v.modelEntry (kModel d)) |>.withHeard v.now
    (∀ (x : State) (p : Park), x.pkg = s.pkg → x.unitRead [] j.addr 64 none = .error p → exec .pkgJobStart x = .next (x.park p)) ∧
    (got ≠ 0 → exec .pkgJobStart s = .next (v.pkgEnd (j.withDesc []) got 0xFFFF)) ∧
    (got = 0 → v.pkgDescOk d = false → exec .pkgJobStart s = .next (v.withPkg (v.pkg.withJobs
      ((k |>.withPh .ended |>.withStatus St.pkgDesc |>.withFailed 0xFFFF |>.withSeen []) :: rest)))) ∧
    (got = 0 → v.pkgDescOk d = true → kPkg d = 0 → exec .pkgJobStart s = .next (v.withPkg (v.pkg.withJobs (k :: rest)))) ∧
    (∀ (h : List Byte) (w y : State) (st : Nat), got = 0 → v.pkgDescOk d = true → kPkg d ≠ 0 → v.pkgRead k 0 256 = .ok (0, h, w) →
      w.pkgJudge (k.withHeader h) = .ok (st, y) → y.pkg = s.pkg →
      (st ≠ 0 → ∃ u : State, exec .pkgJobStart s = .next u ∧ FrontEnds u rest st ∧ u.mem = y.mem) ∧
      (st = 0 → kOp d = 2 → exec .pkgJobStart s = .next (y.withPkg (y.pkg.withJobs ((k.withHeader h |>.withPh .running) :: rest)))) ∧
      (st = 0 → kOp d = 1 → y.rb 0x30000 0 = true → exec .pkgJobStart s =
        .next (y.withPkg (y.pkg.withJobs ((k.withHeader h |>.withPh .waitSwap) :: rest)))) ∧
      (st = 0 → kOp d = 1 → y.rb 0x30000 0 = false → ModelOpen y (kModel d) → ∃ u : State, exec .pkgJobStart s = .next u ∧
        u.pkg.jobs = (k.withHeader h |>.withPh .running) :: rest ∧ u.srv.swaps = y.srv.swaps ++ [(kModel d, hGen h, kPolicy d)] ∧
        mState (u.modelEntry (kModel d)) = 3 ∧ mTarget (u.modelEntry (kModel d)) = hGen h % 2 ^ 32 ∧ u.regs = y.regs ∧ u.tiles = y.tiles) ∧
      (st = 0 → kOp d = 0 → ModelOpen y (kModel d) → gaKey (mWords k.entry) + 8 * hLayers h ≤ 2 ^ 50 →
        (∀ l, l < hLayers h → CavorReaches y (mWords k.entry + 8 * l) 8) → ∃ u : State, exec .pkgJobStart s = .next u ∧
        u.pkg.jobs = (k.withHeader h |>.withPh .running) :: rest ∧ u.regs = y.regs ∧ u.tiles = y.tiles ∧
        ∀ l, l < hLayers h → u.genWord k.entry l = 0xFFFFFFFF))

/-- R352, R353: install copies the chip's share; with every copy made and the header's digest the model is READY and
the package listed; a copy that fails, or another digest, leaves the model TORN. verify only reads, and lists its package. The list holds 64. -/
def PackagesAreInstalled : Prop :=
  ∀ (s : State) (j : PkgJob) (rest : List PkgJob), s.pkg.jobs = j :: rest → j.ph = .running → kChain j.desc = false → kPkg j.desc ≠ 0 →
    let h := j.header
    let m := kModel j.desc
    (∀ p, kOp j.desc = 0 → s.pkgCopies (kRegion j.desc) (s.pkgWork j) 0 0 = .error p → exec .install s = .next (s.park p)) ∧
    (∀ (l parts n : Nat) (v w : State) (st : Nat) (body : List Byte), kOp j.desc = 0 →
      s.pkgCopies (kRegion j.desc) (s.pkgWork j) 0 0 = .ok (st, l, parts, n, v) → v.pkg = s.pkg →
      (st ≠ 0 → ModelOpen v m → ∃ u : State, exec .install s = .next u ∧ FrontEnds u rest st ∧ u.pkg.verified = s.pkg.verified ∧
        (∃ q ∈ u.pkg.jobs.head?, q.failed = l ∧ q.parts = parts ∧ q.copied = n) ∧ mState (u.modelEntry m) = 4) ∧
      (st = 0 → v.pkgRead (j |>.withParts parts |>.withCopied n) 256 (hBytes h - 256) = .ok (0, body, w) → w.pkg = s.pkg → ModelOpen w m →
        (digestOk h body = true → ∃ u : State, exec .install s = .next u ∧ FrontEnds u rest 0 ∧
          (∃ q ∈ u.pkg.jobs.head?, q.parts = parts ∧ q.copied = n) ∧ mState (u.modelEntry m) = 2 ∧
          u.pkg.verified.getLast? = some (gaKey (kPkg j.desc), slice h 64 64) ∧ u.pkg.verified.length ≤ max 64 (s.pkg.verified.length)) ∧
        (digestOk h body = false → ∃ u : State, exec .install s = .next u ∧ FrontEnds u rest St.pkgDigest ∧
          mState (u.modelEntry m) = 4 ∧ u.pkg.verified = s.pkg.verified))) ∧
    (∀ (body : List Byte) (w : State), kOp j.desc = 2 → s.pkgRead j 256 (hBytes h - 256) = .ok (0, body, w) → w.pkg = s.pkg →
      ∃ u : State, exec .verify s = .next u ∧ u.mem = w.mem ∧ u.regs = w.regs ∧ FrontEnds u rest (if digestOk h body then 0 else St.pkgDigest) ∧
        (digestOk h body = true → u.pkg.verified.getLast? = some (gaKey (kPkg j.desc), slice h 64 64)) ∧
        (digestOk h body = false → u.pkg.verified = s.pkg.verified))

/-- R359, R360: pkgSwapLayer writes the first layer whose word does not read the new GEN, while no run reads it; its word
reads WRITING meanwhile and the new GEN afterwards, the lines of compressed parts that it replaces are dropped, and a copy that
fails leaves the model TORN. With every word at the new GEN the model is READY. -/
def LayersAreSwapped : Prop :=
  ∀ (s : State) (j : PkgJob) (rest : List PkgJob), s.pkg.jobs = j :: rest → j.ph = .running → kOp j.desc = 1 →
    let h := j.header
    let m := kModel j.desc
    let old := (List.range (hLayers h)).find? (fun l => s.genWord j.entry l != hGen h)
    let mine (l : Nat) (r : List Byte) : Bool := pLayer r == l
    let used (l : Nat) : Prop := ∃ c ∈ s.pkgParts j (mine l), s.rangeInUse c.dst c.bytes = true
    (∀ (v : State) (q : PkgJob), v.pkg = s.pkg → kModel q.desc = m → ModelOpen v m → mState ((v.swapDone q).modelEntry m) = 2 ∧
      (kChain q.desc = false → FrontEnds (v.swapDone q) rest 0)) ∧
    (old = none → exec .pkgSwapLayer s = .next (s.swapDone j)) ∧
    (∀ l, old = some l → used l → exec .pkgSwapLayer s = .next s) ∧
    (∀ l, old = some l → ¬used l →
      let begun := (s.setRf 0x30518 19 8 l).setWord j.entry l genWriting
      (∀ p, begun.pkgCopies (kRegion j.desc) (s.pkgParts j (mine l)) j.parts j.copied = .error p → exec .pkgSwapLayer s = .next (s.park p)) ∧
      (∀ (st b n c : Nat) (w : State), begun.pkgCopies (kRegion j.desc) (s.pkgParts j (mine l)) j.parts j.copied = .ok (st, b, n, c, w) →
        w.pkg = s.pkg →
        let q := j |>.withParts n |>.withCopied c |>.withLayer l
        let placed := placedBy j ((s.pkgPartRecs j).filter (mine l)) [] []
        let x := ((((placed.filter (·.comp)).foldl (fun (y : State) p => y.dropLines p.addr p.bytes) w).setPlaced placed
          (fun p => p.model == m && p.layer == l)).setWord j.entry l (hGen h))
        (st ≠ 0 → ModelOpen w m → ∃ u : State, exec .pkgSwapLayer s = .next u ∧ FrontEnds u rest st ∧
          (∃ q ∈ u.pkg.jobs.head?, q.failed = l) ∧ mState (u.modelEntry m) = 4) ∧
        (st = 0 → x.allAt j.entry (hGen h) = false → exec .pkgSwapLayer s = .next (x.withPkg (x.pkg.withJobs (q :: rest)))) ∧
        (st = 0 → x.allAt j.entry (hGen h) = true → exec .pkgSwapLayer s = .next (x.swapDone q))))

/-- R355, R356: a chip of a chain that is running takes the chunk at its staging slot, or at the head of the chain from the package: the bytes of its share are copied and the
chunk goes to the slot of its successor; the chunk is done when its writes there are answered OK. A chunk that cannot be read ends the job;
2 ms without one ends it with CHAIN_LOST, and an INSTALL that has begun is then TORN. -/
def ChunksPassAlong : Prop :=
  (∀ (s v : State) (j : PkgJob) (rest : List PkgJob) (slot st : Nat) (bs : List Byte), s.pkg.jobs = j :: rest → j.ph = .running →
    kChain j.desc = true → j.desc ≠ [] → j.header ≠ [] → kOp j.desc = 2 → j.passing = false → j.bad = 0 → v.pkg = s.pkg →
    let n := 2 ^ 22
    let at_ := if kPkg j.desc ≠ 0 then kPkg j.desc + n * j.chunk else kStage j.desc + n * (j.chunk % kSlots j.desc)
    let left := hBytes j.header - n * j.chunk
    let q := j |>.withSeen (j.seen ++ bs) |>.withHeard v.now
    let late := if kPkg j.desc ≠ 0 then 0 else v.chainLate q (n * j.chunk) (n * j.chunk + bs.length)
    s.unitRead [] at_ (min n left) (some (kRegion j.desc)) = .ok (st, bs, v) →
    (st ≠ 0 → ∃ u : State, exec (.chainChunk slot) s = .next u ∧ FrontEnds u rest st ∧ u.mem = v.mem) ∧
    (st = 0 → late ≠ 0 → ∃ u : State, exec (.chainChunk slot) s = .next u ∧ FrontEnds u rest late ∧ u.mem = v.mem) ∧
    (st = 0 → late = 0 → kNext j.desc = 0x3FFF → n < left → exec (.chainChunk slot) s = .next (v.withPkg (v.pkg.withJobs ((q.withChunk (j.chunk + 1)) :: rest)))) ∧
    (st = 0 → late = 0 → kNext j.desc = 0x3FFF → n * j.chunk < hBytes j.header → left ≤ n → ∃ u : State, exec (.chainChunk slot) s = .next u ∧ u.mem = v.mem ∧
      FrontEnds u rest (if digestOk j.header (slice (j.seen ++ bs) 256 (hBytes j.header - 256)) then 0 else St.pkgDigest)) ∧
    (∀ (away bad : Nat) (w : State), st = 0 → late = 0 → kNext j.desc ≠ 0x3FFF → n * j.chunk ≤ hBytes j.header →
      v.chainForward (kNext j.desc) slot (v.partition (kRegion j.desc)) (slice bs 0 (min n left)) = some (away, bad, w) → w.pkg = s.pkg →
      exec (.chainChunk slot) s = .next (w.withPkg (w.pkg.withJobs
        ((q |>.withChunk (j.chunk + 1) |>.withPassing true |>.withAway away |>.withBad bad) :: rest))))) ∧
  (∀ (s : State) (j : PkgJob) (rest : List PkgJob) (slot : Nat), s.pkg.jobs = j :: rest → j.ph = .running → kChain j.desc = true →
    j.desc ≠ [] → j.passing = true → kOp j.desc ≠ 1 →
    (j.away ≠ 0 → exec (.chainChunk slot) s = .next s) ∧
    (j.away = 0 → j.bad ≠ 0 → ∃ u : State, exec (.chainChunk slot) s = .next u ∧ FrontEnds u rest j.bad) ∧
    (j.away = 0 → j.bad = 0 → 2 ^ 22 * j.chunk < hBytes j.header →
      exec (.chainChunk slot) s = .next (s.withPkg (s.pkg.withJobs ((j.withPassing false) :: rest))))) ∧
  (∀ (s : State) (j : PkgJob) (rest : List PkgJob), s.pkg.jobs = j :: rest → j.desc ≠ [] → kFrom j.desc ≠ 0x3FFF → j.ph ≠ .ended →
    (s.now < j.heard + 8000000 → exec .chainLost s = .next s) ∧
    (j.heard + 8000000 ≤ s.now → ∃ u : State, exec .chainLost s = .next u ∧ FrontEnds u rest St.chainLost ∧
      (j.ph ≠ .running ∨ kOp j.desc ≠ 0 → u.mem = s.mem ∧ u.regs = s.regs ∧ u.tiles = s.tiles) ∧
      (j.ph = .running → kOp j.desc = 0 → ModelOpen s (kModel j.desc) → mState (u.modelEntry (kModel j.desc)) = 4 ∧ u.regs = s.regs ∧ u.tiles = s.tiles)))

/-- R279: SRV_VEIL_PRIME puts a VALID veil that is not PRIMING to PRIMING. A veil that has been primed becomes READY with the generation of its model and the
time, when its model is READY or SWAPPING and of the veil's model ID; otherwise FAILED. -/
def VeilsArePrimed : Prop :=
  ∀ (s : State) (w : W64) (v m : Nat) (ok : Bool),
    let e := s.veilEntry v
    let x := s.modelEntry m
    let good := ok = true ∧ entValid x = true ∧ leAt x 4 4 = leAt e 4 4 ∧ (mState x = 2 ∨ mState x = 3)
    (fld w 11 0 = v → RegOpen s 0x30410 →
      (entValid e = false → exec (.srvVeilPrime w) s = .next (s.answer St.veilInvalid)) ∧
      (entValid e = true → leAt e 48 1 = 1 → exec (.srvVeilPrime w) s = .next (s.answer St.veilBusy)) ∧
      (entValid e = true → leAt e 48 1 ≠ 1 → exec (.srvVeilPrime w) s = .next ((s.setEntry s.veilBase v 48 1 1).answer 0))) ∧
    (leAt e 48 1 = 1 →
      (good → ∃ u : State, exec (.veilPrimed v m ok) s = .next u ∧ (CavorReaches s (s.veilBase.toNat + 64 * v) 64 →
        slice (u.veilEntry v) 48 1 = [2] ∧ slice (u.veilEntry v) 8 4 = slice x 8 4 ∧ slice (u.veilEntry v) 52 8 = toLe 8 s.now ∧
          (u.withMem s.mem).withNet (u.net |>.withTabs s.net.tabs |>.withOldTabs s.net.oldTabs) = s)) ∧
      (¬good → exec (.veilPrimed v m ok) s = .next (s.setEntry s.veilBase v 48 1 3))) ∧
    (leAt e 48 1 ≠ 1 → exec (.veilPrimed v m ok) s = .next s)

/-- R279, R320, R350-R360, R418: Cavor writes status fields of the tables; package jobs wait in line, are checked, install, swap and pass along chains; veils are primed. -/
def Obligations.PackagesAndVeils : Prop :=
  StatusFieldsAreWritten ∧ PackageJobsWaitInLine ∧ PackageJobsAreChecked ∧ PackagesAreInstalled ∧ LayersAreSwapped ∧ ChunksPassAlong ∧ VeilsArePrimed

/-- `f` is the inbound serving frame in front of the intake, which ENABLE lets work, and its header follows the rules of R367 with type `k`. -/
structure Serving (s : State) (f : InFrame) (rest : List InFrame) (k : Nat) : Prop where
  front : s.net.srvIn = f :: rest
  on : s.rb 0x30000 0 = true
  head : srvHeadOk f.bytes = true
  type : vType f.bytes = k

/-- R367: while ENABLE is 0, and for a frame that breaks the header rules, the frame in front is dropped and counted; a broken frame of an inbound
type and at least 32 bytes is answered with status 0x10. -/
def BadFramesAreDropped : Prop :=
  ∀ (s : State) (f : InFrame) (rest : List InFrame), s.net.srvIn = f :: rest →
    let b := f.bytes
    let v := (s.withNet (s.net.withSrvIn rest)).count 0x30088 63 48 1
    (s.rb 0x30000 0 = false → exec .servingFrameBad s = .next v) ∧
    (s.rb 0x30000 0 = true → srvHeadOk b = false → (32 ≤ b.length ∧ 1 ≤ vType b ∧ vType b ≤ 3) → exec .servingFrameBad s = .next (v.answerReq f 0x10 0 0 0 0 0)) ∧
    (s.rb 0x30000 0 = true → srvHeadOk b = false → ¬(32 ≤ b.length ∧ 1 ≤ vType b ∧ vType b ≤ 3) → exec .servingFrameBad s = .next v)

/-- Cavor's own writes of the entry of sequence i are performed there, and its prompt area is this chip's. -/
def SeqOpen (s : State) (i : Nat) : Prop :=
  CavorReaches s (s.seqAddr i) 256 ∧ s.seqAddr i % 256 = 0 ∧ s.thisChip (gaChip (s.seqAddr i)) = true ∧
    ∀ k, k < 8192 → s.thisChip (gaChip ((s.reg 0x30070).toNat + 8192 * i + k)) = true

/-- R371-R373, R377, R382: a REQUEST with a bad body is refused with 0x10, one of a tenant that is not VALID with 0x11; a request that repeats a pair of the echo filter is
answered from its sequence; another one is refused with the first status of Table 13.3 that applies, and counted, or takes the free entry: the
entry holds the request, PENDING, the pair joins the echo filter, and ACCEPTED counts. -/
def RequestsAreTaken : Prop :=
  ∀ (s : State) (f : InFrame) (rest : List InFrame), Serving s f rest 1 →
    let b := f.bytes
    let q := qBody b
    let t := vTenant b
    let v := s.withNet (s.net.withSrvIn rest)
    let refuse (u : State) (st : Nat) : Host.Outcome State Fault Refusal := .next ((u.count 0x30088 47 32 1).answerReq f st 0 0 0 0 0)
    (bodyOk q = false → exec .request s = refuse v 0x10) ∧
    (bodyOk q = true → entValid (v.tenant t) = false → exec .request s = refuse v 0x11) ∧
    (bodyOk q = true → entValid (v.tenant t) = true → ∀ e, v.echoOf t (vId b) = some e →
      (e.ended = none → exec .request s = .next (v.answerReq f 1 0 e.seq (v.qMade e.seq) 0 0)) ∧
      (e.ended ≠ none → v.seqF e.seq 1 1 = e.gen → exec .request s =
        .next (v.answerReq f 2 (v.seqF e.seq 3 1) e.seq 0 (v.qMade e.seq - 256) (min (v.qMade e.seq) 256))) ∧
      (e.ended ≠ none → v.seqF e.seq 1 1 ≠ e.gen → exec .request s = .next (v.answerReq f 2 0 e.seq 0 0 0))) ∧
    (bodyOk q = true → entValid (v.tenant t) = true → v.echoOf t (vId b) = none → v.reqStatus b ≠ 0 → v.reqStatus b ≠ 0x22 →
      exec .request s = refuse (v.addTenant t 44 4 1) (v.reqStatus b)) ∧
    (bodyOk q = true → entValid (v.tenant t) = true → v.echoOf t (vId b) = none → v.reqStatus b = 0 → ∀ i, v.freeSeq = some i → SeqOpen v i →
      ∃ w u : State, exec .request s = .next u ∧ u = (w.count 0x30088 31 0 1).answerReq f 0 0 i 0 0 0 ∧ w.regs = s.regs ∧ w.tiles = s.tiles ∧ w.pkg = s.pkg ∧
        i ∈ w.srv.seqs ∧ (∀ j, j ∈ w.srv.seqs ↔ j = i ∨ j ∈ s.srv.seqs) ∧ ⟨t, vId b, i, (v.seqF i 1 1 + 1) % 256, none⟩ ∈ w.srv.echo ∧
        (bByref q = true → bMask q ≠ 1 → w.qState i = 1 ∧ w.qTenant i = t ∧ w.qId i = vId b ∧ w.qModel i = bModel q ∧ w.qPrompt i = bLen q ∧ w.qMade i = 0))

/-- R375, R376: a CANCEL of a live sequence marks its entry; a FETCH returns the tokens of the result ring from the index asked for, of the last 256 made. Both say so of a
pair that is not known, and refuse a tenant that is not VALID, and a FETCH too short for its index. -/
def CancelsAndFetchesAct : Prop :=
  ∀ (s : State) (f : InFrame) (rest : List InFrame) (k : Nat), Serving s f rest k →
    let b := f.bytes
    let t := vTenant b
    let v := s.withNet (s.net.withSrvIn rest)
    let refused := (v.count 0x30088 47 32 1).answerReq f 0x11 0 0 0 0 0
    (k = 2 → entValid (v.tenant t) = false → exec .cancel s = .next refused) ∧
    (k = 3 → b.length < 36 → exec .fetch s = .next ((v.count 0x30088 47 32 1).answerReq f 0x10 0 0 0 0 0)) ∧
    (k = 3 → 36 ≤ b.length → entValid (v.tenant t) = false → exec .fetch s = .next refused) ∧
    (k = 2 → entValid (v.tenant t) = true → v.echoOf t (vId b) = none → exec .cancel s = .next (v.answerReq f 3 0 0 0 0 0)) ∧
    (k = 3 → 36 ≤ b.length → entValid (v.tenant t) = true → v.echoOf t (vId b) = none → exec .fetch s = .next (v.answerReq f 3 0 0 0 0 0)) ∧
    (k = 2 → entValid (v.tenant t) = true → ∀ e, v.echoOf t (vId b) = some e → e.ended = none →
      exec .cancel s = .next ((v.setSeqF e.seq 27 1 1).answerReq f 0 0 e.seq 0 0 0)) ∧
    (k = 3 → 36 ≤ b.length → entValid (v.tenant t) = true → ∀ e, v.echoOf t (vId b) = some e → v.seqF e.seq 1 1 = e.gen →
      let n := v.qMade e.seq
      let first := max (beAt b 32 4) (n - 256)
      ∃ toks : List Byte, toks.length = 4 * (n - first) ∧
        (∀ j, j < n - first → slice toks (4 * j) 4 = toBe 4 (v.ringTok e.seq (first + j))) ∧
        exec .fetch s = .next (v.srvAnswer f 0x14 t (vId b) (toBe 4 first ++ toBe 2 (n - first) ++ toBe 1 (v.seqF e.seq 3 1) ++ toBe 1 0 ++ toks)))

/-- R377: a pair leaves the echo filter WINDOW seconds after its sequence has ended; no other pair does. -/
def PairsExpire : Prop :=
  ∀ (s : State) (t id : Nat), ∃ l : List Echo, exec (.echoExpiry t id) s = .next (s.withSrv (s.srv.withEcho l)) ∧
    ∀ e, e ∈ l ↔ e ∈ s.srv.echo ∧ ¬(e.tenant = t ∧ e.id = id ∧ ∃ τ, e.ended = some τ ∧ τ + 4000000000 * s.rf 0x30058 9 0 ≤ s.now)

/-- R365-R377: the intake of the serving engine screens frames, takes requests, and serves CANCEL and FETCH. -/
def Obligations.ServingIntake : Prop := BadFramesAreDropped ∧ RequestsAreTaken ∧ CancelsAndFetchesAct ∧ PairsExpire

/-- R358, R386, R398, R399: SRV_CTL takes ENABLE only while T1 serves tables; the first boundary then comes at the next start of a step, and clearing it closes the
step and lets a waiting SWAP begin. RESUME within 2 s of a heartbeat leaves Hold at the next boundary, otherwise it is refused with HOLD. A heartbeat
is kept with its time; without one for 2 s, and with HB_ARM, Hold is entered at the next boundary. -/
def HoldFollowsTheHeartbeat : Prop :=
  ∀ (s : State) (v : W64), RegOpen s 0x30000 →
    (bit v 0 = true → s.ready 5 = false → exec (.serveEnable v) s = .next (s.answer St.dieNotReady)) ∧
    ((bit v 0 = true → s.ready 5 = true) → bit v 2 = false → bit v 0 = s.rb 0x30000 0 → exec (.serveEnable v) s = .next ((s.writeReg 0x30000 v).answer 0)) ∧
    (s.ready 5 = true → bit v 2 = false → bit v 0 = true → s.rb 0x30000 0 = false → 0 < s.rf 0x30008 19 0 → ∃ d, exec (.serveEnable v) s =
      .next (((s.writeReg 0x30000 v).withSrv (s.srv.withDue d)).answer 0) ∧ s.now ≤ d ∧ (s.now ≤ (s.reg 0x30010).toNat → d = (s.reg 0x30010).toNat) ∧
      ((s.reg 0x30010).toNat < s.now → (d - (s.reg 0x30010).toNat) % (4000 * s.rf 0x30008 19 0) = 0 ∧ d < s.now + 4000 * s.rf 0x30008 19 0)) ∧
    (bit v 2 = false → bit v 0 = false → s.rb 0x30000 0 = true → ∃ u : State, exec (.serveEnable v) s = .next (u.answer 0) ∧ u.srv.going = false ∧
      (s.srv.going = true → u.srv.decode = [] ∧ u.srv.entries = []) ∧ (∀ p ∈ u.pkg.jobs.head?, p.ph ≠ .waitSwap)) ∧
    ((bit v 0 = true → s.ready 5 = true) → bit v 2 = true → (∀ t, s.srv.beat = some t → 8000000000 < s.now - t) →
      exec (.serveEnable v) s = .next (s.answer St.hold)) ∧
    ((s.rb 0x30000 0 = true → s.ready 5 = true) → ∀ t, s.srv.beat = some t → s.now - t ≤ 8000000000 →
      ∃ u : State, exec .holdResume s = .next u ∧ u.srv = s.srv.withResumeDue true ∧ u.reply = ⟨0, []⟩ ∧ u.rb 0x30000 0 = s.rb 0x30000 0 ∧
        u.rb 0x30000 3 = s.rb 0x30000 3 ∧ u.mem = s.mem ∧ ∀ o, o ≠ 0x30000 → u.reg o = s.reg o) ∧
    ((s.rb 0x30000 0 = true → s.ready 5 = true) → s.srv.beat = none → exec .holdResume s = .next (s.answer St.hold)) ∧
    (RegOpen s 0x30080 → exec (.heartbeat v) s = .next ((s.withSrv (s.srv.withBeat (some s.now))).answer 0)) ∧
    (s.rb 0x30000 3 = true → (∀ t, s.srv.beat = some t → 8000000000 < s.now - t) → exec .heartbeatTimeout s = .next (s.withSrv (s.srv.withHoldDue true))) ∧
    (s.rb 0x30000 3 = false ∨ (∃ t, s.srv.beat = some t ∧ s.now - t ≤ 8000000000) → exec .heartbeatTimeout s = .next s)

/-- R381, R386, R387, R398: at a boundary the engine takes its step times from SRV_STEP and SRV_STEP_PHASE and counts the step; Hold is entered when it is due, or left; swaps
and TABLE_SYNCs that were waiting have been applied, and the next boundary comes at the next start of a step. A disabled engine takes no
step, and no step begins while one is in progress or before its time. -/
def StepsBegin : Prop :=
  ∀ (s : State) (x : StepIn),
    (s.rb 0x30000 0 = false ∨ s.srv.going = true ∨ s.now < s.srv.due → exec (.stepBoundary x) s = .next s) ∧
    (s.rb 0x30000 0 = true → s.srv.going = false → s.srv.due ≤ s.now → s.bad = [] → ∃ u : State, exec (.stepBoundary x) s = .next u ∧ u.srv.period = s.rf 0x30008 19 0 ∧ u.srv.cutoff = s.rf 0x30008 39 20 ∧
      u.srv.phase = (s.reg 0x30010).toNat ∧ u.reg 0x30018 = BitVec.ofNat 64 ((s.now - (s.reg 0x30010).toNat) / (4000 * s.rf 0x30008 19 0)) ∧
      u.rb 0x30000 1 = (if s.srv.holdDue then true else if s.srv.resumeDue then false else s.rb 0x30000 1) ∧ u.srv.holdDue = false ∧
      u.srv.resumeDue = false ∧ u.syncs = [] ∧ u.srv.going = true ∧ (0 < s.rf 0x30008 19 0 → s.now < u.srv.due) ∧ u.tiles = s.tiles ∧ u.secs = s.secs ∧ (∀ p ∈ u.pkg.jobs.head?, p.ph ≠ .waitSwap))

/-- R386, R389, R390: the next prefill chunk of the plan starts when its tokens are below VOCAB; a token at or beyond it ends the sequence with 8, a
prompt by reference that cannot be read with 7; it starts before the cutoff and past an open barrier only. From the cutoff on the chunks left leave
the plan and are counted. -/
def PrefillRuns : Prop :=
  ∀ (s : State) (g : Nat) (net : List NetAns),
    let n := s.srv.chunks.length
    (s.now < s.stepAt s.srv.cutoff → exec .prefillCutoff s = .next s) ∧
    (s.stepAt s.srv.cutoff ≤ s.now → exec .prefillCutoff s = .next ((s.setRf 0x30090 31 16 (min (s.rf 0x30090 31 16 + n) 0xFFFF)).withSrv (s.srv.withChunks []))) ∧
    ((s.srv.chunks = [] ∨ s.stepAt s.srv.cutoff ≤ s.now ∨ ∃ c ∈ s.srv.chunks.head?, s.heldAtFirst c.seq = true) → exec (.prefillChunkStart g net) s = .next s) ∧
    (∀ c rest, s.srv.chunks = c :: rest → s.now < s.stepAt s.srv.cutoff → s.heldAtFirst c.seq = false → (∀ r ∈ s.srv.running, r.seq ≠ c.seq) →
      let i := c.seq
      let first := s.qFilled i
      let n := min c.count (s.qPrompt i - first)
      let from_ := s.seqF i 96 8 + 4 * first
      let started (v : State) : State := ((v.postLens (v.qModel i) 1 c.count).postLens (v.qModel i) 2 (v.qPos i + v.underWay i + c.count)).withSrv
        (v.srv |>.withChunks rest |>.withRunning (v.srv.running ++ [c]))
      let fits (v : State) (bs : List Byte) : Prop := ∀ k, k < n → leAt bs (4 * k) 4 < v.vocab (v.qModel i)
      (n = 0 → exec (.prefillChunkStart g net) s = .next (started s)) ∧
      (n ≠ 0 → bitsAt (s.qFlags i) 2 1 = 0 → fits s (s.cavorRead from_ (4 * n)) → exec (.prefillChunkStart g net) s = .next (started s)) ∧
      (n ≠ 0 → bitsAt (s.qFlags i) 2 1 = 0 → ¬fits s (s.cavorRead from_ (4 * n)) → exec (.prefillChunkStart g net) s = .next (s.endSeq i 8)) ∧
      (∀ st bs v, n ≠ 0 → bitsAt (s.qFlags i) 2 1 = 1 → s.unitRead net from_ (4 * n) (some g) = .ok (st, bs, v) →
        (st ≠ 0 → exec (.prefillChunkStart g net) s = .next (v.endSeq i 7)) ∧
        (st = 0 → fits v bs → exec (.prefillChunkStart g net) s = .next (started v)) ∧
        (st = 0 → ¬fits v bs → exec (.prefillChunkStart g net) s = .next (v.endSeq i 8))))

/-- R349, R390-R395: a sequence of a decode run whose section has faulted ends with 0xB. When the logits of a decode run have come, past every barrier of its model, the sampler drops NaN and −∞; without a candidate the sequence ends with 6, else the token it chooses goes into
the sequence's result ring, which ends at a stop token or after MAX_NEW tokens. -/
def TokensAreSampled : Prop :=
  ∀ (s : State) (i off : Nat) (net : List NetAns), i ∈ s.srv.decode → (∀ e ∈ s.srv.late, e.1 ≠ i) → (∀ r ∈ s.srv.running, r.seq ≠ i) → s.qMask i = 0 →
    let m := s.modelEntry (s.qModel i)
    let logit (v : Nat) : Nat := s.rdLe (hubKey (off + 4 * v)) 4
    let all := (List.range (s.vocab (s.qModel i))).map (fun v => (v, logit v))
    let cand := all.filter (fun x => !isNan (f32 x.2) && decide (x.2 ≠ 0xFF800000))
    let nan : Bool := all.any (fun x => isNan (f32 x.2))
    let c := if nan then s.setRf 0x30090 63 48 (min (s.rf 0x30090 63 48 + 1) 0xFFFF) else s
    let d := (c.setSeqF i 108 4 (c.qPos i + 1)).withSrv (c.srv |>.withDecode (c.srv.decode.filter (· != i)) |>.withRunning (c.srv.running.filter (fun r => r.seq != i)))
    let tok := sampleToken (decide (s.qFlags i / 2 % 2 = 1)) (s.seqF i 44 4) (s.seqF i 56 2) (s.seqF i 48 4) (s.seqF i 52 4)
      (drawU (BitVec.ofNat 64 (s.seqF i 64 8)) (s.qMade i)) cand
    let u := d.tokenRow i tok
    let done_ := if (u.qStops i).contains tok then u.endSeq i 1 else if u.qMade i = u.seqF i 60 4 then u.endSeq i 2 else u
    let ready := entValid m = true → s.seqF i 16 4 = mTarget m → s.allAt m (mTarget m) = true
    (¬ready → exec (.sample i (.logits off) net) s = .next s) ∧
    (exec (.sample i .faulted net) s = .next (s.endSeq i 0xB)) ∧
    (ready → cand = [] → exec (.sample i (.logits off) net) s = .next ((d.endSeq i 6).closeSample false i)) ∧
    (ready → cand ≠ [] → u.qMask i = 0 → exec (.sample i (.logits off) net) s = .next (done_.closeSample false i))

/-- R392: a greedy sampler takes the largest logit; of equal ones the lowest token. -/
def GreedyTakesTheLargest : Prop :=
  ∀ (cand : List (Nat × Nat)) (temp topK topP minP u : Nat), cand ≠ [] → (∀ x ∈ cand, isNan (f32 x.2) = false) → cand.Pairwise (fun a b => a.1 < b.1) →
    ∃ x ∈ cand, sampleToken true temp topK topP minP u cand = x.1 ∧ ∀ y ∈ cand, cmpV (f32 y.2) (f32 x.2) ≤ 0 ∧ (cmpV (f32 y.2) (f32 x.2) = 0 → x.1 ≤ y.1)

/-- R389, R390, R395, R397: when no run of the step is still to come every destination with entries gets its STEP frame and no entry stays.
At T + PERIOD the step is over: of its decode plan, sequences that have not started yield no token, and those that
have are late, with the number of the step. -/
def StepsEnd : Prop :=
  ∀ (s : State) (unstarted : List Nat) (going : Bool),
    let n := (s.reg 0x30018).toNat
    (s.rb 0x30000 0 = false ∨ s.srv.going = false → exec .stepEmission s = .next s ∧ exec (.stepDeadline unstarted going) s = .next s) ∧
    (s.now < s.stepAt s.srv.period → exec (.stepDeadline unstarted going) s = .next s) ∧
    (s.rb 0x30000 0 = true → s.srv.going = true →
      (s.stepRun = false → exec .stepEmission s = .next s) ∧
      (s.stepRun = true → s.bad = [] → ∃ u : State, exec .stepEmission s = .next u ∧ u.srv.entries = [] ∧ u.srv.decode = s.srv.decode ∧
        u.srv.echo = s.srv.echo ∧ u.srv.seqs = s.srv.seqs ∧ u.tiles = s.tiles ∧ u.pkg = s.pkg) ∧
      (∀ e, s.stepRun = true → s.srv.running = [] → s.srv.gaps = [] → s.srv.entries = [e] → ∃ v : State, v = s.emitStep e.dest [e] true ∧
        exec .stepEmission s = .next (v.withSrv (v.srv.withEntries []))) ∧
      (s.stepAt s.srv.period ≤ s.now → s.srv.running = [] → s.bad = [] → ∃ u : State, exec (.stepDeadline unstarted going) s = .next u ∧ u.srv.decode = [] ∧
        u.srv.entries = [] ∧ u.srv.chunks = [] ∧ u.srv.going = false ∧
        u.srv.late = s.srv.late ++ (s.srv.decode.filter (fun i => !unstarted.contains i)).map (fun i => (i, n)) ∧ u.srv.seqs = s.srv.seqs ∧
        u.srv.echo = s.srv.echo ∧ u.tiles = s.tiles ∧
        (going = true → (u.rf 0x30090 15 0 = min (s.rf 0x30090 15 0 + 1) 0xFFFF)) ∧ (going = false → u.rf 0x30090 15 0 = s.rf 0x30090 15 0)))

/-- R386-R398: the steps of the serving engine: Hold, boundary, prefill, sampling, emission and deadline. -/
def Obligations.ServingSteps : Prop :=
  HoldFollowsTheHeartbeat ∧ StepsBegin ∧ PrefillRuns ∧ TokensAreSampled ∧ GreedyTakesTheLargest ∧ StepsEnd

/-- R32-R35: a command that stands for a write of one register does what REGISTER_WRITE of the control node does at the register's offset. -/
def CommandsAreRegisterWrites : Prop :=
  ∀ (s : State) (n g k r p : Nat) (v : W64), n < 16 → g < 16 → k < 3 → r < 32 → p < 36 → ∀ e ∈ ([
      (.chipNumberWrite v, 0x8, v), (.hubResetWarm, 0x10020, 0x5A01), (.hubResetCold, 0x10020, 0x5A02), (.apply, 0x10040, 1), (.serveEnable v, 0x30000, v),
      (.heartbeat v, 0x30080, v), (.srvVeilPrime v, 0x30410, v), (.srvPkgDoorbell v, 0x30510, v), (.memT2CfgWrite v, 0x40000, v),
      (.memCopyDoorbell v, 0x40018, v), (.memMoveDoorbell v, 0x42020, v), (.memT2CarveWrite g v, 0x40100 + 8 * g, v),
      (.evqCfgWrite false r v, 0x50000 + 0x20 * r, v), (.evqCfgWrite true (r % 8) v, 0x50500 + 0x10 * (r % 8), v), (.hubRegionWrite g v, 0x51000 + 0x10 * g, v),
      (.regionReset g, 0x51008 + 0x10 * g, 1), (.ouvManifest v, 0x70010, v), (.ouvLostClear v, 0x70040, v), (.hubErrInject v, 0xB0020, v),
      (.memEraseClear n v, 0xB0300 + 8 * n, v), (.pwrTargetDim, 0xD0000, 1), (.pwrTargetLit, 0xD0000, 0), (.pwrCdClkWrite n v, 0xD0100 + 8 * n, v),
      (.cdTileParkWrite n k v, cdOff n (0x100 + 8 * k), v), (.cdDsCarveWrite n g v, cdOff n (0x3800 + 0x10 * g), v),
      (.cdT1CarveWrite n g v, cdOff n (0x3808 + 0x10 * g), v), (.cdRegionTilesWrite n g k v, cdOff n (0x5000 + 0x18 * g + 8 * k), v),
      (.redirectFlush n v, cdOff n 0x3910, v), (.prismDoorbell n v, cdOff n 0x3018, v), (.tintDoorbell n v, cdOff n 0x3418, v), (.tintCtlWrite n v, cdOff n 0x3400, v),
      (.cmdqPost n g (r % 8) v, cdOff n (0x4000 + 0x20 * (8 * g + r % 8)), v), (.portCfgWrite p v, portOff p 0, v)] : List (Instr × Nat × W64)),
    exec e.1 s = exec (.registerWrite .efnil e.2.1 8 e.2.2) s

/-- R15-R17, R33-R35: a write of 4 or 8 B, aligned, to a register that is there and whose function is ready takes its fields; otherwise Table 14.6 gives the status.
HUB_EV_ROUTE, a register without a rule of its own, keeps its reserved bits. -/
def RegistersAreWritten : Prop :=
  ∀ (s : State) (o len : Nat) (v : W64),
    ((len ≠ 4 ∧ len ≠ 8) ∨ o % len ≠ 0 → exec (.registerWrite .efnil o len v) s = .next (s.answer St.regAlign) ∧
      exec (.rcRead .efnil o len) s = .next (s.answerData St.regAlign [])) ∧
    ((len = 4 ∨ len = 8) → o % len = 0 → debugReg o = false → windowOf o = none → regDesc (o / 8 * 8) = none →
      exec (.registerWrite .efnil o len v) s = .next (s.answer St.regUnmapped) ∧ exec (.rcRead .efnil o len) s = .next (s.answerData St.regUnmapped [])) ∧
    (s.ready 2 = false → exec (.registerWrite .efnil 0x50400 8 v) s = .next (s.answer St.dieNotReady)) ∧
    (s.ready 2 = true → ∃ u : State, exec (.registerWrite .efnil 0x50400 8 v) s = .next (u.answer 0) ∧ u.withRegs s.regs = s ∧
      (∀ o, o ≠ 0x50400 → u.reg o = s.reg o) ∧ ∀ b, bit (u.reg 0x50400) b = if b % 8 < 5 ∧ b < 48 then bit v b else s.rb 0x50400 b) ∧
    (s.ready 2 = true → ∃ u : State, exec (.registerWrite .efnil 0x50404 4 v) s = .next (u.answer 0) ∧ u.withRegs s.regs = s ∧
      (∀ o, o ≠ 0x50400 → u.reg o = s.reg o) ∧
      ∀ b, bit (u.reg 0x50400) b = if b % 8 < 5 ∧ 32 ≤ b ∧ b < 48 then bit v (b - 32) else s.rb 0x50400 b)

/-- R15, R16: a read of 8 B returns the register, a WO field as 0, and clears its RC fields and nothing else. -/
def ReadsClear : Prop :=
  ∀ (s : State) (o : Nat) (d : RegDesc), o % 8 = 0 → o < 0xC0000 → regDesc o = some d → RegOpen s o →
    let rc (b : Nat) : Prop := ∃ f ∈ d.fields, f.acc = .rc ∧ f.lo ≤ b ∧ b < f.lo + f.w
    let wo (b : Nat) : Prop := ∃ f ∈ d.fields, f.acc = .wo ∧ f.lo ≤ b ∧ b < f.lo + f.w
    ∃ (u : State) (v : W64), exec (.rcRead .efnil o 8) s = .next (u.answerData 0 (toLe 8 v.toNat)) ∧ u.withRegs s.regs = s ∧
      (∀ p, p ≠ o → u.reg p = s.reg p) ∧ (∀ b, b < 64 → (rc b → bit (u.reg o) b = false) ∧ (¬rc b → bit (u.reg o) b = bit (s.reg o) b)) ∧
      (∀ b, wo b → bit v b = false) ∧
      (o ≠ 0x90000 → o ≠ 0x30098 → o ≠ 0x30518 → o ≠ 0x42018 → ∀ b, b < 64 → ¬wo b → bit v b = bit (s.reg o) b)

/-- R37, R38: a write of HUB_CHIP records the number and whether it is assigned; it is in force at once unless a section runs or ends, and else when
none does any more. -/
def ChipNumbersTakeForce : Prop :=
  ∀ (s : State) (v : W64),
    (RegOpen s 8 → ∃ u : State, exec (.chipNumberWrite v) s = .next u ∧ u.rf 8 13 0 = fld v 13 0 ∧ u.rb 8 14 = decide (fld v 13 0 ≠ 0x3FFF) ∧
      u.chipInForce = (if s.anyActive then s.chipInForce else fld v 13 0) ∧ u.reply = ⟨0, []⟩ ∧ u.mem = s.mem ∧ u.tiles = s.tiles ∧ u.secs = s.secs) ∧
    (s.anyActive = true ∨ s.rf 8 13 0 = s.chipInForce → exec .chipNumberTakesEffect s = .next s) ∧
    (s.anyActive = false → ∃ u : State, exec .chipNumberTakesEffect s = .next u ∧ u.chipInForce = s.rf 8 13 0 ∧ u.rf 8 13 0 = s.rf 8 13 0 ∧ u.mem = s.mem ∧
      u.tiles = s.tiles ∧ u.secs = s.secs)

/-- R15-R17, R32-R38: register accesses. -/
def Obligations.RegisterAccesses : Prop := CommandsAreRegisterWrites ∧ RegistersAreWritten ∧ ReadsClear ∧ ChipNumbersTakeForce

/-- R413-R415: an event ring takes 64 to 65,536 entries inside the hub SRAM, a mailbox 4 KiB units inside it, and only while it is empty. An entry goes to the slot of TAIL, which
counts on, with the number of the entries posted there since reset as its SEQ; a ring that is full or not enabled drops it, counts it and notes it. -/
def RingsAndMailboxes : Prop :=
  ∀ (s : State) (k : Nat) (v : W64),
    let n := fld v 20 16
    let ok := 6 ≤ n ∧ n ≤ 16 ∧ 4096 * fld v 13 0 + 64 * 2 ^ n ≤ 2 ^ 26
    let okM := 4096 * (fld v 13 0 + fld v 23 16) ≤ 2 ^ 26
    let held (p : Nat) : Nat := (2 ^ 32 + s.rf p 63 32 - s.rf p 31 0) % 2 ^ 32
    (k < 32 → RegOpen s (0x50000 + 0x20 * k) →
      (¬ok → exec (.evqCfgWrite false k v) s = .next (s.answer St.paramRange)) ∧
      (ok → 0 < held (0x50008 + 0x20 * k) → exec (.evqCfgWrite false k v) s = .next (s.answer St.evqBusy)) ∧
      (ok → held (0x50008 + 0x20 * k) = 0 → exec (.evqCfgWrite false k v) s = .next ((s.writeReg (0x50000 + 0x20 * k) v).answer 0))) ∧
    (k < 8 → RegOpen s (0x50500 + 0x10 * k) →
      (¬okM → exec (.evqCfgWrite true k v) s = .next (s.answer St.paramRange)) ∧
      (okM → 0 < held (0x50508 + 0x10 * k) → exec (.evqCfgWrite true k v) s = .next (s.answer St.evqBusy)) ∧
      (okM → held (0x50508 + 0x10 * k) = 0 → exec (.evqCfgWrite true k v) s = .next ((s.writeReg (0x50500 + 0x10 * k) v).answer 0))) ∧
    (k < 32 → ∀ e : Nat → List Byte,
      let cfg := 0x50000 + 0x20 * k
      let ptr := 0x50008 + 0x20 * k
      let tail := s.rf ptr 63 32
      let n := Sparse.get (fun _ => 0) s.logs.posted k
      let u := s.postEntry k e
      (s.rb cfg 21 = true → held ptr < 2 ^ s.rf cfg 20 16 → u.mem = (s.wrMem (hubKey (4096 * s.rf cfg 13 0 + 64 * (tail % 2 ^ s.rf cfg 20 16))) (e n)).mem ∧
        u.rf ptr 63 32 = (tail + 1) % 2 ^ 32 ∧ u.rf ptr 31 0 = s.rf ptr 31 0 ∧
        Sparse.get (fun _ => 0) u.logs.posted k = n + 1 ∧
        u.logs.forward = s.logs.forward ++ (if s.rb cfg 22 then [e n] else [])) ∧
      (s.rb cfg 21 = false ∨ 2 ^ s.rf cfg 20 16 ≤ held ptr → u.mem = s.mem ∧ u.logs = s.logs ∧ u.reg ptr = s.reg ptr ∧ u.rb (0x50010 + 0x20 * k) 32 = true ∧
        u.rf (0x50010 + 0x20 * k) 31 0 = min (s.rf (0x50010 + 0x20 * k) 31 0 + 1) (2 ^ 32 - 1)))

/-- R421, R422: the tiles of a region change only while nothing of the region runs or loads, no resident section names a tile that leaves, and no other region
holds one that comes; its span does not change while it is lit. The status is the first of the rules that applies. -/
def RegionsTakeTiles : Prop :=
  ∀ (s : State) (n g k : Nat) (v : W64), n < 16 → g < 16 → k < 3 →
    let o := cdOff n (0x5000 + 0x18 * g + 8 * k)
    let bits := if k = 2 then 16 else 64
    let new (b : Nat) : Bool := if b < bits then bit v b else s.rb o b
    let changes (b : Nat) : Prop := b < bits ∧ new b ≠ s.rb o b
    let taken := ∃ b, b < 64 ∧ new b = true ∧ ∃ h, h < 16 ∧ h ≠ g ∧ s.rb (cdOff n (0x5000 + 0x18 * h + 8 * k)) b = true
    let busy := ∃ c, c < 8 ∧ ((s.sec g c).active = true ∨ (s.sec g c).st = .loading)
    (RegOpen s o → (∀ b, ¬changes b) → exec (.cdRegionTilesWrite n g k v) s = .next ((s.writeReg o v).answer 0)) ∧
    (RegOpen s o → (∃ b, changes b) → s.glareHolds g = true → exec (.cdRegionTilesWrite n g k v) s = .next (s.answer St.glareActive)) ∧
    (RegOpen s o → (∃ b, changes b) → s.glareHolds g = false → taken → exec (.cdRegionTilesWrite n g k v) s = .next (s.answer St.regionOverlap)) ∧
    (RegOpen s o → (∃ b, changes b) → s.glareHolds g = false → ¬taken → busy → exec (.cdRegionTilesWrite n g k v) s = .next (s.answer St.regionBusy)) ∧
    (RegOpen s o → s.glareHolds g = false → ¬taken → (∀ c, c < 8 → (s.sec g c).st = .empty ∧ (s.cmdq g c).lists = []) →
      (∀ b, changes b → (s.tile (tileAt n (64 * k + b))).holdsToken = false) → exec (.cdRegionTilesWrite n g k v) s = .next ((s.writeReg o v).answer 0)) ∧
    (let h := 0x51000 + 0x10 * g
     RegOpen s h → s.glareHolds g = false →
      (s.rb h 12 = true → (fld v 11 0 ≠ s.rf h 11 0 ∨ fld v 47 16 ≠ s.rf h 47 16) → exec (.hubRegionWrite g v) s = .next (s.answer St.spanLit)) ∧
      (s.rb h 12 = false → bit v 12 = true → fld v 11 0 = 0xFFF → exec (.hubRegionWrite g v) s = .next (s.answer St.spanNone)) ∧
      (s.rb h 12 = true → fld v 11 0 = s.rf h 11 0 → fld v 47 16 = s.rf h 47 16 → bit v 12 = false → s.regionActive g = true →
        exec (.hubRegionWrite g v) s = .next (s.answer St.regionBusy)) ∧
      (s.rb h 12 = false → (bit v 12 = true → fld v 11 0 ≠ 0xFFF) → exec (.hubRegionWrite g v) s = .next ((s.writeReg h v).answer 0)))

/-- What a reset leaves of region g: no section, no held list, no token of it on the mesh; its tiles stand still with empty queues, and all other tiles and sections
are as they were. -/
structure WasReset (s u : State) (g : Nat) : Prop where
  resetting : u.rb (0x51008 + 0x10 * g) 1 = true
  sections : ∀ c, c < 8 → (u.sec g c).st = .empty ∧ (u.cmdq g c).lists = []
  tiles : ∀ t, t < tileCount → s.inRegion g t = true → (u.tile t).run = none ∧ ∀ c q, ((u.tile t).ctx c).queue q = queueD q
  flight : ∀ f ∈ u.flight, f.token.region ≠ g

/-- R425: HUB_REGION_CTL.RESET resets its region, RESETTING reads 1 until the reset is done; no other region's tiles and sections change. -/
def RegionsReset : Prop :=
  ∀ (s : State) (g : Nat), g < 16 →
    (RegOpen s (0x51008 + 0x10 * g) → ∃ u : State, exec (.regionReset g) s = .next (u.answer 0) ∧ WasReset s u g ∧ u.reply = s.reply ∧
      (∀ t, s.inRegion g t = false → u.tile t = s.tile t) ∧ (∀ h c, h ≠ g → c < 8 → u.sec h c = s.sec h c ∧ u.cmdq h c = s.cmdq h c)) ∧
    exec (.regionResetDone g) s = .next (s.setRb (0x51008 + 0x10 * g) 1 false)

/-- R31, R540, R541: a package network link that fails its retries raises a fatal error, which resets every region of the chip. -/
def LinkFailuresResetAll : Prop :=
  ∀ (s : State) (link die : Nat), link < 40 → die < 25 → ∃ u : State, exec (.pkgnetLinkFail link die) s = .next u ∧
    (∀ g, g < 16 → u.rb (0x51008 + 0x10 * g) 1 = true ∧ ∀ c, c < 8 → (u.sec g c).st = .empty ∧ (u.cmdq g c).lists = []) ∧
    u.rf 0xB0018 39 32 = min (s.rf 0xB0018 39 32 + 1) 0xFF ∧ u.glare.run = none ∧ u.net.withOps s.net.ops = s.net ∧ u.srv = s.srv

/-- R31, R413-R425: event rings, mailboxes, regions, spans, region resets. -/
def Obligations.RingsAndRegions : Prop := RingsAndMailboxes ∧ RegionsTakeTiles ∧ RegionsReset ∧ LinkFailuresResetAll

/-- R401, R402: a core's load or store of the hub SRAM that it caches reads or writes its bytes, of any length up to 64 B; one of the other memories does what a request of the chip's own
units does; one of a register does what a register access does, and a store to space 0x0 is an aperture write. A status other than OK is recorded in
HUB_LAN_FAULT with the address; loads of space 0x0 have none other. An uncached access waits for the one before it to complete. Bad parity of a clean
line is corrected with a record, that of a dirty line fences LANTERN. -/
def Obligations.CoresAccess : Prop :=
  ∀ (s : State) (i : Nat), i < 32 →
    let fault (u : State) (pa st : Nat) : State := ((u.answerData st []).setRf (0x50600 + 0x10 * i) 7 0 st).setReg (0x50608 + 0x10 * i) (BitVec.ofNat 64 pa)
    (∀ off n, 2 ^ 29 ≤ off → off + n ≤ 2 ^ 29 + 2 ^ 26 → 0 < n → n ≤ 64 → s.ready 2 = true → s.hasBad 1 (2 ^ 46 + off) n = false →
      exec (.lanternAccess i (2 ^ 44 + off) ⟨.load n, .right⟩) s = .next (s.answerData 0 (s.rdMem (2 ^ 46 + off) n))) ∧
    (∀ off (d : List Byte), 2 ^ 29 ≤ off → off + d.length ≤ 2 ^ 29 + 2 ^ 26 → 0 < d.length → d.length ≤ 64 → s.ready 2 = true →
      s.hasBad 1 (2 ^ 46 + off) d.length = false →
      ∃ u : State, exec (.lanternAccess i (2 ^ 44 + off) ⟨.store d, .right⟩) s = .next u ∧ u.reply = ⟨0, []⟩ ∧ ((u.withMem s.mem).withBad s.bad).withReply s.reply = s ∧
        u.rdMem (2 ^ 46 + off) d.length = d ∧ ∀ j n, j + n ≤ 2 ^ 46 + off ∨ 2 ^ 46 + off + d.length ≤ j → u.rdMem j n = s.rdMem j n) ∧
    (∀ off n, off < 2 ^ 44 → 64 < n → 2 ^ 29 ≤ off → off < 2 ^ 29 + 2 ^ 26 →
      exec (.lanternAccess i (2 ^ 44 + off) ⟨.load n, .right⟩) s = .next (fault s (2 ^ 44 + off) St.addrAlign)) ∧
    (∀ off n, off < 2 ^ 44 → s.coreWaits i = false → exec (.lanternAccess i off ⟨.load n, .right⟩) s = .next (fault s off St.addrSpace)) ∧
    (∀ off (d : List Byte), off < 2 ^ 44 → s.coreWaits i = false → d.length ≤ 64 →
      let q := s.apertureWrite ⟨0xFFF, s.chipInForce, none⟩ off d
      exec (.lanternAccess i off ⟨.store d, .right⟩) s = .next (if q.1 = 0 then q.2.answerData 0 [] else fault q.2 off q.1)) ∧
    (∀ off n, off < 2 ^ 44 → s.coreWaits i = false → (n = 4 ∨ n = 8) →
      let q := s.regAccess (.core i) off n none
      exec (.lanternAccess i (2 ^ 47 + off) ⟨.load n, .right⟩) s = .next (if q.1 = 0 then q.2.2.answerData 0 (toLe n q.2.1.toNat) else fault q.2.2 (2 ^ 47 + off) q.1)) ∧
    (∀ space off n (data : List Byte) (loc : Nat) (fwd : Bool) (w : State), (space = 2 ∨ space = 3) → off < 2 ^ 44 → s.coreWaits i = false →
      s.request ⟨1, 0x3FFF * 2 ^ 50 + 2 ^ 46 * space + off, n, [], 0xFFF, none, none, 64, false, false⟩ (.core i (2 ^ 44 * space + off) false) 5 =
        (some ⟨0, data, loc, fwd⟩, w) →
      exec (.lanternAccess i (2 ^ 44 * space + off) ⟨.load n, .right⟩) s = .next (w.answerData 0 data)) ∧
    (∀ pa a, lanternCached (pa % 2 ^ 48) = false → s.coreWaits i = true → exec (.lanternAccess i pa a) s = .next s) ∧
    (∀ pa a, lanternCached (pa % 2 ^ 48) = true →
      exec (.lanternAccess i pa ⟨a, .clean⟩) s = exec (.lanternAccess i pa ⟨a, .right⟩) (s.corrected { cls := 0, source := 0x0C, unit := i }) ∧
      exec (.lanternAccess i pa ⟨a, .dirty⟩) s = .next (s.fenceFunction 3 { cls := 2, source := 0x0C, unit := i })) ∧
    (∀ j, exec (.deviceTimeComparator i) s = .next (s.withTimerIrq (insertNat i s.timerIrq)) ∧ (j ∈ insertNat i s.timerIrq ↔ j = i ∨ j ∈ s.timerIrq))

/-- R427-R429: a frame that is whole and in order is good: LSEQ is expected next, an acknowledgement is due and NAK is over. One whose CRC is wrong is counted; that one, one
that is too short and one out of order are answered by one NAK. A good one of a reserved TYPE is counted and, as a request, answered. Nothing arrives while the link is down. -/
def FramesArriveInOrder : Prop :=
  ∀ (s : State) (f : List Byte),
    (s.efnUp = false → ∀ c ∈ [Instr.efnBadFrame f, .link f, .regRead f, .regWrite f, .bulkRead f, .bulkWrite f, .doorbell f, .timeRead f, .timeSet f,
      .bootPush f], exec c s = .next s) ∧
    (s.efnUp = true → efnCrcOk f = false → ∃ u : State, exec (.efnBadFrame f) s = .next u ∧ u.rf 0x60010 31 0 = min (s.rf 0x60010 31 0 + 1) (2 ^ 32 - 1) ∧
      u.efn.nak = true ∧ u.efn.rxNext = s.efn.rxNext ∧ u.efn.replay = s.efn.replay ∧ u.efn.sent.length = s.efn.sent.length + (if s.efn.nak then 0 else 1) ∧
      (∀ g ∈ u.efn.sent.drop s.efn.sent.length, eType g = 0 ∧ eNak g = true)) ∧
    (s.efnUp = true → efnCrcOk f = true → (efnLongEnough f = false ∨ 0 < eType f ∧ eLseq f ≠ s.efn.rxNext) → ∃ u : State, exec (.efnBadFrame f) s = .next u ∧
      u.withEfn s.efn = s ∧ u.efn.nak = true ∧ u.efn.rxNext = s.efn.rxNext ∧ u.efn.replay = s.efn.replay ∧
      u.efn.sent.length = s.efn.sent.length + (if s.efn.nak then 0 else 1)) ∧
    (efnCrcOk f = true → efnLongEnough f = true → 0 < eType f → eLseq f = s.efn.rxNext → ∃ v : State, s.efnArrive f = .good v ∧ v.withEfn s.efn = s ∧
      v.efn.rxNext = (s.efn.rxNext + 1) % 65536 ∧ v.efn.nak = false ∧ v.efn.ackDue = true ∧ v.efn.record = s.efn.record ∧ v.efn.opened = s.efn.opened) ∧
    (∀ v, s.efnUp = true → s.efnArrive f = .good v → 8 < eType f →
      let w := v.setRf 0x60010 47 32 (min (v.rf 0x60010 47 32 + 1) 0xFFFF)
      exec (.efnBadFrame f) s = .next (if eResp f then w else w.efnReply (eCmd f) (eType f) (eClass f) St.efnType 0 []))

/-- R429-R431: LINK carries LACK, CRED and NAK: the frames it acknowledges leave the replay buffer, and a NAK sends the others again. What is due
is sent in a LINK frame; REPLAY_US without a new LACK sends every unacknowledged frame again, and finds the link down when one of them has been sent
again 16 times. Up to 64 entries that wait leave in one
EVENT for one event credit. -/
def LinkFramesAct : Prop :=
  ∀ (s : State) (f : List Byte),
    (s.efnUp = true → efnCrcOk f = true → efnLongEnough f = true → eType f = 0 → eNak f = false → s.efn.wait = [] → ∃ u : State, exec (.link f) s = .next u ∧ u.withEfn s.efn = s ∧
      u.efn.replay = s.efn.replay.filter (fun r => decide ((65536 + eLack f - r.lseq) % 65536 ≥ 32768)) ∧ u.efn.sent = s.efn.sent ∧
      u.efn.evCred = if eCred f / 64 = 2 then min 63 (s.efn.evCred + eCred f % 64) else s.efn.evCred) ∧
    (s.efnUp = true → (s.efn.ackDue = true ∨ 0 < s.efn.dueCtl ∨ 0 < s.efn.dueBulk) → ∃ u : State, exec .efnAckDue s = .next u ∧ u.withEfn s.efn = s ∧
      u.efn.ackDue = false ∧ u.efn.dueCtl = s.efn.dueCtl - min s.efn.dueCtl 63 ∧ ∃ g, u.efn.sent = s.efn.sent ++ [g] ∧ eType g = 0 ∧ eNak g = false ∧
        eLack g = (65535 + s.efn.rxNext) % 65536) ∧
    (s.efn.ackDue = false → s.efn.dueCtl = 0 → s.efn.dueBulk = 0 → exec .efnAckDue s = .next s) ∧
    (s.now < s.efn.since + 4000 * s.rf 0x60000 23 16 → exec .efnReplayTimeout s = .next s) ∧
    (s.efnUp = true → s.efn.since + 4000 * s.rf 0x60000 23 16 ≤ s.now → s.efn.replay ≠ [] →
      ((∀ r ∈ s.efn.replay, r.replays < 16) → ∃ u : State, exec .efnReplayTimeout s = .next u ∧ u.efn.sent = s.efn.sent ++ s.efn.replay.map (·.bytes) ∧
        u.efn.replay = s.efn.replay.map (fun r => r.withReplays (r.replays + 1)) ∧ u.efn.since = s.now ∧
        u.rf 0x60008 47 32 = min (s.rf 0x60008 47 32 + 1) 0xFFFF) ∧
      ((∃ r ∈ s.efn.replay, 16 ≤ r.replays) → ∃ u : State, exec .efnReplayTimeout s = .next u ∧ u.efnUp = false ∧ u.efn.replay = [])) ∧
    (s.efnUp = true → 0 < s.efn.evCred → s.logs.forward ≠ [] → ∃ u : State, exec .event s = .next u ∧ u.logs.forward = s.logs.forward.drop 64 ∧
      u.efn.evCred = s.efn.evCred - 1 ∧ u.logs.store = s.logs.store ∧ u.tiles = s.tiles ∧ u.mem = s.mem ∧
      (s.efn.replay.length < 64 → ∃ g, u.efn.sent = s.efn.sent ++ [g] ∧ eType g = 6 ∧ (s.logs.forward.take 64).flatten = (g.drop 16).take (g.length - 20))) ∧
    (s.efn.evCred = 0 ∨ s.logs.forward = [] → exec .event s = .next s)

/-- R426, R430, R433, R499, R508: the link runs on the lanes that are in use, HALF on one of them; an enabled lane rejoins. 10 µs without a lane, or 16 replays of one frame, find
the link down: sequence numbers, replay and credits start anew; when it comes up on the enabled lanes EFNIL is set, the first time, the control node
holds 32 control and 64 bulk credits, and event credits are as configured. -/
def EfnilLanes : Prop :=
  ∀ (s : State) (l : Nat), l < 2 →
    (∃ u : State, exec (.efnLaneLoss l) s = .next u ∧ (u.withRegs s.regs).withEfn s.efn = s ∧ u.efn.withDark s.efn.dark = s.efn ∧ u.rb 0x60008 l = false ∧
      u.rb 0x60008 (1 - l) = s.rb 0x60008 (1 - l) ∧ u.rb 0x60008 2 = s.rb 0x60008 (1 - l) ∧
      (s.rb 0x60008 l = true → s.rb 0x60008 (1 - l) = false → u.efn.dark = s.now)) ∧
    (s.efnUp = true → s.rb 0x60000 (24 + l) = true → ∃ u : State, exec (.efnLaneRejoin l) s = .next u ∧ u.withRegs s.regs = s ∧ u.rb 0x60008 l = true ∧
      u.rb 0x60008 (1 - l) = s.rb 0x60008 (1 - l) ∧ u.rb 0x60008 2 = !s.rb 0x60008 (1 - l)) ∧
    (s.efnUp = false ∨ s.rb 0x60000 (24 + l) = false → exec (.efnLaneRejoin l) s = .next s) ∧
    ((s.rb 0x60008 0 = true ∨ s.rb 0x60008 1 = true ∨ s.now < s.efn.dark + 40000) → (∀ r ∈ s.efn.replay, r.replays < 16) → exec .efnLinkDown s = .next s) ∧
    (s.efnUp = true → (s.rb 0x60008 0 = false ∧ s.rb 0x60008 1 = false ∧ s.efn.dark + 40000 ≤ s.now ∨ ∃ r ∈ s.efn.replay, 16 ≤ r.replays) →
      ∃ u : State, exec .efnLinkDown s = .next u ∧ u.rf 0x60008 3 0 = 0 ∧ u.efn.replay = [] ∧ u.efn.wait = [] ∧ u.efn.rxNext = 0 ∧ u.efn.txNext = 0 ∧
      u.efn.evCred = 0 ∧ u.efn.record = s.efn.record ∧ u.efn.opened = s.efn.opened ∧ u.mem = s.mem ∧ u.tiles = s.tiles ∧
      u.rf 0x60010 47 32 = min (s.rf 0x60010 47 32 + (((s.efn.replay.map (·.bytes)) ++ s.efn.wait).filter (fun f => decide (eType f = 6))).length) 0xFFFF) ∧
    (s.efnUp = false → s.boot.ph = .run → ∃ u : State, exec .efnLinkUp s = .next u ∧ u.efnUp = true ∧ u.ready 0 = true ∧ u.rb 0x60008 0 = s.rb 0x60000 24 ∧
      u.rb 0x60008 1 = s.rb 0x60000 25 ∧ u.efn.evCred = s.rf 0x60000 5 0 ∧ u.efn.ctlCred = 32 ∧ u.efn.bulkCred = 64 ∧ u.rf 0x60008 31 16 = (if s.ready 0 then min (s.rf 0x60008 31 16 + 1) 0xFFFF else s.rf 0x60008 31 16) ∧
      (s.ready 0 = false → s.rb 0x10028 0 = false → ∀ p, p < 32 → u.rb (portOff p 0) 2 = true ∧ u.rf (portOff p 0) 1 0 = 0 ∧ u.rf (portOff p 8) 19 17 = 1))

/-- R426-R431: the Efnil link. -/
def Obligations.EfnilLink : Prop := FramesArriveInOrder ∧ LinkFramesAct ∧ EfnilLanes

/-- The frame `f` is a request of TYPE `k` that the link accepts, leaving `v`; its CLASS, CMD_ID and LENGTH are right, and its command is neither open nor recorded. -/
structure Requested (s : State) (f : List Byte) (k : Nat) (v : State) : Prop where
  up : s.efnUp = true
  good : s.efnArrive f = .good v
  type : eType f = k
  request : eResp f = false
  length : efnLenOk f = true
  cls : eClass f = efnClassOf k
  cmd : eCmd f ≠ 0
  closed : ∀ o ∈ v.efn.opened, o.cmd ≠ eCmd f
  fresh : ∀ r ∈ v.efn.record, r.cmd ≠ eCmd f

/-- The requests of Table 14.9 with their types. -/
def efnRequests (f : List Byte) : List (Instr × Nat) :=
  [(.regRead f, 1), (.regWrite f, 2), (.bulkRead f, 3), (.bulkWrite f, 4), (.doorbell f, 5), (.bootPush f, 8)]

/-- R428, R430, R432: a request with the wrong CLASS is refused with EFN_CLASS, one with CMD_ID 0 with EFN_CMD_ID; one whose command is recorded is not performed
again but answered as before; a new one that is longer than 4,096 B, or whose payload has not its type's length, is refused with EFN_LENGTH. -/
def RequestsAreJudged : Prop :=
  ∀ (s v : State) (f : List Byte), ∀ e ∈ efnRequests f, s.efnUp = true → s.efnArrive f = .good v → eType f = e.2 → eClass f ≠ 3 → eResp f = false →
    (eClass f ≠ efnClassOf e.2 → exec e.1 s = .next (v.efnReply (eCmd f) e.2 (eClass f) St.efnClass 0 [])) ∧
    (eClass f = efnClassOf e.2 → eCmd f = 0 → exec e.1 s = .next (v.efnReply 0 e.2 (eClass f) St.efnCmdId 0 [])) ∧
    (eClass f = efnClassOf e.2 → eCmd f ≠ 0 → (∀ o ∈ v.efn.opened, o.cmd ≠ eCmd f) → ∀ r, v.efn.known (eCmd f) = some r → e.2 ≠ 3 →
      exec e.1 s = .next ((v.setRf 0x60008 63 48 (min (v.rf 0x60008 63 48 + 1) 0xFFFF)).efnReply (eCmd f) e.2 (eClass f) r.status 32 r.data)) ∧
    (eClass f = efnClassOf e.2 → eCmd f ≠ 0 → (∀ o ∈ v.efn.opened, o.cmd ≠ eCmd f) → (∀ r ∈ v.efn.record, r.cmd ≠ eCmd f) → 4096 < eLen f →
      exec e.1 s = .next (v.efnReply (eCmd f) e.2 (eClass f) St.efnLength 0 [])) ∧
    (Requested s f e.2 v → eLen f < 8 → exec e.1 s = .next (v.efnReply (eCmd f) e.2 (eClass f) St.efnLength 0 []))

/-- R431, R432, R501, R527: a request is performed once and then recorded and answered. Register accesses of this chip do what the register's rules say; a DOORBELL without data writes its
register; memory is read and written as the chip's own units do it; TIME answers the device time, and sets it before the first lock only; BOOT_PUSH takes a unit of
the firmware image. -/
def RequestsArePerformed : Prop :=
  ∀ (s v : State) (f : List Byte),
    let p := ePay f
    let a := beAt p 0 8
    let here := s.thisChip (gaChip a) = true ∧ v.thisChip (gaChip a) = true ∧ v.pwrState ≠ 4
    (Requested s f 1 v → eLen f = 16 → here → gaSpace a = 8 → (beAt p 8 1 = 4 ∨ beAt p 8 1 = 8) →
      let q := v.regAccess .efnil (gaOff a) (beAt p 8 1) none
      exec (.regRead f) s = .next (q.2.2.efnDone (eCmd f) 1 q.1 0 (if q.1 = 0 then toBe 8 q.2.1.toNat else []))) ∧
    (Requested s f 2 v → eLen f = 24 → here → gaSpace a = 8 → (beAt p 8 1 = 4 ∨ beAt p 8 1 = 8) →
      let q := v.regAccess .efnil (gaOff a) (beAt p 8 1) (some (BitVec.ofNat 64 (beAt p 16 8)))
      exec (.regWrite f) s = .next (q.2.2.efnDone (eCmd f) 2 q.1 0 [])) ∧
    (Requested s f 5 v → eLen f = 24 → p.length = 24 → here → gaSpace a = 8 →
      let q := v.regAccess .efnil (gaOff a) 8 (some (BitVec.ofNat 64 (beAt p 8 8)))
      exec (.doorbell f) s = .next (q.2.2.efnDone (eCmd f) 5 q.1 0 [])) ∧
    (∀ n (d : List Byte) (loc : Nat) (fwd : Bool) (w : State), n = beAt p 8 4 → Requested s f 3 v → eLen f = 16 → here → 1 ≤ gaSpace a → gaSpace a ≤ 3 → 0 < n → n % 4 = 0 →
      a % 4096 + n ≤ 4096 → v.request ⟨1, a, n, [], 0xFFF, none, none, 4096, false, false⟩ (.efnil (eCmd f) 0) 5 = (some ⟨0, d, loc, fwd⟩, w) → w.efn = v.efn →
      (∀ o ∈ w.net.ops, o.client ≠ .efnil (eCmd f) 0 ∧ o.id < w.net.nextOp) →
      ∃ (u x : State), exec (.bulkRead f) s = .next u ∧ u = x.efnBulk (eCmd f) 0 0 d ∧ x.mem = w.mem ∧ x.regs = w.regs ∧ x.tiles = w.tiles ∧ x.efn = v.efn ∧
        x.net.ops = w.net.ops) ∧
    (∀ n (loc : Nat) (fwd : Bool) (w : State), n = beAt p 8 4 → Requested s f 4 v → eLen f = 16 + n → here → (gaSpace a = 2 ∨ gaSpace a = 3) → 0 < n → n ≤ 4080 → n % 4 = 0 →
      a % 4096 + n ≤ 4096 → v.request ⟨2, a, n, slice (p.drop 16) 0 n, 0xFFF, none, none, 4096, false, false⟩ (.efnil (eCmd f) 0) 5 = (some ⟨0, [], loc, fwd⟩, w) →
      w.efn = v.efn → (∀ o ∈ w.net.ops, o.client ≠ .efnil (eCmd f) 0 ∧ o.id < w.net.nextOp) →
      ∃ (u x : State), exec (.bulkWrite f) s = .next u ∧ u = x.efnDone (eCmd f) 4 0 0 [] ∧ x.mem = w.mem ∧ x.regs = w.regs ∧ x.tiles = w.tiles ∧ x.net.ops = w.net.ops) ∧
    (Requested s f 7 v → eLen f = 16 → v.pwrState ≠ 4 → beAt p 0 1 = 0 → exec (.timeRead f) s = .next (v.efnDone (eCmd f) 7 0 0
      (toBe 8 v.now ++ toBe 8 v.now ++ toBe 1 (v.locked.toNat + 2 * v.everLocked.toNat + 4 * v.slave.isSome.toNat)))) ∧
    (Requested s f 7 v → eLen f = 16 → v.pwrState ≠ 4 → beAt p 0 1 = 1 →
      (v.locked = true → ∃ d, exec (.timeSet f) s = .next (v.efnDone (eCmd f) 7 St.timeLocked 0 d)) ∧
      (v.locked = false → v.everLocked = false → ∃ (d : List Byte) (w : State), exec (.timeSet f) s = .next (w.efnDone (eCmd f) 7 0 0 d) ∧ (w.withTime v.time).withPtp v.ptp = v ∧
        w.time = 2 ^ 32 * beAt p 8 8)) ∧
    (Requested s f 8 v → 8 ≤ eLen f → v.pwrState ≠ 4 →
      (v.boot.opened = false ∨ v.bootSource = 2 → exec (.bootPush f) s = .next (v.efnDone (eCmd f) 8 St.bootClosed 0 [])) ∧
      (v.boot.opened = true → v.bootSource ≠ 2 → unitsOk v.boot.total (beAt p 0 4) (beAt p 4 4) (p.drop 8).length = true → ∃ w : State,
        exec (.bootPush f) s = .next (w.efnDone (eCmd f) 8 0 0 []) ∧ w.bootSource = 1 ∧ w.boot.total = some (beAt p 4 4) ∧
        w.mem = (v.wrMem (hubKey (beAt p 0 4)) (p.drop 8)).mem))

/-- R428-R432, R501, R527: the requests of the control node. -/
def Obligations.EfnilRequests : Prop := RequestsAreJudged ∧ RequestsArePerformed

/-- The Ouvuth frame `f` is in front and is for this chip; `v` is the state without it. -/
structure InFront (s : State) (f : InFrame) (v : State) : Prop where
  front : s.net.ouvIn.head? = some f
  mine : s.forMe f.bytes = true
  rest : v = s.withNet (s.net.withOuvIn (s.net.ouvIn.drop 1))

/-- R472-R474, R477: of the frames of a stream that has begun, the one that CUM expects is accepted and CUM follows it; one that has been accepted is dropped, counted and
acknowledged again; one beyond the window, and one that cannot be taken, is dropped and counted. On a stream that has not begun a frame is dropped and
RESYNC goes out, at most once in 10 µs. -/
def StreamsTakeInOrder : Prop :=
  ∀ (s : State) (k seq : Nat) (ce can : Bool), let r := s.rxs k
    (∀ i, r.inc = some i → seq = seqNext r.cum → r.cum < 2 ^ 32 → r.got = [] → can = true → r.fresh + 1 < 16 →
      s.takeSeq k seq ce can 32 = .accepted (s.setRx k (r |>.withCum seq |>.withFresh (r.fresh + 1) |>.withDue true |>.withCe (r.ce || ce)))) ∧
    (∀ i, r.inc = some i → seq = seqNext r.cum → r.cum < 2 ^ 32 → r.got = [] → can = false →
      s.takeSeq k seq ce can 32 = .dropped (s.setRf 0x70070 47 32 (min (s.rf 0x70070 47 32 + 1) 0xFFFF))) ∧
    (∀ i, r.inc = some i → seqDist r.cum seq = 0 ∨ 2 ^ 31 ≤ seqDist r.cum seq ∨ (seqDist r.cum seq ≤ 4096 ∧ seq ∈ r.got) →
      s.takeSeq k seq ce can 32 = .dropped ((s.setRf 0x70068 31 16 (min (s.rf 0x70068 31 16 + 1) 0xFFFF)).sendAck k)) ∧
    (∀ i, r.inc = some i → 4096 < seqDist r.cum seq → seqDist r.cum seq < 2 ^ 31 →
      s.takeSeq k seq ce can 32 = .dropped (s.setRf 0x70068 47 32 (min (s.rf 0x70068 47 32 + 1) 0xFFFF))) ∧
    (∀ t, r.inc = none → r.resyncAt = some t → s.now < 40000 + t → s.takeSeq k seq ce can 32 = .dropped s) ∧
    (r.inc = none → r.resyncAt = none → ∃ u : State, s.takeSeq k seq ce can 32 = .dropped u ∧ (u.rxs k).resyncAt = some s.now ∧ (u.rxs k).inc = none ∧ u.mem = s.mem)

/-- A request frame in front that its stream accepts under a free tag: `x` is the state in which its response is owed. -/
structure Asked (s : State) (f : InFrame) (x : State) : Prop where
  ex : ∃ v w t, InFront s f v ∧ hResp f.bytes = false ∧ hSeq f.bytes ≠ 0 ∧ v.freeTag f.egress = some t ∧ v.takeNumbered f true 32 = .accepted w ∧
    x = w.owe (streamOf f) f.bytes t

/-- The commands of requests, with the frames that each takes. -/
def requests (ro : Bool) : List (Instr × (List Byte → Prop)) :=
  [(.ouvRead, fun b => hOp b = 1), (.ouvWrite, fun b => hOp b = 2), (.ouvAtomic, fun b => hOp b = 3), (.moveBegin ro, fun b => hOp b = 4 ∧ moveSub b = 1),
    (.moveCommit, fun b => hOp b = 4 ∧ moveSub b = 2), (.moveAbort, fun b => hOp b = 4 ∧ moveSub b = 3), (.moveQuery, fun b => hOp b = 4 ∧ moveSub b = 4),
    (.ouvDispatch, fun b => hOp b = 5)]

/-- R38, R469, R470, R474: a request without a free tag is dropped, or not numbered, and counted; one of an unassigned chip, other than
management, is refused with OUV_UNASSIGNED, one that does not match its op with OUV_LENGTH. Each refusal is the response owed. -/
def FabricRequestsAreJudged : Prop :=
  ∀ (s v w x : State) (f : InFrame) (ro : Bool), ∀ e ∈ requests ro, e.2 f.bytes →
    let b := f.bytes
    let refuse (st : Nat) : Host.Outcome State Fault Refusal := .next (x.respond (streamOf f) (b.take 32) ⟨st, [], 0, false⟩)
    (InFront s f v → hResp b = false → hSeq b = 0 → exec e.1 s = .next (v.setRf 0x70070 63 48 (min (v.rf 0x70070 63 48 + 1) 0xFFFF))) ∧
    (InFront s f v → hResp b = false → hSeq b ≠ 0 → v.freeTag f.egress = none → v.takeNumbered f false 32 = .dropped w → exec e.1 s = .next w) ∧
    (Asked s f x → x.assigned = false → hSpan b ≠ 0xFFF → exec e.1 s = refuse St.ouvUnassigned) ∧
    (Asked s f x → (x.assigned = true ∨ hSpan b = 0xFFF) → requestBad b = true → exec e.1 s = refuse St.ouvLength)

/-- R329-R335, R412, R423, R468-R470: an accepted request is performed at its home as the chip's own are, and its response carries the status and the data. A write to a tile that the span
does not light is refused; a MOVE begins, commits, aborts (from the chip of the granule's source only) or is asked after at the granule's entry;
a DISPATCH delivers its list. A refusal of memory is counted at the optical die that received it. -/
def FabricRequestsArePerformed : Prop :=
  ∀ (s x : State) (f : InFrame) (ro : Bool), Asked s f x → x.requestFault f.bytes = 0 →
    let b := f.bytes
    let a := hAddr b
    let p := ouvPayload b
    let answer (u : State) (st : Nat) (d : List Byte) : Host.Outcome State Fault Refusal := .next (u.respond (streamOf f) (b.take 32) ⟨st, d, 0, false⟩)
    let client : Client := .peer (streamOf f) (hDie b) (hTag b) (b.take 32)
    let tier := gaTier a
    let g := gaGranule a
    let e := x.home tier g
    let respond (u : State) (r : Ans) : State := (if r.status = 0 then u else u.turnAway (f.egress / 48)).respond (streamOf f) (b.take 32) r
    let from_ := e.st = 3 ∧ hSrc b = gaChip e.peer ∧ x.samePlace e.peer (beAt p 8 8) = true
    (hOp b = 1 → gaSpace a = 8 → let q := x.regAccess (.chip (hSrc b)) (gaOff a) (4 * hLen b) none
      exec .ouvRead s = answer q.2.2 q.1 (if q.1 = 0 then toLe (4 * hLen b) q.2.1.toNat else [])) ∧
    (∀ r w, hOp b = 1 → gaSpace a ≠ 8 → x.request ⟨1, a, 4 * hLen b, p, hSpan b, some (hSrc b), none, 4096, false, hFwd b⟩ client 5 = (some r, w) →
      exec .ouvRead s = .next (respond w r)) ∧
    (hOp b = 2 → gaSpace a = 8 → let q := x.regAccess (.chip (hSrc b)) (gaOff a) p.length (some (BitVec.ofNat 64 (leNat p)))
      exec .ouvWrite s = answer q.2.2 q.1 []) ∧
    (hOp b = 2 → gaSpace a = 0 → hSpan b ≠ 0xFFF → x.tileUnlit (hSpan b) (gaOff a) = true → exec .ouvWrite s = answer x St.spanUnlit []) ∧
    (hOp b = 2 → gaSpace a = 0 → hSpan b ≠ 0xFFF → x.tileUnlit (hSpan b) (gaOff a) = false →
      let q := x.apertureWrite ⟨hSpan b, hSrc b, none⟩ (gaOff a) p
      exec .ouvWrite s = answer q.2 q.1 []) ∧
    (∀ r w, hOp b = 2 → 1 ≤ gaSpace a → gaSpace a ≤ 3 → x.request ⟨2, a, p.length, p, hSpan b, some (hSrc b), none, 4096, !hFwd b, hFwd b⟩ client 5 = (some r, w) →
      exec .ouvWrite s = .next (respond w r)) ∧
    (∀ r w, hOp b = 3 → x.request ⟨3, a, 4 + 4 * beAt p 1 1, p, hSpan b, some (hSrc b), none, 4096, false, hFwd b⟩ client 5 = (some r, w) →
      exec .ouvAtomic s = .next (respond w r)) ∧
    (hOp b = 4 → moveSub b = 1 → x.beginStatus a (hSpan b) (some (hSrc b)) ≠ 0 → exec (.moveBegin ro) s = answer x (x.beginStatus a (hSpan b) (some (hSrc b))) []) ∧
    (hOp b = 4 → moveSub b = 1 → x.beginStatus a (hSpan b) (some (hSrc b)) = 0 → ∃ w : State, exec (.moveBegin ro) s = answer w 0 [] ∧
      w.mem = (x.setHome tier g ⟨3, ro, beAt p 1 1, beAt p 8 8, 0⟩).mem ∧ (tier, g) ∈ w.net.cut ∧ ∃ m ∈ w.net.inbound, m.tier = tier ∧ m.granule = g) ∧
    (hOp b = 4 → moveSub b = 2 → from_ → ∃ w : State, exec .moveCommit s = answer w 0 [] ∧ w.mem = (x.setHome tier g ⟨0, e.ro, 0, 0, 0⟩).mem ∧ (tier, g) ∉ w.net.cut) ∧
    (hOp b = 4 → moveSub b = 2 → ¬from_ → exec .moveCommit s = answer x 0 []) ∧
    (hOp b = 4 → moveSub b = 3 → from_ → exec .moveAbort s = answer (x.abortIn tier g) 0 []) ∧
    (hOp b = 4 → moveSub b = 3 → ¬from_ → exec .moveAbort s = answer x 0 []) ∧
    (hOp b = 4 → moveSub b = 4 → exec .moveQuery s = answer x 0 (toBe 1 e.st ++ List.replicate 7 0 ++ toBe 8 e.peer)) ∧
    (hOp b = 5 → let q := x.dispatchIn (some (hSrc b)) (hSpan b) (a % 2 ^ 8) (a / 2 ^ 8 % 8) p
      exec .ouvDispatch s = answer q.2 q.1 [])

/-- R468, R469, R476: a response that its stream accepts answers the operation with its die, tag, chip and op; without one it is counted. -/
def ResponsesAnswer : Prop :=
  ∀ (s v w : State) (f : InFrame), InFront s f v → hResp f.bytes = true → hOp f.bytes ≠ 8 → hOp f.bytes ≠ 9 → hOp f.bytes ≠ 0x0A →
    let b := f.bytes
    let mine (o : NetOp) : Prop := o.die = hDie b ∧ o.tag = hTag b ∧ o.chip = hSrc b ∧ o.op = hOp b ∧ o.done = none
    (v.takeNumbered f true 32 = .dropped w → exec .ouvResponse s = .next w) ∧
    (v.takeNumbered f true 32 = .accepted w → (∀ o ∈ w.net.ops, ¬mine o) →
      exec .ouvResponse s = .next (w.setRf 0x70078 15 0 (min (w.rf 0x70078 15 0 + 1) 0xFFFF))) ∧
    (∀ o l r, v.takeNumbered f true 32 = .accepted w → w.net.ops = l ++ o :: r → (∀ q ∈ l, ¬mine q) → mine o →
      exec .ouvResponse s = .next (w.answerOp o ⟨hStatus b, ouvPayload b, hAddr b, hFwd b⟩))

/-- R468-R478: streams and operations between chips. -/
def Obligations.FabricOperations : Prop := StreamsTakeInOrder ∧ FabricRequestsAreJudged ∧ FabricRequestsArePerformed ∧ ResponsesAnswer

/-- R482, R487: a multicast frame that comes from its parent is copied to the children and written here; from elsewhere it is accepted, discarded and counted. A LOAN_RECALL takes the first free recall
record and posts an event; a LOAN_RELEASE of the borrower starts the scrub of its slot. A write of RELEASE sends the lender a notice; the record ends at its deadline. -/
def NoticesAndMulticast : Prop :=
  ∀ (s v w : State) (f : InFrame) (k : Nat),
    let b := f.bytes
    let p := ouvPayload b
    let tree := beAt p 1 1
    let discarded (u : State) : Host.Outcome State Fault Refusal := .next (u.setRf 0x70070 63 48 (min (u.rf 0x70070 63 48 + 1) 0xFFFF))
    (InFront s f v → hOp b = 6 → hResp b = false → v.takeNumbered f true 32 = .accepted w → v.fromParent f.egress b = false → exec .mcast s = discarded w) ∧
    (∀ d loc fwd y, InFront s f v → hOp b = 6 → hResp b = false → v.takeNumbered f true 32 = .accepted w → castBad b = false → v.fromParent f.egress b = true → v.assigned = true →
      (∀ q ∈ v.treeChildren tree, v.linkUp q = false) → beAt p 0 1 = 1 → 1 ≤ gaSpace (hAddr b) → gaSpace (hAddr b) ≤ 3 →
      w.request ⟨2, hAddr b, (p.drop 16).length, p.drop 16, hSpan b, some (hSrc b), none, 4096, false, false⟩ .none 5 = (some ⟨0, d, loc, fwd⟩, y) →
      exec .mcast s = .next y) ∧
    (InFront s f v → hOp b = 7 → hResp b = false → noticeKind b = 1 → noticeBad b = false → v.assigned = true → k < 64 →
      v.takeNumbered f true 48 = .accepted w → v.rb (0x71000 + 0x20 * k) 0 = false → w.rb (0x71000 + 0x20 * k) 0 = false →
      (∀ j, j < k → w.rb (0x71000 + 0x20 * j) 0 = true) →
      ∃ u : State, exec .loanRecall s = .next u ∧ u.rb (0x71000 + 0x20 * k) 0 = true ∧ u.rf (0x71000 + 0x20 * k) 7 2 = beAt p 1 1 ∧ u.rf (0x71000 + 0x20 * k) 8 8 = beAt p 2 1 ∧
        u.rf (0x71000 + 0x20 * k) 29 16 = hSrc b ∧ u.rf (0x71008 + 0x20 * k) 31 0 = beAt p 8 4 ∧ u.rf (0x71008 + 0x20 * k) 63 32 = beAt p 12 4 ∧
        u.reg (0x71010 + 0x20 * k) = BitVec.ofNat 64 (w.now + 4000 * beAt p 4 4) ∧ u.mem = (w.postOuv 7 0 0xFFFF k []).mem ∧ u.tiles = w.tiles) ∧
    (InFront s f v → hOp b = 7 → hResp b = false → noticeKind b = 2 → noticeBad b = false → v.assigned = true → v.takeNumbered f true 48 = .accepted w →
      exec .loanRelease s = .next (if w.loanBorrower tree = hSrc b then w.loanScrub tree else w)) ∧
    (k < 64 → RegOpen s (0x71000 + 0x20 * k) → s.rb (0x71000 + 0x20 * k) 0 = false → exec (.release k) s = .next (s.answer 0)) ∧
    (k < 64 → RegOpen s (0x71000 + 0x20 * k) → s.rb (0x71000 + 0x20 * k) 0 = true → s.netBlock (s.rf (0x71000 + 0x20 * k) 29 16) 0xFFF = none → (∀ e, (s.freeTag e).isSome = true) →
      ∃ u : State, exec (.release k) s = .next (u.answer 0) ∧ u.mem = s.mem ∧ u.regs = s.regs ∧ ∃ o ∈ u.net.ops, o.client = .release k ∧ o.op = 7 ∧
        o.chip = s.rf (0x71000 + 0x20 * k) 29 16) ∧
    (k < 64 → exec (.recallDeadline k) s = .next (if s.rb (0x71000 + 0x20 * k) 0 = true ∧ (s.reg (0x71010 + 0x20 * k)).toNat ≤ s.now then
      s.setRb (0x71000 + 0x20 * k) 0 false else s))

/-- R475-R477: an ACK releases the frames it covers and widens the window, or halves it with CE; acknowledgements that are due go out. A frame that waits RTO without one goes
again with RETX while it has RETRIES left; past them its chip is lost. SYNC begins a stream anew, RESYNC asks for one, and none goes out within 4 ms of a reset. -/
def StreamsRecover : Prop :=
  ∀ (s v : State) (f : InFrame) (k : Nat),
    let b := f.bytes
    let p := ouvPayload b
    let c := streamOf f
    (InFront s f v → hOp b = 8 → looseBad b = false → (v.txs c).wait = [] → (∀ g ∈ (v.txs c).una, g.acks = none ∧ ackCovers (hSeq b) (ackRanges p) g.seq = true) →
      ∃ u : State, exec .ack s = .next u ∧ (u.txs c).una = [] ∧ u.mem = s.mem ∧ u.regs = s.regs ∧ u.net.ops = s.net.ops ∧
        (hCe b = false → (u.txs c).cwnd = min 4096 ((v.txs c).cwnd + 1)) ∧
        (hCe b = true → (v.txs c).cutAt = none → (u.txs c).cwnd = max 16 ((v.txs c).cwnd / 2) ∧ (u.txs c).cutAt = some s.now)) ∧
    (InFront s f v → looseBad b = true → let bad := Host.Outcome.next (v.setRf 0x70070 63 48 (min (v.rf 0x70070 63 48 + 1) 0xFFFF))
      (hOp b = 8 → exec .ack s = bad) ∧ (hOp b = 9 → exec .hello s = bad) ∧ (hOp b = 0x0A → hResp b = true → exec .sync s = bad) ∧
      (hOp b = 7 → hResp b = false → (beAt b 32 1 = 3 → exec .resync s = bad) ∧ (beAt b 32 1 = 4 → exec .unreachable s = bad))) ∧
    ((s.rxs k).due = false → exec (.ackTimer k) s = .next s) ∧
    ((s.rxs k).due = true → ∃ u : State, exec (.ackTimer k) s = .next u ∧ (u.rxs k).due = false ∧ (u.rxs k).fresh = 0 ∧ (u.rxs k).cum = (s.rxs k).cum ∧ u.regs = s.regs) ∧
    (∀ g l r e, (s.txs k).synced = true → (s.txs k).una = l ++ g :: r → g.last + s.rto ≤ s.now → g.sends ≤ s.retries →
      (∀ h ∈ l, ¬(h.last + s.rto ≤ s.now ∧ h.sends ≤ s.retries)) → (∀ h ∈ l ++ r, h.seq ≠ g.seq) →
      let b' := setHopsFlags g.bytes (hHops g.bytes) (hFlags g.bytes ||| Fl.retx)
      s.streamEgress k (hAddr b') ((s.txs k).salt + (g.salt + 1)) b' = some e →
      ∃ (u : State) (q : TxFrame), exec (.ouvRetransmit k) s = .next u ∧ (u.txs k).una = l ++ q :: r ∧ q.seq = g.seq ∧ q.bytes = b' ∧ q.sends = g.sends + 1 ∧ q.last = s.now ∧
        u.rf 0x70060 31 0 = min (s.rf 0x70060 31 0 + 1) (2 ^ 32 - 1)) ∧
    (k < 0x3FFF → s.isLost k = false → (∀ o ∈ s.net.ops, ∀ j, o.client = .release j → j < 64) → (∃ g ∈ (s.txs k).una, 1 + s.retries ≤ g.sends ∧ g.last + s.rto ≤ s.now) → ∃ u : State, exec (.retryLimit k) s = .next u ∧ u.isLost k = true ∧
      u.txs k = TxStream.init ∧ u.rxs k = RxStream.init ∧ u.rf 0x70060 47 32 = min (s.rf 0x70060 47 32 + 1) 0xFFFF) ∧
    ((∀ g ∈ (s.txs k).una, g.sends < 1 + s.retries) → (s.txs k).synced = true → exec (.retryLimit k) s = .next s) ∧
    (InFront s f v → hOp b = 0x0A → looseBad b = false → v.bootMode = false → hResp b = false → (v.rxs c).inc ≠ some (beAt p 0 4) → ∃ u : State, exec .sync s = .next u ∧
      (u.rxs c).inc = some (beAt p 0 4) ∧ (u.rxs c).cum = seqPrev (beAt p 4 4) ∧ (u.rxs c).got = [] ∧ (u.txs c).synced = true ∧
      u.rf 0x70060 63 48 = min (s.rf 0x70060 63 48 + 1) 0xFFFF) ∧
    (InFront s f v → hOp b = 7 → looseBad b = false → hResp b = false → beAt b 32 1 = 3 → v.net.quiet = false → ∃ u : State, exec .resync s = .next u ∧ (u.txs c).syncSends = 1 ∧ (u.txs c).syncAt = s.now ∧
      (u.txs c).una = [] ∧ (∀ o ∈ u.net.ops, o.chip = c → o.done ≠ none)) ∧
    (s.now < s.net.resetAt + 16000000 → exec .resetQuietEnd s = .next s) ∧
    (s.net.resetAt + 16000000 ≤ s.now → ∃ u : State, exec .resetQuietEnd s = .next u ∧ u.net.quiet = false ∧ u.mem = s.mem ∧ u.regs = s.regs)

/-- R480, R485, R486: a frame for another chip goes on with one hop less by an egress of its route; without hops or a way it is dropped, and its source is told. One that has waited 100 µs is dropped. An
UNREACHABLE raises the salt of its stream. OUV_LOST_CLEAR clears the mark of a chip that has a way again. -/
def TransitFramesPass : Prop :=
  ∀ (s v : State) (f : InFrame) (e : Nat) (w : W64),
    let b := f.bytes
    (s.net.ouvIn.head? = some f → s.forMe b = false → v = s.withNet (s.net.withOuvIn (s.net.ouvIn.drop 1)) →
      (∀ q, 0 < hHops b → v.egressFor (hDst b) (hSrc b) (hAddr b) 0 true b = some (some q) →
        exec .ouvTransit s = .next (v.queueOuv q (setHopsFlags b (hHops b - 1) (hFlags b)) 0 (some f.tc) (some f.time))) ∧
      (0 < hHops b → (∀ q, v.egressFor (hDst b) (hSrc b) (hAddr b) 0 true b ≠ some (some q)) → exec .ouvTransit s = .next (v.tellUnreachable (hSrc b) (hDst b) 1)) ∧
      (hHops b = 0 → exec .ouvTransit s = .next ((v.setRf 0x70070 31 16 (min (v.rf 0x70070 31 16 + 1) 0xFFFF)).tellUnreachable (hSrc b) (hDst b) 2))) ∧
    (InFront s f v → hOp b = 7 → looseBad b = false → hResp b = false → beAt b 32 1 = 4 → let c := beAt (ouvPayload b) 4 4 % 2 ^ 14
      exec .unreachable s = .next (v.setTx c ((v.txs c).withSalt ((v.txs c).salt + 1)))) ∧
    (∀ (l r : List OutFrame) (g : OutFrame) (t : Nat), (s.sub e).egress = l ++ g :: r → (∀ h ∈ l, ∀ t', h.born = some t' → s.now < 400000 + t') → g.born = some t → 400000 + t ≤ s.now →
      exec (.transitAge e) s = .next ((s.setSub e ((s.sub e).withEgress (l ++ r))).setRf 0x70070 15 0 (min (s.rf 0x70070 15 0 + 1) 0xFFFF))) ∧
    (RegOpen s 0x70040 → s.isLost (fld w 13 0) = false → exec (.ouvLostClear w) s = .next (s.answer 0)) ∧
    (RegOpen s 0x70040 → s.isLost (fld w 13 0) = true → s.unreachable (fld w 13 0) = false → exec (.ouvLostClear w) s =
      .next ((s.setRb (0x74000 + fld w 13 0 / 64 * 8) (fld w 13 0 % 64) false).answer 0))

/-- R38, R483-R485, R489: a hello leaves on every link that is not DOWN, each 1 ms in PROBING and each 100 ms else. A hello that arrives moves its link: with another digest to QUARANTINED; one that passes from QUARANTINED to PROBING, and from PROBING
to KNOWN when its sender has seen ours; 350 ms without one move KNOWN to PROBING. A manifest is hashed once at a time; its digest is kept and measured. -/
def LinksAreDiscovered : Prop :=
  ∀ (s v : State) (f : InFrame) (e : Nat) (w : W64),
    let h := slice (ouvPayload f.bytes) 0 64
    let q := f.egress
    let why := hDigest h ≠ v.ownDigest ∨ (v.chipInForce ≠ 0x3FFF ∧ hAssigned h = true ∧ hChip h = v.chipInForce)
    let every := if s.neigh e = 1 then 4000000 else 400000000
    let sent := (s.sub e).withHelloAt s.now
    (e < 272 → (s.neigh e = 0 ∨ s.now < (s.sub e).helloAt + every) → exec (.helloTimer e) s = .next s) ∧
    (e < 272 → (s.sub e).helloAt + every ≤ s.now → s.subUsed e = true → s.neigh e ≠ 0 → s.ouvRuns = true → s.linkUp e = true → ∃ g : OutFrame, g.kind = .ouvCtl ∧ hOp g.body = 9 ∧ hDst g.body = 0x3FFF ∧
      slice g.body 32 64 = s.helloBody e ∧ exec (.helloTimer e) s = .next ((s.setSub e sent).setSub e (sent.withEgress (sent.egress ++ [g])))) ∧
    (InFront s f v → hOp f.bytes = 9 → looseBad f.bytes = false → q < 272 → ∃ u : State, exec .hello s = .next u ∧ (u.sub q).hello = some ⟨h, s.now⟩ ∧ u.rf (egReg q 0x18) 21 8 = hChip h ∧
      u.rf (egReg q 0x18) 63 32 = hInc h ∧
      (v.neigh q = 0 → u.neigh q = 0) ∧ (v.neigh q ≠ 0 → why → u.neigh q = 3) ∧ (v.neigh q = 3 → ¬why → u.neigh q = 1) ∧
      (v.neigh q = 1 → ¬why → u.neigh q = if hSeen h then 2 else 1)) ∧
    (e < 272 → (s.neigh e ≠ 2 ∨ s.seen e = true) → exec (.neighbourTimeout e) s = .next s) ∧
    (e < 272 → s.neigh e = 2 → s.seen e = false → ∃ u : State, exec (.neighbourTimeout e) s = .next u ∧ u.neigh e = 1) ∧
    (RegOpen s 0x70010 → let off := fld w 25 0
      let n := fld w 55 32
      (s.rb 0x70010 26 = true → exec (.ouvManifest w) s = .next (s.answer St.ouvBusy)) ∧
      (s.rb 0x70010 26 = false → off % 64 ≠ 0 ∨ n = 0 ∨ 2 ^ 26 < off + n → exec (.ouvManifest w) s = .next (s.answer St.paramRange)) ∧
      (s.rb 0x70010 26 = false → off % 64 = 0 → n ≠ 0 → off + n ≤ 2 ^ 26 → exec (.ouvManifest w) s =
        .next (((s.setRb 0x70010 26 true).withNet (s.net.withManifest (some (off, n)))).answer 0))) ∧
    (∀ off n, s.net.manifest = some (off, n) → ∃ u : State, exec .manifestHashDone s = .next u ∧ u.net.manifest = none ∧ u.rb 0x70010 26 = false ∧
        ∀ i, i < 4 → u.reg (0x70018 + 8 * i) = BitVec.ofNat 64 (leAt (sha3Bytes (s.rdHub off n)) (8 * i) 8))

/-- R472-R489: streams recover, frames pass through, links are discovered, notices and multicast act. -/
def Obligations.FabricStreams : Prop := NoticesAndMulticast ∧ StreamsRecover ∧ TransitFramesPass ∧ LinksAreDiscovered

/-- The link of sub-port e is up, and the port's mode uses it. -/
def Live (s : State) (e : Nat) : Prop := e < 288 ∧ s.linkUp e = true ∧ s.subUsed e = true

/-- The counter of sub-port e at offset o reads n more, and no more than it can hold (R462). -/
def Counts (s u : State) (e o n : Nat) : Prop := u.rf (egSub e o) 47 0 = min (s.rf (egSub e o) 47 0 + n) (2 ^ 48 - 1)

/-- R441-R445, R456, R462: a frame on a link that is down is lost. Of those received, one with a bad FCS, of a wrong length, or with an address or tag that the
sub-port does not accept is dropped and counted as such, in this order; a serving frame of a serving port that has room waits for the engine and is
counted with its bytes, without the padding of a frame of 64 B; without room it is dropped. -/
def FramesAreReceived : Prop :=
  ∀ (s : State) (e corr uncorr : Nat) (f : List Byte), e < 288 →
    let b := f.take (f.length - 4)
    let good := 4 ≤ f.length ∧ fcs b = f.drop (f.length - 4)
    let data := if f.length = 64 then (b.drop 14).take (32 + beAt b 16 2) else b.drop 14
    let fits := 64 ≤ f.length ∧ f.length ≤ s.rf (egSub e 0) 13 0
    let plain := beAt b 12 2 ≠ 0x8100
    let ok := s.addrOk e (beAt b 0 6) = true ∧ s.vlanOk e (if beAt b 12 2 = 0x8100 then some (beAt b 14 2) else none) = true
    let dropped (o : Nat) : Prop := ∃ u : State, exec (.ethFrameReceive e f corr uncorr) s = .next u ∧ u.withRegs s.regs = s ∧ Counts s u e o 1 ∧
      Counts s u e 0x178 corr ∧ Counts s u e 0x180 uncorr
    let type := beAt b 12 2
    let serving := type = s.rf 0x30078 15 0 ∧ s.rb 0x30078 32 = true ∧ type ≠ 0x8808 ∧ type ≠ 0x88E5 ∧ type ≠ 0x88F7 ∧ type ≠ s.rf 0x70000 15 0 ∧
      s.rb (egSub e 0) 16 = false ∧ isServing (e / 8) = true
    (s.linkUp e = false ∨ s.subUsed e = false → exec (.ethFrameReceive e f corr uncorr) s = .next s) ∧
    (Live s e → ¬good → dropped 0x120) ∧ (Live s e → good → ¬fits → dropped 0x128) ∧ (Live s e → good → fits → ¬ok → dropped 0x130) ∧
    (Live s e → good → fits → ok → plain → serving →
      let tc := s.rf (portOff (e / 8) 0x20) 14 12
      (s.hasRoom e tc f.length = false → dropped 0x148) ∧
      (s.hasRoom e tc f.length = true → ∃ u : State, exec (.ethFrameReceive e f corr uncorr) s = .next u ∧
        u.net.srvIn = s.net.srvIn ++ [⟨e, tc, beAt b 6 6, none, none, data, s.now, f.length⟩] ∧ Counts s u e 0x100 1 ∧ Counts s u e 0x108 f.length ∧ u.mem = s.mem))

/-- R446: the Neighbor Solicitation in front is answered with an advertisement of the sub-port's MAC address to its source. -/
def SolicitationsAreAnswered : Prop :=
  ∀ (s : State) (f : InFrame) (l : List InFrame), s.net.ndIn = f :: l → slice f.bytes 8 16 ≠ List.replicate 16 0 →
    let v := s.withNet (s.net.withNdIn l)
    let e := f.egress
    (s.linkUp e = false → exec .neighborSolicitation s = .next v) ∧
    (s.linkUp e = true → ∃ g : OutFrame, exec .neighborSolicitation s = .next (v.setSub e ((s.sub e).withEgress ((s.sub e).egress ++ [g]))) ∧ g.kind = .nd ∧ g.mac = f.src ∧
      slice g.body 8 16 = s.subIp e ∧ slice g.body 24 16 = slice f.bytes 8 16 ∧ slice g.body 40 2 = [136, 0] ∧ slice g.body 48 16 = s.subIp e ∧
      slice g.body 66 6 = toBe 6 (s.subMac e))

/-- R448: a PFC frame pauses the classes that it names and that have PFC on for their quanta, 0 resumes them; a pause ends by itself. A class that has sent XOFF repeats it each 32,768
quanta while it holds more than XON, and else resumes its sender. -/
def PausesHold : Prop :=
  ∀ (s : State) (e c : Nat), e < 288 → c < 8 →
    (∀ (f : InFrame) (l : List InFrame), s.net.pfcIn = f :: l → ∃ u : State, exec .pfc s = .next u ∧ u.net.pfcIn = l ∧ u.regs = s.regs ∧
      (∀ j, j ≠ f.egress → u.sub j = s.sub j) ∧
      let b := f.bytes
      let quanta := beAt b (4 + 2 * c) 2
      if bitsAt (beAt b 2 2) c 1 = 1 ∧ s.pfcOn f.egress c = true then
        (quanta = 0 → (u.sub f.egress).paused c = false) ∧ (quanta ≠ 0 → (c, s.now + s.pauseQns f.egress quanta) ∈ (u.sub f.egress).pauses)
      else (u.sub f.egress).paused c = (s.sub f.egress).paused c) ∧
    (∀ t, (s.sub e).pauses = [(c, t)] → exec (.pfcPauseExpiry e c) s = .next (if t ≤ s.now then s.setSub e ((s.sub e).withPauses []) else s)) ∧
    let rest := (s.sub e).xoff.filter (fun x => x.1 != c)
    let goesOn := s.pfcOn e c = true ∧ s.xonBytes e < s.heldBytes e c
    let after (u : State) (q : Nat) : Prop := ∃ g : OutFrame, (u.sub e).egress = (s.sub e).egress ++ [g] ∧ g.kind = .pfc ∧ beAt g.body (4 + 2 * c) 2 = q ∧ beAt g.body 2 2 = 2 ^ c
    ((∀ x ∈ (s.sub e).xoff, x.1 ≠ c) → exec (.pfcRefresh e c) s = .next s) ∧
    (∀ t, (s.sub e).xoff.find? (fun x => x.1 == c) = some (c, t) →
      (goesOn → s.now < t + s.pauseQns e 0xFFFF / 2 → exec (.pfcRefresh e c) s = .next s) ∧
      (goesOn → t + s.pauseQns e 0xFFFF / 2 ≤ s.now → s.linkUp e = true → ∃ u : State, exec (.pfcRefresh e c) s = .next u ∧ (u.sub e).xoff = rest ++ [(c, s.now)] ∧ after u 0xFFFF) ∧
      (¬goesOn → s.linkUp e = true → ∃ u : State, exec (.pfcRefresh e c) s = .next u ∧ (u.sub e).xoff = rest ∧ after u 0))

/-- R440, R443, R447: a sub-port sends a PFC frame first, then one of class 7, then of class 6, then the others in turn; a paused class waits. The frame leaves the queue and goes out with the sub-port's
addresses, its EtherType, padding to 60 B and its FCS, or is dropped and counted when it is longer than MAX_FRAME. -/
def FramesLeaveInOrder : Prop :=
  ∀ (s : State) (e : Nat) (l r : List OutFrame) (f : OutFrame), Live s e → s.feedLow (e / 8) = false → (s.sub e).egress = l ++ f :: r →
    let p := s.sub e
    let first (k : OutFrame → Prop) : Prop := k f ∧ ∀ g ∈ l, ¬k g
    let waits (c : Nat) (g : OutFrame) : Prop := g.tc = c ∧ g.kind ≠ .pfc ∧ p.paused c = false
    let noPfc := ∀ g ∈ p.egress, g.kind ≠ .pfc
    let chosen := first (fun g => g.kind = .pfc) ∨ (noPfc ∧ first (waits 7)) ∨ (noPfc ∧ (∀ g ∈ p.egress, ¬waits 7 g) ∧ first (waits 6))
    let b := s.macHeader e f ++ s.innerOf e f false 0
    let padded := b ++ List.replicate (60 - b.length) 0
    chosen → f.udp = none → f.kind ≠ .ptp → f.kind ≠ .serve → stepFrag f = none → s.rb (egSub e 0) 16 = false ∨ f.kind = .pfc → s.queueBytes e f.tc ≤ 4096 * s.rf (egSub e 0) 55 40 →
      ∃ u : State, exec (.egressFrameSend e) s = .next u ∧ (u.sub e).egress = l ++ r ∧ u.mem = s.mem ∧
        (padded.length + 4 ≤ s.rf (egSub e 0) 13 0 → u.net.wire = s.net.wire ++ [(e, padded ++ fcs padded)] ∧ Counts s u e 0x110 1 ∧ Counts s u e 0x118 (padded.length + 4)) ∧
        (s.rf (egSub e 0) 13 0 < padded.length + 4 → u.net.wire = s.net.wire ∧ Counts s u e 0x158 1)

/-- R440-R448: frames on the sub-ports. -/
def Obligations.EthernetFrames : Prop := FramesAreReceived ∧ SolicitationsAreAnswered ∧ PausesHold ∧ FramesLeaveInOrder

/-- R438, R455, R460: PORT_CFG takes MODE only while the port is off, and not a reserved one, nor on a serving port; ENABLE begins training, FULL a full one; without ENABLE every sub-port goes
down. A MODE must leave the PFC reservations within the buffer and at most one SLAVE. A training that ends locks every lane that has light, a full one stores its set; a fast
one that lasts 5 ms becomes full. -/
def PortsTrain : Prop :=
  ∀ (s : State) (p : Nat) (v : W64) (ok : Bool), p < 36 →
    let o := portOff p 0
    let m := fld v 1 0
    let legal := m ≠ 3 ∧ (isServing p = true → m = 0)
    let fits := m = s.portMode p ∨ (¬pfcOver (s.reg (portOff p 0x18)) m ∧ (s.setRf o 1 0 m).slaves.length ≤ 1)
    let apart (u : State) : Prop := u.mem = s.mem ∧ ∀ q, q ≠ 8 * p → u.sub q = s.sub q
    let train (u : State) : Nat := u.rf (portOff p 8) 19 17
    let st := train s
    (RegOpen s o → ¬legal → exec (.portCfgWrite p v) s = .next (s.answer St.paramRange)) ∧
    (RegOpen s o → legal → s.portOn p = true → m ≠ s.portMode p → exec (.portCfgWrite p v) s = .next (s.answer St.portBusy)) ∧
    (RegOpen s o → legal → s.portOn p = false → ¬fits → exec (.portCfgWrite p v) s = .next (s.answer St.paramRange)) ∧
    (RegOpen s o → legal → fits → s.portOn p = false → bit v 2 = false →
      exec (.portCfgWrite p v) s = .next ((if m = s.portMode p then s.writeReg o v else (s.writeReg o v).followSlave).answer 0)) ∧
    (RegOpen s o → legal → fits → s.portOn p = false → bit v 2 = true → ∃ u : State, exec (.portCfgWrite p v) s = .next u ∧ u.portOn p = true ∧ u.portMode p = m ∧
      (train u = 1 ∨ train u = 2) ∧ (bit v 3 = true → train u = 1) ∧ apart u ∧ (u.sub (8 * p)).trainAt = s.now ∧ u.reply = ⟨0, []⟩) ∧
    (RegOpen s o → legal → s.portOn p = true → m = s.portMode p → bit v 2 = false → ∃ u : State, exec (.portCfgWrite p v) s = .next u ∧ u.portOn p = false ∧ train u = 0 ∧
      ∀ k, k < 8 → u.linkUp (8 * p + k) = false) ∧
    (RegOpen s o → s.portMode p ≠ 3 → (isServing p = true → s.portMode p = 0) → s.portOn p = true → ∃ u : State, exec (.full p) s = .next u ∧ train u = 1 ∧ u.portOn p = true ∧
      apart u ∧ (u.sub (8 * p)).trainAt = s.now ∧ ∀ k, k < subCount (s.portMode p) → Counts s u (8 * p + k) 0x188 1) ∧
    (RegOpen s o → s.portMode p ≠ 3 → (isServing p = true → s.portMode p = 0) → s.portOn p = false → ∃ u : State, exec (.full p) s = .next u ∧ (∀ o, u.reg o = s.reg o) ∧ u.net = s.net) ∧
    (st ≠ 1 → st ≠ 2 → exec (.portTrainDone p ok) s = .next s) ∧
    (st = 1 → exec (.portTrainDone p false) s = .next (s.setRf (portOff p 8) 19 17 4)) ∧
    (st = 2 → exec (.portTrainDone p false) s = .next s) ∧
    (st = 1 ∨ st = 2 → ∃ u : State, exec (.portTrainDone p true) s = .next u ∧ train u = 3 ∧
      (∀ e, e / 8 = p → s.subUsed e = true → (s.sub e).dark = false → u.locksAll e = true) ∧
      (s.portMode p = 0 → (s.sub (8 * p)).dark = true → u.rf (portOff p 8) 15 0 = s.rf (portOff p 8) 15 0) ∧
      (st = 1 → u.rb (portOff p 0x10) (8 + s.rf (portOff p 0x10) 2 0) = true ∧ u.net = s.net) ∧ (st = 2 → (u.sub (8 * p)).fails = 0)) ∧
    (st ≠ 2 ∨ s.now < (s.sub (8 * p)).trainAt + 20000000 → exec (.fastRetrainTimeout p) s = .next s) ∧
    (st = 2 → (s.sub (8 * p)).trainAt + 20000000 ≤ s.now → ∃ u : State, exec (.fastRetrainTimeout p) s = .next u ∧ train u = 1 ∧ (s.rb 0x10028 0 = true → s.rb 0x10000 3 = false → 1 ≤ (s.sub (8 * p)).fails →
      u.rb (portOff p 0x10) (8 + s.rf (portOff p 0x10) 2 0) = false))

/-- R435, R456, R457: the link of a used sub-port with light whose lanes are locked comes up, its neighbour PROBING; a link that goes down loses its queue and its neighbour, is counted, and retrains, or waits for light and
then retrains. A laser feed below its level stops the transmitters until it is restored and the port has retrained. -/
def LinksGoUpAndDown : Prop :=
  ∀ (s : State) (e p : Nat) (cause : LinkCause), e < 288 → p < 36 →
    let st (u : State) (q : Nat) : Nat := u.rf (portOff q 8) 19 17
    let trains (u : State) (q : Nat) : Prop := st u q = 1 ∨ st u q = 2
    (s.linkUp e = true ∨ s.subUsed e = false ∨ s.portOn (e / 8) = false ∨ (s.sub e).dark = true ∨ s.locksAll e = false → exec (.portLinkUp e) s = .next s) ∧
    (s.linkUp e = false → s.subUsed e = true → s.portOn (e / 8) = true → (s.sub e).dark = false → s.locksAll e = true → ∃ u : State, exec (.portLinkUp e) s = .next u ∧ u.linkUp e = true ∧
      (u.sub e).dark = false ∧ (u.sub e).hello = none ∧ (e < 272 → u.neigh e = 1)) ∧
    (s.portOn (e / 8) = false ∨ s.subUsed e = false ∨ (cause ≠ .light ∧ s.linkUp e = false) → exec (.portLinkDown e cause) s = .next s) ∧
    (cause = .light → s.portOn (e / 8) = true → s.subUsed e = true → ∃ u : State, exec (.portLinkDown e cause) s = .next u ∧ u.linkUp e = false ∧ (u.sub e).dark = true ∧
      u.locksAll e = false) ∧
    (s.linkUp e = true → s.portOn (e / 8) = true → s.subUsed e = true → ∃ u : State, exec (.portLinkDown e cause) s = .next u ∧ u.linkUp e = false ∧ (u.sub e).egress = [] ∧
      (e < 272 → u.neigh e = 0) ∧ (cause ≠ .light → trains u (e / 8)) ∧
      u.rf (egSub e 8) 63 32 = min (s.rf (egSub e 8) 63 32 + 1) (2 ^ 32 - 1)) ∧
    ((s.sub e).dark = true → s.portOn (e / 8) = true → ∃ u : State, exec (.lightRestored e) s = .next u ∧ (u.sub e).dark = false ∧ trains u (e / 8) ∧ u.mem = s.mem) ∧
    ((s.sub e).dark = false ∨ s.portOn (e / 8) = false → exec (.lightRestored e) s = .next s) ∧
    exec (.laserFeedLow p) s = .next (s.setRb (portOff p 8) 16 true) ∧
    (s.feedLow p = false → exec (.laserFeedRestored p) s = .next s) ∧
    (s.feedLow p = true → s.portOn p = false → exec (.laserFeedRestored p) s = .next (s.setRb (portOff p 8) 16 false)) ∧
    (s.feedLow p = true → s.portOn p = true → ∃ u : State, exec (.laserFeedRestored p) s = .next u ∧ u.feedLow p = false ∧ trains u p ∧ u.mem = s.mem)

/-- R449-R451, R461: the registers of an SA that is not in use take their values; of one in use only ENABLE may change, and not on the transmit SA. PORT_SUB_SEC selects
the transmit SA and the replay window. A sub-port that the mode does not use ignores them. -/
def AssociationsAreKeyed : Prop :=
  ∀ (s : State) (e sa r : Nat) (v : W64), e < 288 → sa < 20 → r < 8 →
    let o := egSub e (0x400 + 0x40 * sa + 8 * r)
    let used := s.rb (egSub e (0x400 + 0x40 * sa)) 0 = true
    (RegOpen s o → s.subUsed e = false → exec (.portSaWrite e sa r v) s = .next (s.answer 0)) ∧
    (RegOpen s o → s.subUsed e = true → used → r ≠ 0 → exec (.portSaWrite e sa r v) s = .next (s.answer St.saInUse)) ∧
    (RegOpen s o → s.subUsed e = true → used → r = 0 → fld v 63 32 = s.rf o 63 32 → (bit v 0 = true ∨ sa ≠ s.rf (egSub e 0x30) 1 0) →
      exec (.portSaWrite e sa r v) s = .next ((s.writeReg o v).answer 0)) ∧
    (RegOpen s o → s.subUsed e = true → used → r = 0 → bit v 0 = false → sa = s.rf (egSub e 0x30) 1 0 → exec (.portSaWrite e sa r v) s = .next (s.answer St.saInUse)) ∧
    (RegOpen s o → s.subUsed e = true → ¬used → r = 0 → exec (.portSaWrite e sa r v) s = .next ((s.writeReg o v).answer 0)) ∧
    (RegOpen s o → s.subUsed e = true → ¬used → 2 ≤ r → r ≤ 6 → exec (.portSaWrite e sa r v) s = .next ((s.setReg o v).answer 0)) ∧
    (RegOpen s o → s.subUsed e = true → ¬used → r = 1 → ∃ u : State, exec (.portSaWrite e sa r v) s = .next u ∧ u.reg o = v ∧ u.lowestPn e sa = v.toNat - s.rf (egSub e 0x30) 63 32) ∧
    (RegOpen s (egSub e 0x30) → exec (.portSubSecWrite e v) s = .next ((if s.subUsed e then s.writeReg (egSub e 0x30) v else s).answer 0))

/-- R435-R461: ports, links and secure associations. -/
def Obligations.PortsAndLinks : Prop := PortsTrain ∧ LinksGoUpAndDown ∧ AssociationsAreKeyed

/-- A PTP message of this type is due on sub-port e: none has gone out, or the last one the interval of log2 seconds k ago. -/
def PtpIsDue (s : State) (e type k : Nat) : Prop := s.ptpDue e type (secondsLog (s.ptpLog k)) = true

/-- R528: a sub-port in MASTER state, its link up, queues each interval a Sync with its Follow_Up of one sequence number, or an Announce with the dataset that the control node has written; any other sends nothing. The messages are of
PTP_DOMAIN, in the class that PORT_TC gives them (R453). -/
def MastersSend : Prop :=
  ∀ (s : State) (e : Nat), e < 288 →
    let only (u : State) : Prop := u.withNet s.net = s ∧ u.net.withPorts s.net.ports = s.net ∧ ∀ j, j ≠ e → u.sub j = s.sub j
    let ptp (g : OutFrame) (type flags : Nat) : Prop := g.kind = .ptp ∧ g.tc = s.rf (portOff (e / 8) 0x20) 2 0 ∧ pType g.body = type ∧
      beAt g.body 1 1 % 16 = 2 ∧ beAt g.body 2 2 = g.body.length ∧ beAt g.body 4 1 = s.rf (subCfg e) 31 24 ∧ beAt g.body 6 2 = flags ∧
      slice g.body 20 10 = toBe 8 (s.reg 0x90040).toNat ++ toBe 2 (e + 1)
    (s.ptpState e ≠ 1 ∨ s.linkUp e = false → exec (.ptpSyncTimer e) s = .next s ∧ exec (.ptpAnnounceTimer e) s = .next s) ∧
    (¬PtpIsDue s e 0 0 → exec (.ptpSyncTimer e) s = .next s) ∧ (¬PtpIsDue s e 11 4 → exec (.ptpAnnounceTimer e) s = .next s) ∧
    (s.ptpState e = 1 → s.linkUp e = true →
      (PtpIsDue s e 0 0 → ∃ (u : State) (a b : OutFrame), exec (.ptpSyncTimer e) s = .next u ∧ only u ∧ (u.sub e).egress = (s.sub e).egress ++ [a, b] ∧
        ptp a 0 0x200 ∧ ptp b 8 0 ∧ pSeq a.body = pSeq b.body) ∧
      (PtpIsDue s e 11 4 → ∃ (u : State) (g : OutFrame), exec (.ptpAnnounceTimer e) s = .next u ∧ only u ∧ (u.sub e).egress = (s.sub e).egress ++ [g] ∧
        ptp g 11 (s.rf 0x90038 29 24) ∧ beAt g.body 47 1 = s.rf 0x90028 7 0 ∧ beAt g.body 48 1 = s.rf 0x90028 23 16 ∧ beAt g.body 49 1 = s.rf 0x90028 31 24 ∧
        beAt g.body 50 2 = s.rf 0x90028 47 32 ∧ beAt g.body 52 1 = s.rf 0x90028 15 8 ∧ slice g.body 53 8 = toBe 8 (s.reg 0x90030).toNat ∧
        beAt g.body 44 2 = s.rf 0x90028 63 48 ∧ beAt g.body 61 2 = s.rf 0x90038 15 0 ∧ beAt g.body 63 1 = s.rf 0x90038 23 16))

/-- R453, R528: a sub-port with peer-to-peer delay sends Pdelay_Req, and the SLAVE with end-to-end delay Delay_Req. A MASTER sub-port with end-to-end delay answers Delay_Req with Delay_Resp, and one with peer-to-peer delay
answers Pdelay_Req with Pdelay_Resp and its Follow_Up: with the requester's identity and sequence number and the time of receipt. -/
def DelaysAreMeasured : Prop :=
  (∀ (s : State) (e : Nat), e < 288 →
    (s.ptpState e = 0 ∨ s.linkUp e = false ∨ (s.rb (subCfg e) 19 = false ∧ s.ptpState e ≠ 2) ∨ ¬PtpIsDue s e (if s.rb (subCfg e) 19 then 2 else 1) 8 → exec (.ptpDelayTimer e) s = .next s) ∧
    (s.ptpState e ≠ 0 → s.linkUp e = true → s.rb (subCfg e) 19 = true ∨ s.ptpState e = 2 → PtpIsDue s e (if s.rb (subCfg e) 19 then 2 else 1) 8 →
      ∃ (u : State) (g : OutFrame), exec (.ptpDelayTimer e) s = .next u ∧ u.withNet s.net = s ∧ (∀ j, j ≠ e → u.sub j = s.sub j) ∧
        (u.sub e).egress = (s.sub e).egress ++ [g] ∧ g.kind = .ptp ∧ pType g.body = (if s.rb (subCfg e) 19 then 2 else 1) ∧
        pSeq g.body = (u.sub e).ptp.reqSeq % 65536)) ∧
  ∀ (s : State) (f : InFrame) (l r : List InFrame), s.net.ptpIn = l ++ f :: r → (∀ x ∈ l, pType x.bytes ≠ 1 ∧ pType x.bytes ≠ 2) →
    pType f.bytes = 1 ∨ pType f.bytes = 2 →
    let e := f.egress
    let v := s.withNet (s.net.withPtpIn (l ++ r))
    let takes := 44 ≤ f.bytes.length ∧ beAt f.bytes 1 1 % 16 = 2 ∧ beAt f.bytes 4 1 = s.rf (subCfg e) 31 24 ∧ s.ptpState e ≠ 0
    let sends (n : Nat) (p : List OutFrame → Prop) : Prop := ∃ (u : State) (gs : List OutFrame), exec .ptpDelayReq s = .next u ∧
      u.withNet s.net = s ∧ u.net.withPorts s.net.ports = v.net ∧ (∀ j, j ≠ e → u.sub j = s.sub j) ∧ (u.sub e).egress = (s.sub e).egress ++ gs ∧ gs.length = n ∧ p gs ∧ ∀ g ∈ gs, g.kind = .ptp ∧ pSeq g.body = pSeq f.bytes ∧ slice g.body 44 10 = slice f.bytes 20 10
    (¬takes → exec .ptpDelayReq s = .next v) ∧
    (takes → pType f.bytes = 1 → s.rb (subCfg e) 19 = true ∨ s.ptpState e ≠ 1 → exec .ptpDelayReq s = .next v) ∧
    (takes → pType f.bytes = 2 → s.rb (subCfg e) 19 = false → exec .ptpDelayReq s = .next v) ∧
    (takes → s.linkUp e = true → pType f.bytes = 1 → s.rb (subCfg e) 19 = false → s.ptpState e = 1 →
      sends 1 (fun gs => gs.map (fun g => pType g.body) = [9] ∧ ∀ g ∈ gs, slice g.body 34 10 = ptpTime f.time)) ∧
    (takes → s.linkUp e = true → pType f.bytes = 2 → s.rb (subCfg e) 19 = true →
      sends 2 (fun gs => gs.map (fun g => pType g.body) = [3, 10] ∧ ∀ g ∈ gs, pType g.body = 3 → slice g.body 34 10 = ptpTime f.time))

/-- R526, R527: a Follow_Up that belongs to the Sync held gives the offset. Before the first lock an offset above 4000 qns steps device time and is counted. Otherwise the rate is corrected within MAX_SLEW_PPM; eight offsets within 4000 qns in a
row set LOCKED and EVER_LOCKED, and a larger one clears LOCKED. -/
def TimeIsDisciplined : Prop :=
  ∀ (s : State) (f : InFrame) (t2 d : Nat) (q : Int), s.net.ptpIn = [f] → f.egress < 288 →
    let e := f.egress
    let r := (s.sub e).ptp
    let t1 : Int := ((beAt f.bytes 34 6 * 1000000000 + beAt f.bytes 40 4) * 4 : Nat) * 2 ^ 14 + r.syncCorr + sext 64 (beAt f.bytes 8 8)
    44 ≤ f.bytes.length → beAt f.bytes 1 1 % 16 = 2 → beAt f.bytes 4 1 = s.rf (subCfg e) 31 24 → pType f.bytes = 8 → s.ptpState e = 2 →
    r.syncAt = some t2 → pSeq f.bytes = r.syncSeq → r.delay = some d → (t2 : Int) * 2 ^ 14 - t1 = q * 2 ^ 14 →
    let th := q - d
    let slow := (-(sext 4 (s.rf 0x90010 3 0))).toNat
    let fine := th.natAbs ≤ 4000
    let good := if fine then s.ptp.good + 1 else 0
    ∃ u : State, exec .ptpSync s = .next u ∧ u.net.ptpIn = [] ∧ u.mem = s.mem ∧ u.tiles = s.tiles ∧
      if s.rb 0x90018 33 = false ∧ ¬fine then
        u.time = ((s.time : Int) - th * 2 ^ 32).toNat ∧ u.ptp.integral = 0 ∧ u.ptp.good = 0 ∧ u.rf 0x90018 55 48 = min (s.rf 0x90018 55 48 + 1) 255 ∧
        u.ptp.most = max s.ptp.most s.now ∧ u.reg 0x90008 = s.reg 0x90008
      else
        u.time = s.time ∧ u.ptp.integral = s.ptp.integral + th ∧ u.ptp.good = good ∧
        u.rb 0x90018 32 = (decide fine && (decide (8 ≤ good) || s.rb 0x90018 32)) ∧ u.rb 0x90018 33 = (s.rb 0x90018 33 || (decide (8 ≤ good) && !s.rb 0x90018 32)) ∧
        ∃ a adj x : Int, (a * 1024 - -(32 * th + (s.ptp.integral + th)) * (2 ^ slow : Nat)).natAbs < 1024 ∧
          adj = max (-(s.rf 0x90010 24 16 * 1000 : Nat) : Int) (min (s.rf 0x90010 24 16 * 1000 : Nat) a) ∧
          u.rf 0x90020 31 0 = wrapInt 32 adj ∧ (x * 1000000000 - 0x199999999A * adj).natAbs < 1000000000 ∧
          u.reg 0x90008 = BitVec.ofNat 64 (0x199999999A + x).toNat

/-- R526, R529: without a Sync for 4 Sync intervals LOCKED clears, and the PTP bit with it. The loss is counted, and an interval opens in the oldest entry of HUB_TIME_UNC_LOG. -/
def LossOfLockIsLogged : Prop :=
  ∀ s : State,
    let log := sext 4 (s.rf 0x90010 3 0)
    let interval := if log < 0 then 4000000000 / 2 ^ log.natAbs else 4000000000 * 2 ^ log.natAbs
    let n := s.rf 0x90058 31 0
    (∀ t, s.ptp.lastSync = some t → s.now < t + 4 * interval → exec .ptpSyncTimeout s = .next s) ∧
    (s.rb 0x90018 32 = false → exec .ptpSyncTimeout s = .next s) ∧
    (s.rb 0x90018 32 = true → (∀ t, s.ptp.lastSync = some t → t + 4 * interval ≤ s.now) →
      ∃ u : State, exec .ptpSyncTimeout s = .next u ∧ u.withRegs s.regs = s ∧ u.rb 0x90018 32 = false ∧ u.rb 0x10000 4 = false ∧ u.rb 0x90018 33 = s.rb 0x90018 33 ∧
        u.rf 0x90018 63 56 = min (s.rf 0x90018 63 56 + 1) 255 ∧ u.rf 0x90058 31 0 = (n + 1) % 2 ^ 32 ∧
        (u.reg (0x90100 + 0x10 * (n % 16))).toNat = s.now % 2 ^ 64 ∧ u.reg (0x90108 + 0x10 * (n % 16)) = 0 ∧
        ∀ i, i < 16 → i ≠ n % 16 → u.reg (0x90100 + 0x10 * i) = s.reg (0x90100 + 0x10 * i) ∧ u.reg (0x90108 + 0x10 * i) = s.reg (0x90108 + 0x10 * i))

/-- R524, R531: at 160 ticks of the reference clock a mark hands device time to the replicas; a PPS edge is stamped. -/
def TimeIsMarked : Prop :=
  ∀ s : State, (s.ptp.ticks < 160 → exec .timeMark s = .next s) ∧
    (160 ≤ s.ptp.ticks → exec .timeMark s = .next (s.withPtp ((s.ptp.withMark s.time).withTicks 0))) ∧ exec .ppsEdge s = .next (s.setReg 0x90048 (BitVec.ofNat 64 s.now))

/-- R523-R531: device time. -/
def Obligations.DeviceTime : Prop := MastersSend ∧ DelaysAreMeasured ∧ TimeIsDisciplined ∧ LossOfLockIsLogged ∧ TimeIsMarked

/-- R515, R522: when the domain may stop (Table 18.1): array clocks in Dim or when every tile of the die is parked or dark and no section is loaded on it; die-store and MD clocks in Dim; memory clocks in self-refresh, and those of an empty socket;
a port's transmit clock while the port is off, a sub-port's receive clock while a lane of it is not locked; HD's clock in Unlit. The others never stop. -/
def StopsWhen (s : State) : ClockDomain → Prop
  | .array n => s.dimming = true ∨ ((∀ l, l < 144 → (s.tile (tileAt n l)).st ≠ .active) ∧
      ∀ k, k < 128 → (Sparse.get secD s.secs k).resident = true → ∀ t ∈ (Sparse.get secD s.secs k).tiles, tileDie t ≠ n)
  | .dieStore _ => s.dimming = true
  | .mdCore _ => s.dimming = true
  | .hbm _ => s.dimming = true ∨ s.boot.ph = .held
  | .ddr n => s.dimming = true ∨ s.boot.ph = .held ∨ s.rb 0x10048 n = false
  | .portTx p => s.rb (portOff p 0) 2 = false
  | .portRx e => s.rf (portStat (e / 8)) 15 8 &&& laneMask (s.portMode (e / 8)) (e % 8) ≠ laneMask (s.portMode (e / 8)) (e % 8)
  | .hub => s.rf 0xD0008 2 0 = 4
  | .odCore _ => False
  | .efnil _ => False
  | .alwaysOn => False

/-- R515, R574, R576: the domains that no wake input starts: in Dim all but those of the hub, the optical dies, the die stores and the stack with the stream state; in Unlit all but the Efnil port's and the always-on one. -/
def StaysStopped (s : State) : ClockDomain → Prop
  | .array _ => s.rf 0xD0008 2 0 = 1 ∨ s.rf 0xD0008 2 0 = 4
  | .mdCore _ => s.rf 0xD0008 2 0 = 1 ∨ s.rf 0xD0008 2 0 = 4
  | .ddr _ => s.rf 0xD0008 2 0 = 1 ∨ s.rf 0xD0008 2 0 = 4
  | .hbm n => s.rf 0xD0008 2 0 = 4 ∨ (s.rf 0xD0008 2 0 = 1 ∧ s.rf 0x70038 39 36 ≠ n)
  | .efnil _ => False
  | .alwaysOn => False
  | _ => s.rf 0xD0008 2 0 = 4

/-- R515, R522: a domain that may stop does, unless a token stands on its mesh, and one that is awoken, where it has a wake input, runs; of no other domain does the clock change. -/
def DomainsStopAndWake : Prop :=
  ∀ (s : State) (d : ClockDomain),
    (realDomain d = false → exec (.domainStop d) s = .fault (.noSuchUnit "clock domain") ∧ exec (.domainWake d) s = .fault (.noSuchUnit "clock domain")) ∧
    (realDomain d = true →
      (StopsWhen s d → (∀ n, d = .array n → ∀ x ∈ s.flight, tileDie x.pos ≠ n) → d ∉ s.pwr.stopped → exec (.domainStop d) s = .next (s.withPwr (s.pwr.withStopped (s.pwr.stopped ++ [d])))) ∧
      (¬StopsWhen s d ∨ (∃ n, d = .array n ∧ ∃ x ∈ s.flight, tileDie x.pos = n) ∨ d ∈ s.pwr.stopped → exec (.domainStop d) s = .next s) ∧
      (StaysStopped s d → exec (.domainWake d) s = .next s) ∧
      (¬StaysStopped s d → ∃ l : List ClockDomain, exec (.domainWake d) s = .next (s.withPwr (s.pwr.withStopped l)) ∧ d ∉ l ∧ ∀ x, x ≠ d → (x ∈ l ↔ x ∈ s.pwr.stopped)))

/-- R577: FREQ takes 0.8 GHz to 3.3 GHz in 25 MHz steps, and a change is on its way. In force, ACTUAL reads FREQ, or what a throttle still allows, and the rail follows the die's curve;
in Dim and while a glare run holds the die it waits. -/
def ArrayClocksFollowFreq : Prop :=
  ∀ (s : State) (n : Nat) (v : W64), n < 16 →
    let o := 0xD0100 + 8 * n
    (RegOpen s o → fld v 7 0 < 32 ∨ 132 < fld v 7 0 → exec (.pwrCdClkWrite n v) s = .next (s.answer St.paramRange)) ∧
    (RegOpen s o → 32 ≤ fld v 7 0 → fld v 7 0 ≤ 132 → ∃ u : State, exec (.pwrCdClkWrite n v) s = .next (u.answer 0) ∧ u.rf o 7 0 = fld v 7 0 ∧
      u.rf o 63 8 = s.rf o 63 8 ∧ (∀ p, p ≠ o → u.reg p = s.reg p) ∧ (∀ m, m ∈ u.pwr.changing ↔ m = n ∨ m ∈ s.pwr.changing) ∧
      (u.withRegs s.regs).withPwr s.pwr = s) ∧
    (n ∉ s.pwr.changing ∨ s.rf 0xD0008 2 0 ≠ 0 ∨ (∃ r, s.glare.run = some r ∧ ∃ f, (n, f) ∈ r.former) → exec (.dvfsChangeDone n) s = .next s) ∧
    (n ∈ s.pwr.changing → s.rf 0xD0008 2 0 = 0 → (∀ r, s.glare.run = some r → ∀ e ∈ r.former, e.1 ≠ n) →
      ∃ u : State, exec (.dvfsChangeDone n) s = .next u ∧ (u.withRegs s.regs).withPwr s.pwr = s ∧ n ∉ u.pwr.changing ∧
        (∀ m, m ≠ n → (m ∈ u.pwr.changing ↔ m ∈ s.pwr.changing)) ∧ (∀ p, p ≠ o → u.reg p = s.reg p) ∧ u.rf o 7 0 = s.rf o 7 0 ∧
        u.rf o 15 8 = (if s.pwr.hot.any (fun h => h.1 == n) then min (s.rf o 7 0) (s.rf o 15 8) else s.rf o 7 0) ∧
        u.rf o 31 16 = (Config.railMv n (u.rf o 15 8)).toNat)

/-- R515, R522, R577: clock domains and array clocks. -/
def Obligations.ClockDomains : Prop := DomainsStopAndWake ∧ ArrayClocksFollowFreq

/-- R558, R564: the fuses after a reset. A fuse that was blown stays so; a burn that the reset cuts short may have taken or not, and the floor never falls. -/
structure FusesKept (s u : State) : Prop where
  debug : s.rb 0xC0000 0 = true → u.rb 0xC0000 0 = true
  unburnt : s.rb 0xC0050 16 = false → u.rb 0xC0000 0 = s.rb 0xC0000 0
  rises : (∀ n, s.trust.floor = some n → n < 256) → s.rf 0xC0000 15 8 ≤ u.rf 0xC0000 15 8
  floor : s.trust.floor = none → u.rf 0xC0000 15 8 = s.rf 0xC0000 15 8
  keys : u.rf 0xC0000 19 16 = s.rf 0xC0000 19 16
  closed : u.trust.closed = u.rb 0xC0000 0

/-- R493, R571: nothing of what the chip held is left but the fuses; commands that wait, and what has left the chip, are outside it. -/
structure Emptied (s u : State) : Prop where
  fuses : FusesKept s u
  mem : u.mem = [] ∧ u.bad = []
  jobs : u.secs = [] ∧ u.cmdqs = [] ∧ u.prism = [] ∧ u.tint = [] ∧ u.done = [] ∧ u.flight = [] ∧ u.credits = [] ∧ u.lastEpoch = [] ∧ u.syncs = []
  units : u.pkg = PkgSt.init ∧ u.srv = SrvSt.init ∧ u.glare = GlareSt.init ∧ u.ptp = PtpSt.init ∧ u.timerIrq = []
  log : u.logs = ⟨[], [], 0, [], []⟩
  net : u.net.withWire NetSt.init.wire = NetSt.init ∧ u.efn.withSent EfnSt.init.sent = EfnSt.init
  number : u.chipInForce = 0x3FFF
  time : u.time = 0
  outside : u.pending = s.pending ∧ u.fused = s.fused ∧ u.net.wire = s.net.wire ∧ u.efn.sent = s.efn.sent ∧ u.reply = s.reply

/-- R493, R499, R505: a cold reset of SOURCE `source`. The fused tiles are dark and stand in HUB_FLOOR_MAP; every other tile and every register is at its reset value; OUV_INC is drawn anew. -/
structure Cold (s u : State) (source : Nat) : Prop where
  empty : Emptied s u
  tiles : (∀ t ∈ s.fused, t < tileCount) → ∀ t, t < tileCount → u.tile t = (if s.fused.contains t then Tile.init.withSt .dark else Tile.init) ∧
    u.rb (0x10300 + t / 64 * 8) (t % 64) = s.fused.contains t
  regs : (∀ t ∈ s.fused, t < tileCount) → ∀ o, o < 0x10300 ∨ 0x10420 ≤ o → o ≠ 0xC0000 → o ≠ 0x70058 → o ≠ 0x10028 → o ≠ 0xD0008 → u.reg o = State.reset.reg o
  cause : u.rb 0x10028 0 = false ∧ u.rf 0x10028 3 1 = source % 8 ∧ u.rb 0x10028 4 = false ∧ u.rf 0x10028 31 16 = 0
  pin : u.rb 0xD0008 3 = s.rb 0xD0008 3
  boot : u.boot = BootSt.init

/-- The place in HUB_TIME_UNC_LOG of the interval opened last. -/
def openSlot (s : State) : Nat := (2 ^ 32 + s.rf 0x90058 31 0 - 1) % 2 ^ 32 % 16

/-- Table 17.2: what a warm reset of SOURCE `source` leaves. Memories that self-refresh keep their contents and the others are cleared; registers that the table keeps stay, and the rest are at reset; dark and SUSPECT tiles
stay so. The list of sequences and the echoes stay, for the settling that follows. Device time goes on, EVER_LOCKED stays, LOCKED clears, and the uncertainty log holds the open interval alone. WARM and SOURCE are noted, the resets counted, and OUV_INC increases. -/
structure Warmed (s u : State) (source : Nat) : Prop where
  fuses : FusesKept s u
  mem : ∀ k, Sparse.get memD u.mem k = if 2 * 2 ^ 46 ≤ k then Sparse.get memD s.mem k else 0
  bad : ∀ k, k ∈ u.bad ↔ k ∈ s.bad ∧ 2 * 2 ^ 46 ≤ k
  jobs : u.secs = [] ∧ u.cmdqs = [] ∧ u.prism = [] ∧ u.tint = [] ∧ u.flight = [] ∧ u.credits = [] ∧ u.pkg = PkgSt.init.withPlaced s.pkg.placed ∧ u.glare = GlareSt.init
  tiles : (∀ e ∈ u.tiles, ∃ x, (e.1, x) ∈ s.tiles ∧ e.2 = (Tile.init |>.withSt (if x.st = .dark then .dark else .active) |>.withSuspect x.suspect)) ∧
    ∀ e ∈ s.tiles, e.2.st = .dark ∨ e.2.suspect = true →
      (e.1, Tile.init |>.withSt (if e.2.st = .dark then .dark else .active) |>.withSuspect e.2.suspect) ∈ u.tiles
  serving : u.srv.seqs = s.srv.seqs ∧ u.srv.echo = s.srv.echo ∧ u.srv.running = [] ∧ u.srv.entries = []
  marks : u.rf 0xB0018 39 32 = s.rf 0xB0018 39 32 ∧ ∀ k, k < 32 → u.rb (evqStat k) 32 = s.rb (evqStat k) 32
  regs : s.glare.run = none → ∀ o, (∀ k, k < 32 → o ≠ evqStat k) → o ∉ [0xB0018, 0xC0000, 0x70058, 0x90018, 0x90058, 0x90100 + 0x10 * openSlot u, 0x90108 + 0x10 * openSlot u, 0x10028, 0xD0008] →
    u.reg o = if (regDesc o).any (·.warm) then s.reg o else regReset o
  time : u.time = s.time ∧ u.rb 0x90018 33 = s.rb 0x90018 33 ∧ u.rb 0x90018 32 = false
  log : if s.rb 0x10000 4 then u.rf 0x90058 31 0 = (s.rf 0x90058 31 0 + 1) % 2 ^ 32 ∧ u.reg (0x90100 + 0x10 * openSlot u) = BitVec.ofNat 64 s.now ∧
      u.reg (0x90108 + 0x10 * openSlot u) = 0
    else u.rf 0x90058 31 0 = s.rf 0x90058 31 0 ∧ u.reg (0x90100 + 0x10 * openSlot u) = s.reg (0x90100 + 0x10 * openSlot s) ∧
      u.reg (0x90108 + 0x10 * openSlot u) = 0
  cause : u.rb 0x10028 0 = true ∧ u.rf 0x10028 3 1 = source % 8 ∧ u.rf 0x10028 31 16 = min (s.rf 0x10028 31 16 + 1) 65535
  inc : u.rf 0x70058 31 0 = (s.rf 0x70058 31 0 + 1) % 2 ^ 32
  number : u.chipInForce = s.rf 8 13 0
  epochs : u.lastEpoch = s.lastEpoch
  store : u.logs.store = s.logs.store ∧ u.logs.seq = s.logs.seq
  boot : u.boot = (BootSt.init.withPh .held).withSettle true
  outside : u.pending = s.pending ∧ u.fused = s.fused ∧ u.net.wire = s.net.wire ∧ u.efn.sent = s.efn.sent

/-- R491, R492, R513, R576: a low pin or a write of HUB_RESET, 1 ms later, asks for a reset. A cold one goes before a warm one, and of two of one kind the earlier; in Unlit and with the rails off a warm one is ignored. -/
def ResetsAreAskedFor : Prop :=
  ∀ s : State,
    let ms := 4000000
    let asks (c : Bool) (src due : Nat) : State := s.withBoot ((s.boot.withReset (some (c, src))).withDue due)
    let before (c : Bool) (due : Nat) := ∀ d n, s.boot.reset = some (d, n) → (c = true ∧ d = false) ∨ (c = d ∧ due < s.boot.due)
    (before true s.now → exec .resetColdN s = .next (asks true 1 s.now)) ∧ (¬before true s.now → exec .resetColdN s = .next s) ∧
    (s.rf 0xD0008 2 0 = 4 ∨ s.boot.ph = .off ∨ ¬before false s.now → exec .resetWarmN s = .next s) ∧
    (s.rf 0xD0008 2 0 ≠ 4 → s.boot.ph ≠ .off → before false s.now → exec .resetWarmN s = .next (asks false 2 s.now)) ∧
    (RegOpen s 0x10020 → (before true (s.now + ms) → exec .hubResetCold s = .next ((asks true 3 (s.now + ms)).answer 0)) ∧
      (¬before true (s.now + ms) → exec .hubResetCold s = .next (s.answer 0)) ∧
      (s.rf 0xD0008 2 0 = 4 ∨ ¬before false (s.now + ms) → exec .hubResetWarm s = .next (s.answer 0)) ∧
      (s.rf 0xD0008 2 0 ≠ 4 → before false (s.now + ms) → exec .hubResetWarm s = .next ((asks false 3 (s.now + ms)).answer 0)))

/-- R492-R494, R513, R576: the reset that was asked for comes about when it is due. From Unlit a cold one waits until every die reads below 85 °C; a warm one without a snapshot becomes a cold one with SOURCE 5. -/
def ResetsComeAbout : Prop :=
  ∀ (s : State) (source : Nat),
    ((∀ n, s.boot.reset ≠ some (true, n)) → exec .coldReset s = .next s) ∧ ((∀ n, s.boot.reset ≠ some (false, n)) → exec .warmReset s = .next s) ∧
    (s.now < s.boot.due → exec .coldReset s = .next s ∧ exec .warmReset s = .next s) ∧
    (s.boot.reset = some (true, source) → s.boot.due ≤ s.now →
      (s.rf 0xD0008 2 0 ≠ 4 → s.boot.ph ≠ .off ∨ source = 0 → ∃ u : State, exec .coldReset s = .next u ∧ Cold s u source) ∧
      (s.rf 0xD0008 2 0 ≠ 4 → s.boot.ph = .off → source ≠ 0 → exec .coldReset s = .next s) ∧
      (s.rf 0xD0008 2 0 = 4 →
        let cool := (∀ n, n < 16 → s.rf (0xD0200 + 8 * n) 7 0 < 85) ∧ ∀ i, i < 4 → s.rf 0xD0280 (8 * i + 7) (8 * i) < 85
        (cool → ∃ u : State, exec .coldReset s = .next u ∧ Cold s u 4) ∧ (¬cool → exec .coldReset s = .next s))) ∧
    (s.boot.reset = some (false, source) → s.boot.due ≤ s.now →
      (s.rb 0x10028 4 = true → ∃ u : State, exec .warmReset s = .next u ∧ Warmed s u source) ∧
      (s.rb 0x10028 4 = false → ∃ u : State, exec .warmReset s = .next u ∧ Cold s u 5))

/-- R570, R571: input power below the limits takes everything but the fuses; once it is back the module makes a cold reset with SOURCE power. -/
def InputPowerCounts : Prop :=
  ∀ s : State,
    (∃ u : State, exec .inputShutdown s = .next u ∧ Emptied s u ∧ u.boot = BootSt.init.withPh .off ∧ u.tiles = [] ∧ ∀ o, o ≠ 0xC0000 → u.reg o = State.reset.reg o) ∧
    (s.boot.ph ≠ .off → exec .inputRestart s = .next s) ∧ (s.boot.ph = .off → ∃ u : State, exec .inputRestart s = .next u ∧ Cold s u 0)

/-- R494, R508, R510: warm bring-up begins for a chip that is held: a loan slot that was RECALLING becomes SCRUBBING, and the others stay. -/
def WarmBringupBegins : Prop :=
  ∀ s : State, (s.boot.ph ≠ .held → exec .warmBringup s = .next s) ∧
    (s.boot.ph = .held → ∃ u : State, exec .warmBringup s = .next u ∧ (u.withRegs s.regs).withBoot s.boot = s ∧ u.boot = s.boot.withPh .run ∧
      (∀ k, k < 64 → u.rf (0x41010 + 0x20 * k) 1 0 = (if s.rf (0x41010 + 0x20 * k) 1 0 = 2 then 3 else s.rf (0x41010 + 0x20 * k) 1 0) ∧
        u.rf (0x41010 + 0x20 * k) 63 2 = s.rf (0x41010 + 0x20 * k) 63 2) ∧
      ∀ o, (∀ k, k < 64 → o ≠ 0x41010 + 0x20 * k) → u.reg o = s.reg o)

/-- R491-R494, R499, R508, R570, R571: resets. -/
def Obligations.ResetsTakeAndKeep : Prop := ResetsAreAskedFor ∧ ResetsComeAbout ∧ InputPowerCounts ∧ WarmBringupBegins

/-- R496-R499, R507, R513: a function whose own state machine completes is ready, while the chip runs and it has not failed; a compute die only once APPLY was written, a memory channel with the capacity of its DIMM. HUB opens image
receipt; the first time that Lantern, every compute die and every stack are ready sets SNAP_VALID. After a warm reset the firmware settles what was
under way once they all are. -/
def FunctionsBecomeReady : Prop :=
  ∀ (s : State) (i cap : Nat),
    let real := i < 100 ∧ ¬(6 ≤ i ∧ i < 16)
    let goes := (i = 1 ∨ i = 2 ∨ i = 5 ∨ 16 ≤ i) ∧ s.boot.ph = .run ∧ s.rf 0xD0008 2 0 ≠ 4 ∧ s.rb 0x10000 0 = true ∧ s.isReady i = false ∧ s.hasFailed i = false ∧
      (16 ≤ i ∧ i < 32 → s.rb 0x10040 1 = true) ∧ (48 ≤ i ∧ i < 64 → cap ≠ 0)
    (¬real → exec (.functionReady i cap) s = .fault (.noSuchUnit "function") ∧ exec (.trainingFailed i) s = .fault (.noSuchUnit "function")) ∧
    (real → ¬goes → exec (.functionReady i cap) s = .next s) ∧
    (real → goes → ∃ u : State, exec (.functionReady i cap) s = .next u ∧ (u.boot.settle = true → s.boot.settle = true)) ∧
    (real → goes → s.boot.settle = false → ∃ u : State, exec (.functionReady i cap) s = .next u ∧ (u.withRegs s.regs).withBoot s.boot = s ∧ u.isReady i = true ∧
      (∀ j, j < 100 → j ≠ i → u.isReady j = s.isReady j) ∧
      u.rb 0x10028 4 = (s.rb 0x10028 4 || (decide (i ≠ 2 ∧ ¬(48 ≤ i ∧ i < 64)) && u.rb 0x10000 3 && decide (u.rf 0x10000 47 16 = 2 ^ 32 - 1))) ∧
      (48 ≤ i ∧ i < 64 → u.rf (0x10500 + 8 * (i - 48)) 9 0 = cap % 1024 ∧ u.rb 0x10048 (i - 48) = true) ∧
      (i = 2 → u.rf 0x10030 2 0 = 1 ∧ u.rf 0x10030 4 3 = 0 ∧ u.rf 0x10030 57 32 = 0 ∧ u.boot = (s.boot |>.withOpened true |>.withTotal none |>.withUnits [])) ∧
      (i ≠ 2 → u.boot = s.boot) ∧
      ∀ o, o ∉ [0x10000, 0x10008, 0x10028, 0x10030, 0x10048, 0x10500 + 8 * (i - 48)] → u.reg o = s.reg o)

/-- R497, R540, R585: a function that fails its third training stays unusable: its bit of HUB_TRAIN_FAIL is set, the fatal error is counted, and the regions that use it are being reset; a failed compute die fails its stack too. -/
def FailedTrainingFences : Prop :=
  ∀ (s : State) (i : Nat), i < 100 → ¬(6 ≤ i ∧ i < 16) →
    let goes := (i = 1 ∨ i = 2 ∨ i = 5 ∨ 16 ≤ i) ∧ s.boot.ph = .run ∧ s.rf 0xD0008 2 0 ≠ 4 ∧ s.rb 0x10000 0 = true ∧ s.isReady i = false ∧ s.hasFailed i = false
    (¬goes → exec (.trainingFailed i) s = .next s) ∧
    (goes → ∃ u : State, exec (.trainingFailed i) s = .next u ∧ u.hasFailed i = true) ∧
    (goes → s.boot.settle = false → ∃ u : State, exec (.trainingFailed i) s = .next u ∧ u.hasFailed i = true ∧ u.isReady i = false ∧
      (16 ≤ i ∧ i < 32 → u.hasFailed (i + 16) = true ∧ u.isReady (i + 16) = (s.isReady (i + 16) && s.hasFailed (i + 16))) ∧
      min (s.rf 0xB0018 39 32 + 1) 255 ≤ u.rf 0xB0018 39 32 ∧ u.glare.run = none ∧
      ∀ g, g < 16 → s.regionUses g i = true → u.rb (0x51008 + 0x10 * g) 1 = true)

/-- R499, R502, R503: a complete image is checked once SEC is ready. An image that passes is measured and runs: LANTERN is ready, receipt is closed, and OUV_INC increases. One that fails is counted with its reason: the area is cleared and receipt opens
again, as RESTART makes it without counting, while receipt is open. -/
def ImagesAreVerified : Prop :=
  ∀ (s : State) (total : Nat),
    let reopened (u : State) (reason : Nat) : Prop := u.rf 0x10030 2 0 = 1 ∧ u.rf 0x10030 4 3 = 0 ∧ u.rf 0x10030 7 5 = reason ∧ u.rf 0x10030 57 32 = 0 ∧
      u.boot = (s.boot |>.withOpened true |>.withTotal none |>.withUnits []) ∧ (∀ k, k < 2 ^ 25 → Sparse.get memD u.mem (2 ^ 46 + 2 ^ 29 + k) = 0) ∧
      ∀ k, k < 2 ^ 46 + 2 ^ 29 ∨ 2 ^ 46 + 2 ^ 29 + 2 ^ 25 ≤ k → Sparse.get memD u.mem k = Sparse.get memD s.mem k
    (s.boot.total = none ∨ s.rf 0x10030 2 0 ≠ 3 ∨ s.rb 0x10000 1 = false → exec .imageVerify s = .next s) ∧
    (s.boot.total = some total → s.rf 0x10030 2 0 = 3 → s.rb 0x10000 1 = true →
      match s.judgeImageArea total with
      | .inl reason => reason ≠ 0 → reason < 8 → ∃ u : State, exec .imageVerify s = .next u ∧ reopened u reason ∧ u.rf 0x10030 31 17 = min (s.rf 0x10030 31 17 + 1) 32767 ∧
          u.rb 0x10000 3 = s.rb 0x10000 3
      | .inr (k, _, fwver) => (∃ u : State, exec .imageVerify s = .next u ∧ u.trust.fwver = fwver ∧ u.boot.opened = false) ∧ (s.boot.settle = false → ∃ u : State, exec .imageVerify s = .next u ∧ u.rb 0x10000 3 = true ∧ u.rf 0x10030 2 0 = 4 ∧ u.rf 0xC0000 4 3 = k % 4 ∧
          u.rf 0xC01C0 7 0 = min (s.rf 0xC01C0 7 0 + 1) 255 ∧ u.trust.fwver = fwver ∧ u.boot.opened = false ∧ u.rf 0x70058 31 0 = (s.rf 0x70058 31 0 + 1) % 2 ^ 32 ∧
          u.net.rx = [] ∧ u.mem = s.mem)) ∧
    (RegOpen s 0x10038 → s.boot.opened = false → exec .restart s = .next (s.answer St.bootClosed)) ∧
    (RegOpen s 0x10038 → s.boot.opened = true → ∃ u : State, exec .restart s = .next (u.answer 0) ∧ reopened u 0 ∧ u.rf 0x10030 31 17 = s.rf 0x10030 31 17 ∧
      u.rb 0x10038 1 = s.rb 0x10038 1)

/-- R506, R507: APPLY is noted, and the tiles of the dark list become dark; without a dark list nothing else changes. -/
def DarkListIsApplied : Prop :=
  ∀ s : State, RegOpen s 0x10040 → ∃ u : State, exec .apply s = .next (u.answer 0) ∧ u.rb 0x10040 1 = true ∧
    (∀ t, t < tileCount → s.rb (0x10100 + t / 64 * 8) (t % 64) = true → (u.tile t).st = .dark ∧ (s.rb (0x10300 + t / 64 * 8) (t % 64) = true ∨ (s.tile t).st ≠ .dark →
      u.rb (0x10300 + t / 64 * 8) (t % 64) = true)) ∧
    (∀ t, t < tileCount → s.rb (0x10100 + t / 64 * 8) (t % 64) = false → ((u.tile t).st = .dark ↔ (s.tile t).st = .dark)) ∧
    ((∀ t, t < tileCount → s.rb (0x10100 + t / 64 * 8) (t % 64) = true → (s.tile t).st = .dark) → u = s.setRb 0x10040 1 true)

/-- R495-R508, R557: bring-up. -/
def Obligations.BringUp : Prop := FunctionsBecomeReady ∧ FailedTrainingFences ∧ ImagesAreVerified ∧ DarkListIsApplied

/-- R573: what stands in the way of Dim: a context that loads, runs or ends; a held job of Prism, the tint unit, a copy, a move or a package; SRV_CTL.ENABLE; a glare run; a loan slot that is not FREE; a home that moves in. -/
def DimWaits (s : State) : Prop :=
  (∃ g c, g < 16 ∧ c < 8 ∧ ((s.sec g c).active = true ∨ (s.sec g c).st = .loading)) ∨ (∃ n, n < 16 ∧ (s.prismQ n ≠ [] ∨ (s.tintU n).jobs ≠ [])) ∨
    s.net.copies ≠ [] ∨ s.net.moves ≠ [] ∨ s.pkg.jobs ≠ [] ∨ s.rb 0x30000 0 = true ∨ s.glare.run ≠ none ∨
    (∃ k, k < 64 ∧ s.rf (0x41010 + 0x20 * k) 1 0 ≠ 0) ∨ s.net.inbound ≠ []

/-- R573, R575: TARGET DIM is refused while something stands in its way, and otherwise the device enters Dim; LIT leaves Dim, or waits until ENTERING_DIM ends. -/
def PowerTargetsAreJudged : Prop :=
  ∀ s : State, RegOpen s 0xD0000 →
    let st := s.rf 0xD0008 2 0
    let gives (e : Instr) (t : Bool) (v : Nat) (lit : Bool) : Prop := ∃ u : State, exec e s = .next (u.answer 0) ∧ (u.withRegs s.regs).withPwr s.pwr = s ∧
      u.rb 0xD0000 0 = t ∧ u.rf 0xD0008 2 0 = v ∧ u.pwr = s.pwr.withWantLit lit ∧ (∀ o, o ≠ 0xD0000 → o ≠ 0xD0008 → u.reg o = s.reg o) ∧ u.rf 0xD0008 63 3 = s.rf 0xD0008 63 3
    (st = 0 ∨ st = 3 → DimWaits s → exec .pwrTargetDim s = .next (s.answer St.pwrBusy)) ∧
    (st = 0 ∨ st = 3 → ¬DimWaits s → gives .pwrTargetDim true 2 s.pwr.wantLit) ∧
    (st ≠ 0 → st ≠ 3 → gives .pwrTargetDim true st false) ∧
    (st = 1 → gives .pwrTargetLit false 3 s.pwr.wantLit) ∧ (st ≠ 1 → gives .pwrTargetLit false st (decide (st = 2)))

/-- R572, R575: with the last clock stopped the array, die-store, memory and MD core clocks stand still and the device is in Dim, or on its way out when LIT waits; once it has left, those clocks run. -/
def DimBeginsAndEnds : Prop :=
  ∀ s : State,
    let inDim (d : ClockDomain) : Prop := (∃ n, n < 16 ∧ (d = .array n ∨ d = .dieStore n ∨ d = .hbm n ∨ d = .ddr n)) ∨ d = .mdCore 0 ∨ d = .mdCore 1
    (s.rf 0xD0008 2 0 ≠ 2 → exec .dimEntered s = .next s) ∧ (s.rf 0xD0008 2 0 ≠ 3 → exec .dimLeft s = .next s) ∧
    (s.rf 0xD0008 2 0 = 2 → ∃ l : List ClockDomain, (∀ d, d ∈ l ↔ d ∈ s.pwr.stopped ∨ inDim d) ∧
      exec .dimEntered s = .next ((s.withPwr (s.pwr |>.withStopped l |>.withWantLit false)).setRf 0xD0008 2 0 (if s.pwr.wantLit then 3 else 1))) ∧
    (s.rf 0xD0008 2 0 = 3 → ∃ l : List ClockDomain, (∀ d, d ∈ l ↔ d ∈ s.pwr.stopped ∧ ¬inDim d) ∧
      exec .dimLeft s = .next ((s.withPwr (s.pwr.withStopped l)).setRf 0xD0008 2 0 0))

/-- R554, R578, R588: a falling PWRWARN_N is noted and counted, and ends a glare run; rising, it clears the bit. EJECT_N is noted, and Hold is due. -/
def PinsAreNoted : Prop :=
  ∀ s : State,
    (s.rb 0xD0008 3 = true → exec .pwrwarnFall s = .next s) ∧
    (s.rb 0xD0008 3 = false → ∃ u : State, exec .pwrwarnFall s = .next u ∧ u.rb 0xD0008 3 = true ∧ u.rf 0xD0028 47 32 = min (s.rf 0xD0028 47 32 + 1) 65535 ∧
      u.glare.run = none ∧ (s.glare.run = none → u = (s.setRb 0xD0008 3 true).setRf 0xD0028 47 32 (min (s.rf 0xD0028 47 32 + 1) 65535))) ∧
    exec .pwrwarnRise s = .next (s.setRb 0xD0008 3 false) ∧
    exec .eject s = .next ((s.setRb 0xD0008 4 true).withSrv (s.srv.withHoldDue true))

/-- R578-R580, R590: a sample of package power, input voltage and input power. P is the average of 10 samples, and CAPPED reads 1 while it stands at the limit, which is CAP_W, and no more than WARN_W while PWRWARN_N is low. In Lit, without a glare run, a limit
or a throttle of HD, MD or OD keeps the array clocks at or below what they were and FREQ; a limit that is no more gives them FREQ back. A fall below the floor or by more than RAMP_W in 100 µs is counted unless the warning asks for it. -/
def PowerIsSampled : Prop :=
  ∀ (s : State) (w dv input : Nat),
    (s.boot.ph = .off → exec (.powerSample w dv input) s = .next s) ∧
    (s.boot.ph ≠ .off →
      let l := (w :: s.pwr.samples).take 10
      let sum := l.foldl (· + ·) 0
      let limit := if s.rb 0xD0008 3 then min (s.rf 0xD0010 12 0) (s.rf 0xD0010 28 16) else s.rf 0xD0010 12 0
      ∃ (u : State) (p : Nat), exec (.powerSample w dv input) s = .next u ∧ p * l.length < sum + l.length ∧ sum < (p + 1) * l.length ∧
        u.rf 0xD0008 28 16 = min p 8191 ∧ u.rf 0xD0008 41 32 = min dv 1023 ∧ u.rb 0xD0008 6 = decide (limit ≤ p) ∧ u.rf 0xD0008 2 0 = s.rf 0xD0008 2 0 ∧
        u.pwr.samples = l ∧ u.pwr.inputW = input ∧ u.mem = s.mem ∧ u.tiles = s.tiles ∧ u.secs = s.secs ∧
        (let st := s.rf 0xD0008 2 0
         let floor := if st = 0 then min (s.rf 0xD0018 28 16) limit else 0
         let miss := (st = 0 ∨ st = 2) ∧ s.rb 0xD0008 3 = false ∧ ∃ b, s.pwr.history[99]? = some b ∧ (p < floor ∨ p + s.rf 0xD0018 12 0 < b)
         (miss → u.rf 0xD0028 63 48 = min (s.rf 0xD0028 63 48 + 1) 65535 ∧ u.pwr.history = [p]) ∧
         (¬miss → u.reg 0xD0028 = s.reg 0xD0028 ∧ u.pwr.history = (p :: s.pwr.history).take 100)) ∧
        ∀ n, n < 16 →
          let o := 0xD0100 + 8 * n
          let held := n ∈ s.pwr.changing ∨ ∃ t, (n, t) ∈ s.pwr.hot
          (s.glare.run ≠ none ∨ s.rf 0xD0008 2 0 ≠ 0 ∨ held → u.reg o = s.reg o) ∧
          (s.glare.run = none → s.rf 0xD0008 2 0 = 0 → ¬held → u.rf o 7 0 = s.rf o 7 0 ∧
            (limit ≤ p ∨ s.pwr.hotOther = true → 32 ≤ s.rf o 7 0 → 32 ≤ s.rf o 15 8 → 32 ≤ u.rf o 15 8 ∧ u.rf o 15 8 ≤ min (s.rf o 7 0) (s.rf o 15 8)) ∧
            (p < limit → s.pwr.hotOther = false → s.rb 0xD0008 6 = false → u.reg o = s.reg o) ∧
            (p < limit → s.pwr.hotOther = false → s.rb 0xD0008 6 = true → u.rf o 15 8 = s.rf o 7 0)))

/-- R581, R582, R590: what the sensors read stands in the registers. A die at 105 °C or its stack at 95 °C throttles its array clock by 100 MHz a sample, not below 0.8 GHz; one that throttles goes on falling above 103 or 93 °C, and after 1 ms below rises by 100 MHz, up to
FREQ. THERM_ALERT_N falls at the thresholds of PWR_THERM and rises once every reading has been 3 °C below for 1 ms. At 120 °C, or 105 °C in a stack, the device trips: a fatal record is
written, and only what Unlit keeps is left. -/
def TemperaturesAct : Prop :=
  ∀ (s : State) (t : Temps),
    let at_ (l : List Nat) (n : Nat) : Nat := l.getD n 0
    let trip := (∃ x ∈ [t.hd, t.md0, t.md1, t.od], 120 ≤ x) ∨ ∃ n, n < 16 ∧ (120 ≤ at_ t.cd n ∨ 105 ≤ at_ t.hbm n)
    let reads (u : State) : Prop := (∀ n, n < 16 → u.rf (0xD0200 + 8 * n) 7 0 = at_ t.cd n % 256 ∧ u.rf (0xD0200 + 8 * n) 23 16 = at_ t.hbm n % 256 ∧
        u.rf (0xD0200 + 8 * n) 15 8 = max (s.rf (0xD0200 + 8 * n) 15 8) (at_ t.cd n) % 256 ∧
        u.rf (0xD0300 + 8 * n) 7 0 = if s.rb 0x10048 n then at_ t.dimm n % 256 else 0) ∧
      u.rf 0xD0280 7 0 = t.hd % 256 ∧ u.rf 0xD0280 15 8 = t.md0 % 256 ∧ u.rf 0xD0280 23 16 = t.md1 % 256 ∧ u.rf 0xD0280 31 24 = t.od % 256
    let ex := exec (.thermalSample t) s
    (s.boot.ph = .off → ex = .next s) ∧
    (s.boot.ph ≠ .off → s.rf 0xD0008 2 0 = 4 → ∃ u : State, ex = .next u ∧ u.withRegs s.regs = s ∧ reads u ∧
      ∀ o, o < 0xD0200 ∨ 0xD0380 ≤ o → u.reg o = s.reg o) ∧
    (s.boot.ph ≠ .off → s.rf 0xD0008 2 0 ≠ 4 → trip → ∃ u : State, ex = .next u ∧ reads u ∧ u.rf 0xD0008 2 0 = 4 ∧ u.pwr.trip = true ∧
      u.rf 0xB0018 39 32 = min (s.rf 0xB0018 39 32 + 1) 255 ∧ u.mem = [] ∧ u.secs = [] ∧ u.time = s.time ∧ u.boot.reset = s.boot.reset ∧
      (∀ i, i < 100 → u.isReady i = (decide (i = 0) && s.isReady 0))) ∧
    (s.boot.ph ≠ .off → s.rf 0xD0008 2 0 ≠ 4 → ¬trip → s.glare.run = none → s.pwr.hotOther = false → max (max t.hd t.md0) (max t.md1 t.od) < 105 →
      ∃ u : State, ex = .next u ∧ reads u ∧ (u.withRegs s.regs).withPwr s.pwr = s ∧ u.rb 0xD0008 5 = !u.pwr.hot.isEmpty ∧
        u.rf 0xD0028 31 0 = (if u.pwr.hot.isEmpty then s.rf 0xD0028 31 0 else min (s.rf 0xD0028 31 0 + 10) (2 ^ 32 - 1)) ∧
        (∀ n, n < 16 →
          let o := 0xD0100 + 8 * n
          let down := max 32 (s.rf o 15 8 - 4)
          let hot := 105 ≤ at_ t.cd n ∨ 95 ≤ at_ t.hbm n
          let still := 103 < at_ t.cd n ∨ 93 < at_ t.hbm n
          u.rf o 7 0 = s.rf o 7 0 ∧
          ((∀ x, (n, x) ∉ s.pwr.hot) → u.rf o 15 8 = if hot then down else s.rf o 15 8) ∧
          ((∀ x, (n, x) ∉ s.pwr.hot) → hot → (n, s.now) ∈ u.pwr.hot) ∧
          (∀ x, s.pwr.hot.find? (fun h => h.1 == n) = some (n, x) → u.rf o 15 8 = if still then down else if s.now < 4000000 + x then s.rf o 15 8 else min (s.rf o 7 0) (s.rf o 15 8 + 4))) ∧
        (let below (m : Nat) : Prop := (∀ x ∈ [t.hd, t.md0, t.md1, t.od], x + m ≤ s.rf 0xD0020 7 0) ∧
            ∀ n, n < 16 → at_ t.cd n + m ≤ s.rf 0xD0020 7 0 ∧ at_ t.hbm n + m ≤ s.rf 0xD0020 15 8 ∧ (s.rb 0x10048 n = true → at_ t.dimm n + m ≤ 85)
         (¬below 1 → u.rb 0xD0008 7 = true) ∧ (below 1 → ¬below 3 → u.rb 0xD0008 7 = s.rb 0xD0008 7) ∧
         (below 3 → u.rb 0xD0008 7 = (s.rb 0xD0008 7 && !(s.pwr.coolSince.any (fun x => decide (4000000 + x ≤ s.now)))))))

/-- R589: a sensor that is asked for over I3C answers with what it reads (Table 21.7), and one that is not there with none; a control message is answered. -/
def SensorsAnswer : Prop :=
  ∀ (s : State) (i c : Nat),
    (s.boot.ph = .off → exec (.i3cRequest (.reading i)) s = .next s ∧ exec (.i3cRequest (.control c)) s = .next s) ∧
    (s.boot.ph ≠ .off →
      (∃ v : Nat, exec (.i3cRequest (.control c)) s = .next ((s.withPwr (s.pwr.withI3c (s.pwr.i3c ++ [(.control c, some v)]))).withFree (s.free + 1))) ∧
      ∃ a : Option Nat, exec (.i3cRequest (.reading i)) s = .next (s.withPwr (s.pwr.withI3c (s.pwr.i3c ++ [(.reading i, a)]))) ∧
        (i = 1 → a = some (s.rf 0xD0008 41 32)) ∧ (i = 2 → a = some s.pwr.inputW) ∧ (i = 3 → a = some (s.rf 0xD0008 28 16)) ∧
        (∀ n, n < 16 → (i = 4 + n → a = some (s.rf (0xD0200 + 8 * n) 7 0)) ∧ (i = 21 + n → a = some (s.rf (0xD0200 + 8 * n) 23 16)) ∧
          (i = 37 + n → a = if s.rb 0x10048 n then some (s.rf (0xD0300 + 8 * n) 7 0) else none)) ∧
        (i = 20 → a = some (max (max (s.rf 0xD0280 7 0) (s.rf 0xD0280 15 8)) (max (s.rf 0xD0280 23 16) (s.rf 0xD0280 31 24)))) ∧ (i = 0 ∨ 53 < i → a = none))

/-- R572-R575: Dim. -/
def Obligations.DimIsEnteredAndLeft : Prop := PowerTargetsAreJudged ∧ DimBeginsAndEnds

/-- R578-R582, R587-R590: package power, temperature and pins. -/
def Obligations.PowerAndHeatAreHeld : Prop := PinsAreNoted ∧ PowerIsSampled ∧ TemperaturesAct ∧ SensorsAnswer

/-- R539, R543, R544: a finished record is counted by its class. While the log cannot take it, it stands in the always-on store; with the store empty and room in the log it stands in the slot of TAIL with its SEQ, and TAIL counts on. -/
structure Recorded (s u : State) (r : List Byte) : Prop where
  corrected : leAt r 8 1 = 0 → u.rf 0xB0018 15 0 = min (s.rf 0xB0018 15 0 + 1) 65535
  contained : leAt r 8 1 = 1 → u.rf 0xB0018 31 16 = min (s.rf 0xB0018 31 16 + 1) 65535
  fatal : leAt r 8 1 = 2 → u.rf 0xB0018 39 32 = min (s.rf 0xB0018 39 32 + 1) 255
  stored : s.logUsable = false → s.logs.store.length < 32 → u.logs.store = s.logs.store ++ [r] ∧ u.mem = s.mem
  full : s.logUsable = false → 32 ≤ s.logs.store.length → u.logs.store.length = s.logs.store.length ∧ u.rf 0xB0018 55 40 = min (s.rf 0xB0018 55 40 + 1) 65535
  logged : s.logUsable = true → s.logs.store = [] → r.length = 64 → s.ringHeld 0xB0010 < 2 ^ s.rf 0xB0008 4 0 → s.rb 0xB0008 7 = false →
    u.rdMem (gaKey (s.reg 0xB0000).toNat + 64 * (s.rf 0xB0010 63 32 % 2 ^ s.rf 0xB0008 4 0)) 64 = overlay r 40 (toLe 8 s.logs.seq) ∧
      u.rf 0xB0010 63 32 = (s.rf 0xB0010 63 32 + 1) % 2 ^ 32 ∧ u.logs.seq = s.logs.seq + 1 ∧
      u.logs.forward = s.logs.forward ++ (if s.rb 0xB0008 6 then [overlay r 40 (toLe 8 s.logs.seq)] else [])
  lost : s.logUsable = true → s.logs.store = [] → 2 ^ s.rf 0xB0008 4 0 ≤ s.ringHeld 0xB0010 → u.rf 0xB0018 55 40 = min (s.rf 0xB0018 55 40 + 1) 65535 ∧ u.rb 0xB0018 56 = true ∧ u.mem = s.mem

/-- R533-R535, R540, R545: scrub of a word of a memory that is ready, outside Dim. A word that cannot be corrected is noted, raises a contained record, and in the image area of a running Lantern fences LANTERN. A corrected word joins the open record of its place or opens
one; the device that was corrected in 16 words of T2 within 1 s is erased. -/
def WordsAreScrubbed : Prop :=
  ∀ (s : State) (space off n d : Nat) (ecc : Ecc),
    let w := off / (if space = 1 then 32 else 64) * (if space = 1 then 32 else 64)
    let k := 2 ^ 46 * space + w
    let there := s.inSpace space off 1 = true ∧ s.memReady space off = true ∧ s.rf 0xD0008 2 0 ≠ 1 ∧ s.rf 0xD0008 2 0 ≠ 3
    let fences := space = 1 ∧ 2 ^ 29 ≤ w ∧ w < 2 ^ 29 + 2 ^ 25 ∧ s.rb 0x10000 3 = true
    let noted (u : State) : Prop := (fences → u.rb 0x10000 3 = false ∧ u.rb 0x30000 1 = true ∧ u.rf 0xB0018 39 32 = min (s.rf 0xB0018 39 32 + 1) 255) ∧
      (¬fences → ∃ r, Recorded s u r ∧ leAt r 8 1 = 1 ∧ leAt r 16 8 = (0x3FFF * 2 ^ 50 + 2 ^ 46 * space + w) % 2 ^ 64 ∧ leAt r 12 2 = 1)
    (space = 0 ∨ 3 < space → exec (.scrub space off ecc) s = .fault (.noSuchUnit "memory space")) ∧
    (1 ≤ space → space ≤ 3 → ¬there → exec (.scrub space off ecc) s = .next s) ∧
    (1 ≤ space → space ≤ 3 → there →
      (k ∈ s.bad → ∃ u : State, exec (.scrub space off ecc) s = .next u ∧ noted u) ∧
      (k ∉ s.bad → (exec (.scrub space off .clean) s = .next s ∧ exec (.scrub space off .parity) s = .next s) ∧
        (∃ u : State, exec (.scrub space off .lost) s = .next u ∧ noted u ∧ ∀ j, j ∈ u.bad ↔ j = k ∨ j ∈ s.bad) ∧
        (space ≠ 3 → ∃ r, leAt r 8 1 = 0 ∧ leAt r 12 2 = 1 ∧ leAt r 16 8 = (0x3FFF * 2 ^ 50 + 2 ^ 46 * space + w) % 2 ^ 64 ∧ leAt r 34 1 = 0xFF ∧
          ((∀ x ∈ s.logs.opened, sameError x r = false) → (s.logs.opened.filter (fun x => decide (leAt x 33 1 = leAt r 33 1))).length < 8 →
            exec (.scrub space off (.fixed n d)) s = .next (s.withLogs (s.logs.withOpened (s.logs.opened ++ [r])))) ∧
          ((∀ x ∈ s.logs.opened, sameError x r = false) → 8 ≤ (s.logs.opened.filter (fun x => decide (leAt x 33 1 = leAt r 33 1))).length →
            exec (.scrub space off (.fixed n d)) s = .next (s.setRf 0xB0018 55 40 (min (s.rf 0xB0018 55 40 + 1) 65535))) ∧
          (∀ l x m, s.logs.opened = l ++ x :: m → (∀ y ∈ l, sameError y r = false) → sameError x r = true → leAt x 12 2 < 0xFFFE →
            exec (.scrub space off (.fixed n d)) s = .next (s.withLogs (s.logs.withOpened (l ++ overlay x 12 (toLe 2 (leAt x 12 2 + 1)) :: m))))) ∧
        (space = 3 → d < 15 → s.rb (0xB0300 + s.t2Chan off * 8) 4 = false →
          let hits := s.net.ecc.filter (fun h => decide (s.now - h.time ≤ 4000000000 ∧ h.chan = s.t2Chan off ∧ h.sub = 0 ∧ h.dev = d ∧ h.word ≠ k))
          15 ≤ hits.length → ∃ u : State, exec (.scrub space off (.fixed n d)) s = .next u ∧ u.rb (0xB0300 + s.t2Chan off * 8) 4 = true ∧ u.rf (0xB0300 + s.t2Chan off * 8) 3 0 = d)))

/-- R544, R545: an open corrected record whose millisecond has passed, or whose count is full, is written, the first such one; while none is due nothing changes. -/
def OpenRecordsAreWritten : Prop :=
  ∀ (s : State) (l m : List (List Byte)) (r : List Byte),
    let due (x : List Byte) : Prop := 4000000 + leAt x 0 8 ≤ s.now ∨ leAt x 12 2 = 0xFFFF
    ((∀ x ∈ s.logs.opened, ¬due x) → exec .correctedRecordFlush s = .next s) ∧
    (s.logs.opened = l ++ r :: m → (∀ x ∈ l, ¬due x) → due r → ∃ u : State, exec .correctedRecordFlush s = .next u ∧ Recorded s u r ∧ u.logs.opened = l ++ m)

/-- R544: once the log is usable the records of the always-on store are appended in order, the first at TAIL. -/
def StoreIsDrained : Prop :=
  ∀ s : State,
    (s.logUsable = false → exec .errorStoreDrain s = .next s) ∧
    (s.logUsable = true → ∃ u : State, exec .errorStoreDrain s = .next u ∧ u.logs.store = [] ∧
      (s.ringHeld 0xB0010 + s.logs.store.length ≤ 2 ^ s.rf 0xB0008 4 0 → s.ringHeld 0xB0010 + s.logs.store.length < 2 ^ 32 → s.rb 0xB0008 7 = false →
        u.rf 0xB0010 63 32 = (s.rf 0xB0010 63 32 + s.logs.store.length) % 2 ^ 32 ∧ u.logs.seq = s.logs.seq + s.logs.store.length ∧ u.rf 0xB0018 55 40 = s.rf 0xB0018 55 40))

/-- R543: a record of Lantern firmware is taken from hub SRAM with the time of the write; one that does not lie there, or that names another source, is refused. -/
def FirmwareRecordsAreTaken : Prop :=
  ∀ (s : State) (v : W64), RegOpen s 0xB0020 →
    let r := s.rdMem (2 ^ 46 + 2 ^ 29 + v.toNat) 64
    let ok := v.toNat + 64 ≤ 2 ^ 26 ∧ (leAt r 9 1 = 0x0E ∨ leAt r 9 1 = 0x0F ∨ leAt r 9 1 = 0x10)
    (¬ok → exec (.hubErrInject v) s = .next (s.answer St.paramRange)) ∧
    (ok → ∃ u : State, exec (.hubErrInject v) s = .next (u.answer 0) ∧ Recorded s u (overlay r 0 (toLe 8 s.now)))

/-- R535, R555: a write of MEM_ERASE ends an erasure where it writes VALID 0; one that would set VALID is refused. -/
def ErasuresEnd : Prop :=
  ∀ (s : State) (n : Nat) (v : W64), n < 16 → RegOpen s (0xB0300 + n * 8) →
    (bit v 4 = true ∨ bit v 12 = true → exec (.memEraseClear n v) s = .next (s.answer St.paramRange)) ∧
    (bit v 4 = false → bit v 12 = false → ∃ u : State, exec (.memEraseClear n v) s = .next (u.answer 0) ∧ u.withRegs s.regs = s ∧
      u.rb (0xB0300 + n * 8) 4 = false ∧ u.rb (0xB0300 + n * 8) 12 = false ∧ u.rf (0xB0300 + n * 8) 3 0 = s.rf (0xB0300 + n * 8) 3 0 ∧
      u.rf (0xB0300 + n * 8) 11 8 = s.rf (0xB0300 + n * 8) 11 8 ∧ ∀ o, o ≠ 0xB0300 + n * 8 → u.reg o = s.reg o)

/-- R532-R545: corrected and uncorrectable words, and the error log. -/
def Obligations.ErrorsAreRecorded : Prop := WordsAreScrubbed ∧ OpenRecordsAreWritten ∧ StoreIsDrained ∧ FirmwareRecordsAreTaken ∧ ErasuresEnd

/-- R549, R550, R557: a complete package is verified once SEC is ready: READY with its version, measured, or BAD with the reason of the first check that fails. A wrong magic word is reason 1. -/
def GlarePackagesAreVerified : Prop :=
  ∀ (s : State) (total : Nat),
    (s.glare.total = none ∨ s.rf 0xB1008 2 0 ≠ 2 ∨ s.rb 0x10000 1 = false → exec .glarePackageVerify s = .next s) ∧
    (s.glare.total = some total → s.rf 0xB1008 2 0 = 2 → s.rb 0x10000 1 = true →
      (leAt (s.rdMem (2 ^ 46 + 2 ^ 29 + 2 ^ 25) 4) 0 4 ≠ 0x474C5231 → s.checkGlare total = .inl 1) ∧
      ∃ u : State, exec .glarePackageVerify s = .next u ∧ u.withRegs s.regs = s ∧
      match s.checkGlare total with
      | .inl r => u.rf 0xB1008 2 0 = 5 ∧ u.rf 0xB1008 5 3 = r % 8 ∧ ∀ o, o ≠ 0xB1008 → u.reg o = s.reg o
      | .inr _ => u.rf 0xB1008 2 0 = 3 ∧ u.rf 0xB1008 5 3 = 0 ∧ u.rf 0xB1010 63 32 = leAt (s.rdMem (2 ^ 46 + 2 ^ 29 + 2 ^ 25 + 4) 4) 0 4 ∧
          u.rf 0xC01C0 23 16 = min (s.rf 0xC01C0 23 16 + 1) 255 ∧ ∀ o, o ≠ 0xB1008 → o ≠ 0xB1010 → o ≠ 0xC01C0 → o < 0xC0180 ∨ 0xC01C0 ≤ o → u.reg o = s.reg o)

/-- The n bytes at byte i of point record p in the glare area (Table 19.6). -/
def pointField (s : State) (p i n : Nat) : Nat := leAt (s.rdMem (2 ^ 46 + 2 ^ 29 + 2 ^ 25 + (256 + 16 * p)) 16) i n

/-- Byte i of point record p. -/
def pointByte (s : State) (p i : Nat) : Nat := pointField s p i 1

/-- The array clocks of the affected dies stand at the margin of the point: 3.3 GHz × (1 + DF × 0.005) (R552). -/
def AtMargin (u : State) (r : GlareRun) : Prop := ∀ e ∈ r.former, e.1 < 16 → u.rf (0xD0100 + 8 * e.1) 15 8 = 132 * (200 + pointByte u r.point 1) / 200 % 256

/-- R551, R552: START is refused while a run is active, without a READY package, and while a target region is lit in a span, active, holds lists or jobs, or shares a die with a region that is no target, in this order. Otherwise the run begins at its first point:
the margins of the affected dies are set, their former clocks kept, and the verdicts of former runs cleared. -/
def GlareRunsStart : Prop :=
  ∀ (s : State) (v : W64), RegOpen s 0xB1000 →
    let hit (g : Nat) : Prop := g < 16 ∧ bit v g = true
    let scope := ∃ g, hit g ∧ (s.rb (0x51000 + 0x10 * g) 12 = true ∨ s.regionActive g = true ∨ s.listsHeld g = true ∨ s.jobsFor g = true ∨
      ∃ n h, n < 16 ∧ h < 16 ∧ s.regionOnDie g n = true ∧ s.regionOnDie h n = true ∧ bit v h = false)
    (s.glare.run ≠ none → exec (.glareStart v) s = .next (s.answer St.glareActive)) ∧
    (s.glare.run = none → s.rf 0xB1008 2 0 ≠ 3 → exec (.glareStart v) s = .next (s.answer St.glarePkg)) ∧
    (s.glare.run = none → s.rf 0xB1008 2 0 = 3 → scope → exec (.glareStart v) s = .next (s.answer St.glareScope)) ∧
    (s.glare.run = none → s.rf 0xB1008 2 0 = 3 → ¬scope → ∃ (u : State) (r : GlareRun), exec (.glareStart v) s = .next (u.answer 0) ∧ u.glare.run = some r ∧
      r.regions = fld v 15 0 ∧ r.point = 0 ∧ r.ph = .settling ∧ r.tested = [] ∧ r.failed = [] ∧ u.rf 0xB1008 2 0 = 4 ∧ u.rf 0xB1008 21 16 = 0 ∧ u.rf 0xB1008 47 32 = 0 ∧
      (∀ n, n < 16 → ((∃ g, hit g ∧ s.regionOnDie g n = true) ↔ (n, s.rf (0xD0100 + 8 * n) 15 8) ∈ r.former)) ∧ AtMargin u r ∧
      (∀ p, p < 64 → u.reg (0xB1400 + 8 * p) = 0) ∧ u.mem = s.mem ∧ u.tiles = s.tiles ∧ u.secs = s.secs)

/-- R554: ABORT ends a run: the active sections of context 7 of the targets are faulted, the former clocks are in force again, and RESULT reads GLARE_ABORT. Without a run only REGIONS is as it was. -/
def GlareRunsAbort : Prop :=
  ∀ s : State, RegOpen s 0xB1000 →
    ∃ u : State, exec .glareAbort s = .next (u.answer 0) ∧ u.glare.run = none ∧ u.rf 0xB1000 15 0 = s.rf 0xB1000 15 0 ∧
      (s.glare.run = none → u.withRegs s.regs = s ∧ ∀ o, o ≠ 0xB1000 → u.reg o = s.reg o) ∧
      ∀ r, s.glare.run = some r → u.rf 0xB1008 2 0 = 3 ∧ u.rf 0xB1008 15 8 = St.glareAbort ∧
        (∀ g, g < 16 → bitsAt r.regions g 1 = 1 → (s.sec g 7).active = true → (u.sec g 7).fault.isSome = true) ∧
        ((r.former.map (·.1)).Nodup → ∀ e ∈ r.former, e.1 < 16 → u.rf (0xD0100 + 8 * e.1) 15 8 = e.2 % 256 ∧
          u.rf (0xD0100 + 8 * e.1) 31 16 = (Config.railMv e.1 e.2).toNat)

/-- The run of `u` goes on in phase `ph`, its sections loaded and started in every target region with an active tile, or a load that was refused ends it. -/
def RunsTemplate (s u : State) (r : GlareRun) (ph : GlarePh) (counts : Bool) : Prop :=
  ∃ r', u.glare.run = some r' ∧ r'.regions = r.regions ∧ r'.former = r.former ∧ ((r'.ph = .restoring ∧ r'.result ≠ 0) ∨
    (r'.ph = ph ∧ r'.counts = counts ∧ ∀ g, g < 16 → bitsAt r.regions g 1 = 1 → (∃ t ∈ s.regionTiles g, (s.tile t).st = .active) →
      (u.sec g 7).st = .running ∧ (u.sec g 7).epoch = (s.lastE g + 1) % 2 ^ 32))

/-- R552: 100 µs after its margins were set a point heats up, or begins its verdict runs; once every affected die reads TJ the dwell begins; DWELL_MS later, with no section that runs, the verdict runs begin: each selected template REPEAT times. In any other phase nothing changes. -/
def PointsAreHeatedAndRun : Prop :=
  ∀ s : State,
    (s.glare.run = none → exec .glarePointSettled s = .next s ∧ exec .glareTjReached s = .next s ∧ exec .glareDwellEnd s = .next s) ∧
    ∀ r, s.glare.run = some r →
      let sel := (List.range (leAt (s.rdMem (2 ^ 46 + 2 ^ 29 + 2 ^ 25 + 14) 2) 0 2)).filter (fun k => decide (bitsAt (pointByte s r.point 4 + 256 * pointByte s r.point 5) k 1 = 1))
      let todo := sel.flatMap (fun k => List.replicate (pointByte s r.point 3) k)
      let settled := r.since + 400000 ≤ s.now
      let dwelt := r.since + 4000000 * pointField s r.point 6 2 ≤ s.now
      let hot := ∀ e ∈ r.former, pointByte s r.point 2 ≤ s.rf (0xD0200 + 8 * e.1) 7 0
      (r.ph ≠ .settling ∨ ¬settled → exec .glarePointSettled s = .next s) ∧
      (r.ph = .settling → settled → pointByte s r.point 2 ≠ 0 → sel ≠ [] → ∃ u : State, exec .glarePointSettled s = .next u ∧ RunsTemplate s u r .heating r.counts) ∧
      (r.ph = .settling → settled → pointByte s r.point 2 ≠ 0 → sel = [] → exec .glarePointSettled s = .next (s.setGlareRun (r |>.withPh .heating |>.withTodo []))) ∧
      (r.ph = .settling → settled → pointByte s r.point 2 = 0 → todo ≠ [] → ∃ u : State, exec .glarePointSettled s = .next u ∧ RunsTemplate s u r .verdict true) ∧
      (r.ph ≠ .heating ∨ ¬hot → exec .glareTjReached s = .next s) ∧
      (r.ph = .heating → hot → exec .glareTjReached s = .next (s.setGlareRun (r |>.withPh .dwelling |>.withSince s.now))) ∧
      (r.ph ≠ .dwelling ∨ ¬dwelt → exec .glareDwellEnd s = .next s) ∧
      (r.ph = .dwelling → dwelt → s.glareBusy r = true → exec .glareDwellEnd s = .next (s.setGlareRun (r |>.withPh .verdict |>.withTodo todo))) ∧
      (r.ph = .dwelling → dwelt → s.glareBusy r = false → todo ≠ [] → ∃ u : State, exec .glareDwellEnd s = .next u ∧ RunsTemplate s u r .verdict true)

/-- R552, R553: a template run is over when no section of it runs, or TIMEOUT_US after it began, which resets the target regions. In a verdict run the tiles that failed, FAULT_T0 and those without END among them, are SUSPECT, and the last run of a point
gives its verdict: the next point begins, or the clocks are restored. While sections run, or no run is due, nothing changes. -/
def TemplateRunsEnd : Prop :=
  ∀ s : State,
    (s.glare.run = none → exec .glareTemplateRunEnd s = .next s ∧ exec .glareTimeout s = .next s) ∧
    ∀ r, s.glare.run = some r →
      let overtime := r.runAt + 4000 * pointField s r.point 8 4 ≤ s.now
      let idle := r.ph = .settling ∨ r.ph = .restoring
      let target (g : Nat) : Prop := g < 16 ∧ bitsAt r.regions g 1 = 1
      let late (t : Nat) : Prop := ∃ g, target g ∧ (s.sec g 7).active = true ∧ t ∈ (s.sec g 7).tiles ∧ (s.sec g 7).reported.contains t = false
      let culprit (t : Nat) : Prop := ∃ g f, target g ∧ (s.sec g 7).fault = some f ∧ f.t0 = t
      let ends (u : State) (more : Nat → Prop) : Prop := r.counts = true →
        (∀ t, t < tileCount → t ∉ r.marked → t ∈ r.failedHere ∨ more t → (u.tile t).suspect = true ∧ u.rb (0xB1100 + t / 64 * 8) (t % 64) = true) ∧
        (r.todo.length = 1 → r.point < 64 → fld (u.reg (0xB1400 + 8 * r.point)) 15 0 = r.here.length % 65536 ∧
          (r.failedHere = [] → (∀ t, ¬more t) → r.here.length < 65536 → u.reg (0xB1400 + 8 * r.point) = BitVec.ofNat 64 (r.here.length + 2 ^ 32)) ∧
          ∃ r', u.glare.run = some r' ∧ (r.point + 1 < u.glarePoints → r'.ph = .settling ∧ r'.point = r.point + 1 ∧ AtMargin u r') ∧
            (u.glarePoints ≤ r.point + 1 → r'.ph = .restoring ∧ r'.result = 0))
      (idle ∨ s.glareBusy r = true → exec .glareTemplateRunEnd s = .next s) ∧ (idle ∨ s.glareBusy r = false ∨ ¬overtime → exec .glareTimeout s = .next s) ∧
      (¬idle → s.glareBusy r = false → ∃ u : State, exec .glareTemplateRunEnd s = .next u ∧ ends u culprit) ∧
      (¬idle → s.glareBusy r = true → overtime → ∃ u : State, exec .glareTimeout s = .next u ∧ ends u late ∧ ∀ g, target g → u.rb (0x51008 + 0x10 * g) 1 = true)

/-- R552: 100 µs after the clocks were restored the run is over: context 7 of every target region is EMPTY, the package is READY, RESULT is that of the run, and the runs are counted. -/
def GlareRunsEnd : Prop :=
  ∀ s : State,
    (s.glare.run = none → exec .glareRunEnd s = .next s) ∧
    ∀ r, s.glare.run = some r → (r.ph ≠ .restoring ∨ s.now < r.since + 400000 → exec .glareRunEnd s = .next s) ∧
      (r.ph = .restoring → r.since + 400000 ≤ s.now → ∃ u : State, exec .glareRunEnd s = .next u ∧ u.glare.run = none ∧ u.rf 0xB1008 2 0 = 3 ∧ u.rf 0xB1008 15 8 = r.result % 256 ∧
        u.rf 0xB1008 63 48 = min (s.rf 0xB1008 63 48 + 1) 65535 ∧ ∀ g, g < 16 → bitsAt r.regions g 1 = 1 → (u.sec g 7).st = .empty)

/-- R549-R554: glare. -/
def Obligations.GlareRuns : Prop := GlarePackagesAreVerified ∧ GlareRunsStart ∧ GlareRunsAbort ∧ PointsAreHeatedAndRun ∧ TemplateRunsEnd ∧ GlareRunsEnd

/-- R561, R562: START takes the snapshot of a report, unless one is being made, SEC is not ready, or DEST is not a multiple of 64 within 0x300_0000 and the end of hub SRAM. Done, the report with its signature stands at DEST. -/
def ReportsAreMade : Prop :=
  (∀ (s : State) (v : W64), RegOpen s 0xC0008 →
    let dest := fld v 25 0
    let ok := dest % 64 = 0 ∧ 0x3000000 ≤ dest ∧ dest + 5152 ≤ 2 ^ 26
    (s.rb 0xC0000 2 = true → exec (.attestStart v) s = .next (s.answer St.attestBusy)) ∧
    (s.rb 0xC0000 2 = false → s.rb 0x10000 1 = false → exec (.attestStart v) s = .next (s.answer St.dieNotReady)) ∧
    (s.rb 0xC0000 2 = false → s.rb 0x10000 1 = true → ¬ok → exec (.attestStart v) s = .next (s.answer St.paramRange)) ∧
    (s.rb 0xC0000 2 = false → s.rb 0x10000 1 = true → ok → ∃ b : List Byte,
      exec (.attestStart v) s = .next (((s.setRb 0xC0000 2 true).withTrust (s.trust.withReport (some (dest, b)))).answer 0) ∧ b.length = 512 ∧
      leAt b 0 4 = 0x41545431 ∧ leAt b 4 2 = 1 ∧ leAt b 6 2 = 0x2548 ∧ leAt b 8 1 = s.rf 0 31 24 ∧
      leAt b 9 1 = (s.rb 0xC0000 0).toNat + 2 * (s.rb 0xC0000 1).toNat + 4 * (!s.rb 0x10000 4).toNat + 8 * (s.rb 0x10028 0).toNat ∧
      leAt b 10 1 = s.rf 0xC0000 4 3 ∧ leAt b 11 1 = s.rf 0xC0000 15 8 ∧ leAt b 12 4 = s.trust.fwver % 2 ^ 32 ∧ leAt b 16 8 = (s.reg 0xC0078).toNat ∧
      leAt b 24 8 = (s.reg 0xC0080).toNat ∧ leAt b 32 8 = s.now ∧ leAt b 40 2 = s.rf 8 13 0 ∧ leAt b 42 2 = s.rf 0x10028 31 16 ∧ leAt b 44 4 = s.rf 0x70058 31 0 ∧
      leAt b 48 4 = (if s.rf 0xB1008 2 0 = 3 ∨ s.rf 0xB1008 2 0 = 4 then s.rf 0xB1010 63 32 else 0) ∧
      leAt b 52 1 = s.rf 0xC01C0 7 0 ∧ leAt b 53 1 = s.rf 0xC01C0 15 8 ∧ leAt b 54 1 = s.rf 0xC01C0 23 16 ∧
      ∀ i, i < 8 → leAt b (64 + 8 * i) 8 = (s.reg (0xC0010 + 8 * i)).toNat ∧ leAt b (128 + 8 * i) 8 = (s.reg (0xC0100 + 8 * i)).toNat ∧
        leAt b (192 + 8 * i) 8 = (s.reg (0xC0140 + 8 * i)).toNat ∧ leAt b (256 + 8 * i) 8 = (s.reg (0xC0180 + 8 * i)).toNat)) ∧
  ∀ s : State, (s.trust.report = none → exec .attestReportDone s = .next s) ∧
    ∀ dest b, s.trust.report = some (dest, b) → ∃ u : State, exec .attestReportDone s = .next u ∧ u.rb 0xC0000 2 = false ∧ u.trust.report = none ∧
      (∀ o, o ≠ 0xC0000 → u.reg o = s.reg o) ∧ u.rdMem (2 ^ 46 + 2 ^ 29 + dest) b.length = b ∧ u.rdMem (2 ^ 46 + 2 ^ 29 + dest + b.length + 4627) 13 = List.replicate 13 0 ∧
      u.rdMem (2 ^ 46 + 2 ^ 29 + dest + b.length) 4627 = slice (Config.mlDsaSign s.trust.signed (sha3Bytes b)) 0 4627 ∧
      ∀ k, k < 2 ^ 46 + 2 ^ 29 + dest ∨ 2 ^ 46 + 2 ^ 29 + dest + b.length + 4640 ≤ k → Sparse.get memD u.mem k = Sparse.get memD s.mem k

/-- R563-R566: BLOW from the Efnil port with KEY 0xD5 closes the debug facilities at once and begins to burn; any other sender is denied, and another chip counted. Burnt, DBG_DISABLED reads 1. -/
def DebugIsClosed : Prop :=
  ∀ (s : State) (o : Origin) (v : W64),
    (RegOpen s 0xC0050 →
      (o ≠ .efnil → (∀ n, o ≠ .chip n) → exec (.blow o v) s = .next (s.answer St.regDenied)) ∧
      (∀ n, o = .chip n → exec (.blow o v) s = .next ((s.setRf 0xC0070 31 0 (min (s.rf 0xC0070 31 0 + 1) (2 ^ 32 - 1))).answer St.regDenied)) ∧
      (fld v 15 8 ≠ 0xD5 → exec (.blow .efnil v) s = .next (s.answer St.paramRange)) ∧
      (fld v 15 8 = 0xD5 → bit v 0 = false → exec (.blow .efnil v) s = .next (s.answer 0)) ∧
      (fld v 15 8 = 0xD5 → bit v 0 = true → exec (.blow .efnil v) s = .next (((s.setRb 0xC0050 16 true).withTrust (s.trust.withClosed true)).answer 0))) ∧
    exec .blowDone s = .next (if s.rb 0xC0050 16 then (s.setRb 0xC0050 16 false).setRb 0xC0000 0 true else s)

/-- R563, R564, R566: a closed facility is refused, and JTAG answers with nothing; another chip never reaches one. An access that reaches one is noted, and a read is answered. -/
def DebugIsReached : Prop :=
  ∀ (s : State) (o : Origin) (u : DebugUnit) (w : Bool),
    let denied : State := (match o with
      | .chip _ => s.setRf 0xC0070 31 0 (min (s.rf 0xC0070 31 0 + 1) (2 ^ 32 - 1))
      | _ => s).answer St.regDenied
    let closed := s.trust.closed = true ∨ s.rb 0xC0000 0 = true
    (closed → u = .jtag → exec (.debugAccess o u w) s = .next s) ∧ (closed → u ≠ .jtag → exec (.debugAccess o u w) s = .next denied) ∧
    (¬closed → (∃ n, o = .chip n) → exec (.debugAccess o u w) s = .next denied) ∧
    (¬closed → (∀ n, o ≠ .chip n) → exec (.debugAccess o u true) s = .next ((s.setRb 0xC0000 1 true).answer 0) ∧
      ∃ b : List Byte, b.length = 8 ∧ exec (.debugAccess o u false) s = .next ((s.setRb 0xC0000 1 true).withFree (s.free + 1) |>.answerData 0 b))

/-- R558: SEC_FLOOR_CTL raises the floor, with KEY 0xD5, above what it is and no higher than the security version of the running image; another chip is denied. The burn done, the new floor applies. -/
def FloorsRise : Prop :=
  ∀ (s : State) (o : Origin) (v : W64),
    let n := fld v 7 0
    let ok := s.rf 0xC0000 15 8 < n ∧ n ≤ s.trust.fwver / 2 ^ 16 % 2 ^ 16 ∧ fld v 15 8 = 0xD5
    (RegOpen s 0xC0058 →
      (∀ c, o = .chip c → exec (.secFloorCtlWrite o v) s = .next ((s.setRf 0xC0070 31 0 (min (s.rf 0xC0070 31 0 + 1) (2 ^ 32 - 1))).answer St.regDenied)) ∧
      ((∀ c, o ≠ .chip c) → ¬ok → exec (.secFloorCtlWrite o v) s = .next (s.answer St.paramRange)) ∧
      ((∀ c, o ≠ .chip c) → ok → exec (.secFloorCtlWrite o v) s = .next ((s.withTrust (s.trust.withFloor (some n))).answer 0))) ∧
    (s.trust.floor = none → exec .floorBurnt s = .next s) ∧
    (∀ m, s.trust.floor = some m → m < 256 → ∃ u : State, exec .floorBurnt s = .next u ∧ u.rf 0xC0000 15 8 = max m (s.rf 0xC0000 15 8) ∧ u.trust = s.trust.withFloor none ∧
      (u.withRegs s.regs).withTrust s.trust = s ∧ ∀ p, p ≠ 0xC0000 → u.reg p = s.reg p)

/-- R556-R566: the root of trust. -/
def Obligations.RootOfTrust : Prop := ReportsAreMade ∧ DebugIsClosed ∧ DebugIsReached ∧ FloorsRise

/-- A step takes the command in front of the queue and performs it on the state with the rest of the queue. On an empty queue the reference clock ticks: device time
rises by HUB_TIME_RATE (R523), and nothing else changes but the count of time without a free tag (R311) and the recall notices that still wait for one (R314) (log entry 1, the model's choice). -/
def Obligations.StepRunsFront : Prop :=
  ∀ s : State, (∀ (c : Instr) (rest : List Instr), s.pending = c :: rest → step s = exec c (s.withPending rest)) ∧
    (s.pending = [] →
      let ticked := (s.withTime (s.time + (s.reg 0x90008).toNat)).withPtp (s.ptp.withTicks (s.ptp.ticks + 1))
      (∃ u : State, step s = .next u ∧ u.time = ticked.time ∧ u.ptp = ticked.ptp ∧ u.mem = s.mem ∧ u.tiles = s.tiles ∧ u.secs = s.secs ∧ u.pending = []) ∧
      (s.noTags = false → s.net.recalls = [] → step s = .next ticked))

/-- R18, R37, R121, R493, R523, R529: the chip after a cold reset. Every register but the count of uncertain intervals is at its reset value, and one interval is open; no chip number is assigned, device time is 0 and runs at 25.6 qns a tick, no function is ready, no
section is loaded, every tile is active and stands alone, and memory lists nothing. No command waits. -/
def Obligations.ResetLeaves : Prop :=
  (∀ o, o ≠ 0x90058 → State.reset.reg o = regReset o) ∧ State.reset.rf 0x90058 31 0 = 1 ∧ State.reset.reg 0x90008 = 0x199999999A ∧ State.reset.time = 0 ∧
    State.reset.rf 8 13 0 = 0x3FFF ∧ State.reset.rb 8 14 = false ∧ State.reset.chipInForce = 0x3FFF ∧ State.reset.rb 0x90018 32 = false ∧ State.reset.rb 0x90018 33 = false ∧
    (∀ i, i < 100 → State.reset.isReady i = false ∧ State.reset.hasFailed i = false) ∧ State.reset.rf 0x30000 1 0 = 0 ∧ State.reset.rf 0xD0008 2 0 = 0 ∧
    (∀ t, (State.reset.tile t).st = .active ∧ (State.reset.tile t).run = none ∧ ∀ c n, ((State.reset.tile t).ctx c).xr n = 0) ∧
    (∀ g c, (State.reset.sec g c).st = .empty) ∧ (∀ k, Sparse.get memD State.reset.mem k = 0) ∧ State.reset.memOk = true ∧ State.reset.pending = [] ∧ State.reset.queueOk = true

/-- R13, R14, R21, R22: a queue whose commands name units of the package is worked off: every step answers a next state, with one command less waiting, and such a queue remains. -/
def Obligations.QueuesAreWorkedOff : Prop :=
  ∀ s : State, s.queueOk = true → ∃ u : State, step s = .next u ∧ u.pending = s.pending.tail ∧ u.queueOk = true

/-- Every step that answers a next state keeps memory in its canonical form: addresses strictly rising, and no byte listed that reads as an unlisted one does. -/
def Obligations.MemoryStaysCanonical : Prop :=
  ∀ s u : State, s.memOk = true → step s = .next u → u.memOk = true

/-- The instructions of a tile with their opcodes (Tables 4.4 and 5.2). -/
def tileOps : List ((Nat → Instr) × Nat) :=
  [ (.nop, 0x00), (.add, 0x01), (.sub, 0x02), (.and, 0x03), (.or, 0x04), (.xor, 0x05), (.sll, 0x06), (.srl, 0x07), (.sra, 0x08), (.mul, 0x09), (.mins, 0x0A),
    (.maxs, 0x0B), (.minu, 0x0C), (.maxu, 0x0D), (.addi, 0x10), (.li, 0x11), (.andi, 0x12), (.ori, 0x13), (.mfs, 0x14), (.ldx, 0x15), (.pcmp, 0x18), (.plog, 0x19),
    (.pcmpi, 0x1A), (.selx, 0x1C), (fun t => .select t .issue, 0x1D), (.mma, 0x20), (.swap, 0x21), (.drain, 0x22), (.fill, 0x23), (.rfu, 0x28),
    (fun t => .push t .issue, 0x40), (fun t => .pop t .issue, 0x41), (fun t => .rcopy t .issue, 0x42), (.strm, 0x48), (fun t => .rearm t .issue, 0x49), (.send, 0x50),
    (fun t => .sendc t .issue, 0x51), (fun t => .recv t .issue, 0x52), (.recvc, 0x53), (fun t => .steer t .issue, 0x54), (.loop, 0x58), (.openAperture, 0x60),
    (.closeAperture, 0x61), (.fence, 0x68), (.endInstr, 0x6F) ]

/-- R124-R127, R161: an instruction executes when p[PS] XOR PN is 1. One that does not takes no effect but the way to the next instruction. Whatever the predicate, a word outside the context's share raises PC_RANGE, an opcode that the tables do not list ILLEGAL_OP, and a second
word beyond the end of a body LOOP_NEST; an executed word with a reserved bit raises ILLEGAL_FIELD. -/
def InstructionsAreGated : Prop :=
  ∀ e ∈ tileOps, ∀ (s : State) (t g c : Nat), s.runs t g c → (s.tile t).u.issue = .running →
    let x := s.tile t
    let y := x.ctx c
    let share (i : Nat) : Prop := y.pc + i < fld y.pstore 28 16
    let w := Sparse.get (fun _ => 0) x.pstore (fld y.pstore 11 0 + y.pc)
    let w2 := Sparse.get (fun _ => 0) x.pstore (fld y.pstore 11 0 + (y.pc + 1))
    let op := fld w 63 56
    let two := op ∈ [0x10, 0x11, 0x12, 0x13, 0x1A, 0x58]
    let runs := xor (y.pr (fld w 55 53)) (bit w 52) = true
    let raises (code : Nat) : Prop := exec (e.1 t) s = .next (s.tileExc t y.pc code)
    let whole := share 0 ∧ op ∈ tileOps.map (·.2) ∧ (two → share 1 ∧ ∀ f, x.u.loops.head? = some f → y.pc + 2 ≤ f.stop)
    y.xr 0 = 0 ∧ y.pr 0 = true ∧ (¬share 0 → raises Exc.pcRange) ∧ (share 0 → op ∉ tileOps.map (·.2) → raises Exc.illegalOp) ∧ (share 0 → two → ¬share 1 → raises Exc.pcRange) ∧
    (∀ f, share 0 → two → share 1 → x.u.loops.head? = some f → f.stop < y.pc + 2 → raises Exc.loopNest) ∧
    (whole → op ≠ e.2 → exec (e.1 t) s = .next s) ∧
    (whole → op = e.2 → ¬runs → ∃ u : State, exec (e.1 t) s = .next u ∧ OnlyTile s u t ∧ OnlyRegs x (u.tile t) c ∧ GoesOn x (u.tile t) c (y.pc + if two then 2 else 1) ∧
      (∀ j, ((u.tile t).ctx c).xr j = y.xr j) ∧ ∀ j, ((u.tile t).ctx c).pr j = y.pr j) ∧
    (whole → op = e.2 → runs → reservedSet w (if two then w2 else 0) = true → raises Exc.illegalField)

/-- R155, R216: an exception of a tile faults the section that it runs: the first fault of the run is noted with its code and its tile, and every tile of the section that runs it stops issuing. A tile that runs no section, or whose sequencer does not run, takes no instruction. -/
def ExceptionsFaultTheSection : Prop :=
  ∀ (s : State) (t g c pc code : Nat),
    (s.runs t g c → (s.sec g c).active = true → (s.sec g c).fault = none →
      let u := s.tileExc t pc code
      (u.sec g c).fault = some ⟨1, code, t⟩ ∧ (∀ j ∈ (s.sec g c).tiles, (s.tile j).run = some (g, c) → (u.tile j).u.issue = .halted ∧ (u.tile j).ctxs = (s.tile j).ctxs) ∧
        (∀ j, j ∉ (s.sec g c).tiles → u.tile j = s.tile j) ∧ ∀ k, k ≠ secKey g c → Sparse.get secD u.secs k = Sparse.get secD s.secs k) ∧
    (s.runs t g c → (s.sec g c).active = false ∨ (s.sec g c).fault ≠ none → s.tileExc t pc code = s) ∧
    ∀ e ∈ tileOps, (tileCount ≤ t → exec (e.1 t) s = .fault (.noSuchUnit "tile")) ∧
      (t < tileCount → (s.tile t).run = none ∨ (s.tile t).u.issue ≠ .running → exec (e.1 t) s = .next s)

/-- R120, R124-R127, R155, R161, R216: which instructions execute, which raise an exception, and what an exception does. -/
def Obligations.InstructionsExecuteOrRaise : Prop := InstructionsAreGated ∧ ExceptionsFaultTheSection

/-- The `n` bytes at `a`, within one block of 4 KiB, can be read for region `g` (or for Cavor itself) as they stand: they lie on this chip, no home table
moves them, no access of a unit is under way, no word is lost, and the checks of Table 10.3 pass. -/
def Readable (s : State) (g : Option Nat) (a n : Nat) : Prop :=
  s.thisChip (gaChip a) = true ∧ 0 < n ∧ a % 4096 + n ≤ 4096 ∧ s.homeBase 0 = 0 ∧ s.homeBase 1 = 0 ∧ s.bad = [] ∧ s.net.unitAns = [] ∧ s.net.busy = [] ∧
    s.net.moves = [] ∧ s.net.ops = [] ∧ s.memCheck (unitReq s 1 a n [] g) = 0

/-- R92, R94, R145: rfuRowRead completes: with the rows of the instruction in front in its rings, room for its results and the lanes free, the row is read, and
the instruction goes on to the next row, or leaves the queue after its last. -/
def RfuRowReadCompletes : Prop :=
  ∀ (s : State) (t g c : Nat) (op : RfuOp) (rest : List RfuOp), s.runs t g c → (s.tile t).u.rfuQ = op :: rest → op.select = false →
    RowIn (s.tile t) c op → drainTakesLanes (s.tile t) c = false →
    ∃ u : State, exec (.rfuRowRead t) s = .next u ∧ (∀ j, j ≠ t → u.tile j = s.tile j) ∧ u.flight = s.flight ∧ u.mem = s.mem ∧
      (op.row + 1 = op.n → (u.tile t).u.rfuQ = rest) ∧
      (op.row + 1 ≠ op.n → ∃ q, (u.tile t).u.rfuQ = q :: rest ∧ q.row = op.row + 1 ∧ q.word = op.word ∧ q.n = op.n)

/-- R172, R173: tokenSend completes: the next 64 bytes of the SEND in front leave on its route, once they lie in the ring and the route has a credit and room; the SEND
goes on, or leaves its queue after its last token. -/
def TokenSendCompletes : Prop :=
  ∀ (s : State) (t g c : Nat) (m : MoveOp) (rest : List MoveOp), s.runs t g c → (s.tile t).u.sendQ = m :: rest → opOf m.word = 0x50 →
    let x := s.tile t
    let ring := fld m.word 51 48
    let route := fld m.word 47 44
    (if bit m.word 38 then 0 else m.done) + 64 ≤ (x.ring c ring).used → (x.ctx c).routeCredit route ≠ 0 → s.linkFull t c route 1 = false →
    ∃ u : State, exec (.tokenSend t) s = .next u ∧ u.mem = s.mem ∧ ((u.tile t).ctx c).route route = routeAfter ((x.ctx c).route route) ∧
      (m.n ≤ m.done + 64 → (u.tile t).u.sendQ = rest) ∧ (m.done + 64 < m.n → (u.tile t).u.sendQ = m.withDone (m.done + 64) :: rest)

/-- R176: recvc completes: with a sound control token at the head of an enabled queue it takes the token and writes the first word of its payload to x[DST]. -/
def RecvcCompletes : Prop :=
  ∀ (s : State) (t g c : Nat) (w w2 : W64) (n : Nat) (k : Token), s.standsAt t g c 0x53 w w2 n →
    (((s.tile t).ctx c).queue (fld w 46 43)).on = true → (((s.tile t).ctx c).queue (fld w 46 43)).head = some k → k.control = true → k.poison = false →
    ∃ u : State, exec (.recvc t) s = .next u ∧ (∀ j, j ≠ t → u.tile j = s.tile j) ∧ u.flight = s.flight ∧ u.mem = s.mem ∧ u.secs = s.secs ∧
      (∀ d, d ≠ c → (u.tile t).ctx d = (s.tile t).ctx d) ∧
      ∀ i, ((u.tile t).ctx c).xr i = if i = fld w 51 47 ∧ i ≠ 0 then BitVec.ofNat 32 (leAt k.payload 0 4) else ((s.tile t).ctx c).xr i

/-- R177, R208: steerPairForm completes: a control and a data token of one sequence number at the heads of the queues of the STEER in front, whose value steers somewhere,
become the pair that STEER passes on. -/
def SteerPairFormCompletes : Prop :=
  ∀ (s : State) (t g c : Nat) (m : MoveOp) (rest : List MoveOp) (k d : Token), s.runs t g c → (s.tile t).u.steerQ = m :: rest → (s.tile t).u.pair = none →
    let y := (s.tile t).ctx c
    (y.queue (fld m.word 51 48)).head = some k → (y.queue (fld m.word 47 44)).head = some d → k.control = true → d.control = false → k.seq = d.seq →
    k.poison = true ∨ SteersTo y m.word (leAt k.payload 0 4) →
    ∃ u : State, exec (.steerPairForm t) s = .next u ∧ (u.tile t).u.pair = some (leAt k.payload 0 4) ∧ (u.tile t).u.steerQ = m :: rest ∧
      (u.tile t).ctxs = (s.tile t).ctxs ∧ (∀ j, j ≠ t → u.tile j = s.tile j) ∧ (u.withTiles s.tiles) = s

/-- R92-R177: the commands rfuRowRead, tokenSend, recvc and steerPairForm answer a next state, with their effect. -/
def Obligations.TileUnitsComplete : Prop := RfuRowReadCompletes ∧ TokenSendCompletes ∧ RecvcCompletes ∧ SteerPairFormCompletes

/-- R350, R351, R354: srvPkgDoorbell, pkgJobStart and pkgJobEnd complete: a descriptor aligned to 64 B joins the list of jobs while that has room; the job in front with a legal
descriptor waits for the first chunk of its chain, or, its package checked, runs as a VERIFY; one that has ended gives way to the next. -/
def PackageJobsComplete : Prop :=
  (∀ (s : State) (v : W64), RegOpen s 0x30510 → fld v 5 0 = 0 → s.pkg.jobs.length < 8 →
    ∃ (u : State) (j : PkgJob), exec (.srvPkgDoorbell v) s = .next u ∧ u.reply = ⟨0, []⟩ ∧ u.pkg.jobs = s.pkg.jobs ++ [j] ∧ j.addr = v.toNat ∧ j.ph = .posted ∧
      u.mem = s.mem) ∧
  (∀ (s : State) (j : PkgJob) (rest : List PkgJob), s.pkg.jobs = j :: rest → j.ph = .posted → j.desc = [] → Readable s none j.addr 64 →
    let d := s.rdMem (gaKey j.addr) 64
    let k := (j.withDesc d |>.withEntry (s.modelEntry (kModel d)) |>.withHeard s.now)
    s.pkgDescOk d = true →
    (kPkg d = 0 → ∃ (u : State) (q : PkgJob), exec .pkgJobStart s = .next u ∧ u.pkg.jobs = q :: rest ∧ q.desc = d ∧ q.ph = .posted ∧ u.mem = s.mem) ∧
    (kPkg d ≠ 0 → kOp d = 2 → Readable s (some (kRegion d)) (kPkg d) 256 →
      let h := s.rdMem (gaKey (kPkg d)) 256
      s.pkgJudge (k.withHeader h) = .ok (0, s) →
      ∃ (u : State) (q : PkgJob), exec .pkgJobStart s = .next u ∧ u.pkg.jobs = q :: rest ∧ q.desc = d ∧ q.header = h ∧ q.ph = .running ∧ u.mem = s.mem)) ∧
  (∀ (s : State) (j : PkgJob) (rest : List PkgJob), s.pkg.jobs = j :: rest → j.ph = .ended →
    ∃ u : State, exec .pkgJobEnd s = .next u ∧ u.pkg.jobs = rest ∧ u.rf 0x30518 47 32 = min (s.rf 0x30518 47 32 + 1) 0xFFFF)

/-- R352, R353, R359: install, verify and pkgSwapLayer complete: an INSTALL of which this chip has no share to copy, and a VERIFY, end by the digest of the package, the model READY or
TORN; a SWAP whose words all read the new GEN makes its model READY and ends. -/
def PackagesComplete : Prop :=
  ∀ (s : State) (j : PkgJob) (rest : List PkgJob), s.pkg.jobs = j :: rest → j.ph = .running → kChain j.desc = false →
    let n := hBytes j.header - 256
    let m := kModel j.desc
    let good := digestOk j.header (s.rdMem (gaKey (kPkg j.desc + 256)) n) = true
    (kOp j.desc = 0 → s.pkgWork j = [] → Readable s (some (kRegion j.desc)) (kPkg j.desc + 256) n → ModelOpen s m →
      (good → ∃ u : State, exec .install s = .next u ∧ FrontEnds u rest 0 ∧ mState (u.modelEntry m) = 2) ∧
      (¬good → ∃ u : State, exec .install s = .next u ∧ FrontEnds u rest St.pkgDigest ∧ mState (u.modelEntry m) = 4)) ∧
    (kOp j.desc = 2 → Readable s (some (kRegion j.desc)) (kPkg j.desc + 256) n →
      (good → ∃ u : State, exec .verify s = .next u ∧ FrontEnds u rest 0 ∧ u.mem = s.mem ∧ u.pkg.verified.getLast? = some (gaKey (kPkg j.desc), slice j.header 64 64)) ∧
      (¬good → ∃ u : State, exec .verify s = .next u ∧ FrontEnds u rest St.pkgDigest ∧ u.mem = s.mem ∧ u.pkg.verified = s.pkg.verified)) ∧
    (kOp j.desc = 1 → (∀ l, l < hLayers j.header → s.genWord j.entry l = hGen j.header) → ModelOpen s m →
      ∃ u : State, exec .pkgSwapLayer s = .next u ∧ FrontEnds u rest 0 ∧ mState (u.modelEntry m) = 2)

/-- R355, R356: chainChunk and chainLost complete: the last chunk of a VERIFY at the end of its chain ends the job by the digest; 2 ms without a chunk end it with CHAIN_LOST. -/
def ChainsComplete : Prop :=
  (∀ (s : State) (j : PkgJob) (rest : List PkgJob) (slot : Nat), s.pkg.jobs = j :: rest → j.ph = .running → kFrom j.desc ≠ 0x3FFF → j.desc ≠ [] →
    j.header ≠ [] → kOp j.desc = 2 → kPkg j.desc = 0 → kNext j.desc = 0x3FFF → j.passing = false → j.bad = 0 →
    let lo := 2 ^ 22 * j.chunk
    let n := hBytes j.header - lo
    let at_ := kStage j.desc + 2 ^ 22 * (j.chunk % kSlots j.desc)
    let bs := s.rdMem (gaKey at_) n
    let q := j |>.withSeen (j.seen ++ bs) |>.withHeard s.now
    Readable s (some (kRegion j.desc)) at_ n → s.chainLate q lo (lo + n) = 0 →
    ∃ u : State, exec (.chainChunk slot) s = .next u ∧ u.mem = s.mem ∧
      FrontEnds u rest (if digestOk j.header (slice (j.seen ++ bs) 256 (hBytes j.header - 256)) then 0 else St.pkgDigest)) ∧
  (∀ (s : State) (j : PkgJob) (rest : List PkgJob), s.pkg.jobs = j :: rest → j.desc ≠ [] → kFrom j.desc ≠ 0x3FFF → j.ph ≠ .ended → j.heard + 8000000 ≤ s.now →
    ∃ u : State, exec .chainLost s = .next u ∧ FrontEnds u rest St.chainLost)

/-- R279: srvVeilPrime and veilPrimed complete: a VALID veil that is not PRIMING becomes PRIMING; primed, with its model READY or SWAPPING and of its model ID, it becomes READY with that
model's generation and the time. -/
def VeilsComplete : Prop :=
  (∀ (s : State) (w : W64), let v := fld w 11 0
    RegOpen s 0x30410 → CavorReaches s (s.veilBase.toNat + 64 * v) 64 → entValid (s.veilEntry v) = true → leAt (s.veilEntry v) 48 1 ≠ 1 →
    ∃ u : State, exec (.srvVeilPrime w) s = .next u ∧ u.reply.status = 0 ∧ leAt (u.veilEntry v) 48 1 = 1 ∧ u.regs = s.regs ∧ u.tiles = s.tiles) ∧
  (∀ (s : State) (v m : Nat), CavorReaches s (s.veilBase.toNat + 64 * v) 64 → leAt (s.veilEntry v) 48 1 = 1 → entValid (s.modelEntry m) = true →
    leAt (s.modelEntry m) 4 4 = leAt (s.veilEntry v) 4 4 → mState (s.modelEntry m) = 2 ∨ mState (s.modelEntry m) = 3 →
    ∃ u : State, exec (.veilPrimed v m true) s = .next u ∧ slice (u.veilEntry v) 48 1 = [2] ∧ slice (u.veilEntry v) 8 4 = slice (s.modelEntry m) 8 4 ∧
      slice (u.veilEntry v) 52 8 = toLe 8 s.now ∧ u.regs = s.regs ∧ u.tiles = s.tiles)

/-- R266, R274, R275: tintJobStart, tintTrigger, tintCacheFill and tintRecordWrite complete: a job with a trigger waits for it; triggered, with no token that names an adapter, it runs; a
missed line is fetched; a record whose map entry is 0 is passed over, and another one is delivered. -/
def TintJobsComplete : Prop :=
  ∀ (s : State) (n : Nat) (net : List NetAns) (j : TintJob) (rest : List TintJob), n < 16 → (s.tintU n).jobs = j :: rest →
    let d := j.desc
    let g := some (leAt d 36 1 / 16)
    (j.st = .posted → Readable s none j.addr 64 →
      let d' := s.rdMem (gaKey j.addr) 64
      s.tintDescOk d' = true → leAt d' 36 1 % 4 ≠ 0 →
      ∃ (u : State) (q : TintJob), exec (.tintJobStart n net) s = .next u ∧ (u.tintU n).jobs = q :: rest ∧ q.desc = d' ∧ q.st = .waiting ∧ u.mem = s.mem) ∧
    (j.st = .waiting → leAt d 36 1 % 4 = 1 →
      let e := Sparse.get (fun _ => SecDone.init) s.done (secKey (leAt d 36 1 / 16) (leAt d 37 1 % 8))
      j.since < e.serial → e.epoch = leAt d 40 4 → e.status = 0 → Readable s g (leAt d 20 8) (4 * leAt d 8 2) →
      (∀ t, t < leAt d 8 2 → s.rdLe (gaKey (leAt d 20 8) + 4 * t) 4 / 2 ^ 16 % 2 = 0) →
      ∃ (u : State) (q : TintJob), exec (.tintTrigger n net) s = .next u ∧ (u.tintU n).jobs = q :: rest ∧ q.desc = d ∧ q.st = .running ∧ q.todo = [] ∧ u.mem = s.mem) ∧
    (∀ i a e, j.st = .running → j.ents.find? (fun x => x.1 == i) = some e → j.todo = [(i, a)] → s.pkg.placed = [] → Readable s g a 4096 →
      (∀ l ∈ (s.tintU n).lines, l.is i (leAt e.2 1 1) a = false) →
      ∃ (u : State) (q : TintJob), exec (.tintCacheFill n net) s = .next u ∧ (u.tintU n).jobs = q :: rest ∧ q.todo = [] ∧ q.misses = j.misses + 1 ∧
        q.facts = j.facts ++ [(i, a, s.rdMem (gaKey a) 4096)] ∧ u.mem = s.mem) ∧
    (j.st = .running → j.todo = [] → j.next < recCount d → j.recs.length < 16 → Readable s g (leAt d 28 8 + 8 * j.next) 8 →
      let addr := s.rdLe (gaKey (leAt d 28 8 + 8 * j.next)) 8
      (addr = 0 → exec (.tintRecordWrite n net) s = .next (s.setTintJob n (j.withNext (j.next + 1)))) ∧
      (∀ rows, addr ≠ 0 → j.recs = [] → gaSpace addr = 0 → s.thisChip (gaChip addr) = true → s.recordRows net j j.next = .ok (0, rows, s) →
        let p := s.apertureWrite ⟨s.partition (leAt d 36 1 / 16), s.myChip, none⟩ (gaOff addr) (recordBytes j j.next rows).1
        p.1 = 0 → ∃ (u : State) (q : TintJob), exec (.tintRecordWrite n net) s = .next u ∧ u = p.2.setTintJob n q ∧ q.next = j.next + 1 ∧ q.recs = []))

/-- R306, R328, R410, R411: copyJobEnd, moveJobStart, fenceFlagPoll and signal complete: a plain copy within blocks of 4 KiB has written its bytes; a move whose checks pass begins at its
destination; a FENCE whose flag holds, with nothing that it waits for, and a SIGNAL, its 8 bytes written, are done. -/
def OperationsComplete : Prop :=
  (∀ (s : State) (net : List NetAns) (j : CopyJob) (rest : List CopyJob), s.net.copies = j :: rest → Readable s none j.addr 32 →
    let d := s.rdMem (gaKey j.addr) 32
    let src := leAt d 0 8
    let dst := leAt d 8 8
    let n := leAt d 16 8
    s.copyBad d = false → s.copyAddr d = 0 → leAt d 24 1 = 0 → Readable s (copyFor d) src n → s.thisChip (gaChip dst) = true → dst % 4096 + n ≤ 4096 →
    s.memCheck (unitReq s 2 dst n (s.rdMem (gaKey src) n) (copyFor d)) = 0 →
    ∃ x : State, exec (.copyJobEnd net) s = .next (x.endCopy (leAt d 28 4) 0 n) ∧ x.rdMem (gaKey dst) n = s.rdMem (gaKey src) n ∧ x.net.copies = j :: rest ∧
      x.tiles = s.tiles ∧ ∀ a, a < gaKey dst ∨ gaKey dst + n ≤ a → x.rdMem a 1 = s.rdMem a 1) ∧
  (∀ (s : State) (slot : Nat) (j : MoveJob) (d : List Byte), s.moveJob slot = some j → j.slot = slot → j.ph = .posted →
    s.unitRead [] j.addr 32 none = .ok (0, d, s) → s.moveCheck d = 0 → s.thisChip (gaChip (mDst d)) = true →
    s.beginStatus (mDst d) (s.partition (mRegion d)) none = 0 →
    ∃ u : State, exec (.moveJobStart slot) s = .next u ∧ u.moveJob slot = some ((j.withDesc d).withPh .beginning) ∧
      (gaTier (mDst d), gaGranule (mDst d)) ∈ u.net.cut) ∧
  (∀ (s : State) (g c : Nat) (r : CmdRun), Doing s g c 0x06 r → leAt r.bytes 24 1 ≠ 0 → Readable s (some g) (leAt r.bytes 8 8) 8 →
    let v := s.rdLe (gaKey (leAt r.bytes 8 8)) 8
    (if leAt r.bytes 24 1 = 1 then v = leAt r.bytes 16 8 else leAt r.bytes 16 8 ≤ v) → (s.sec g c).active = false → (s.cmdq g c).dispatches = [] →
    exec (.fenceFlagPoll g c) s = .next (s.completeCmd g c 0)) ∧
  (∀ (s : State) (g c : Nat) (r : CmdRun), Doing s g c 0x07 r → let a := leAt r.bytes 8 8
    a ≠ 0 → 1 ≤ gaSpace a → gaSpace a ≤ 3 → Readable s (some g) a 8 → s.memCheck (unitReq s 2 a 8 (slice r.bytes 16 8) (some g)) = 0 → leAt r.bytes 24 1 = 0xFF →
    ∃ x : State, exec (.signal g c) s = .next (x.completeCmd g c 0) ∧ x.rdMem (gaKey a) 8 = slice r.bytes 16 8 ∧ x.regs = s.regs ∧ x.tiles = s.tiles ∧
      ∀ k, k < gaKey a ∨ gaKey a + 8 ≤ k → x.rdMem k 1 = s.rdMem k 1)

/-- R266-R411: the commands of package, veil, tint, copy, move, fence and signal units answer a next state, with their effect. -/
def Obligations.UnitCommandsComplete : Prop :=
  PackageJobsComplete ∧ PackagesComplete ∧ ChainsComplete ∧ VeilsComplete ∧ TintJobsComplete ∧ OperationsComplete

/-- Scalar instructions write their 32-bit results to x[DST] and leave everything else alone (R125, R129). -/
def Obligations.ScalarInstructionsWriteResults : Prop := ScalarRegisterResults ∧ ScalarImmediateResults ∧ SelxResults

/-- MFS, LDX and NOP, and the predicates that PCMP, PCMPI and PLOG write (R127, R130, R131, R132). -/
def Obligations.SpecialValuesAndPredicates : Prop := SpecialValuesAndLoads ∧ PredicateResults

/-- MMA, RFU, SELECT, SWAP, DRAIN, FILL, STRM and REARM enter the queues of their units (R133, R136, R145, R152). -/
def Obligations.EngineInstructionsQueue : Prop := MmaQueues ∧ RowInstructionsQueue ∧ AccumulatorAndStreamInstructionsQueue

/-- Rings append and pop, and PUSH, POP and RCOPY at the head of the ring queue (R102, R158, R162, R164). -/
def Obligations.RingsMoveBytes : Prop := RingsAppendAndPop ∧ RingInstructionsMoveBytes

/-- SEND, SENDC, RECV, RECVC and STEER move tokens (R25, R172, R173, R174, R176, R177, R202, R208). -/
def Obligations.TokensLeaveAndAreTaken : Prop := TokensLeave ∧ TokensAreTaken ∧ SteerPassesPairs

/-- Tokens and credits of a route arrive (R25, R176, R201, R203, R207, R537). -/
def Obligations.TokensArrive : Prop := TokensArriveInOrder ∧ CreditsReturn

/-- LOOP, OPEN_APERTURE, CLOSE_APERTURE, FENCE and END (R179, R181, R183, R186, R187, R198, R215). -/
def Obligations.LoopsAperturesFencesAndEnd : Prop := LoopsEnterTheirBody ∧ ApertureFenceEnd ∧ EndIsReported

/-- An MMA meets its live set at its first read, and accumulates block by block (R57, R74, R79, R83, R84, R137, R138, R139). -/
def Obligations.MmasAccumulate : Prop := MmaFirstReads ∧ MmaBlocksAccumulate

/-- SWAP, DRAIN and FILL at the head of the accumulator control queue (R82, R83, R142, R144). -/
def Obligations.AccumulatorSetsChange : Prop := SwapExchangesTheSets ∧ DrainAndFillStart

/-- A drain reads out its arrays, and a fill writes them (R80, R82, R85, R89, R91, R93). -/
def Obligations.DrainsAndFillsMoveElements : Prop := DrainReadsOut ∧ FillWritesArrays

/-- RFU rows, and SELECT (R92, R94, R97, R145, R151, R152). -/
def Obligations.RowsAreReadAndSelected : Prop := RfuReadsRows ∧ SelectCopiesTheChosenRing

/-- Pieces of a stream are issued, and REARM moves its base (R166, R168, R170, R307, R309). -/
def Obligations.StreamPiecesIssueAndRearm : Prop := StreamPiecesIssue ∧ RearmMovesTheBase

/-- Pieces of a stream end, or are issued again (R158, R167, R169, R171, R300, R308, R325, R331). -/
def Obligations.StreamPiecesReturn : Prop := StreamPiecesEnd ∧ BusyPiecesAreReissued

/-- Writes of a tile's window and writes through its apertures (R15, R34, R69, R105, R107, R109, R592). -/
def Obligations.TileWindowsTakeWrites : Prop := TileWindowWrites ∧ ApertureWritesLand

/-- Tiles park, and become dark (R113, R114, R115, R217, R539, R548). -/
def Obligations.TilesParkAndDarken : Prop := TilesPark ∧ TilesThatFailBecomeDark

/-- LOAD_SECTION is judged, and what a load leaves (R195, R196, R198, R211, R349). -/
def Obligations.SectionsLoad : Prop := LoadsAreJudged ∧ LoadedSectionsHoldTheirImage

/-- START_SECTION is judged; sections start, end and fault (R110, R121, R155, R170, R212, R214, R216, R349, R408). -/
def Obligations.SectionsRunAndEnd : Prop := StartsAreChecked ∧ SectionsStartAndEnd

/-- Spilled tokens keep their order, and a watchdog fires (R218, R219, R222). -/
def Obligations.SpillsAndWatchdogs : Prop := SpilledTokensKeepTheirOrder ∧ WatchdogFires

/-- Commands of a queue are taken in order and complete (R404, R406, R407, R420). -/
def Obligations.CommandQueuesRunInOrder : Prop := CommandsAreTakenInOrder ∧ CommandsComplete

/-- Command lists are held, resumed and flushed; SET_LENGTH and REARM (R121, R170, R404, R406, R407, R409). -/
def Obligations.CommandListsAndLengths : Prop := ListsAreHeld ∧ LengthsAndBasesAreRecorded

/-- FENCE, SIGNAL, TABLE_SYNC and DISPATCH (R410, R411, R412). -/
def Obligations.FencesSignalsAndDispatches : Prop := FencesAndSignals ∧ DispatchesDeliverLists

/-- Prism jobs (R241, R243, R244, R246, R248, R249, R252, R259). -/
def Obligations.PrismJobsRun : Prop := PrismJobsStartInOrder ∧ PrismKeepsCapacities ∧ PrismJobsEnd

/-- Tint jobs start (R263, R265, R266, R275). -/
def Obligations.TintJobsAreStarted : Prop := TintJobsStartInOrder ∧ TintJobsBegin

/-- Tint factors are cached, and records delivered (R261, R262, R267, R274, R275, R277). -/
def Obligations.TintsAreDelivered : Prop := TintFactorsAreCached ∧ TintRecordsAreDelivered

/-- Memory reads back what is written, and performs reads, writes and atomics (R12, R284, R292, R293, R337, R533, R534, R541). -/
def Obligations.MemoryAnswersRequests : Prop := MemoryHoldsWhatIsWritten ∧ MemoryRequestsAct ∧ LostWordsReadAsErrors

/-- Requests and carve-outs are judged (R285, R292, R294, R295, R297, R327). -/
def Obligations.MemoryRequestsAreJudged : Prop := MemoryRequestsAreChecked ∧ CarveOutsAreJudged

/-- Requests for other chips leave, and copy jobs run (R293, R306, R308). -/
def Obligations.RemoteRequestsAndCopies : Prop := RequestsOfOtherChipsLeave ∧ CopyJobsRun

/-- Home table entries and the commands on them (R320, R322, R323, R324, R334, R336, R341, R343). -/
def Obligations.HomeTablesAreHeld : Prop := HomeEntriesReadBack ∧ HomeCommandsAct

/-- A move begins, copies, flips and settles (R324, R326, R328, R330, R333, R335, R340). -/
def Obligations.GranulesMove : Prop := MovesBegin ∧ MovesCopyAndFlip ∧ HomesSettle
end

