-- ==== Sys2Proof/Laws/Fields.lean ====
section
/-! SUPPORT. What each field of the smaller records holds after a single-field update: one lemma for each update. -/
namespace Sys2Proof.Machine

@[simp] theorem AccSet.withRowMask_fields (x : AccSet) (v : W64) :
    (x.withRowMask v).unfilled = x.unfilled ∧ (x.withRowMask v).int = x.int ∧ (x.withRowMask v).sharedA = x.sharedA
    ∧ (x.withRowMask v).rowMask = v ∧ (x.withRowMask v).colMask = x.colMask ∧ (x.withRowMask v).vals = x.vals := by
  repeat' apply And.intro
  all_goals rfl
@[simp] theorem AccSet.withColMask_fields (x : AccSet) (v : W64) :
    (x.withColMask v).unfilled = x.unfilled ∧ (x.withColMask v).int = x.int ∧ (x.withColMask v).sharedA = x.sharedA
    ∧ (x.withColMask v).rowMask = x.rowMask ∧ (x.withColMask v).colMask = v ∧ (x.withColMask v).vals = x.vals := by
  repeat' apply And.intro
  all_goals rfl
@[simp] theorem AccSet.withVals_fields (x : AccSet) (v : List W32) :
    (x.withVals v).unfilled = x.unfilled ∧ (x.withVals v).int = x.int ∧ (x.withVals v).sharedA = x.sharedA
    ∧ (x.withVals v).rowMask = x.rowMask ∧ (x.withVals v).colMask = x.colMask ∧ (x.withVals v).vals = v := by
  repeat' apply And.intro
  all_goals rfl
@[simp] theorem Ans.withLoc_fields (x : Ans) (v : Nat) :
    (x.withLoc v).status = x.status ∧ (x.withLoc v).data = x.data ∧ (x.withLoc v).loc = v ∧ (x.withLoc v).fwd = x.fwd := by
  repeat' apply And.intro
  all_goals rfl
@[simp] theorem Ans.withFwd_fields (x : Ans) (v : Bool) :
    (x.withFwd v).status = x.status ∧ (x.withFwd v).data = x.data ∧ (x.withFwd v).loc = x.loc ∧ (x.withFwd v).fwd = v := by
  repeat' apply And.intro
  all_goals rfl
@[simp] theorem Aperture.withWin_fields (x : Aperture) (v : W64) :
    (x.withWin v).win = v ∧ (x.withWin v).src = x.src ∧ (x.withWin v).ctl = x.ctl := by
  repeat' apply And.intro
  all_goals rfl
@[simp] theorem Aperture.withSrc_fields (x : Aperture) (v : W64) :
    (x.withSrc v).win = x.win ∧ (x.withSrc v).src = v ∧ (x.withSrc v).ctl = x.ctl := by
  repeat' apply And.intro
  all_goals rfl
@[simp] theorem Aperture.withCtl_fields (x : Aperture) (v : W64) :
    (x.withCtl v).win = x.win ∧ (x.withCtl v).src = x.src ∧ (x.withCtl v).ctl = v := by
  repeat' apply And.intro
  all_goals rfl
@[simp] theorem Binding.withBase_fields (x : Binding) (v : Nat) :
    (x.withBase v).bound = x.bound ∧ (x.withBase v).rd = x.rd ∧ (x.withBase v).wr = x.wr ∧ (x.withBase v).desc = x.desc
    ∧ (x.withBase v).base = v ∧ (x.withBase v).extent = x.extent := by
  repeat' apply And.intro
  all_goals rfl
@[simp] theorem BootSt.withPh_fields (x : BootSt) (v : BootPh) :
    (x.withPh v).ph = v ∧ (x.withPh v).opened = x.opened ∧ (x.withPh v).total = x.total ∧ (x.withPh v).units = x.units
    ∧ (x.withPh v).reset = x.reset ∧ (x.withPh v).due = x.due ∧ (x.withPh v).settle = x.settle := by
  repeat' apply And.intro
  all_goals rfl
@[simp] theorem BootSt.withOpened_fields (x : BootSt) (v : Bool) :
    (x.withOpened v).ph = x.ph ∧ (x.withOpened v).opened = v ∧ (x.withOpened v).total = x.total ∧ (x.withOpened v).units = x.units
    ∧ (x.withOpened v).reset = x.reset ∧ (x.withOpened v).due = x.due ∧ (x.withOpened v).settle = x.settle := by
  repeat' apply And.intro
  all_goals rfl
@[simp] theorem BootSt.withTotal_fields (x : BootSt) (v : Option Nat) :
    (x.withTotal v).ph = x.ph ∧ (x.withTotal v).opened = x.opened ∧ (x.withTotal v).total = v ∧ (x.withTotal v).units = x.units
    ∧ (x.withTotal v).reset = x.reset ∧ (x.withTotal v).due = x.due ∧ (x.withTotal v).settle = x.settle := by
  repeat' apply And.intro
  all_goals rfl
@[simp] theorem BootSt.withUnits_fields (x : BootSt) (v : List (Nat × Nat)) :
    (x.withUnits v).ph = x.ph ∧ (x.withUnits v).opened = x.opened ∧ (x.withUnits v).total = x.total ∧ (x.withUnits v).units = v
    ∧ (x.withUnits v).reset = x.reset ∧ (x.withUnits v).due = x.due ∧ (x.withUnits v).settle = x.settle := by
  repeat' apply And.intro
  all_goals rfl
@[simp] theorem BootSt.withReset_fields (x : BootSt) (v : Option (Bool × Nat)) :
    (x.withReset v).ph = x.ph ∧ (x.withReset v).opened = x.opened ∧ (x.withReset v).total = x.total ∧ (x.withReset v).units = x.units
    ∧ (x.withReset v).reset = v ∧ (x.withReset v).due = x.due ∧ (x.withReset v).settle = x.settle := by
  repeat' apply And.intro
  all_goals rfl
@[simp] theorem BootSt.withDue_fields (x : BootSt) (v : Nat) :
    (x.withDue v).ph = x.ph ∧ (x.withDue v).opened = x.opened ∧ (x.withDue v).total = x.total ∧ (x.withDue v).units = x.units
    ∧ (x.withDue v).reset = x.reset ∧ (x.withDue v).due = v ∧ (x.withDue v).settle = x.settle := by
  repeat' apply And.intro
  all_goals rfl
@[simp] theorem BootSt.withSettle_fields (x : BootSt) (v : Bool) :
    (x.withSettle v).ph = x.ph ∧ (x.withSettle v).opened = x.opened ∧ (x.withSettle v).total = x.total ∧ (x.withSettle v).units = x.units
    ∧ (x.withSettle v).reset = x.reset ∧ (x.withSettle v).due = x.due ∧ (x.withSettle v).settle = v := by
  repeat' apply And.intro
  all_goals rfl
@[simp] theorem Chunk.withCount_fields (x : Chunk) (v : Nat) :
    (x.withCount v).seq = x.seq ∧ (x.withCount v).count = v := by
  repeat' apply And.intro
  all_goals rfl
@[simp] theorem CmdList.withNext_fields (x : CmdList) (v : Nat) :
    (x.withNext v).off = x.off ∧ (x.withNext v).count = x.count ∧ (x.withNext v).next = v ∧ (x.withNext v).inline = x.inline := by
  repeat' apply And.intro
  all_goals rfl
@[simp] theorem CmdQ.withLists_fields (x : CmdQ) (v : List CmdList) :
    (x.withLists v).lists = v ∧ (x.withLists v).stopped = x.stopped ∧ (x.withLists v).cmd = x.cmd ∧ (x.withLists v).flush = x.flush
    ∧ (x.withLists v).dispatches = x.dispatches := by
  repeat' apply And.intro
  all_goals rfl
@[simp] theorem CmdQ.withStopped_fields (x : CmdQ) (v : Bool) :
    (x.withStopped v).lists = x.lists ∧ (x.withStopped v).stopped = v ∧ (x.withStopped v).cmd = x.cmd ∧ (x.withStopped v).flush = x.flush
    ∧ (x.withStopped v).dispatches = x.dispatches := by
  repeat' apply And.intro
  all_goals rfl
@[simp] theorem CmdQ.withCmd_fields (x : CmdQ) (v : Option CmdRun) :
    (x.withCmd v).lists = x.lists ∧ (x.withCmd v).stopped = x.stopped ∧ (x.withCmd v).cmd = v ∧ (x.withCmd v).flush = x.flush
    ∧ (x.withCmd v).dispatches = x.dispatches := by
  repeat' apply And.intro
  all_goals rfl
@[simp] theorem CmdQ.withFlush_fields (x : CmdQ) (v : Bool) :
    (x.withFlush v).lists = x.lists ∧ (x.withFlush v).stopped = x.stopped ∧ (x.withFlush v).cmd = x.cmd ∧ (x.withFlush v).flush = v
    ∧ (x.withFlush v).dispatches = x.dispatches := by
  repeat' apply And.intro
  all_goals rfl
@[simp] theorem CmdQ.withDispatches_fields (x : CmdQ) (v : List DispRun) :
    (x.withDispatches v).lists = x.lists ∧ (x.withDispatches v).stopped = x.stopped ∧ (x.withDispatches v).cmd = x.cmd
    ∧ (x.withDispatches v).flush = x.flush ∧ (x.withDispatches v).dispatches = v := by
  repeat' apply And.intro
  all_goals rfl
@[simp] theorem CmdRun.withWaits_fields (x : CmdRun) (v : Bool) :
    (x.withWaits v).bytes = x.bytes ∧ (x.withWaits v).idx = x.idx ∧ (x.withWaits v).waits = v := by
  repeat' apply And.intro
  all_goals rfl
@[simp] theorem CopyJob.withSent_fields (x : CopyJob) (v : Bool) :
    (x.withSent v).addr = x.addr ∧ (x.withSent v).sent = v ∧ (x.withSent v).lost = x.lost := by
  repeat' apply And.intro
  all_goals rfl
@[simp] theorem CopyJob.withLost_fields (x : CopyJob) (v : Bool) :
    (x.withLost v).addr = x.addr ∧ (x.withLost v).sent = x.sent ∧ (x.withLost v).lost = v := by
  repeat' apply And.intro
  all_goals rfl
@[simp] theorem DrainRun.withNext_fields (x : DrainRun) (v : Nat) :
    (x.withNext v).set = x.set ∧ (x.withNext v).word = x.word ∧ (x.withNext v).pc = x.pc ∧ (x.withNext v).next = v
    ∧ (x.withNext v).resv = x.resv ∧ (x.withNext v).num = x.num := by
  repeat' apply And.intro
  all_goals rfl
@[simp] theorem DrainRun.withResv_fields (x : DrainRun) (v : Option Nat) :
    (x.withResv v).set = x.set ∧ (x.withResv v).word = x.word ∧ (x.withResv v).pc = x.pc ∧ (x.withResv v).next = x.next
    ∧ (x.withResv v).resv = v ∧ (x.withResv v).num = x.num := by
  repeat' apply And.intro
  all_goals rfl
@[simp] theorem Echo.withEnded_fields (x : Echo) (v : Option Nat) :
    (x.withEnded v).tenant = x.tenant ∧ (x.withEnded v).id = x.id ∧ (x.withEnded v).seq = x.seq ∧ (x.withEnded v).gen = x.gen
    ∧ (x.withEnded v).ended = v := by
  repeat' apply And.intro
  all_goals rfl
@[simp] theorem EfnOut.withReplays_fields (x : EfnOut) (v : Nat) :
    (x.withReplays v).lseq = x.lseq ∧ (x.withReplays v).replays = v ∧ (x.withReplays v).bytes = x.bytes := by
  repeat' apply And.intro
  all_goals rfl
@[simp] theorem EfnSt.withRxNext_fields (x : EfnSt) (v : Nat) :
    (x.withRxNext v).rxNext = v ∧ (x.withRxNext v).nak = x.nak ∧ (x.withRxNext v).txNext = x.txNext ∧ (x.withRxNext v).replay = x.replay
    ∧ (x.withRxNext v).wait = x.wait ∧ (x.withRxNext v).evCred = x.evCred ∧ (x.withRxNext v).ctlCred = x.ctlCred
    ∧ (x.withRxNext v).bulkCred = x.bulkCred ∧ (x.withRxNext v).dueCtl = x.dueCtl ∧ (x.withRxNext v).dueBulk = x.dueBulk
    ∧ (x.withRxNext v).ackDue = x.ackDue ∧ (x.withRxNext v).since = x.since ∧ (x.withRxNext v).dark = x.dark
    ∧ (x.withRxNext v).record = x.record ∧ (x.withRxNext v).opened = x.opened ∧ (x.withRxNext v).sent = x.sent := by
  repeat' apply And.intro
  all_goals rfl
@[simp] theorem EfnSt.withNak_fields (x : EfnSt) (v : Bool) :
    (x.withNak v).rxNext = x.rxNext ∧ (x.withNak v).nak = v ∧ (x.withNak v).txNext = x.txNext ∧ (x.withNak v).replay = x.replay
    ∧ (x.withNak v).wait = x.wait ∧ (x.withNak v).evCred = x.evCred ∧ (x.withNak v).ctlCred = x.ctlCred ∧ (x.withNak v).bulkCred = x.bulkCred
    ∧ (x.withNak v).dueCtl = x.dueCtl ∧ (x.withNak v).dueBulk = x.dueBulk ∧ (x.withNak v).ackDue = x.ackDue ∧ (x.withNak v).since = x.since
    ∧ (x.withNak v).dark = x.dark ∧ (x.withNak v).record = x.record ∧ (x.withNak v).opened = x.opened ∧ (x.withNak v).sent = x.sent := by
  repeat' apply And.intro
  all_goals rfl
@[simp] theorem EfnSt.withTxNext_fields (x : EfnSt) (v : Nat) :
    (x.withTxNext v).rxNext = x.rxNext ∧ (x.withTxNext v).nak = x.nak ∧ (x.withTxNext v).txNext = v ∧ (x.withTxNext v).replay = x.replay
    ∧ (x.withTxNext v).wait = x.wait ∧ (x.withTxNext v).evCred = x.evCred ∧ (x.withTxNext v).ctlCred = x.ctlCred
    ∧ (x.withTxNext v).bulkCred = x.bulkCred ∧ (x.withTxNext v).dueCtl = x.dueCtl ∧ (x.withTxNext v).dueBulk = x.dueBulk
    ∧ (x.withTxNext v).ackDue = x.ackDue ∧ (x.withTxNext v).since = x.since ∧ (x.withTxNext v).dark = x.dark
    ∧ (x.withTxNext v).record = x.record ∧ (x.withTxNext v).opened = x.opened ∧ (x.withTxNext v).sent = x.sent := by
  repeat' apply And.intro
  all_goals rfl
@[simp] theorem EfnSt.withReplay_fields (x : EfnSt) (v : List EfnOut) :
    (x.withReplay v).rxNext = x.rxNext ∧ (x.withReplay v).nak = x.nak ∧ (x.withReplay v).txNext = x.txNext ∧ (x.withReplay v).replay = v
    ∧ (x.withReplay v).wait = x.wait ∧ (x.withReplay v).evCred = x.evCred ∧ (x.withReplay v).ctlCred = x.ctlCred
    ∧ (x.withReplay v).bulkCred = x.bulkCred ∧ (x.withReplay v).dueCtl = x.dueCtl ∧ (x.withReplay v).dueBulk = x.dueBulk
    ∧ (x.withReplay v).ackDue = x.ackDue ∧ (x.withReplay v).since = x.since ∧ (x.withReplay v).dark = x.dark
    ∧ (x.withReplay v).record = x.record ∧ (x.withReplay v).opened = x.opened ∧ (x.withReplay v).sent = x.sent := by
  repeat' apply And.intro
  all_goals rfl
@[simp] theorem EfnSt.withWait_fields (x : EfnSt) (v : List (List Byte)) :
    (x.withWait v).rxNext = x.rxNext ∧ (x.withWait v).nak = x.nak ∧ (x.withWait v).txNext = x.txNext ∧ (x.withWait v).replay = x.replay
    ∧ (x.withWait v).wait = v ∧ (x.withWait v).evCred = x.evCred ∧ (x.withWait v).ctlCred = x.ctlCred ∧ (x.withWait v).bulkCred = x.bulkCred
    ∧ (x.withWait v).dueCtl = x.dueCtl ∧ (x.withWait v).dueBulk = x.dueBulk ∧ (x.withWait v).ackDue = x.ackDue
    ∧ (x.withWait v).since = x.since ∧ (x.withWait v).dark = x.dark ∧ (x.withWait v).record = x.record ∧ (x.withWait v).opened = x.opened
    ∧ (x.withWait v).sent = x.sent := by
  repeat' apply And.intro
  all_goals rfl
@[simp] theorem EfnSt.withEvCred_fields (x : EfnSt) (v : Nat) :
    (x.withEvCred v).rxNext = x.rxNext ∧ (x.withEvCred v).nak = x.nak ∧ (x.withEvCred v).txNext = x.txNext
    ∧ (x.withEvCred v).replay = x.replay ∧ (x.withEvCred v).wait = x.wait ∧ (x.withEvCred v).evCred = v
    ∧ (x.withEvCred v).ctlCred = x.ctlCred ∧ (x.withEvCred v).bulkCred = x.bulkCred ∧ (x.withEvCred v).dueCtl = x.dueCtl
    ∧ (x.withEvCred v).dueBulk = x.dueBulk ∧ (x.withEvCred v).ackDue = x.ackDue ∧ (x.withEvCred v).since = x.since
    ∧ (x.withEvCred v).dark = x.dark ∧ (x.withEvCred v).record = x.record ∧ (x.withEvCred v).opened = x.opened
    ∧ (x.withEvCred v).sent = x.sent := by
  repeat' apply And.intro
  all_goals rfl
@[simp] theorem EfnSt.withCtlCred_fields (x : EfnSt) (v : Nat) :
    (x.withCtlCred v).rxNext = x.rxNext ∧ (x.withCtlCred v).nak = x.nak ∧ (x.withCtlCred v).txNext = x.txNext
    ∧ (x.withCtlCred v).replay = x.replay ∧ (x.withCtlCred v).wait = x.wait ∧ (x.withCtlCred v).evCred = x.evCred
    ∧ (x.withCtlCred v).ctlCred = v ∧ (x.withCtlCred v).bulkCred = x.bulkCred ∧ (x.withCtlCred v).dueCtl = x.dueCtl
    ∧ (x.withCtlCred v).dueBulk = x.dueBulk ∧ (x.withCtlCred v).ackDue = x.ackDue ∧ (x.withCtlCred v).since = x.since
    ∧ (x.withCtlCred v).dark = x.dark ∧ (x.withCtlCred v).record = x.record ∧ (x.withCtlCred v).opened = x.opened
    ∧ (x.withCtlCred v).sent = x.sent := by
  repeat' apply And.intro
  all_goals rfl
@[simp] theorem EfnSt.withBulkCred_fields (x : EfnSt) (v : Nat) :
    (x.withBulkCred v).rxNext = x.rxNext ∧ (x.withBulkCred v).nak = x.nak ∧ (x.withBulkCred v).txNext = x.txNext
    ∧ (x.withBulkCred v).replay = x.replay ∧ (x.withBulkCred v).wait = x.wait ∧ (x.withBulkCred v).evCred = x.evCred
    ∧ (x.withBulkCred v).ctlCred = x.ctlCred ∧ (x.withBulkCred v).bulkCred = v ∧ (x.withBulkCred v).dueCtl = x.dueCtl
    ∧ (x.withBulkCred v).dueBulk = x.dueBulk ∧ (x.withBulkCred v).ackDue = x.ackDue ∧ (x.withBulkCred v).since = x.since
    ∧ (x.withBulkCred v).dark = x.dark ∧ (x.withBulkCred v).record = x.record ∧ (x.withBulkCred v).opened = x.opened
    ∧ (x.withBulkCred v).sent = x.sent := by
  repeat' apply And.intro
  all_goals rfl
@[simp] theorem EfnSt.withDueCtl_fields (x : EfnSt) (v : Nat) :
    (x.withDueCtl v).rxNext = x.rxNext ∧ (x.withDueCtl v).nak = x.nak ∧ (x.withDueCtl v).txNext = x.txNext
    ∧ (x.withDueCtl v).replay = x.replay ∧ (x.withDueCtl v).wait = x.wait ∧ (x.withDueCtl v).evCred = x.evCred
    ∧ (x.withDueCtl v).ctlCred = x.ctlCred ∧ (x.withDueCtl v).bulkCred = x.bulkCred ∧ (x.withDueCtl v).dueCtl = v
    ∧ (x.withDueCtl v).dueBulk = x.dueBulk ∧ (x.withDueCtl v).ackDue = x.ackDue ∧ (x.withDueCtl v).since = x.since
    ∧ (x.withDueCtl v).dark = x.dark ∧ (x.withDueCtl v).record = x.record ∧ (x.withDueCtl v).opened = x.opened
    ∧ (x.withDueCtl v).sent = x.sent := by
  repeat' apply And.intro
  all_goals rfl
@[simp] theorem EfnSt.withDueBulk_fields (x : EfnSt) (v : Nat) :
    (x.withDueBulk v).rxNext = x.rxNext ∧ (x.withDueBulk v).nak = x.nak ∧ (x.withDueBulk v).txNext = x.txNext
    ∧ (x.withDueBulk v).replay = x.replay ∧ (x.withDueBulk v).wait = x.wait ∧ (x.withDueBulk v).evCred = x.evCred
    ∧ (x.withDueBulk v).ctlCred = x.ctlCred ∧ (x.withDueBulk v).bulkCred = x.bulkCred ∧ (x.withDueBulk v).dueCtl = x.dueCtl
    ∧ (x.withDueBulk v).dueBulk = v ∧ (x.withDueBulk v).ackDue = x.ackDue ∧ (x.withDueBulk v).since = x.since
    ∧ (x.withDueBulk v).dark = x.dark ∧ (x.withDueBulk v).record = x.record ∧ (x.withDueBulk v).opened = x.opened
    ∧ (x.withDueBulk v).sent = x.sent := by
  repeat' apply And.intro
  all_goals rfl
@[simp] theorem EfnSt.withAckDue_fields (x : EfnSt) (v : Bool) :
    (x.withAckDue v).rxNext = x.rxNext ∧ (x.withAckDue v).nak = x.nak ∧ (x.withAckDue v).txNext = x.txNext
    ∧ (x.withAckDue v).replay = x.replay ∧ (x.withAckDue v).wait = x.wait ∧ (x.withAckDue v).evCred = x.evCred
    ∧ (x.withAckDue v).ctlCred = x.ctlCred ∧ (x.withAckDue v).bulkCred = x.bulkCred ∧ (x.withAckDue v).dueCtl = x.dueCtl
    ∧ (x.withAckDue v).dueBulk = x.dueBulk ∧ (x.withAckDue v).ackDue = v ∧ (x.withAckDue v).since = x.since ∧ (x.withAckDue v).dark = x.dark
    ∧ (x.withAckDue v).record = x.record ∧ (x.withAckDue v).opened = x.opened ∧ (x.withAckDue v).sent = x.sent := by
  repeat' apply And.intro
  all_goals rfl
@[simp] theorem EfnSt.withSince_fields (x : EfnSt) (v : Nat) :
    (x.withSince v).rxNext = x.rxNext ∧ (x.withSince v).nak = x.nak ∧ (x.withSince v).txNext = x.txNext ∧ (x.withSince v).replay = x.replay
    ∧ (x.withSince v).wait = x.wait ∧ (x.withSince v).evCred = x.evCred ∧ (x.withSince v).ctlCred = x.ctlCred
    ∧ (x.withSince v).bulkCred = x.bulkCred ∧ (x.withSince v).dueCtl = x.dueCtl ∧ (x.withSince v).dueBulk = x.dueBulk
    ∧ (x.withSince v).ackDue = x.ackDue ∧ (x.withSince v).since = v ∧ (x.withSince v).dark = x.dark ∧ (x.withSince v).record = x.record
    ∧ (x.withSince v).opened = x.opened ∧ (x.withSince v).sent = x.sent := by
  repeat' apply And.intro
  all_goals rfl
@[simp] theorem EfnSt.withDark_fields (x : EfnSt) (v : Nat) :
    (x.withDark v).rxNext = x.rxNext ∧ (x.withDark v).nak = x.nak ∧ (x.withDark v).txNext = x.txNext ∧ (x.withDark v).replay = x.replay
    ∧ (x.withDark v).wait = x.wait ∧ (x.withDark v).evCred = x.evCred ∧ (x.withDark v).ctlCred = x.ctlCred
    ∧ (x.withDark v).bulkCred = x.bulkCred ∧ (x.withDark v).dueCtl = x.dueCtl ∧ (x.withDark v).dueBulk = x.dueBulk
    ∧ (x.withDark v).ackDue = x.ackDue ∧ (x.withDark v).since = x.since ∧ (x.withDark v).dark = v ∧ (x.withDark v).record = x.record
    ∧ (x.withDark v).opened = x.opened ∧ (x.withDark v).sent = x.sent := by
  repeat' apply And.intro
  all_goals rfl
@[simp] theorem EfnSt.withRecord_fields (x : EfnSt) (v : List EfnRec) :
    (x.withRecord v).rxNext = x.rxNext ∧ (x.withRecord v).nak = x.nak ∧ (x.withRecord v).txNext = x.txNext
    ∧ (x.withRecord v).replay = x.replay ∧ (x.withRecord v).wait = x.wait ∧ (x.withRecord v).evCred = x.evCred
    ∧ (x.withRecord v).ctlCred = x.ctlCred ∧ (x.withRecord v).bulkCred = x.bulkCred ∧ (x.withRecord v).dueCtl = x.dueCtl
    ∧ (x.withRecord v).dueBulk = x.dueBulk ∧ (x.withRecord v).ackDue = x.ackDue ∧ (x.withRecord v).since = x.since
    ∧ (x.withRecord v).dark = x.dark ∧ (x.withRecord v).record = v ∧ (x.withRecord v).opened = x.opened ∧ (x.withRecord v).sent = x.sent := by
  repeat' apply And.intro
  all_goals rfl
@[simp] theorem EfnSt.withOpened_fields (x : EfnSt) (v : List EfnOpen) :
    (x.withOpened v).rxNext = x.rxNext ∧ (x.withOpened v).nak = x.nak ∧ (x.withOpened v).txNext = x.txNext
    ∧ (x.withOpened v).replay = x.replay ∧ (x.withOpened v).wait = x.wait ∧ (x.withOpened v).evCred = x.evCred
    ∧ (x.withOpened v).ctlCred = x.ctlCred ∧ (x.withOpened v).bulkCred = x.bulkCred ∧ (x.withOpened v).dueCtl = x.dueCtl
    ∧ (x.withOpened v).dueBulk = x.dueBulk ∧ (x.withOpened v).ackDue = x.ackDue ∧ (x.withOpened v).since = x.since
    ∧ (x.withOpened v).dark = x.dark ∧ (x.withOpened v).record = x.record ∧ (x.withOpened v).opened = v ∧ (x.withOpened v).sent = x.sent := by
  repeat' apply And.intro
  all_goals rfl
@[simp] theorem EfnSt.withSent_fields (x : EfnSt) (v : List (List Byte)) :
    (x.withSent v).rxNext = x.rxNext ∧ (x.withSent v).nak = x.nak ∧ (x.withSent v).txNext = x.txNext ∧ (x.withSent v).replay = x.replay
    ∧ (x.withSent v).wait = x.wait ∧ (x.withSent v).evCred = x.evCred ∧ (x.withSent v).ctlCred = x.ctlCred
    ∧ (x.withSent v).bulkCred = x.bulkCred ∧ (x.withSent v).dueCtl = x.dueCtl ∧ (x.withSent v).dueBulk = x.dueBulk
    ∧ (x.withSent v).ackDue = x.ackDue ∧ (x.withSent v).since = x.since ∧ (x.withSent v).dark = x.dark ∧ (x.withSent v).record = x.record
    ∧ (x.withSent v).opened = x.opened ∧ (x.withSent v).sent = v := by
  repeat' apply And.intro
  all_goals rfl
@[simp] theorem ErrInfo.withCls_fields (x : ErrInfo) (v : Nat) :
    (x.withCls v).cls = v ∧ (x.withCls v).source = x.source ∧ (x.withCls v).flags = x.flags ∧ (x.withCls v).who = x.who
    ∧ (x.withCls v).unit = x.unit ∧ (x.withCls v).addr = x.addr ∧ (x.withCls v).epoch = x.epoch ∧ (x.withCls v).status = x.status
    ∧ (x.withCls v).exc = x.exc ∧ (x.withCls v).symbols = x.symbols ∧ (x.withCls v).die = x.die ∧ (x.withCls v).detail = x.detail
    ∧ (x.withCls v).aux = x.aux := by
  repeat' apply And.intro
  all_goals rfl
@[simp] theorem ErrInfo.withSource_fields (x : ErrInfo) (v : Nat) :
    (x.withSource v).cls = x.cls ∧ (x.withSource v).source = v ∧ (x.withSource v).flags = x.flags ∧ (x.withSource v).who = x.who
    ∧ (x.withSource v).unit = x.unit ∧ (x.withSource v).addr = x.addr ∧ (x.withSource v).epoch = x.epoch ∧ (x.withSource v).status = x.status
    ∧ (x.withSource v).exc = x.exc ∧ (x.withSource v).symbols = x.symbols ∧ (x.withSource v).die = x.die ∧ (x.withSource v).detail = x.detail
    ∧ (x.withSource v).aux = x.aux := by
  repeat' apply And.intro
  all_goals rfl
@[simp] theorem ErrInfo.withFlags_fields (x : ErrInfo) (v : Nat) :
    (x.withFlags v).cls = x.cls ∧ (x.withFlags v).source = x.source ∧ (x.withFlags v).flags = v ∧ (x.withFlags v).who = x.who
    ∧ (x.withFlags v).unit = x.unit ∧ (x.withFlags v).addr = x.addr ∧ (x.withFlags v).epoch = x.epoch ∧ (x.withFlags v).status = x.status
    ∧ (x.withFlags v).exc = x.exc ∧ (x.withFlags v).symbols = x.symbols ∧ (x.withFlags v).die = x.die ∧ (x.withFlags v).detail = x.detail
    ∧ (x.withFlags v).aux = x.aux := by
  repeat' apply And.intro
  all_goals rfl
@[simp] theorem ErrInfo.withUnit_fields (x : ErrInfo) (v : Nat) :
    (x.withUnit v).cls = x.cls ∧ (x.withUnit v).source = x.source ∧ (x.withUnit v).flags = x.flags ∧ (x.withUnit v).who = x.who
    ∧ (x.withUnit v).unit = v ∧ (x.withUnit v).addr = x.addr ∧ (x.withUnit v).epoch = x.epoch ∧ (x.withUnit v).status = x.status
    ∧ (x.withUnit v).exc = x.exc ∧ (x.withUnit v).symbols = x.symbols ∧ (x.withUnit v).die = x.die ∧ (x.withUnit v).detail = x.detail
    ∧ (x.withUnit v).aux = x.aux := by
  repeat' apply And.intro
  all_goals rfl
@[simp] theorem ErrInfo.withStatus_fields (x : ErrInfo) (v : Nat) :
    (x.withStatus v).cls = x.cls ∧ (x.withStatus v).source = x.source ∧ (x.withStatus v).flags = x.flags ∧ (x.withStatus v).who = x.who
    ∧ (x.withStatus v).unit = x.unit ∧ (x.withStatus v).addr = x.addr ∧ (x.withStatus v).epoch = x.epoch ∧ (x.withStatus v).status = v
    ∧ (x.withStatus v).exc = x.exc ∧ (x.withStatus v).symbols = x.symbols ∧ (x.withStatus v).die = x.die ∧ (x.withStatus v).detail = x.detail
    ∧ (x.withStatus v).aux = x.aux := by
  repeat' apply And.intro
  all_goals rfl
@[simp] theorem ErrInfo.withSymbols_fields (x : ErrInfo) (v : Nat) :
    (x.withSymbols v).cls = x.cls ∧ (x.withSymbols v).source = x.source ∧ (x.withSymbols v).flags = x.flags ∧ (x.withSymbols v).who = x.who
    ∧ (x.withSymbols v).unit = x.unit ∧ (x.withSymbols v).addr = x.addr ∧ (x.withSymbols v).epoch = x.epoch
    ∧ (x.withSymbols v).status = x.status ∧ (x.withSymbols v).exc = x.exc ∧ (x.withSymbols v).symbols = v ∧ (x.withSymbols v).die = x.die
    ∧ (x.withSymbols v).detail = x.detail ∧ (x.withSymbols v).aux = x.aux := by
  repeat' apply And.intro
  all_goals rfl
@[simp] theorem ErrInfo.withDie_fields (x : ErrInfo) (v : Nat) :
    (x.withDie v).cls = x.cls ∧ (x.withDie v).source = x.source ∧ (x.withDie v).flags = x.flags ∧ (x.withDie v).who = x.who
    ∧ (x.withDie v).unit = x.unit ∧ (x.withDie v).addr = x.addr ∧ (x.withDie v).epoch = x.epoch ∧ (x.withDie v).status = x.status
    ∧ (x.withDie v).exc = x.exc ∧ (x.withDie v).symbols = x.symbols ∧ (x.withDie v).die = v ∧ (x.withDie v).detail = x.detail
    ∧ (x.withDie v).aux = x.aux := by
  repeat' apply And.intro
  all_goals rfl
@[simp] theorem ErrInfo.withAux_fields (x : ErrInfo) (v : Nat) :
    (x.withAux v).cls = x.cls ∧ (x.withAux v).source = x.source ∧ (x.withAux v).flags = x.flags ∧ (x.withAux v).who = x.who
    ∧ (x.withAux v).unit = x.unit ∧ (x.withAux v).addr = x.addr ∧ (x.withAux v).epoch = x.epoch ∧ (x.withAux v).status = x.status
    ∧ (x.withAux v).exc = x.exc ∧ (x.withAux v).symbols = x.symbols ∧ (x.withAux v).die = x.die ∧ (x.withAux v).detail = x.detail
    ∧ (x.withAux v).aux = v := by
  repeat' apply And.intro
  all_goals rfl
@[simp] theorem ExpertRun.withAccepted_fields (x : ExpertRun) (v : Nat) :
    (x.withAccepted v).accepted = v ∧ (x.withAccepted v).overflow = x.overflow ∧ (x.withAccepted v).cold = x.cold
    ∧ (x.withAccepted v).chosen = x.chosen ∧ (x.withAccepted v).wasCold = x.wasCold ∧ (x.withAccepted v).list = x.list := by
  repeat' apply And.intro
  all_goals rfl
@[simp] theorem ExpertRun.withOverflow_fields (x : ExpertRun) (v : Nat) :
    (x.withOverflow v).accepted = x.accepted ∧ (x.withOverflow v).overflow = v ∧ (x.withOverflow v).cold = x.cold
    ∧ (x.withOverflow v).chosen = x.chosen ∧ (x.withOverflow v).wasCold = x.wasCold ∧ (x.withOverflow v).list = x.list := by
  repeat' apply And.intro
  all_goals rfl
@[simp] theorem ExpertRun.withCold_fields (x : ExpertRun) (v : Nat) :
    (x.withCold v).accepted = x.accepted ∧ (x.withCold v).overflow = x.overflow ∧ (x.withCold v).cold = v ∧ (x.withCold v).chosen = x.chosen
    ∧ (x.withCold v).wasCold = x.wasCold ∧ (x.withCold v).list = x.list := by
  repeat' apply And.intro
  all_goals rfl
@[simp] theorem ExpertRun.withChosen_fields (x : ExpertRun) (v : Nat) :
    (x.withChosen v).accepted = x.accepted ∧ (x.withChosen v).overflow = x.overflow ∧ (x.withChosen v).cold = x.cold
    ∧ (x.withChosen v).chosen = v ∧ (x.withChosen v).wasCold = x.wasCold ∧ (x.withChosen v).list = x.list := by
  repeat' apply And.intro
  all_goals rfl
@[simp] theorem ExpertRun.withWasCold_fields (x : ExpertRun) (v : Bool) :
    (x.withWasCold v).accepted = x.accepted ∧ (x.withWasCold v).overflow = x.overflow ∧ (x.withWasCold v).cold = x.cold
    ∧ (x.withWasCold v).chosen = x.chosen ∧ (x.withWasCold v).wasCold = v ∧ (x.withWasCold v).list = x.list := by
  repeat' apply And.intro
  all_goals rfl
@[simp] theorem ExpertRun.withList_fields (x : ExpertRun) (v : List (Nat × Nat)) :
    (x.withList v).accepted = x.accepted ∧ (x.withList v).overflow = x.overflow ∧ (x.withList v).cold = x.cold
    ∧ (x.withList v).chosen = x.chosen ∧ (x.withList v).wasCold = x.wasCold ∧ (x.withList v).list = v := by
  repeat' apply And.intro
  all_goals rfl
@[simp] theorem FillRun.withNext_fields (x : FillRun) (v : Nat) :
    (x.withNext v).word = x.word ∧ (x.withNext v).pc = x.pc ∧ (x.withNext v).next = v ∧ (x.withNext v).bias = x.bias := by
  repeat' apply And.intro
  all_goals rfl
@[simp] theorem FillRun.withBias_fields (x : FillRun) (v : List (Nat × Nat)) :
    (x.withBias v).word = x.word ∧ (x.withBias v).pc = x.pc ∧ (x.withBias v).next = x.next ∧ (x.withBias v).bias = v := by
  repeat' apply And.intro
  all_goals rfl
@[simp] theorem Fld.withLo_fields (x : Fld) (v : Nat) :
    (x.withLo v).lo = v ∧ (x.withLo v).w = x.w ∧ (x.withLo v).acc = x.acc ∧ (x.withLo v).rst = x.rst := by
  repeat' apply And.intro
  all_goals rfl
@[simp] theorem Fld.withW_fields (x : Fld) (v : Nat) :
    (x.withW v).lo = x.lo ∧ (x.withW v).w = v ∧ (x.withW v).acc = x.acc ∧ (x.withW v).rst = x.rst := by
  repeat' apply And.intro
  all_goals rfl
@[simp] theorem Flight.withPos_fields (x : Flight) (v : Nat) :
    (x.withPos v).src = x.src ∧ (x.withPos v).ctx = x.ctx ∧ (x.withPos v).route = x.route ∧ (x.withPos v).dst = x.dst
    ∧ (x.withPos v).token = x.token ∧ (x.withPos v).pos = v ∧ (x.withPos v).edge = x.edge ∧ (x.withPos v).turn = x.turn := by
  repeat' apply And.intro
  all_goals rfl
@[simp] theorem Flight.withEdge_fields (x : Flight) (v : Option (Nat × Nat)) :
    (x.withEdge v).src = x.src ∧ (x.withEdge v).ctx = x.ctx ∧ (x.withEdge v).route = x.route ∧ (x.withEdge v).dst = x.dst
    ∧ (x.withEdge v).token = x.token ∧ (x.withEdge v).pos = x.pos ∧ (x.withEdge v).edge = v ∧ (x.withEdge v).turn = x.turn := by
  repeat' apply And.intro
  all_goals rfl
@[simp] theorem Flight.withTurn_fields (x : Flight) (v : Nat) :
    (x.withTurn v).src = x.src ∧ (x.withTurn v).ctx = x.ctx ∧ (x.withTurn v).route = x.route ∧ (x.withTurn v).dst = x.dst
    ∧ (x.withTurn v).token = x.token ∧ (x.withTurn v).pos = x.pos ∧ (x.withTurn v).edge = x.edge ∧ (x.withTurn v).turn = v := by
  repeat' apply And.intro
  all_goals rfl
@[simp] theorem Gap.withCount_fields (x : Gap) (v : Nat) :
    (x.withCount v).dest = x.dest ∧ (x.withCount v).first = x.first ∧ (x.withCount v).step = x.step ∧ (x.withCount v).count = v := by
  repeat' apply And.intro
  all_goals rfl
@[simp] theorem GlareRun.withPoint_fields (x : GlareRun) (v : Nat) :
    (x.withPoint v).regions = x.regions ∧ (x.withPoint v).point = v ∧ (x.withPoint v).ph = x.ph ∧ (x.withPoint v).todo = x.todo
    ∧ (x.withPoint v).counts = x.counts ∧ (x.withPoint v).here = x.here ∧ (x.withPoint v).failedHere = x.failedHere
    ∧ (x.withPoint v).marked = x.marked ∧ (x.withPoint v).failed = x.failed ∧ (x.withPoint v).tested = x.tested
    ∧ (x.withPoint v).former = x.former ∧ (x.withPoint v).result = x.result ∧ (x.withPoint v).since = x.since
    ∧ (x.withPoint v).runAt = x.runAt := by
  repeat' apply And.intro
  all_goals rfl
@[simp] theorem GlareRun.withPh_fields (x : GlareRun) (v : GlarePh) :
    (x.withPh v).regions = x.regions ∧ (x.withPh v).point = x.point ∧ (x.withPh v).ph = v ∧ (x.withPh v).todo = x.todo
    ∧ (x.withPh v).counts = x.counts ∧ (x.withPh v).here = x.here ∧ (x.withPh v).failedHere = x.failedHere ∧ (x.withPh v).marked = x.marked
    ∧ (x.withPh v).failed = x.failed ∧ (x.withPh v).tested = x.tested ∧ (x.withPh v).former = x.former ∧ (x.withPh v).result = x.result
    ∧ (x.withPh v).since = x.since ∧ (x.withPh v).runAt = x.runAt := by
  repeat' apply And.intro
  all_goals rfl
@[simp] theorem GlareRun.withTodo_fields (x : GlareRun) (v : List Nat) :
    (x.withTodo v).regions = x.regions ∧ (x.withTodo v).point = x.point ∧ (x.withTodo v).ph = x.ph ∧ (x.withTodo v).todo = v
    ∧ (x.withTodo v).counts = x.counts ∧ (x.withTodo v).here = x.here ∧ (x.withTodo v).failedHere = x.failedHere
    ∧ (x.withTodo v).marked = x.marked ∧ (x.withTodo v).failed = x.failed ∧ (x.withTodo v).tested = x.tested
    ∧ (x.withTodo v).former = x.former ∧ (x.withTodo v).result = x.result ∧ (x.withTodo v).since = x.since ∧ (x.withTodo v).runAt = x.runAt := by
  repeat' apply And.intro
  all_goals rfl
@[simp] theorem GlareRun.withCounts_fields (x : GlareRun) (v : Bool) :
    (x.withCounts v).regions = x.regions ∧ (x.withCounts v).point = x.point ∧ (x.withCounts v).ph = x.ph ∧ (x.withCounts v).todo = x.todo
    ∧ (x.withCounts v).counts = v ∧ (x.withCounts v).here = x.here ∧ (x.withCounts v).failedHere = x.failedHere
    ∧ (x.withCounts v).marked = x.marked ∧ (x.withCounts v).failed = x.failed ∧ (x.withCounts v).tested = x.tested
    ∧ (x.withCounts v).former = x.former ∧ (x.withCounts v).result = x.result ∧ (x.withCounts v).since = x.since
    ∧ (x.withCounts v).runAt = x.runAt := by
  repeat' apply And.intro
  all_goals rfl
@[simp] theorem GlareRun.withHere_fields (x : GlareRun) (v : List Nat) :
    (x.withHere v).regions = x.regions ∧ (x.withHere v).point = x.point ∧ (x.withHere v).ph = x.ph ∧ (x.withHere v).todo = x.todo
    ∧ (x.withHere v).counts = x.counts ∧ (x.withHere v).here = v ∧ (x.withHere v).failedHere = x.failedHere
    ∧ (x.withHere v).marked = x.marked ∧ (x.withHere v).failed = x.failed ∧ (x.withHere v).tested = x.tested
    ∧ (x.withHere v).former = x.former ∧ (x.withHere v).result = x.result ∧ (x.withHere v).since = x.since ∧ (x.withHere v).runAt = x.runAt := by
  repeat' apply And.intro
  all_goals rfl
@[simp] theorem GlareRun.withFailedHere_fields (x : GlareRun) (v : List Nat) :
    (x.withFailedHere v).regions = x.regions ∧ (x.withFailedHere v).point = x.point ∧ (x.withFailedHere v).ph = x.ph
    ∧ (x.withFailedHere v).todo = x.todo ∧ (x.withFailedHere v).counts = x.counts ∧ (x.withFailedHere v).here = x.here
    ∧ (x.withFailedHere v).failedHere = v ∧ (x.withFailedHere v).marked = x.marked ∧ (x.withFailedHere v).failed = x.failed
    ∧ (x.withFailedHere v).tested = x.tested ∧ (x.withFailedHere v).former = x.former ∧ (x.withFailedHere v).result = x.result
    ∧ (x.withFailedHere v).since = x.since ∧ (x.withFailedHere v).runAt = x.runAt := by
  repeat' apply And.intro
  all_goals rfl
@[simp] theorem GlareRun.withMarked_fields (x : GlareRun) (v : List Nat) :
    (x.withMarked v).regions = x.regions ∧ (x.withMarked v).point = x.point ∧ (x.withMarked v).ph = x.ph ∧ (x.withMarked v).todo = x.todo
    ∧ (x.withMarked v).counts = x.counts ∧ (x.withMarked v).here = x.here ∧ (x.withMarked v).failedHere = x.failedHere
    ∧ (x.withMarked v).marked = v ∧ (x.withMarked v).failed = x.failed ∧ (x.withMarked v).tested = x.tested
    ∧ (x.withMarked v).former = x.former ∧ (x.withMarked v).result = x.result ∧ (x.withMarked v).since = x.since
    ∧ (x.withMarked v).runAt = x.runAt := by
  repeat' apply And.intro
  all_goals rfl
@[simp] theorem GlareRun.withFailed_fields (x : GlareRun) (v : List Nat) :
    (x.withFailed v).regions = x.regions ∧ (x.withFailed v).point = x.point ∧ (x.withFailed v).ph = x.ph ∧ (x.withFailed v).todo = x.todo
    ∧ (x.withFailed v).counts = x.counts ∧ (x.withFailed v).here = x.here ∧ (x.withFailed v).failedHere = x.failedHere
    ∧ (x.withFailed v).marked = x.marked ∧ (x.withFailed v).failed = v ∧ (x.withFailed v).tested = x.tested
    ∧ (x.withFailed v).former = x.former ∧ (x.withFailed v).result = x.result ∧ (x.withFailed v).since = x.since
    ∧ (x.withFailed v).runAt = x.runAt := by
  repeat' apply And.intro
  all_goals rfl
@[simp] theorem GlareRun.withTested_fields (x : GlareRun) (v : List Nat) :
    (x.withTested v).regions = x.regions ∧ (x.withTested v).point = x.point ∧ (x.withTested v).ph = x.ph ∧ (x.withTested v).todo = x.todo
    ∧ (x.withTested v).counts = x.counts ∧ (x.withTested v).here = x.here ∧ (x.withTested v).failedHere = x.failedHere
    ∧ (x.withTested v).marked = x.marked ∧ (x.withTested v).failed = x.failed ∧ (x.withTested v).tested = v
    ∧ (x.withTested v).former = x.former ∧ (x.withTested v).result = x.result ∧ (x.withTested v).since = x.since
    ∧ (x.withTested v).runAt = x.runAt := by
  repeat' apply And.intro
  all_goals rfl
@[simp] theorem GlareRun.withResult_fields (x : GlareRun) (v : Nat) :
    (x.withResult v).regions = x.regions ∧ (x.withResult v).point = x.point ∧ (x.withResult v).ph = x.ph ∧ (x.withResult v).todo = x.todo
    ∧ (x.withResult v).counts = x.counts ∧ (x.withResult v).here = x.here ∧ (x.withResult v).failedHere = x.failedHere
    ∧ (x.withResult v).marked = x.marked ∧ (x.withResult v).failed = x.failed ∧ (x.withResult v).tested = x.tested
    ∧ (x.withResult v).former = x.former ∧ (x.withResult v).result = v ∧ (x.withResult v).since = x.since ∧ (x.withResult v).runAt = x.runAt := by
  repeat' apply And.intro
  all_goals rfl
@[simp] theorem GlareRun.withSince_fields (x : GlareRun) (v : Nat) :
    (x.withSince v).regions = x.regions ∧ (x.withSince v).point = x.point ∧ (x.withSince v).ph = x.ph ∧ (x.withSince v).todo = x.todo
    ∧ (x.withSince v).counts = x.counts ∧ (x.withSince v).here = x.here ∧ (x.withSince v).failedHere = x.failedHere
    ∧ (x.withSince v).marked = x.marked ∧ (x.withSince v).failed = x.failed ∧ (x.withSince v).tested = x.tested
    ∧ (x.withSince v).former = x.former ∧ (x.withSince v).result = x.result ∧ (x.withSince v).since = v ∧ (x.withSince v).runAt = x.runAt := by
  repeat' apply And.intro
  all_goals rfl
@[simp] theorem GlareRun.withRunAt_fields (x : GlareRun) (v : Nat) :
    (x.withRunAt v).regions = x.regions ∧ (x.withRunAt v).point = x.point ∧ (x.withRunAt v).ph = x.ph ∧ (x.withRunAt v).todo = x.todo
    ∧ (x.withRunAt v).counts = x.counts ∧ (x.withRunAt v).here = x.here ∧ (x.withRunAt v).failedHere = x.failedHere
    ∧ (x.withRunAt v).marked = x.marked ∧ (x.withRunAt v).failed = x.failed ∧ (x.withRunAt v).tested = x.tested
    ∧ (x.withRunAt v).former = x.former ∧ (x.withRunAt v).result = x.result ∧ (x.withRunAt v).since = x.since ∧ (x.withRunAt v).runAt = v := by
  repeat' apply And.intro
  all_goals rfl
@[simp] theorem GlareSt.withTotal_fields (x : GlareSt) (v : Option Nat) :
    (x.withTotal v).total = v ∧ (x.withTotal v).units = x.units ∧ (x.withTotal v).run = x.run := by
  repeat' apply And.intro
  all_goals rfl
@[simp] theorem GlareSt.withUnits_fields (x : GlareSt) (v : List (Nat × Nat)) :
    (x.withUnits v).total = x.total ∧ (x.withUnits v).units = v ∧ (x.withUnits v).run = x.run := by
  repeat' apply And.intro
  all_goals rfl
@[simp] theorem GlareSt.withRun_fields (x : GlareSt) (v : Option GlareRun) :
    (x.withRun v).total = x.total ∧ (x.withRun v).units = x.units ∧ (x.withRun v).run = v := by
  repeat' apply And.intro
  all_goals rfl
@[simp] theorem HomeEnt.withRo_fields (x : HomeEnt) (v : Bool) :
    (x.withRo v).st = x.st ∧ (x.withRo v).ro = v ∧ (x.withRo v).slot = x.slot ∧ (x.withRo v).peer = x.peer ∧ (x.withRo v).flip = x.flip := by
  repeat' apply And.intro
  all_goals rfl
@[simp] theorem InFrame.withBytes_fields (x : InFrame) (v : List Byte) :
    (x.withBytes v).egress = x.egress ∧ (x.withBytes v).tc = x.tc ∧ (x.withBytes v).src = x.src ∧ (x.withBytes v).vlan = x.vlan
    ∧ (x.withBytes v).udp = x.udp ∧ (x.withBytes v).bytes = v ∧ (x.withBytes v).time = x.time ∧ (x.withBytes v).size = x.size := by
  repeat' apply And.intro
  all_goals rfl
@[simp] theorem Logs.withStore_fields (x : Logs) (v : List (List Byte)) :
    (x.withStore v).store = v ∧ (x.withStore v).opened = x.opened ∧ (x.withStore v).seq = x.seq ∧ (x.withStore v).forward = x.forward
    ∧ (x.withStore v).posted = x.posted := by
  repeat' apply And.intro
  all_goals rfl
@[simp] theorem Logs.withOpened_fields (x : Logs) (v : List (List Byte)) :
    (x.withOpened v).store = x.store ∧ (x.withOpened v).opened = v ∧ (x.withOpened v).seq = x.seq ∧ (x.withOpened v).forward = x.forward
    ∧ (x.withOpened v).posted = x.posted := by
  repeat' apply And.intro
  all_goals rfl
@[simp] theorem Logs.withSeq_fields (x : Logs) (v : Nat) :
    (x.withSeq v).store = x.store ∧ (x.withSeq v).opened = x.opened ∧ (x.withSeq v).seq = v ∧ (x.withSeq v).forward = x.forward
    ∧ (x.withSeq v).posted = x.posted := by
  repeat' apply And.intro
  all_goals rfl
@[simp] theorem Logs.withForward_fields (x : Logs) (v : List (List Byte)) :
    (x.withForward v).store = x.store ∧ (x.withForward v).opened = x.opened ∧ (x.withForward v).seq = x.seq ∧ (x.withForward v).forward = v
    ∧ (x.withForward v).posted = x.posted := by
  repeat' apply And.intro
  all_goals rfl
@[simp] theorem Logs.withPosted_fields (x : Logs) (v : List (Nat × Nat)) :
    (x.withPosted v).store = x.store ∧ (x.withPosted v).opened = x.opened ∧ (x.withPosted v).seq = x.seq
    ∧ (x.withPosted v).forward = x.forward ∧ (x.withPosted v).posted = v := by
  repeat' apply And.intro
  all_goals rfl
@[simp] theorem MemReq.withAddr_fields (x : MemReq) (v : Nat) :
    (x.withAddr v).op = x.op ∧ (x.withAddr v).addr = v ∧ (x.withAddr v).len = x.len ∧ (x.withAddr v).data = x.data
    ∧ (x.withAddr v).part = x.part ∧ (x.withAddr v).chip = x.chip ∧ (x.withAddr v).region = x.region ∧ (x.withAddr v).top = x.top
    ∧ (x.withAddr v).mover = x.mover ∧ (x.withAddr v).fwd = x.fwd := by
  repeat' apply And.intro
  all_goals rfl
@[simp] theorem MemReq.withFwd_fields (x : MemReq) (v : Bool) :
    (x.withFwd v).op = x.op ∧ (x.withFwd v).addr = x.addr ∧ (x.withFwd v).len = x.len ∧ (x.withFwd v).data = x.data
    ∧ (x.withFwd v).part = x.part ∧ (x.withFwd v).chip = x.chip ∧ (x.withFwd v).region = x.region ∧ (x.withFwd v).top = x.top
    ∧ (x.withFwd v).mover = x.mover ∧ (x.withFwd v).fwd = v := by
  repeat' apply And.intro
  all_goals rfl
@[simp] theorem MmaOp.withStarted_fields (x : MmaOp) (v : Bool) :
    (x.withStarted v).word = x.word ∧ (x.withStarted v).pc = x.pc ∧ (x.withStarted v).seq = x.seq ∧ (x.withStarted v).k = x.k
    ∧ (x.withStarted v).offA = x.offA ∧ (x.withStarted v).offB = x.offB ∧ (x.withStarted v).rowMask = x.rowMask
    ∧ (x.withStarted v).colMask = x.colMask ∧ (x.withStarted v).badMask = x.badMask ∧ (x.withStarted v).started = v
    ∧ (x.withStarted v).block = x.block := by
  repeat' apply And.intro
  all_goals rfl
@[simp] theorem MmaOp.withBlock_fields (x : MmaOp) (v : Nat) :
    (x.withBlock v).word = x.word ∧ (x.withBlock v).pc = x.pc ∧ (x.withBlock v).seq = x.seq ∧ (x.withBlock v).k = x.k
    ∧ (x.withBlock v).offA = x.offA ∧ (x.withBlock v).offB = x.offB ∧ (x.withBlock v).rowMask = x.rowMask
    ∧ (x.withBlock v).colMask = x.colMask ∧ (x.withBlock v).badMask = x.badMask ∧ (x.withBlock v).started = x.started
    ∧ (x.withBlock v).block = v := by
  repeat' apply And.intro
  all_goals rfl
@[simp] theorem MoveIn.withLast_fields (x : MoveIn) (v : Nat) :
    (x.withLast v).tier = x.tier ∧ (x.withLast v).granule = x.granule ∧ (x.withLast v).last = v ∧ (x.withLast v).asked = x.asked := by
  repeat' apply And.intro
  all_goals rfl
@[simp] theorem MoveIn.withAsked_fields (x : MoveIn) (v : Option Nat) :
    (x.withAsked v).tier = x.tier ∧ (x.withAsked v).granule = x.granule ∧ (x.withAsked v).last = x.last ∧ (x.withAsked v).asked = v := by
  repeat' apply And.intro
  all_goals rfl
@[simp] theorem MoveJob.withDesc_fields (x : MoveJob) (v : List Byte) :
    (x.withDesc v).slot = x.slot ∧ (x.withDesc v).addr = x.addr ∧ (x.withDesc v).desc = v ∧ (x.withDesc v).ph = x.ph
    ∧ (x.withDesc v).pass = x.pass ∧ (x.withDesc v).todo = x.todo ∧ (x.withDesc v).out = x.out ∧ (x.withDesc v).dirty = x.dirty
    ∧ (x.withDesc v).held = x.held ∧ (x.withDesc v).heldOps = x.heldOps ∧ (x.withDesc v).frozenAt = x.frozenAt
    ∧ (x.withDesc v).frozenBlocks = x.frozenBlocks ∧ (x.withDesc v).flip = x.flip := by
  repeat' apply And.intro
  all_goals rfl
@[simp] theorem MoveJob.withPh_fields (x : MoveJob) (v : MovePh) :
    (x.withPh v).slot = x.slot ∧ (x.withPh v).addr = x.addr ∧ (x.withPh v).desc = x.desc ∧ (x.withPh v).ph = v ∧ (x.withPh v).pass = x.pass
    ∧ (x.withPh v).todo = x.todo ∧ (x.withPh v).out = x.out ∧ (x.withPh v).dirty = x.dirty ∧ (x.withPh v).held = x.held
    ∧ (x.withPh v).heldOps = x.heldOps ∧ (x.withPh v).frozenAt = x.frozenAt ∧ (x.withPh v).frozenBlocks = x.frozenBlocks
    ∧ (x.withPh v).flip = x.flip := by
  repeat' apply And.intro
  all_goals rfl
@[simp] theorem MoveJob.withPass_fields (x : MoveJob) (v : Nat) :
    (x.withPass v).slot = x.slot ∧ (x.withPass v).addr = x.addr ∧ (x.withPass v).desc = x.desc ∧ (x.withPass v).ph = x.ph
    ∧ (x.withPass v).pass = v ∧ (x.withPass v).todo = x.todo ∧ (x.withPass v).out = x.out ∧ (x.withPass v).dirty = x.dirty
    ∧ (x.withPass v).held = x.held ∧ (x.withPass v).heldOps = x.heldOps ∧ (x.withPass v).frozenAt = x.frozenAt
    ∧ (x.withPass v).frozenBlocks = x.frozenBlocks ∧ (x.withPass v).flip = x.flip := by
  repeat' apply And.intro
  all_goals rfl
@[simp] theorem MoveJob.withTodo_fields (x : MoveJob) (v : List Nat) :
    (x.withTodo v).slot = x.slot ∧ (x.withTodo v).addr = x.addr ∧ (x.withTodo v).desc = x.desc ∧ (x.withTodo v).ph = x.ph
    ∧ (x.withTodo v).pass = x.pass ∧ (x.withTodo v).todo = v ∧ (x.withTodo v).out = x.out ∧ (x.withTodo v).dirty = x.dirty
    ∧ (x.withTodo v).held = x.held ∧ (x.withTodo v).heldOps = x.heldOps ∧ (x.withTodo v).frozenAt = x.frozenAt
    ∧ (x.withTodo v).frozenBlocks = x.frozenBlocks ∧ (x.withTodo v).flip = x.flip := by
  repeat' apply And.intro
  all_goals rfl
@[simp] theorem MoveJob.withOut_fields (x : MoveJob) (v : List Nat) :
    (x.withOut v).slot = x.slot ∧ (x.withOut v).addr = x.addr ∧ (x.withOut v).desc = x.desc ∧ (x.withOut v).ph = x.ph
    ∧ (x.withOut v).pass = x.pass ∧ (x.withOut v).todo = x.todo ∧ (x.withOut v).out = v ∧ (x.withOut v).dirty = x.dirty
    ∧ (x.withOut v).held = x.held ∧ (x.withOut v).heldOps = x.heldOps ∧ (x.withOut v).frozenAt = x.frozenAt
    ∧ (x.withOut v).frozenBlocks = x.frozenBlocks ∧ (x.withOut v).flip = x.flip := by
  repeat' apply And.intro
  all_goals rfl
@[simp] theorem MoveJob.withDirty_fields (x : MoveJob) (v : List Nat) :
    (x.withDirty v).slot = x.slot ∧ (x.withDirty v).addr = x.addr ∧ (x.withDirty v).desc = x.desc ∧ (x.withDirty v).ph = x.ph
    ∧ (x.withDirty v).pass = x.pass ∧ (x.withDirty v).todo = x.todo ∧ (x.withDirty v).out = x.out ∧ (x.withDirty v).dirty = v
    ∧ (x.withDirty v).held = x.held ∧ (x.withDirty v).heldOps = x.heldOps ∧ (x.withDirty v).frozenAt = x.frozenAt
    ∧ (x.withDirty v).frozenBlocks = x.frozenBlocks ∧ (x.withDirty v).flip = x.flip := by
  repeat' apply And.intro
  all_goals rfl
@[simp] theorem MoveJob.withHeld_fields (x : MoveJob) (v : List HeldOp) :
    (x.withHeld v).slot = x.slot ∧ (x.withHeld v).addr = x.addr ∧ (x.withHeld v).desc = x.desc ∧ (x.withHeld v).ph = x.ph
    ∧ (x.withHeld v).pass = x.pass ∧ (x.withHeld v).todo = x.todo ∧ (x.withHeld v).out = x.out ∧ (x.withHeld v).dirty = x.dirty
    ∧ (x.withHeld v).held = v ∧ (x.withHeld v).heldOps = x.heldOps ∧ (x.withHeld v).frozenAt = x.frozenAt
    ∧ (x.withHeld v).frozenBlocks = x.frozenBlocks ∧ (x.withHeld v).flip = x.flip := by
  repeat' apply And.intro
  all_goals rfl
@[simp] theorem MoveJob.withHeldOps_fields (x : MoveJob) (v : Nat) :
    (x.withHeldOps v).slot = x.slot ∧ (x.withHeldOps v).addr = x.addr ∧ (x.withHeldOps v).desc = x.desc ∧ (x.withHeldOps v).ph = x.ph
    ∧ (x.withHeldOps v).pass = x.pass ∧ (x.withHeldOps v).todo = x.todo ∧ (x.withHeldOps v).out = x.out ∧ (x.withHeldOps v).dirty = x.dirty
    ∧ (x.withHeldOps v).held = x.held ∧ (x.withHeldOps v).heldOps = v ∧ (x.withHeldOps v).frozenAt = x.frozenAt
    ∧ (x.withHeldOps v).frozenBlocks = x.frozenBlocks ∧ (x.withHeldOps v).flip = x.flip := by
  repeat' apply And.intro
  all_goals rfl
@[simp] theorem MoveJob.withFrozenAt_fields (x : MoveJob) (v : Nat) :
    (x.withFrozenAt v).slot = x.slot ∧ (x.withFrozenAt v).addr = x.addr ∧ (x.withFrozenAt v).desc = x.desc ∧ (x.withFrozenAt v).ph = x.ph
    ∧ (x.withFrozenAt v).pass = x.pass ∧ (x.withFrozenAt v).todo = x.todo ∧ (x.withFrozenAt v).out = x.out
    ∧ (x.withFrozenAt v).dirty = x.dirty ∧ (x.withFrozenAt v).held = x.held ∧ (x.withFrozenAt v).heldOps = x.heldOps
    ∧ (x.withFrozenAt v).frozenAt = v ∧ (x.withFrozenAt v).frozenBlocks = x.frozenBlocks ∧ (x.withFrozenAt v).flip = x.flip := by
  repeat' apply And.intro
  all_goals rfl
@[simp] theorem MoveJob.withFrozenBlocks_fields (x : MoveJob) (v : Nat) :
    (x.withFrozenBlocks v).slot = x.slot ∧ (x.withFrozenBlocks v).addr = x.addr ∧ (x.withFrozenBlocks v).desc = x.desc
    ∧ (x.withFrozenBlocks v).ph = x.ph ∧ (x.withFrozenBlocks v).pass = x.pass ∧ (x.withFrozenBlocks v).todo = x.todo
    ∧ (x.withFrozenBlocks v).out = x.out ∧ (x.withFrozenBlocks v).dirty = x.dirty ∧ (x.withFrozenBlocks v).held = x.held
    ∧ (x.withFrozenBlocks v).heldOps = x.heldOps ∧ (x.withFrozenBlocks v).frozenAt = x.frozenAt ∧ (x.withFrozenBlocks v).frozenBlocks = v
    ∧ (x.withFrozenBlocks v).flip = x.flip := by
  repeat' apply And.intro
  all_goals rfl
@[simp] theorem MoveJob.withFlip_fields (x : MoveJob) (v : Nat) :
    (x.withFlip v).slot = x.slot ∧ (x.withFlip v).addr = x.addr ∧ (x.withFlip v).desc = x.desc ∧ (x.withFlip v).ph = x.ph
    ∧ (x.withFlip v).pass = x.pass ∧ (x.withFlip v).todo = x.todo ∧ (x.withFlip v).out = x.out ∧ (x.withFlip v).dirty = x.dirty
    ∧ (x.withFlip v).held = x.held ∧ (x.withFlip v).heldOps = x.heldOps ∧ (x.withFlip v).frozenAt = x.frozenAt
    ∧ (x.withFlip v).frozenBlocks = x.frozenBlocks ∧ (x.withFlip v).flip = v := by
  repeat' apply And.intro
  all_goals rfl
@[simp] theorem MoveOp.withDone_fields (x : MoveOp) (v : Nat) :
    (x.withDone v).word = x.word ∧ (x.withDone v).pc = x.pc ∧ (x.withDone v).n = x.n ∧ (x.withDone v).done = v ∧ (x.withDone v).vals = x.vals := by
  repeat' apply And.intro
  all_goals rfl
@[simp] theorem NetOp.withDone_fields (x : NetOp) (v : Option Ans) :
    (x.withDone v).id = x.id ∧ (x.withDone v).chip = x.chip ∧ (x.withDone v).die = x.die ∧ (x.withDone v).tag = x.tag
    ∧ (x.withDone v).op = x.op ∧ (x.withDone v).addr = x.addr ∧ (x.withDone v).len = x.len ∧ (x.withDone v).data = x.data
    ∧ (x.withDone v).span = x.span ∧ (x.withDone v).client = x.client ∧ (x.withDone v).born = x.born ∧ (x.withDone v).tries = x.tries
    ∧ (x.withDone v).done = v := by
  repeat' apply And.intro
  all_goals rfl
@[simp] theorem NetSt.withCopies_fields (x : NetSt) (v : List CopyJob) :
    (x.withCopies v).copies = v ∧ (x.withCopies v).moves = x.moves ∧ (x.withCopies v).inbound = x.inbound ∧ (x.withCopies v).cut = x.cut
    ∧ (x.withCopies v).glow = x.glow ∧ (x.withCopies v).redirect = x.redirect ∧ (x.withCopies v).ops = x.ops
    ∧ (x.withCopies v).nextOp = x.nextOp ∧ (x.withCopies v).ecc = x.ecc ∧ (x.withCopies v).tx = x.tx ∧ (x.withCopies v).rx = x.rx
    ∧ (x.withCopies v).ports = x.ports ∧ (x.withCopies v).ouvIn = x.ouvIn ∧ (x.withCopies v).srvIn = x.srvIn
    ∧ (x.withCopies v).ptpIn = x.ptpIn ∧ (x.withCopies v).ndIn = x.ndIn ∧ (x.withCopies v).pfcIn = x.pfcIn ∧ (x.withCopies v).wire = x.wire
    ∧ (x.withCopies v).owed = x.owed ∧ (x.withCopies v).quiet = x.quiet ∧ (x.withCopies v).resetAt = x.resetAt
    ∧ (x.withCopies v).unreach = x.unreach ∧ (x.withCopies v).manifest = x.manifest ∧ (x.withCopies v).grace = x.grace
    ∧ (x.withCopies v).recalls = x.recalls ∧ (x.withCopies v).turnedAway = x.turnedAway ∧ (x.withCopies v).unitAns = x.unitAns
    ∧ (x.withCopies v).busy = x.busy ∧ (x.withCopies v).lines = x.lines ∧ (x.withCopies v).tabs = x.tabs
    ∧ (x.withCopies v).oldTabs = x.oldTabs := by
  repeat' apply And.intro
  all_goals rfl
@[simp] theorem NetSt.withMoves_fields (x : NetSt) (v : List MoveJob) :
    (x.withMoves v).copies = x.copies ∧ (x.withMoves v).moves = v ∧ (x.withMoves v).inbound = x.inbound ∧ (x.withMoves v).cut = x.cut
    ∧ (x.withMoves v).glow = x.glow ∧ (x.withMoves v).redirect = x.redirect ∧ (x.withMoves v).ops = x.ops ∧ (x.withMoves v).nextOp = x.nextOp
    ∧ (x.withMoves v).ecc = x.ecc ∧ (x.withMoves v).tx = x.tx ∧ (x.withMoves v).rx = x.rx ∧ (x.withMoves v).ports = x.ports
    ∧ (x.withMoves v).ouvIn = x.ouvIn ∧ (x.withMoves v).srvIn = x.srvIn ∧ (x.withMoves v).ptpIn = x.ptpIn ∧ (x.withMoves v).ndIn = x.ndIn
    ∧ (x.withMoves v).pfcIn = x.pfcIn ∧ (x.withMoves v).wire = x.wire ∧ (x.withMoves v).owed = x.owed ∧ (x.withMoves v).quiet = x.quiet
    ∧ (x.withMoves v).resetAt = x.resetAt ∧ (x.withMoves v).unreach = x.unreach ∧ (x.withMoves v).manifest = x.manifest
    ∧ (x.withMoves v).grace = x.grace ∧ (x.withMoves v).recalls = x.recalls ∧ (x.withMoves v).turnedAway = x.turnedAway
    ∧ (x.withMoves v).unitAns = x.unitAns ∧ (x.withMoves v).busy = x.busy ∧ (x.withMoves v).lines = x.lines ∧ (x.withMoves v).tabs = x.tabs
    ∧ (x.withMoves v).oldTabs = x.oldTabs := by
  repeat' apply And.intro
  all_goals rfl
@[simp] theorem NetSt.withInbound_fields (x : NetSt) (v : List MoveIn) :
    (x.withInbound v).copies = x.copies ∧ (x.withInbound v).moves = x.moves ∧ (x.withInbound v).inbound = v ∧ (x.withInbound v).cut = x.cut
    ∧ (x.withInbound v).glow = x.glow ∧ (x.withInbound v).redirect = x.redirect ∧ (x.withInbound v).ops = x.ops
    ∧ (x.withInbound v).nextOp = x.nextOp ∧ (x.withInbound v).ecc = x.ecc ∧ (x.withInbound v).tx = x.tx ∧ (x.withInbound v).rx = x.rx
    ∧ (x.withInbound v).ports = x.ports ∧ (x.withInbound v).ouvIn = x.ouvIn ∧ (x.withInbound v).srvIn = x.srvIn
    ∧ (x.withInbound v).ptpIn = x.ptpIn ∧ (x.withInbound v).ndIn = x.ndIn ∧ (x.withInbound v).pfcIn = x.pfcIn
    ∧ (x.withInbound v).wire = x.wire ∧ (x.withInbound v).owed = x.owed ∧ (x.withInbound v).quiet = x.quiet
    ∧ (x.withInbound v).resetAt = x.resetAt ∧ (x.withInbound v).unreach = x.unreach ∧ (x.withInbound v).manifest = x.manifest
    ∧ (x.withInbound v).grace = x.grace ∧ (x.withInbound v).recalls = x.recalls ∧ (x.withInbound v).turnedAway = x.turnedAway
    ∧ (x.withInbound v).unitAns = x.unitAns ∧ (x.withInbound v).busy = x.busy ∧ (x.withInbound v).lines = x.lines
    ∧ (x.withInbound v).tabs = x.tabs ∧ (x.withInbound v).oldTabs = x.oldTabs := by
  repeat' apply And.intro
  all_goals rfl
@[simp] theorem NetSt.withCut_fields (x : NetSt) (v : List (Nat × Nat)) :
    (x.withCut v).copies = x.copies ∧ (x.withCut v).moves = x.moves ∧ (x.withCut v).inbound = x.inbound ∧ (x.withCut v).cut = v
    ∧ (x.withCut v).glow = x.glow ∧ (x.withCut v).redirect = x.redirect ∧ (x.withCut v).ops = x.ops ∧ (x.withCut v).nextOp = x.nextOp
    ∧ (x.withCut v).ecc = x.ecc ∧ (x.withCut v).tx = x.tx ∧ (x.withCut v).rx = x.rx ∧ (x.withCut v).ports = x.ports
    ∧ (x.withCut v).ouvIn = x.ouvIn ∧ (x.withCut v).srvIn = x.srvIn ∧ (x.withCut v).ptpIn = x.ptpIn ∧ (x.withCut v).ndIn = x.ndIn
    ∧ (x.withCut v).pfcIn = x.pfcIn ∧ (x.withCut v).wire = x.wire ∧ (x.withCut v).owed = x.owed ∧ (x.withCut v).quiet = x.quiet
    ∧ (x.withCut v).resetAt = x.resetAt ∧ (x.withCut v).unreach = x.unreach ∧ (x.withCut v).manifest = x.manifest
    ∧ (x.withCut v).grace = x.grace ∧ (x.withCut v).recalls = x.recalls ∧ (x.withCut v).turnedAway = x.turnedAway
    ∧ (x.withCut v).unitAns = x.unitAns ∧ (x.withCut v).busy = x.busy ∧ (x.withCut v).lines = x.lines ∧ (x.withCut v).tabs = x.tabs
    ∧ (x.withCut v).oldTabs = x.oldTabs := by
  repeat' apply And.intro
  all_goals rfl
@[simp] theorem NetSt.withGlow_fields (x : NetSt) (v : List (Nat × Nat)) :
    (x.withGlow v).copies = x.copies ∧ (x.withGlow v).moves = x.moves ∧ (x.withGlow v).inbound = x.inbound ∧ (x.withGlow v).cut = x.cut
    ∧ (x.withGlow v).glow = v ∧ (x.withGlow v).redirect = x.redirect ∧ (x.withGlow v).ops = x.ops ∧ (x.withGlow v).nextOp = x.nextOp
    ∧ (x.withGlow v).ecc = x.ecc ∧ (x.withGlow v).tx = x.tx ∧ (x.withGlow v).rx = x.rx ∧ (x.withGlow v).ports = x.ports
    ∧ (x.withGlow v).ouvIn = x.ouvIn ∧ (x.withGlow v).srvIn = x.srvIn ∧ (x.withGlow v).ptpIn = x.ptpIn ∧ (x.withGlow v).ndIn = x.ndIn
    ∧ (x.withGlow v).pfcIn = x.pfcIn ∧ (x.withGlow v).wire = x.wire ∧ (x.withGlow v).owed = x.owed ∧ (x.withGlow v).quiet = x.quiet
    ∧ (x.withGlow v).resetAt = x.resetAt ∧ (x.withGlow v).unreach = x.unreach ∧ (x.withGlow v).manifest = x.manifest
    ∧ (x.withGlow v).grace = x.grace ∧ (x.withGlow v).recalls = x.recalls ∧ (x.withGlow v).turnedAway = x.turnedAway
    ∧ (x.withGlow v).unitAns = x.unitAns ∧ (x.withGlow v).busy = x.busy ∧ (x.withGlow v).lines = x.lines ∧ (x.withGlow v).tabs = x.tabs
    ∧ (x.withGlow v).oldTabs = x.oldTabs := by
  repeat' apply And.intro
  all_goals rfl
@[simp] theorem NetSt.withRedirect_fields (x : NetSt) (v : List (Nat × List (Nat × Nat))) :
    (x.withRedirect v).copies = x.copies ∧ (x.withRedirect v).moves = x.moves ∧ (x.withRedirect v).inbound = x.inbound
    ∧ (x.withRedirect v).cut = x.cut ∧ (x.withRedirect v).glow = x.glow ∧ (x.withRedirect v).redirect = v ∧ (x.withRedirect v).ops = x.ops
    ∧ (x.withRedirect v).nextOp = x.nextOp ∧ (x.withRedirect v).ecc = x.ecc ∧ (x.withRedirect v).tx = x.tx ∧ (x.withRedirect v).rx = x.rx
    ∧ (x.withRedirect v).ports = x.ports ∧ (x.withRedirect v).ouvIn = x.ouvIn ∧ (x.withRedirect v).srvIn = x.srvIn
    ∧ (x.withRedirect v).ptpIn = x.ptpIn ∧ (x.withRedirect v).ndIn = x.ndIn ∧ (x.withRedirect v).pfcIn = x.pfcIn
    ∧ (x.withRedirect v).wire = x.wire ∧ (x.withRedirect v).owed = x.owed ∧ (x.withRedirect v).quiet = x.quiet
    ∧ (x.withRedirect v).resetAt = x.resetAt ∧ (x.withRedirect v).unreach = x.unreach ∧ (x.withRedirect v).manifest = x.manifest
    ∧ (x.withRedirect v).grace = x.grace ∧ (x.withRedirect v).recalls = x.recalls ∧ (x.withRedirect v).turnedAway = x.turnedAway
    ∧ (x.withRedirect v).unitAns = x.unitAns ∧ (x.withRedirect v).busy = x.busy ∧ (x.withRedirect v).lines = x.lines
    ∧ (x.withRedirect v).tabs = x.tabs ∧ (x.withRedirect v).oldTabs = x.oldTabs := by
  repeat' apply And.intro
  all_goals rfl
@[simp] theorem NetSt.withOps_fields (x : NetSt) (v : List NetOp) :
    (x.withOps v).copies = x.copies ∧ (x.withOps v).moves = x.moves ∧ (x.withOps v).inbound = x.inbound ∧ (x.withOps v).cut = x.cut
    ∧ (x.withOps v).glow = x.glow ∧ (x.withOps v).redirect = x.redirect ∧ (x.withOps v).ops = v ∧ (x.withOps v).nextOp = x.nextOp
    ∧ (x.withOps v).ecc = x.ecc ∧ (x.withOps v).tx = x.tx ∧ (x.withOps v).rx = x.rx ∧ (x.withOps v).ports = x.ports
    ∧ (x.withOps v).ouvIn = x.ouvIn ∧ (x.withOps v).srvIn = x.srvIn ∧ (x.withOps v).ptpIn = x.ptpIn ∧ (x.withOps v).ndIn = x.ndIn
    ∧ (x.withOps v).pfcIn = x.pfcIn ∧ (x.withOps v).wire = x.wire ∧ (x.withOps v).owed = x.owed ∧ (x.withOps v).quiet = x.quiet
    ∧ (x.withOps v).resetAt = x.resetAt ∧ (x.withOps v).unreach = x.unreach ∧ (x.withOps v).manifest = x.manifest
    ∧ (x.withOps v).grace = x.grace ∧ (x.withOps v).recalls = x.recalls ∧ (x.withOps v).turnedAway = x.turnedAway
    ∧ (x.withOps v).unitAns = x.unitAns ∧ (x.withOps v).busy = x.busy ∧ (x.withOps v).lines = x.lines ∧ (x.withOps v).tabs = x.tabs
    ∧ (x.withOps v).oldTabs = x.oldTabs := by
  repeat' apply And.intro
  all_goals rfl
@[simp] theorem NetSt.withNextOp_fields (x : NetSt) (v : Nat) :
    (x.withNextOp v).copies = x.copies ∧ (x.withNextOp v).moves = x.moves ∧ (x.withNextOp v).inbound = x.inbound
    ∧ (x.withNextOp v).cut = x.cut ∧ (x.withNextOp v).glow = x.glow ∧ (x.withNextOp v).redirect = x.redirect ∧ (x.withNextOp v).ops = x.ops
    ∧ (x.withNextOp v).nextOp = v ∧ (x.withNextOp v).ecc = x.ecc ∧ (x.withNextOp v).tx = x.tx ∧ (x.withNextOp v).rx = x.rx
    ∧ (x.withNextOp v).ports = x.ports ∧ (x.withNextOp v).ouvIn = x.ouvIn ∧ (x.withNextOp v).srvIn = x.srvIn
    ∧ (x.withNextOp v).ptpIn = x.ptpIn ∧ (x.withNextOp v).ndIn = x.ndIn ∧ (x.withNextOp v).pfcIn = x.pfcIn ∧ (x.withNextOp v).wire = x.wire
    ∧ (x.withNextOp v).owed = x.owed ∧ (x.withNextOp v).quiet = x.quiet ∧ (x.withNextOp v).resetAt = x.resetAt
    ∧ (x.withNextOp v).unreach = x.unreach ∧ (x.withNextOp v).manifest = x.manifest ∧ (x.withNextOp v).grace = x.grace
    ∧ (x.withNextOp v).recalls = x.recalls ∧ (x.withNextOp v).turnedAway = x.turnedAway ∧ (x.withNextOp v).unitAns = x.unitAns
    ∧ (x.withNextOp v).busy = x.busy ∧ (x.withNextOp v).lines = x.lines ∧ (x.withNextOp v).tabs = x.tabs
    ∧ (x.withNextOp v).oldTabs = x.oldTabs := by
  repeat' apply And.intro
  all_goals rfl
@[simp] theorem NetSt.withEcc_fields (x : NetSt) (v : List EccHit) :
    (x.withEcc v).copies = x.copies ∧ (x.withEcc v).moves = x.moves ∧ (x.withEcc v).inbound = x.inbound ∧ (x.withEcc v).cut = x.cut
    ∧ (x.withEcc v).glow = x.glow ∧ (x.withEcc v).redirect = x.redirect ∧ (x.withEcc v).ops = x.ops ∧ (x.withEcc v).nextOp = x.nextOp
    ∧ (x.withEcc v).ecc = v ∧ (x.withEcc v).tx = x.tx ∧ (x.withEcc v).rx = x.rx ∧ (x.withEcc v).ports = x.ports
    ∧ (x.withEcc v).ouvIn = x.ouvIn ∧ (x.withEcc v).srvIn = x.srvIn ∧ (x.withEcc v).ptpIn = x.ptpIn ∧ (x.withEcc v).ndIn = x.ndIn
    ∧ (x.withEcc v).pfcIn = x.pfcIn ∧ (x.withEcc v).wire = x.wire ∧ (x.withEcc v).owed = x.owed ∧ (x.withEcc v).quiet = x.quiet
    ∧ (x.withEcc v).resetAt = x.resetAt ∧ (x.withEcc v).unreach = x.unreach ∧ (x.withEcc v).manifest = x.manifest
    ∧ (x.withEcc v).grace = x.grace ∧ (x.withEcc v).recalls = x.recalls ∧ (x.withEcc v).turnedAway = x.turnedAway
    ∧ (x.withEcc v).unitAns = x.unitAns ∧ (x.withEcc v).busy = x.busy ∧ (x.withEcc v).lines = x.lines ∧ (x.withEcc v).tabs = x.tabs
    ∧ (x.withEcc v).oldTabs = x.oldTabs := by
  repeat' apply And.intro
  all_goals rfl
@[simp] theorem NetSt.withTx_fields (x : NetSt) (v : List (Nat × TxStream)) :
    (x.withTx v).copies = x.copies ∧ (x.withTx v).moves = x.moves ∧ (x.withTx v).inbound = x.inbound ∧ (x.withTx v).cut = x.cut
    ∧ (x.withTx v).glow = x.glow ∧ (x.withTx v).redirect = x.redirect ∧ (x.withTx v).ops = x.ops ∧ (x.withTx v).nextOp = x.nextOp
    ∧ (x.withTx v).ecc = x.ecc ∧ (x.withTx v).tx = v ∧ (x.withTx v).rx = x.rx ∧ (x.withTx v).ports = x.ports ∧ (x.withTx v).ouvIn = x.ouvIn
    ∧ (x.withTx v).srvIn = x.srvIn ∧ (x.withTx v).ptpIn = x.ptpIn ∧ (x.withTx v).ndIn = x.ndIn ∧ (x.withTx v).pfcIn = x.pfcIn
    ∧ (x.withTx v).wire = x.wire ∧ (x.withTx v).owed = x.owed ∧ (x.withTx v).quiet = x.quiet ∧ (x.withTx v).resetAt = x.resetAt
    ∧ (x.withTx v).unreach = x.unreach ∧ (x.withTx v).manifest = x.manifest ∧ (x.withTx v).grace = x.grace ∧ (x.withTx v).recalls = x.recalls
    ∧ (x.withTx v).turnedAway = x.turnedAway ∧ (x.withTx v).unitAns = x.unitAns ∧ (x.withTx v).busy = x.busy ∧ (x.withTx v).lines = x.lines
    ∧ (x.withTx v).tabs = x.tabs ∧ (x.withTx v).oldTabs = x.oldTabs := by
  repeat' apply And.intro
  all_goals rfl
@[simp] theorem NetSt.withRx_fields (x : NetSt) (v : List (Nat × RxStream)) :
    (x.withRx v).copies = x.copies ∧ (x.withRx v).moves = x.moves ∧ (x.withRx v).inbound = x.inbound ∧ (x.withRx v).cut = x.cut
    ∧ (x.withRx v).glow = x.glow ∧ (x.withRx v).redirect = x.redirect ∧ (x.withRx v).ops = x.ops ∧ (x.withRx v).nextOp = x.nextOp
    ∧ (x.withRx v).ecc = x.ecc ∧ (x.withRx v).tx = x.tx ∧ (x.withRx v).rx = v ∧ (x.withRx v).ports = x.ports ∧ (x.withRx v).ouvIn = x.ouvIn
    ∧ (x.withRx v).srvIn = x.srvIn ∧ (x.withRx v).ptpIn = x.ptpIn ∧ (x.withRx v).ndIn = x.ndIn ∧ (x.withRx v).pfcIn = x.pfcIn
    ∧ (x.withRx v).wire = x.wire ∧ (x.withRx v).owed = x.owed ∧ (x.withRx v).quiet = x.quiet ∧ (x.withRx v).resetAt = x.resetAt
    ∧ (x.withRx v).unreach = x.unreach ∧ (x.withRx v).manifest = x.manifest ∧ (x.withRx v).grace = x.grace ∧ (x.withRx v).recalls = x.recalls
    ∧ (x.withRx v).turnedAway = x.turnedAway ∧ (x.withRx v).unitAns = x.unitAns ∧ (x.withRx v).busy = x.busy ∧ (x.withRx v).lines = x.lines
    ∧ (x.withRx v).tabs = x.tabs ∧ (x.withRx v).oldTabs = x.oldTabs := by
  repeat' apply And.intro
  all_goals rfl
@[simp] theorem NetSt.withPorts_fields (x : NetSt) (v : List (Nat × SubPort)) :
    (x.withPorts v).copies = x.copies ∧ (x.withPorts v).moves = x.moves ∧ (x.withPorts v).inbound = x.inbound ∧ (x.withPorts v).cut = x.cut
    ∧ (x.withPorts v).glow = x.glow ∧ (x.withPorts v).redirect = x.redirect ∧ (x.withPorts v).ops = x.ops ∧ (x.withPorts v).nextOp = x.nextOp
    ∧ (x.withPorts v).ecc = x.ecc ∧ (x.withPorts v).tx = x.tx ∧ (x.withPorts v).rx = x.rx ∧ (x.withPorts v).ports = v
    ∧ (x.withPorts v).ouvIn = x.ouvIn ∧ (x.withPorts v).srvIn = x.srvIn ∧ (x.withPorts v).ptpIn = x.ptpIn ∧ (x.withPorts v).ndIn = x.ndIn
    ∧ (x.withPorts v).pfcIn = x.pfcIn ∧ (x.withPorts v).wire = x.wire ∧ (x.withPorts v).owed = x.owed ∧ (x.withPorts v).quiet = x.quiet
    ∧ (x.withPorts v).resetAt = x.resetAt ∧ (x.withPorts v).unreach = x.unreach ∧ (x.withPorts v).manifest = x.manifest
    ∧ (x.withPorts v).grace = x.grace ∧ (x.withPorts v).recalls = x.recalls ∧ (x.withPorts v).turnedAway = x.turnedAway
    ∧ (x.withPorts v).unitAns = x.unitAns ∧ (x.withPorts v).busy = x.busy ∧ (x.withPorts v).lines = x.lines ∧ (x.withPorts v).tabs = x.tabs
    ∧ (x.withPorts v).oldTabs = x.oldTabs := by
  repeat' apply And.intro
  all_goals rfl
@[simp] theorem NetSt.withOuvIn_fields (x : NetSt) (v : List InFrame) :
    (x.withOuvIn v).copies = x.copies ∧ (x.withOuvIn v).moves = x.moves ∧ (x.withOuvIn v).inbound = x.inbound ∧ (x.withOuvIn v).cut = x.cut
    ∧ (x.withOuvIn v).glow = x.glow ∧ (x.withOuvIn v).redirect = x.redirect ∧ (x.withOuvIn v).ops = x.ops ∧ (x.withOuvIn v).nextOp = x.nextOp
    ∧ (x.withOuvIn v).ecc = x.ecc ∧ (x.withOuvIn v).tx = x.tx ∧ (x.withOuvIn v).rx = x.rx ∧ (x.withOuvIn v).ports = x.ports
    ∧ (x.withOuvIn v).ouvIn = v ∧ (x.withOuvIn v).srvIn = x.srvIn ∧ (x.withOuvIn v).ptpIn = x.ptpIn ∧ (x.withOuvIn v).ndIn = x.ndIn
    ∧ (x.withOuvIn v).pfcIn = x.pfcIn ∧ (x.withOuvIn v).wire = x.wire ∧ (x.withOuvIn v).owed = x.owed ∧ (x.withOuvIn v).quiet = x.quiet
    ∧ (x.withOuvIn v).resetAt = x.resetAt ∧ (x.withOuvIn v).unreach = x.unreach ∧ (x.withOuvIn v).manifest = x.manifest
    ∧ (x.withOuvIn v).grace = x.grace ∧ (x.withOuvIn v).recalls = x.recalls ∧ (x.withOuvIn v).turnedAway = x.turnedAway
    ∧ (x.withOuvIn v).unitAns = x.unitAns ∧ (x.withOuvIn v).busy = x.busy ∧ (x.withOuvIn v).lines = x.lines ∧ (x.withOuvIn v).tabs = x.tabs
    ∧ (x.withOuvIn v).oldTabs = x.oldTabs := by
  repeat' apply And.intro
  all_goals rfl
@[simp] theorem NetSt.withSrvIn_fields (x : NetSt) (v : List InFrame) :
    (x.withSrvIn v).copies = x.copies ∧ (x.withSrvIn v).moves = x.moves ∧ (x.withSrvIn v).inbound = x.inbound ∧ (x.withSrvIn v).cut = x.cut
    ∧ (x.withSrvIn v).glow = x.glow ∧ (x.withSrvIn v).redirect = x.redirect ∧ (x.withSrvIn v).ops = x.ops ∧ (x.withSrvIn v).nextOp = x.nextOp
    ∧ (x.withSrvIn v).ecc = x.ecc ∧ (x.withSrvIn v).tx = x.tx ∧ (x.withSrvIn v).rx = x.rx ∧ (x.withSrvIn v).ports = x.ports
    ∧ (x.withSrvIn v).ouvIn = x.ouvIn ∧ (x.withSrvIn v).srvIn = v ∧ (x.withSrvIn v).ptpIn = x.ptpIn ∧ (x.withSrvIn v).ndIn = x.ndIn
    ∧ (x.withSrvIn v).pfcIn = x.pfcIn ∧ (x.withSrvIn v).wire = x.wire ∧ (x.withSrvIn v).owed = x.owed ∧ (x.withSrvIn v).quiet = x.quiet
    ∧ (x.withSrvIn v).resetAt = x.resetAt ∧ (x.withSrvIn v).unreach = x.unreach ∧ (x.withSrvIn v).manifest = x.manifest
    ∧ (x.withSrvIn v).grace = x.grace ∧ (x.withSrvIn v).recalls = x.recalls ∧ (x.withSrvIn v).turnedAway = x.turnedAway
    ∧ (x.withSrvIn v).unitAns = x.unitAns ∧ (x.withSrvIn v).busy = x.busy ∧ (x.withSrvIn v).lines = x.lines ∧ (x.withSrvIn v).tabs = x.tabs
    ∧ (x.withSrvIn v).oldTabs = x.oldTabs := by
  repeat' apply And.intro
  all_goals rfl
@[simp] theorem NetSt.withPtpIn_fields (x : NetSt) (v : List InFrame) :
    (x.withPtpIn v).copies = x.copies ∧ (x.withPtpIn v).moves = x.moves ∧ (x.withPtpIn v).inbound = x.inbound ∧ (x.withPtpIn v).cut = x.cut
    ∧ (x.withPtpIn v).glow = x.glow ∧ (x.withPtpIn v).redirect = x.redirect ∧ (x.withPtpIn v).ops = x.ops ∧ (x.withPtpIn v).nextOp = x.nextOp
    ∧ (x.withPtpIn v).ecc = x.ecc ∧ (x.withPtpIn v).tx = x.tx ∧ (x.withPtpIn v).rx = x.rx ∧ (x.withPtpIn v).ports = x.ports
    ∧ (x.withPtpIn v).ouvIn = x.ouvIn ∧ (x.withPtpIn v).srvIn = x.srvIn ∧ (x.withPtpIn v).ptpIn = v ∧ (x.withPtpIn v).ndIn = x.ndIn
    ∧ (x.withPtpIn v).pfcIn = x.pfcIn ∧ (x.withPtpIn v).wire = x.wire ∧ (x.withPtpIn v).owed = x.owed ∧ (x.withPtpIn v).quiet = x.quiet
    ∧ (x.withPtpIn v).resetAt = x.resetAt ∧ (x.withPtpIn v).unreach = x.unreach ∧ (x.withPtpIn v).manifest = x.manifest
    ∧ (x.withPtpIn v).grace = x.grace ∧ (x.withPtpIn v).recalls = x.recalls ∧ (x.withPtpIn v).turnedAway = x.turnedAway
    ∧ (x.withPtpIn v).unitAns = x.unitAns ∧ (x.withPtpIn v).busy = x.busy ∧ (x.withPtpIn v).lines = x.lines ∧ (x.withPtpIn v).tabs = x.tabs
    ∧ (x.withPtpIn v).oldTabs = x.oldTabs := by
  repeat' apply And.intro
  all_goals rfl
@[simp] theorem NetSt.withNdIn_fields (x : NetSt) (v : List InFrame) :
    (x.withNdIn v).copies = x.copies ∧ (x.withNdIn v).moves = x.moves ∧ (x.withNdIn v).inbound = x.inbound ∧ (x.withNdIn v).cut = x.cut
    ∧ (x.withNdIn v).glow = x.glow ∧ (x.withNdIn v).redirect = x.redirect ∧ (x.withNdIn v).ops = x.ops ∧ (x.withNdIn v).nextOp = x.nextOp
    ∧ (x.withNdIn v).ecc = x.ecc ∧ (x.withNdIn v).tx = x.tx ∧ (x.withNdIn v).rx = x.rx ∧ (x.withNdIn v).ports = x.ports
    ∧ (x.withNdIn v).ouvIn = x.ouvIn ∧ (x.withNdIn v).srvIn = x.srvIn ∧ (x.withNdIn v).ptpIn = x.ptpIn ∧ (x.withNdIn v).ndIn = v
    ∧ (x.withNdIn v).pfcIn = x.pfcIn ∧ (x.withNdIn v).wire = x.wire ∧ (x.withNdIn v).owed = x.owed ∧ (x.withNdIn v).quiet = x.quiet
    ∧ (x.withNdIn v).resetAt = x.resetAt ∧ (x.withNdIn v).unreach = x.unreach ∧ (x.withNdIn v).manifest = x.manifest
    ∧ (x.withNdIn v).grace = x.grace ∧ (x.withNdIn v).recalls = x.recalls ∧ (x.withNdIn v).turnedAway = x.turnedAway
    ∧ (x.withNdIn v).unitAns = x.unitAns ∧ (x.withNdIn v).busy = x.busy ∧ (x.withNdIn v).lines = x.lines ∧ (x.withNdIn v).tabs = x.tabs
    ∧ (x.withNdIn v).oldTabs = x.oldTabs := by
  repeat' apply And.intro
  all_goals rfl
@[simp] theorem NetSt.withPfcIn_fields (x : NetSt) (v : List InFrame) :
    (x.withPfcIn v).copies = x.copies ∧ (x.withPfcIn v).moves = x.moves ∧ (x.withPfcIn v).inbound = x.inbound ∧ (x.withPfcIn v).cut = x.cut
    ∧ (x.withPfcIn v).glow = x.glow ∧ (x.withPfcIn v).redirect = x.redirect ∧ (x.withPfcIn v).ops = x.ops ∧ (x.withPfcIn v).nextOp = x.nextOp
    ∧ (x.withPfcIn v).ecc = x.ecc ∧ (x.withPfcIn v).tx = x.tx ∧ (x.withPfcIn v).rx = x.rx ∧ (x.withPfcIn v).ports = x.ports
    ∧ (x.withPfcIn v).ouvIn = x.ouvIn ∧ (x.withPfcIn v).srvIn = x.srvIn ∧ (x.withPfcIn v).ptpIn = x.ptpIn ∧ (x.withPfcIn v).ndIn = x.ndIn
    ∧ (x.withPfcIn v).pfcIn = v ∧ (x.withPfcIn v).wire = x.wire ∧ (x.withPfcIn v).owed = x.owed ∧ (x.withPfcIn v).quiet = x.quiet
    ∧ (x.withPfcIn v).resetAt = x.resetAt ∧ (x.withPfcIn v).unreach = x.unreach ∧ (x.withPfcIn v).manifest = x.manifest
    ∧ (x.withPfcIn v).grace = x.grace ∧ (x.withPfcIn v).recalls = x.recalls ∧ (x.withPfcIn v).turnedAway = x.turnedAway
    ∧ (x.withPfcIn v).unitAns = x.unitAns ∧ (x.withPfcIn v).busy = x.busy ∧ (x.withPfcIn v).lines = x.lines ∧ (x.withPfcIn v).tabs = x.tabs
    ∧ (x.withPfcIn v).oldTabs = x.oldTabs := by
  repeat' apply And.intro
  all_goals rfl
@[simp] theorem NetSt.withWire_fields (x : NetSt) (v : List (Nat × List Byte)) :
    (x.withWire v).copies = x.copies ∧ (x.withWire v).moves = x.moves ∧ (x.withWire v).inbound = x.inbound ∧ (x.withWire v).cut = x.cut
    ∧ (x.withWire v).glow = x.glow ∧ (x.withWire v).redirect = x.redirect ∧ (x.withWire v).ops = x.ops ∧ (x.withWire v).nextOp = x.nextOp
    ∧ (x.withWire v).ecc = x.ecc ∧ (x.withWire v).tx = x.tx ∧ (x.withWire v).rx = x.rx ∧ (x.withWire v).ports = x.ports
    ∧ (x.withWire v).ouvIn = x.ouvIn ∧ (x.withWire v).srvIn = x.srvIn ∧ (x.withWire v).ptpIn = x.ptpIn ∧ (x.withWire v).ndIn = x.ndIn
    ∧ (x.withWire v).pfcIn = x.pfcIn ∧ (x.withWire v).wire = v ∧ (x.withWire v).owed = x.owed ∧ (x.withWire v).quiet = x.quiet
    ∧ (x.withWire v).resetAt = x.resetAt ∧ (x.withWire v).unreach = x.unreach ∧ (x.withWire v).manifest = x.manifest
    ∧ (x.withWire v).grace = x.grace ∧ (x.withWire v).recalls = x.recalls ∧ (x.withWire v).turnedAway = x.turnedAway
    ∧ (x.withWire v).unitAns = x.unitAns ∧ (x.withWire v).busy = x.busy ∧ (x.withWire v).lines = x.lines ∧ (x.withWire v).tabs = x.tabs
    ∧ (x.withWire v).oldTabs = x.oldTabs := by
  repeat' apply And.intro
  all_goals rfl
@[simp] theorem NetSt.withOwed_fields (x : NetSt) (v : List (Nat × Nat × List Byte)) :
    (x.withOwed v).copies = x.copies ∧ (x.withOwed v).moves = x.moves ∧ (x.withOwed v).inbound = x.inbound ∧ (x.withOwed v).cut = x.cut
    ∧ (x.withOwed v).glow = x.glow ∧ (x.withOwed v).redirect = x.redirect ∧ (x.withOwed v).ops = x.ops ∧ (x.withOwed v).nextOp = x.nextOp
    ∧ (x.withOwed v).ecc = x.ecc ∧ (x.withOwed v).tx = x.tx ∧ (x.withOwed v).rx = x.rx ∧ (x.withOwed v).ports = x.ports
    ∧ (x.withOwed v).ouvIn = x.ouvIn ∧ (x.withOwed v).srvIn = x.srvIn ∧ (x.withOwed v).ptpIn = x.ptpIn ∧ (x.withOwed v).ndIn = x.ndIn
    ∧ (x.withOwed v).pfcIn = x.pfcIn ∧ (x.withOwed v).wire = x.wire ∧ (x.withOwed v).owed = v ∧ (x.withOwed v).quiet = x.quiet
    ∧ (x.withOwed v).resetAt = x.resetAt ∧ (x.withOwed v).unreach = x.unreach ∧ (x.withOwed v).manifest = x.manifest
    ∧ (x.withOwed v).grace = x.grace ∧ (x.withOwed v).recalls = x.recalls ∧ (x.withOwed v).turnedAway = x.turnedAway
    ∧ (x.withOwed v).unitAns = x.unitAns ∧ (x.withOwed v).busy = x.busy ∧ (x.withOwed v).lines = x.lines ∧ (x.withOwed v).tabs = x.tabs
    ∧ (x.withOwed v).oldTabs = x.oldTabs := by
  repeat' apply And.intro
  all_goals rfl
@[simp] theorem NetSt.withQuiet_fields (x : NetSt) (v : Bool) :
    (x.withQuiet v).copies = x.copies ∧ (x.withQuiet v).moves = x.moves ∧ (x.withQuiet v).inbound = x.inbound ∧ (x.withQuiet v).cut = x.cut
    ∧ (x.withQuiet v).glow = x.glow ∧ (x.withQuiet v).redirect = x.redirect ∧ (x.withQuiet v).ops = x.ops ∧ (x.withQuiet v).nextOp = x.nextOp
    ∧ (x.withQuiet v).ecc = x.ecc ∧ (x.withQuiet v).tx = x.tx ∧ (x.withQuiet v).rx = x.rx ∧ (x.withQuiet v).ports = x.ports
    ∧ (x.withQuiet v).ouvIn = x.ouvIn ∧ (x.withQuiet v).srvIn = x.srvIn ∧ (x.withQuiet v).ptpIn = x.ptpIn ∧ (x.withQuiet v).ndIn = x.ndIn
    ∧ (x.withQuiet v).pfcIn = x.pfcIn ∧ (x.withQuiet v).wire = x.wire ∧ (x.withQuiet v).owed = x.owed ∧ (x.withQuiet v).quiet = v
    ∧ (x.withQuiet v).resetAt = x.resetAt ∧ (x.withQuiet v).unreach = x.unreach ∧ (x.withQuiet v).manifest = x.manifest
    ∧ (x.withQuiet v).grace = x.grace ∧ (x.withQuiet v).recalls = x.recalls ∧ (x.withQuiet v).turnedAway = x.turnedAway
    ∧ (x.withQuiet v).unitAns = x.unitAns ∧ (x.withQuiet v).busy = x.busy ∧ (x.withQuiet v).lines = x.lines ∧ (x.withQuiet v).tabs = x.tabs
    ∧ (x.withQuiet v).oldTabs = x.oldTabs := by
  repeat' apply And.intro
  all_goals rfl
@[simp] theorem NetSt.withResetAt_fields (x : NetSt) (v : Nat) :
    (x.withResetAt v).copies = x.copies ∧ (x.withResetAt v).moves = x.moves ∧ (x.withResetAt v).inbound = x.inbound
    ∧ (x.withResetAt v).cut = x.cut ∧ (x.withResetAt v).glow = x.glow ∧ (x.withResetAt v).redirect = x.redirect
    ∧ (x.withResetAt v).ops = x.ops ∧ (x.withResetAt v).nextOp = x.nextOp ∧ (x.withResetAt v).ecc = x.ecc ∧ (x.withResetAt v).tx = x.tx
    ∧ (x.withResetAt v).rx = x.rx ∧ (x.withResetAt v).ports = x.ports ∧ (x.withResetAt v).ouvIn = x.ouvIn ∧ (x.withResetAt v).srvIn = x.srvIn
    ∧ (x.withResetAt v).ptpIn = x.ptpIn ∧ (x.withResetAt v).ndIn = x.ndIn ∧ (x.withResetAt v).pfcIn = x.pfcIn
    ∧ (x.withResetAt v).wire = x.wire ∧ (x.withResetAt v).owed = x.owed ∧ (x.withResetAt v).quiet = x.quiet ∧ (x.withResetAt v).resetAt = v
    ∧ (x.withResetAt v).unreach = x.unreach ∧ (x.withResetAt v).manifest = x.manifest ∧ (x.withResetAt v).grace = x.grace
    ∧ (x.withResetAt v).recalls = x.recalls ∧ (x.withResetAt v).turnedAway = x.turnedAway ∧ (x.withResetAt v).unitAns = x.unitAns
    ∧ (x.withResetAt v).busy = x.busy ∧ (x.withResetAt v).lines = x.lines ∧ (x.withResetAt v).tabs = x.tabs
    ∧ (x.withResetAt v).oldTabs = x.oldTabs := by
  repeat' apply And.intro
  all_goals rfl
@[simp] theorem NetSt.withUnreach_fields (x : NetSt) (v : List (Nat × Nat × Nat)) :
    (x.withUnreach v).copies = x.copies ∧ (x.withUnreach v).moves = x.moves ∧ (x.withUnreach v).inbound = x.inbound
    ∧ (x.withUnreach v).cut = x.cut ∧ (x.withUnreach v).glow = x.glow ∧ (x.withUnreach v).redirect = x.redirect
    ∧ (x.withUnreach v).ops = x.ops ∧ (x.withUnreach v).nextOp = x.nextOp ∧ (x.withUnreach v).ecc = x.ecc ∧ (x.withUnreach v).tx = x.tx
    ∧ (x.withUnreach v).rx = x.rx ∧ (x.withUnreach v).ports = x.ports ∧ (x.withUnreach v).ouvIn = x.ouvIn ∧ (x.withUnreach v).srvIn = x.srvIn
    ∧ (x.withUnreach v).ptpIn = x.ptpIn ∧ (x.withUnreach v).ndIn = x.ndIn ∧ (x.withUnreach v).pfcIn = x.pfcIn
    ∧ (x.withUnreach v).wire = x.wire ∧ (x.withUnreach v).owed = x.owed ∧ (x.withUnreach v).quiet = x.quiet
    ∧ (x.withUnreach v).resetAt = x.resetAt ∧ (x.withUnreach v).unreach = v ∧ (x.withUnreach v).manifest = x.manifest
    ∧ (x.withUnreach v).grace = x.grace ∧ (x.withUnreach v).recalls = x.recalls ∧ (x.withUnreach v).turnedAway = x.turnedAway
    ∧ (x.withUnreach v).unitAns = x.unitAns ∧ (x.withUnreach v).busy = x.busy ∧ (x.withUnreach v).lines = x.lines
    ∧ (x.withUnreach v).tabs = x.tabs ∧ (x.withUnreach v).oldTabs = x.oldTabs := by
  repeat' apply And.intro
  all_goals rfl
@[simp] theorem NetSt.withManifest_fields (x : NetSt) (v : Option (Nat × Nat)) :
    (x.withManifest v).copies = x.copies ∧ (x.withManifest v).moves = x.moves ∧ (x.withManifest v).inbound = x.inbound
    ∧ (x.withManifest v).cut = x.cut ∧ (x.withManifest v).glow = x.glow ∧ (x.withManifest v).redirect = x.redirect
    ∧ (x.withManifest v).ops = x.ops ∧ (x.withManifest v).nextOp = x.nextOp ∧ (x.withManifest v).ecc = x.ecc ∧ (x.withManifest v).tx = x.tx
    ∧ (x.withManifest v).rx = x.rx ∧ (x.withManifest v).ports = x.ports ∧ (x.withManifest v).ouvIn = x.ouvIn
    ∧ (x.withManifest v).srvIn = x.srvIn ∧ (x.withManifest v).ptpIn = x.ptpIn ∧ (x.withManifest v).ndIn = x.ndIn
    ∧ (x.withManifest v).pfcIn = x.pfcIn ∧ (x.withManifest v).wire = x.wire ∧ (x.withManifest v).owed = x.owed
    ∧ (x.withManifest v).quiet = x.quiet ∧ (x.withManifest v).resetAt = x.resetAt ∧ (x.withManifest v).unreach = x.unreach
    ∧ (x.withManifest v).manifest = v ∧ (x.withManifest v).grace = x.grace ∧ (x.withManifest v).recalls = x.recalls
    ∧ (x.withManifest v).turnedAway = x.turnedAway ∧ (x.withManifest v).unitAns = x.unitAns ∧ (x.withManifest v).busy = x.busy
    ∧ (x.withManifest v).lines = x.lines ∧ (x.withManifest v).tabs = x.tabs ∧ (x.withManifest v).oldTabs = x.oldTabs := by
  repeat' apply And.intro
  all_goals rfl
@[simp] theorem NetSt.withGrace_fields (x : NetSt) (v : List (Nat × Nat)) :
    (x.withGrace v).copies = x.copies ∧ (x.withGrace v).moves = x.moves ∧ (x.withGrace v).inbound = x.inbound ∧ (x.withGrace v).cut = x.cut
    ∧ (x.withGrace v).glow = x.glow ∧ (x.withGrace v).redirect = x.redirect ∧ (x.withGrace v).ops = x.ops ∧ (x.withGrace v).nextOp = x.nextOp
    ∧ (x.withGrace v).ecc = x.ecc ∧ (x.withGrace v).tx = x.tx ∧ (x.withGrace v).rx = x.rx ∧ (x.withGrace v).ports = x.ports
    ∧ (x.withGrace v).ouvIn = x.ouvIn ∧ (x.withGrace v).srvIn = x.srvIn ∧ (x.withGrace v).ptpIn = x.ptpIn ∧ (x.withGrace v).ndIn = x.ndIn
    ∧ (x.withGrace v).pfcIn = x.pfcIn ∧ (x.withGrace v).wire = x.wire ∧ (x.withGrace v).owed = x.owed ∧ (x.withGrace v).quiet = x.quiet
    ∧ (x.withGrace v).resetAt = x.resetAt ∧ (x.withGrace v).unreach = x.unreach ∧ (x.withGrace v).manifest = x.manifest
    ∧ (x.withGrace v).grace = v ∧ (x.withGrace v).recalls = x.recalls ∧ (x.withGrace v).turnedAway = x.turnedAway
    ∧ (x.withGrace v).unitAns = x.unitAns ∧ (x.withGrace v).busy = x.busy ∧ (x.withGrace v).lines = x.lines ∧ (x.withGrace v).tabs = x.tabs
    ∧ (x.withGrace v).oldTabs = x.oldTabs := by
  repeat' apply And.intro
  all_goals rfl
@[simp] theorem NetSt.withRecalls_fields (x : NetSt) (v : List Nat) :
    (x.withRecalls v).copies = x.copies ∧ (x.withRecalls v).moves = x.moves ∧ (x.withRecalls v).inbound = x.inbound
    ∧ (x.withRecalls v).cut = x.cut ∧ (x.withRecalls v).glow = x.glow ∧ (x.withRecalls v).redirect = x.redirect
    ∧ (x.withRecalls v).ops = x.ops ∧ (x.withRecalls v).nextOp = x.nextOp ∧ (x.withRecalls v).ecc = x.ecc ∧ (x.withRecalls v).tx = x.tx
    ∧ (x.withRecalls v).rx = x.rx ∧ (x.withRecalls v).ports = x.ports ∧ (x.withRecalls v).ouvIn = x.ouvIn ∧ (x.withRecalls v).srvIn = x.srvIn
    ∧ (x.withRecalls v).ptpIn = x.ptpIn ∧ (x.withRecalls v).ndIn = x.ndIn ∧ (x.withRecalls v).pfcIn = x.pfcIn
    ∧ (x.withRecalls v).wire = x.wire ∧ (x.withRecalls v).owed = x.owed ∧ (x.withRecalls v).quiet = x.quiet
    ∧ (x.withRecalls v).resetAt = x.resetAt ∧ (x.withRecalls v).unreach = x.unreach ∧ (x.withRecalls v).manifest = x.manifest
    ∧ (x.withRecalls v).grace = x.grace ∧ (x.withRecalls v).recalls = v ∧ (x.withRecalls v).turnedAway = x.turnedAway
    ∧ (x.withRecalls v).unitAns = x.unitAns ∧ (x.withRecalls v).busy = x.busy ∧ (x.withRecalls v).lines = x.lines
    ∧ (x.withRecalls v).tabs = x.tabs ∧ (x.withRecalls v).oldTabs = x.oldTabs := by
  repeat' apply And.intro
  all_goals rfl
@[simp] theorem NetSt.withTurnedAway_fields (x : NetSt) (v : List (Nat × Nat)) :
    (x.withTurnedAway v).copies = x.copies ∧ (x.withTurnedAway v).moves = x.moves ∧ (x.withTurnedAway v).inbound = x.inbound
    ∧ (x.withTurnedAway v).cut = x.cut ∧ (x.withTurnedAway v).glow = x.glow ∧ (x.withTurnedAway v).redirect = x.redirect
    ∧ (x.withTurnedAway v).ops = x.ops ∧ (x.withTurnedAway v).nextOp = x.nextOp ∧ (x.withTurnedAway v).ecc = x.ecc
    ∧ (x.withTurnedAway v).tx = x.tx ∧ (x.withTurnedAway v).rx = x.rx ∧ (x.withTurnedAway v).ports = x.ports
    ∧ (x.withTurnedAway v).ouvIn = x.ouvIn ∧ (x.withTurnedAway v).srvIn = x.srvIn ∧ (x.withTurnedAway v).ptpIn = x.ptpIn
    ∧ (x.withTurnedAway v).ndIn = x.ndIn ∧ (x.withTurnedAway v).pfcIn = x.pfcIn ∧ (x.withTurnedAway v).wire = x.wire
    ∧ (x.withTurnedAway v).owed = x.owed ∧ (x.withTurnedAway v).quiet = x.quiet ∧ (x.withTurnedAway v).resetAt = x.resetAt
    ∧ (x.withTurnedAway v).unreach = x.unreach ∧ (x.withTurnedAway v).manifest = x.manifest ∧ (x.withTurnedAway v).grace = x.grace
    ∧ (x.withTurnedAway v).recalls = x.recalls ∧ (x.withTurnedAway v).turnedAway = v ∧ (x.withTurnedAway v).unitAns = x.unitAns
    ∧ (x.withTurnedAway v).busy = x.busy ∧ (x.withTurnedAway v).lines = x.lines ∧ (x.withTurnedAway v).tabs = x.tabs
    ∧ (x.withTurnedAway v).oldTabs = x.oldTabs := by
  repeat' apply And.intro
  all_goals rfl
@[simp] theorem NetSt.withUnitAns_fields (x : NetSt) (v : List (MemReq × Ans)) :
    (x.withUnitAns v).copies = x.copies ∧ (x.withUnitAns v).moves = x.moves ∧ (x.withUnitAns v).inbound = x.inbound
    ∧ (x.withUnitAns v).cut = x.cut ∧ (x.withUnitAns v).glow = x.glow ∧ (x.withUnitAns v).redirect = x.redirect
    ∧ (x.withUnitAns v).ops = x.ops ∧ (x.withUnitAns v).nextOp = x.nextOp ∧ (x.withUnitAns v).ecc = x.ecc ∧ (x.withUnitAns v).tx = x.tx
    ∧ (x.withUnitAns v).rx = x.rx ∧ (x.withUnitAns v).ports = x.ports ∧ (x.withUnitAns v).ouvIn = x.ouvIn ∧ (x.withUnitAns v).srvIn = x.srvIn
    ∧ (x.withUnitAns v).ptpIn = x.ptpIn ∧ (x.withUnitAns v).ndIn = x.ndIn ∧ (x.withUnitAns v).pfcIn = x.pfcIn
    ∧ (x.withUnitAns v).wire = x.wire ∧ (x.withUnitAns v).owed = x.owed ∧ (x.withUnitAns v).quiet = x.quiet
    ∧ (x.withUnitAns v).resetAt = x.resetAt ∧ (x.withUnitAns v).unreach = x.unreach ∧ (x.withUnitAns v).manifest = x.manifest
    ∧ (x.withUnitAns v).grace = x.grace ∧ (x.withUnitAns v).recalls = x.recalls ∧ (x.withUnitAns v).turnedAway = x.turnedAway
    ∧ (x.withUnitAns v).unitAns = v ∧ (x.withUnitAns v).busy = x.busy ∧ (x.withUnitAns v).lines = x.lines ∧ (x.withUnitAns v).tabs = x.tabs
    ∧ (x.withUnitAns v).oldTabs = x.oldTabs := by
  repeat' apply And.intro
  all_goals rfl
@[simp] theorem NetSt.withBusy_fields (x : NetSt) (v : List (MemReq × Nat)) :
    (x.withBusy v).copies = x.copies ∧ (x.withBusy v).moves = x.moves ∧ (x.withBusy v).inbound = x.inbound ∧ (x.withBusy v).cut = x.cut
    ∧ (x.withBusy v).glow = x.glow ∧ (x.withBusy v).redirect = x.redirect ∧ (x.withBusy v).ops = x.ops ∧ (x.withBusy v).nextOp = x.nextOp
    ∧ (x.withBusy v).ecc = x.ecc ∧ (x.withBusy v).tx = x.tx ∧ (x.withBusy v).rx = x.rx ∧ (x.withBusy v).ports = x.ports
    ∧ (x.withBusy v).ouvIn = x.ouvIn ∧ (x.withBusy v).srvIn = x.srvIn ∧ (x.withBusy v).ptpIn = x.ptpIn ∧ (x.withBusy v).ndIn = x.ndIn
    ∧ (x.withBusy v).pfcIn = x.pfcIn ∧ (x.withBusy v).wire = x.wire ∧ (x.withBusy v).owed = x.owed ∧ (x.withBusy v).quiet = x.quiet
    ∧ (x.withBusy v).resetAt = x.resetAt ∧ (x.withBusy v).unreach = x.unreach ∧ (x.withBusy v).manifest = x.manifest
    ∧ (x.withBusy v).grace = x.grace ∧ (x.withBusy v).recalls = x.recalls ∧ (x.withBusy v).turnedAway = x.turnedAway
    ∧ (x.withBusy v).unitAns = x.unitAns ∧ (x.withBusy v).busy = v ∧ (x.withBusy v).lines = x.lines ∧ (x.withBusy v).tabs = x.tabs
    ∧ (x.withBusy v).oldTabs = x.oldTabs := by
  repeat' apply And.intro
  all_goals rfl
@[simp] theorem NetSt.withLines_fields (x : NetSt) (v : List (Nat × List (Nat × List Byte))) :
    (x.withLines v).copies = x.copies ∧ (x.withLines v).moves = x.moves ∧ (x.withLines v).inbound = x.inbound ∧ (x.withLines v).cut = x.cut
    ∧ (x.withLines v).glow = x.glow ∧ (x.withLines v).redirect = x.redirect ∧ (x.withLines v).ops = x.ops ∧ (x.withLines v).nextOp = x.nextOp
    ∧ (x.withLines v).ecc = x.ecc ∧ (x.withLines v).tx = x.tx ∧ (x.withLines v).rx = x.rx ∧ (x.withLines v).ports = x.ports
    ∧ (x.withLines v).ouvIn = x.ouvIn ∧ (x.withLines v).srvIn = x.srvIn ∧ (x.withLines v).ptpIn = x.ptpIn ∧ (x.withLines v).ndIn = x.ndIn
    ∧ (x.withLines v).pfcIn = x.pfcIn ∧ (x.withLines v).wire = x.wire ∧ (x.withLines v).owed = x.owed ∧ (x.withLines v).quiet = x.quiet
    ∧ (x.withLines v).resetAt = x.resetAt ∧ (x.withLines v).unreach = x.unreach ∧ (x.withLines v).manifest = x.manifest
    ∧ (x.withLines v).grace = x.grace ∧ (x.withLines v).recalls = x.recalls ∧ (x.withLines v).turnedAway = x.turnedAway
    ∧ (x.withLines v).unitAns = x.unitAns ∧ (x.withLines v).busy = x.busy ∧ (x.withLines v).lines = v ∧ (x.withLines v).tabs = x.tabs
    ∧ (x.withLines v).oldTabs = x.oldTabs := by
  repeat' apply And.intro
  all_goals rfl
@[simp] theorem NetSt.withTabs_fields (x : NetSt) (v : List (Nat × List Byte)) :
    (x.withTabs v).copies = x.copies ∧ (x.withTabs v).moves = x.moves ∧ (x.withTabs v).inbound = x.inbound ∧ (x.withTabs v).cut = x.cut
    ∧ (x.withTabs v).glow = x.glow ∧ (x.withTabs v).redirect = x.redirect ∧ (x.withTabs v).ops = x.ops ∧ (x.withTabs v).nextOp = x.nextOp
    ∧ (x.withTabs v).ecc = x.ecc ∧ (x.withTabs v).tx = x.tx ∧ (x.withTabs v).rx = x.rx ∧ (x.withTabs v).ports = x.ports
    ∧ (x.withTabs v).ouvIn = x.ouvIn ∧ (x.withTabs v).srvIn = x.srvIn ∧ (x.withTabs v).ptpIn = x.ptpIn ∧ (x.withTabs v).ndIn = x.ndIn
    ∧ (x.withTabs v).pfcIn = x.pfcIn ∧ (x.withTabs v).wire = x.wire ∧ (x.withTabs v).owed = x.owed ∧ (x.withTabs v).quiet = x.quiet
    ∧ (x.withTabs v).resetAt = x.resetAt ∧ (x.withTabs v).unreach = x.unreach ∧ (x.withTabs v).manifest = x.manifest
    ∧ (x.withTabs v).grace = x.grace ∧ (x.withTabs v).recalls = x.recalls ∧ (x.withTabs v).turnedAway = x.turnedAway
    ∧ (x.withTabs v).unitAns = x.unitAns ∧ (x.withTabs v).busy = x.busy ∧ (x.withTabs v).lines = x.lines ∧ (x.withTabs v).tabs = v
    ∧ (x.withTabs v).oldTabs = x.oldTabs := by
  repeat' apply And.intro
  all_goals rfl
@[simp] theorem NetSt.withOldTabs_fields (x : NetSt) (v : List (Nat × List Byte)) :
    (x.withOldTabs v).copies = x.copies ∧ (x.withOldTabs v).moves = x.moves ∧ (x.withOldTabs v).inbound = x.inbound
    ∧ (x.withOldTabs v).cut = x.cut ∧ (x.withOldTabs v).glow = x.glow ∧ (x.withOldTabs v).redirect = x.redirect
    ∧ (x.withOldTabs v).ops = x.ops ∧ (x.withOldTabs v).nextOp = x.nextOp ∧ (x.withOldTabs v).ecc = x.ecc ∧ (x.withOldTabs v).tx = x.tx
    ∧ (x.withOldTabs v).rx = x.rx ∧ (x.withOldTabs v).ports = x.ports ∧ (x.withOldTabs v).ouvIn = x.ouvIn ∧ (x.withOldTabs v).srvIn = x.srvIn
    ∧ (x.withOldTabs v).ptpIn = x.ptpIn ∧ (x.withOldTabs v).ndIn = x.ndIn ∧ (x.withOldTabs v).pfcIn = x.pfcIn
    ∧ (x.withOldTabs v).wire = x.wire ∧ (x.withOldTabs v).owed = x.owed ∧ (x.withOldTabs v).quiet = x.quiet
    ∧ (x.withOldTabs v).resetAt = x.resetAt ∧ (x.withOldTabs v).unreach = x.unreach ∧ (x.withOldTabs v).manifest = x.manifest
    ∧ (x.withOldTabs v).grace = x.grace ∧ (x.withOldTabs v).recalls = x.recalls ∧ (x.withOldTabs v).turnedAway = x.turnedAway
    ∧ (x.withOldTabs v).unitAns = x.unitAns ∧ (x.withOldTabs v).busy = x.busy ∧ (x.withOldTabs v).lines = x.lines
    ∧ (x.withOldTabs v).tabs = x.tabs ∧ (x.withOldTabs v).oldTabs = v := by
  repeat' apply And.intro
  all_goals rfl
@[simp] theorem OutFrame.withBody_fields (x : OutFrame) (v : List Byte) :
    (x.withBody v).kind = x.kind ∧ (x.withBody v).tc = x.tc ∧ (x.withBody v).mac = x.mac ∧ (x.withBody v).vlan = x.vlan
    ∧ (x.withBody v).udp = x.udp ∧ (x.withBody v).flow = x.flow ∧ (x.withBody v).body = v ∧ (x.withBody v).born = x.born := by
  repeat' apply And.intro
  all_goals rfl
@[simp] theorem Piece.withAddr_fields (x : Piece) (v : Nat) :
    (x.withAddr v).id = x.id ∧ (x.withAddr v).reg = x.reg ∧ (x.withAddr v).ctx = x.ctx ∧ (x.withAddr v).epoch = x.epoch
    ∧ (x.withAddr v).strm = x.strm ∧ (x.withAddr v).write = x.write ∧ (x.withAddr v).ring = x.ring ∧ (x.withAddr v).resv = x.resv
    ∧ (x.withAddr v).sb = x.sb ∧ (x.withAddr v).addr = v ∧ (x.withAddr v).off = x.off ∧ (x.withAddr v).len = x.len
    ∧ (x.withAddr v).relay = x.relay ∧ (x.withAddr v).data = x.data ∧ (x.withAddr v).pc = x.pc ∧ (x.withAddr v).bind = x.bind
    ∧ (x.withAddr v).tries = x.tries ∧ (x.withAddr v).born = x.born ∧ (x.withAddr v).busy = x.busy ∧ (x.withAddr v).lead = x.lead
    ∧ (x.withAddr v).place = x.place := by
  repeat' apply And.intro
  all_goals rfl
@[simp] theorem Piece.withTries_fields (x : Piece) (v : Nat) :
    (x.withTries v).id = x.id ∧ (x.withTries v).reg = x.reg ∧ (x.withTries v).ctx = x.ctx ∧ (x.withTries v).epoch = x.epoch
    ∧ (x.withTries v).strm = x.strm ∧ (x.withTries v).write = x.write ∧ (x.withTries v).ring = x.ring ∧ (x.withTries v).resv = x.resv
    ∧ (x.withTries v).sb = x.sb ∧ (x.withTries v).addr = x.addr ∧ (x.withTries v).off = x.off ∧ (x.withTries v).len = x.len
    ∧ (x.withTries v).relay = x.relay ∧ (x.withTries v).data = x.data ∧ (x.withTries v).pc = x.pc ∧ (x.withTries v).bind = x.bind
    ∧ (x.withTries v).tries = v ∧ (x.withTries v).born = x.born ∧ (x.withTries v).busy = x.busy ∧ (x.withTries v).lead = x.lead
    ∧ (x.withTries v).place = x.place := by
  repeat' apply And.intro
  all_goals rfl
@[simp] theorem Piece.withBusy_fields (x : Piece) (v : Bool) :
    (x.withBusy v).id = x.id ∧ (x.withBusy v).reg = x.reg ∧ (x.withBusy v).ctx = x.ctx ∧ (x.withBusy v).epoch = x.epoch
    ∧ (x.withBusy v).strm = x.strm ∧ (x.withBusy v).write = x.write ∧ (x.withBusy v).ring = x.ring ∧ (x.withBusy v).resv = x.resv
    ∧ (x.withBusy v).sb = x.sb ∧ (x.withBusy v).addr = x.addr ∧ (x.withBusy v).off = x.off ∧ (x.withBusy v).len = x.len
    ∧ (x.withBusy v).relay = x.relay ∧ (x.withBusy v).data = x.data ∧ (x.withBusy v).pc = x.pc ∧ (x.withBusy v).bind = x.bind
    ∧ (x.withBusy v).tries = x.tries ∧ (x.withBusy v).born = x.born ∧ (x.withBusy v).busy = v ∧ (x.withBusy v).lead = x.lead
    ∧ (x.withBusy v).place = x.place := by
  repeat' apply And.intro
  all_goals rfl
@[simp] theorem Piece.withLead_fields (x : Piece) (v : Nat) :
    (x.withLead v).id = x.id ∧ (x.withLead v).reg = x.reg ∧ (x.withLead v).ctx = x.ctx ∧ (x.withLead v).epoch = x.epoch
    ∧ (x.withLead v).strm = x.strm ∧ (x.withLead v).write = x.write ∧ (x.withLead v).ring = x.ring ∧ (x.withLead v).resv = x.resv
    ∧ (x.withLead v).sb = x.sb ∧ (x.withLead v).addr = x.addr ∧ (x.withLead v).off = x.off ∧ (x.withLead v).len = x.len
    ∧ (x.withLead v).relay = x.relay ∧ (x.withLead v).data = x.data ∧ (x.withLead v).pc = x.pc ∧ (x.withLead v).bind = x.bind
    ∧ (x.withLead v).tries = x.tries ∧ (x.withLead v).born = x.born ∧ (x.withLead v).busy = x.busy ∧ (x.withLead v).lead = v
    ∧ (x.withLead v).place = x.place := by
  repeat' apply And.intro
  all_goals rfl
@[simp] theorem Piece.withPlace_fields (x : Piece) (v : Nat) :
    (x.withPlace v).id = x.id ∧ (x.withPlace v).reg = x.reg ∧ (x.withPlace v).ctx = x.ctx ∧ (x.withPlace v).epoch = x.epoch
    ∧ (x.withPlace v).strm = x.strm ∧ (x.withPlace v).write = x.write ∧ (x.withPlace v).ring = x.ring ∧ (x.withPlace v).resv = x.resv
    ∧ (x.withPlace v).sb = x.sb ∧ (x.withPlace v).addr = x.addr ∧ (x.withPlace v).off = x.off ∧ (x.withPlace v).len = x.len
    ∧ (x.withPlace v).relay = x.relay ∧ (x.withPlace v).data = x.data ∧ (x.withPlace v).pc = x.pc ∧ (x.withPlace v).bind = x.bind
    ∧ (x.withPlace v).tries = x.tries ∧ (x.withPlace v).born = x.born ∧ (x.withPlace v).busy = x.busy ∧ (x.withPlace v).lead = x.lead
    ∧ (x.withPlace v).place = v := by
  repeat' apply And.intro
  all_goals rfl
@[simp] theorem PkgJob.withPassing_fields (x : PkgJob) (v : Bool) :
    (x.withPassing v).addr = x.addr ∧ (x.withPassing v).ph = x.ph ∧ (x.withPassing v).desc = x.desc ∧ (x.withPassing v).entry = x.entry
    ∧ (x.withPassing v).header = x.header ∧ (x.withPassing v).layer = x.layer ∧ (x.withPassing v).chunk = x.chunk
    ∧ (x.withPassing v).seen = x.seen ∧ (x.withPassing v).status = x.status ∧ (x.withPassing v).parts = x.parts
    ∧ (x.withPassing v).copied = x.copied ∧ (x.withPassing v).failed = x.failed ∧ (x.withPassing v).passing = v
    ∧ (x.withPassing v).away = x.away ∧ (x.withPassing v).bad = x.bad ∧ (x.withPassing v).heard = x.heard := by
  repeat' apply And.intro
  all_goals rfl
@[simp] theorem PkgJob.withAway_fields (x : PkgJob) (v : Nat) :
    (x.withAway v).addr = x.addr ∧ (x.withAway v).ph = x.ph ∧ (x.withAway v).desc = x.desc ∧ (x.withAway v).entry = x.entry
    ∧ (x.withAway v).header = x.header ∧ (x.withAway v).layer = x.layer ∧ (x.withAway v).chunk = x.chunk ∧ (x.withAway v).seen = x.seen
    ∧ (x.withAway v).status = x.status ∧ (x.withAway v).parts = x.parts ∧ (x.withAway v).copied = x.copied ∧ (x.withAway v).failed = x.failed
    ∧ (x.withAway v).passing = x.passing ∧ (x.withAway v).away = v ∧ (x.withAway v).bad = x.bad ∧ (x.withAway v).heard = x.heard := by
  repeat' apply And.intro
  all_goals rfl
@[simp] theorem PkgJob.withBad_fields (x : PkgJob) (v : Nat) :
    (x.withBad v).addr = x.addr ∧ (x.withBad v).ph = x.ph ∧ (x.withBad v).desc = x.desc ∧ (x.withBad v).entry = x.entry
    ∧ (x.withBad v).header = x.header ∧ (x.withBad v).layer = x.layer ∧ (x.withBad v).chunk = x.chunk ∧ (x.withBad v).seen = x.seen
    ∧ (x.withBad v).status = x.status ∧ (x.withBad v).parts = x.parts ∧ (x.withBad v).copied = x.copied ∧ (x.withBad v).failed = x.failed
    ∧ (x.withBad v).passing = x.passing ∧ (x.withBad v).away = x.away ∧ (x.withBad v).bad = v ∧ (x.withBad v).heard = x.heard := by
  repeat' apply And.intro
  all_goals rfl
@[simp] theorem PkgJob.withHeard_fields (x : PkgJob) (v : Nat) :
    (x.withHeard v).addr = x.addr ∧ (x.withHeard v).ph = x.ph ∧ (x.withHeard v).desc = x.desc ∧ (x.withHeard v).entry = x.entry
    ∧ (x.withHeard v).header = x.header ∧ (x.withHeard v).layer = x.layer ∧ (x.withHeard v).chunk = x.chunk ∧ (x.withHeard v).seen = x.seen
    ∧ (x.withHeard v).status = x.status ∧ (x.withHeard v).parts = x.parts ∧ (x.withHeard v).copied = x.copied
    ∧ (x.withHeard v).failed = x.failed ∧ (x.withHeard v).passing = x.passing ∧ (x.withHeard v).away = x.away ∧ (x.withHeard v).bad = x.bad
    ∧ (x.withHeard v).heard = v := by
  repeat' apply And.intro
  all_goals rfl
@[simp] theorem PkgJob.withPh_fields (x : PkgJob) (v : PkgPh) :
    (x.withPh v).addr = x.addr ∧ (x.withPh v).ph = v ∧ (x.withPh v).desc = x.desc ∧ (x.withPh v).entry = x.entry
    ∧ (x.withPh v).header = x.header ∧ (x.withPh v).layer = x.layer ∧ (x.withPh v).chunk = x.chunk ∧ (x.withPh v).seen = x.seen
    ∧ (x.withPh v).status = x.status ∧ (x.withPh v).parts = x.parts ∧ (x.withPh v).copied = x.copied ∧ (x.withPh v).failed = x.failed
    ∧ (x.withPh v).passing = x.passing ∧ (x.withPh v).away = x.away ∧ (x.withPh v).bad = x.bad ∧ (x.withPh v).heard = x.heard := by
  repeat' apply And.intro
  all_goals rfl
@[simp] theorem PkgJob.withDesc_fields (x : PkgJob) (v : List Byte) :
    (x.withDesc v).addr = x.addr ∧ (x.withDesc v).ph = x.ph ∧ (x.withDesc v).desc = v ∧ (x.withDesc v).entry = x.entry
    ∧ (x.withDesc v).header = x.header ∧ (x.withDesc v).layer = x.layer ∧ (x.withDesc v).chunk = x.chunk ∧ (x.withDesc v).seen = x.seen
    ∧ (x.withDesc v).status = x.status ∧ (x.withDesc v).parts = x.parts ∧ (x.withDesc v).copied = x.copied ∧ (x.withDesc v).failed = x.failed
    ∧ (x.withDesc v).passing = x.passing ∧ (x.withDesc v).away = x.away ∧ (x.withDesc v).bad = x.bad ∧ (x.withDesc v).heard = x.heard := by
  repeat' apply And.intro
  all_goals rfl
@[simp] theorem PkgJob.withEntry_fields (x : PkgJob) (v : List Byte) :
    (x.withEntry v).addr = x.addr ∧ (x.withEntry v).ph = x.ph ∧ (x.withEntry v).desc = x.desc ∧ (x.withEntry v).entry = v
    ∧ (x.withEntry v).header = x.header ∧ (x.withEntry v).layer = x.layer ∧ (x.withEntry v).chunk = x.chunk ∧ (x.withEntry v).seen = x.seen
    ∧ (x.withEntry v).status = x.status ∧ (x.withEntry v).parts = x.parts ∧ (x.withEntry v).copied = x.copied
    ∧ (x.withEntry v).failed = x.failed ∧ (x.withEntry v).passing = x.passing ∧ (x.withEntry v).away = x.away ∧ (x.withEntry v).bad = x.bad
    ∧ (x.withEntry v).heard = x.heard := by
  repeat' apply And.intro
  all_goals rfl
@[simp] theorem PkgJob.withHeader_fields (x : PkgJob) (v : List Byte) :
    (x.withHeader v).addr = x.addr ∧ (x.withHeader v).ph = x.ph ∧ (x.withHeader v).desc = x.desc ∧ (x.withHeader v).entry = x.entry
    ∧ (x.withHeader v).header = v ∧ (x.withHeader v).layer = x.layer ∧ (x.withHeader v).chunk = x.chunk ∧ (x.withHeader v).seen = x.seen
    ∧ (x.withHeader v).status = x.status ∧ (x.withHeader v).parts = x.parts ∧ (x.withHeader v).copied = x.copied
    ∧ (x.withHeader v).failed = x.failed ∧ (x.withHeader v).passing = x.passing ∧ (x.withHeader v).away = x.away
    ∧ (x.withHeader v).bad = x.bad ∧ (x.withHeader v).heard = x.heard := by
  repeat' apply And.intro
  all_goals rfl
@[simp] theorem PkgJob.withLayer_fields (x : PkgJob) (v : Nat) :
    (x.withLayer v).addr = x.addr ∧ (x.withLayer v).ph = x.ph ∧ (x.withLayer v).desc = x.desc ∧ (x.withLayer v).entry = x.entry
    ∧ (x.withLayer v).header = x.header ∧ (x.withLayer v).layer = v ∧ (x.withLayer v).chunk = x.chunk ∧ (x.withLayer v).seen = x.seen
    ∧ (x.withLayer v).status = x.status ∧ (x.withLayer v).parts = x.parts ∧ (x.withLayer v).copied = x.copied
    ∧ (x.withLayer v).failed = x.failed ∧ (x.withLayer v).passing = x.passing ∧ (x.withLayer v).away = x.away ∧ (x.withLayer v).bad = x.bad
    ∧ (x.withLayer v).heard = x.heard := by
  repeat' apply And.intro
  all_goals rfl
@[simp] theorem PkgJob.withChunk_fields (x : PkgJob) (v : Nat) :
    (x.withChunk v).addr = x.addr ∧ (x.withChunk v).ph = x.ph ∧ (x.withChunk v).desc = x.desc ∧ (x.withChunk v).entry = x.entry
    ∧ (x.withChunk v).header = x.header ∧ (x.withChunk v).layer = x.layer ∧ (x.withChunk v).chunk = v ∧ (x.withChunk v).seen = x.seen
    ∧ (x.withChunk v).status = x.status ∧ (x.withChunk v).parts = x.parts ∧ (x.withChunk v).copied = x.copied
    ∧ (x.withChunk v).failed = x.failed ∧ (x.withChunk v).passing = x.passing ∧ (x.withChunk v).away = x.away ∧ (x.withChunk v).bad = x.bad
    ∧ (x.withChunk v).heard = x.heard := by
  repeat' apply And.intro
  all_goals rfl
@[simp] theorem PkgJob.withSeen_fields (x : PkgJob) (v : List Byte) :
    (x.withSeen v).addr = x.addr ∧ (x.withSeen v).ph = x.ph ∧ (x.withSeen v).desc = x.desc ∧ (x.withSeen v).entry = x.entry
    ∧ (x.withSeen v).header = x.header ∧ (x.withSeen v).layer = x.layer ∧ (x.withSeen v).chunk = x.chunk ∧ (x.withSeen v).seen = v
    ∧ (x.withSeen v).status = x.status ∧ (x.withSeen v).parts = x.parts ∧ (x.withSeen v).copied = x.copied ∧ (x.withSeen v).failed = x.failed
    ∧ (x.withSeen v).passing = x.passing ∧ (x.withSeen v).away = x.away ∧ (x.withSeen v).bad = x.bad ∧ (x.withSeen v).heard = x.heard := by
  repeat' apply And.intro
  all_goals rfl
@[simp] theorem PkgJob.withStatus_fields (x : PkgJob) (v : Nat) :
    (x.withStatus v).addr = x.addr ∧ (x.withStatus v).ph = x.ph ∧ (x.withStatus v).desc = x.desc ∧ (x.withStatus v).entry = x.entry
    ∧ (x.withStatus v).header = x.header ∧ (x.withStatus v).layer = x.layer ∧ (x.withStatus v).chunk = x.chunk
    ∧ (x.withStatus v).seen = x.seen ∧ (x.withStatus v).status = v ∧ (x.withStatus v).parts = x.parts ∧ (x.withStatus v).copied = x.copied
    ∧ (x.withStatus v).failed = x.failed ∧ (x.withStatus v).passing = x.passing ∧ (x.withStatus v).away = x.away
    ∧ (x.withStatus v).bad = x.bad ∧ (x.withStatus v).heard = x.heard := by
  repeat' apply And.intro
  all_goals rfl
@[simp] theorem PkgJob.withParts_fields (x : PkgJob) (v : Nat) :
    (x.withParts v).addr = x.addr ∧ (x.withParts v).ph = x.ph ∧ (x.withParts v).desc = x.desc ∧ (x.withParts v).entry = x.entry
    ∧ (x.withParts v).header = x.header ∧ (x.withParts v).layer = x.layer ∧ (x.withParts v).chunk = x.chunk ∧ (x.withParts v).seen = x.seen
    ∧ (x.withParts v).status = x.status ∧ (x.withParts v).parts = v ∧ (x.withParts v).copied = x.copied ∧ (x.withParts v).failed = x.failed
    ∧ (x.withParts v).passing = x.passing ∧ (x.withParts v).away = x.away ∧ (x.withParts v).bad = x.bad ∧ (x.withParts v).heard = x.heard := by
  repeat' apply And.intro
  all_goals rfl
@[simp] theorem PkgJob.withCopied_fields (x : PkgJob) (v : Nat) :
    (x.withCopied v).addr = x.addr ∧ (x.withCopied v).ph = x.ph ∧ (x.withCopied v).desc = x.desc ∧ (x.withCopied v).entry = x.entry
    ∧ (x.withCopied v).header = x.header ∧ (x.withCopied v).layer = x.layer ∧ (x.withCopied v).chunk = x.chunk
    ∧ (x.withCopied v).seen = x.seen ∧ (x.withCopied v).status = x.status ∧ (x.withCopied v).parts = x.parts ∧ (x.withCopied v).copied = v
    ∧ (x.withCopied v).failed = x.failed ∧ (x.withCopied v).passing = x.passing ∧ (x.withCopied v).away = x.away
    ∧ (x.withCopied v).bad = x.bad ∧ (x.withCopied v).heard = x.heard := by
  repeat' apply And.intro
  all_goals rfl
@[simp] theorem PkgJob.withFailed_fields (x : PkgJob) (v : Nat) :
    (x.withFailed v).addr = x.addr ∧ (x.withFailed v).ph = x.ph ∧ (x.withFailed v).desc = x.desc ∧ (x.withFailed v).entry = x.entry
    ∧ (x.withFailed v).header = x.header ∧ (x.withFailed v).layer = x.layer ∧ (x.withFailed v).chunk = x.chunk
    ∧ (x.withFailed v).seen = x.seen ∧ (x.withFailed v).status = x.status ∧ (x.withFailed v).parts = x.parts
    ∧ (x.withFailed v).copied = x.copied ∧ (x.withFailed v).failed = v ∧ (x.withFailed v).passing = x.passing
    ∧ (x.withFailed v).away = x.away ∧ (x.withFailed v).bad = x.bad ∧ (x.withFailed v).heard = x.heard := by
  repeat' apply And.intro
  all_goals rfl
@[simp] theorem PkgSt.withJobs_fields (x : PkgSt) (v : List PkgJob) :
    (x.withJobs v).jobs = v ∧ (x.withJobs v).verified = x.verified ∧ (x.withJobs v).placed = x.placed ∧ (x.withJobs v).held = x.held := by
  repeat' apply And.intro
  all_goals rfl
@[simp] theorem PkgSt.withVerified_fields (x : PkgSt) (v : List (Nat × List Byte)) :
    (x.withVerified v).jobs = x.jobs ∧ (x.withVerified v).verified = v ∧ (x.withVerified v).placed = x.placed
    ∧ (x.withVerified v).held = x.held := by
  repeat' apply And.intro
  all_goals rfl
@[simp] theorem PkgSt.withPlaced_fields (x : PkgSt) (v : List Placed) :
    (x.withPlaced v).jobs = x.jobs ∧ (x.withPlaced v).verified = x.verified ∧ (x.withPlaced v).placed = v ∧ (x.withPlaced v).held = x.held := by
  repeat' apply And.intro
  all_goals rfl
@[simp] theorem PkgSt.withHeld_fields (x : PkgSt) (v : List (Nat × Nat)) :
    (x.withHeld v).jobs = x.jobs ∧ (x.withHeld v).verified = x.verified ∧ (x.withHeld v).placed = x.placed ∧ (x.withHeld v).held = v := by
  repeat' apply And.intro
  all_goals rfl
@[simp] theorem PrismJob.withSt_fields (x : PrismJob) (v : JobSt) :
    (x.withSt v).addr = x.addr ∧ (x.withSt v).since = x.since ∧ (x.withSt v).st = v ∧ (x.withSt v).desc = x.desc ∧ (x.withSt v).ents = x.ents
    ∧ (x.withSt v).ctl = x.ctl ∧ (x.withSt v).base = x.base := by
  repeat' apply And.intro
  all_goals rfl
@[simp] theorem PrismJob.withDesc_fields (x : PrismJob) (v : List Byte) :
    (x.withDesc v).addr = x.addr ∧ (x.withDesc v).since = x.since ∧ (x.withDesc v).st = x.st ∧ (x.withDesc v).desc = v
    ∧ (x.withDesc v).ents = x.ents ∧ (x.withDesc v).ctl = x.ctl ∧ (x.withDesc v).base = x.base := by
  repeat' apply And.intro
  all_goals rfl
@[simp] theorem PrismJob.withEnts_fields (x : PrismJob) (v : List (List Byte)) :
    (x.withEnts v).addr = x.addr ∧ (x.withEnts v).since = x.since ∧ (x.withEnts v).st = x.st ∧ (x.withEnts v).desc = x.desc
    ∧ (x.withEnts v).ents = v ∧ (x.withEnts v).ctl = x.ctl ∧ (x.withEnts v).base = x.base := by
  repeat' apply And.intro
  all_goals rfl
@[simp] theorem PrismJob.withCtl_fields (x : PrismJob) (v : W64) :
    (x.withCtl v).addr = x.addr ∧ (x.withCtl v).since = x.since ∧ (x.withCtl v).st = x.st ∧ (x.withCtl v).desc = x.desc
    ∧ (x.withCtl v).ents = x.ents ∧ (x.withCtl v).ctl = v ∧ (x.withCtl v).base = x.base := by
  repeat' apply And.intro
  all_goals rfl
@[simp] theorem PrismJob.withBase_fields (x : PrismJob) (v : W64) :
    (x.withBase v).addr = x.addr ∧ (x.withBase v).since = x.since ∧ (x.withBase v).st = x.st ∧ (x.withBase v).desc = x.desc
    ∧ (x.withBase v).ents = x.ents ∧ (x.withBase v).ctl = x.ctl ∧ (x.withBase v).base = v := by
  repeat' apply And.intro
  all_goals rfl
@[simp] theorem PtpRx.withSyncSeq_fields (x : PtpRx) (v : Nat) :
    (x.withSyncSeq v).syncSeq = v ∧ (x.withSyncSeq v).syncAt = x.syncAt ∧ (x.withSyncSeq v).syncCorr = x.syncCorr
    ∧ (x.withSyncSeq v).t1 = x.t1 ∧ (x.withSyncSeq v).t2 = x.t2 ∧ (x.withSyncSeq v).reqSeq = x.reqSeq ∧ (x.withSyncSeq v).reqAt = x.reqAt
    ∧ (x.withSyncSeq v).respSeq = x.respSeq ∧ (x.withSyncSeq v).respAt = x.respAt ∧ (x.withSyncSeq v).peerIn = x.peerIn
    ∧ (x.withSyncSeq v).peerCorr = x.peerCorr ∧ (x.withSyncSeq v).delay = x.delay := by
  repeat' apply And.intro
  all_goals rfl
@[simp] theorem PtpRx.withSyncAt_fields (x : PtpRx) (v : Option Nat) :
    (x.withSyncAt v).syncSeq = x.syncSeq ∧ (x.withSyncAt v).syncAt = v ∧ (x.withSyncAt v).syncCorr = x.syncCorr ∧ (x.withSyncAt v).t1 = x.t1
    ∧ (x.withSyncAt v).t2 = x.t2 ∧ (x.withSyncAt v).reqSeq = x.reqSeq ∧ (x.withSyncAt v).reqAt = x.reqAt
    ∧ (x.withSyncAt v).respSeq = x.respSeq ∧ (x.withSyncAt v).respAt = x.respAt ∧ (x.withSyncAt v).peerIn = x.peerIn
    ∧ (x.withSyncAt v).peerCorr = x.peerCorr ∧ (x.withSyncAt v).delay = x.delay := by
  repeat' apply And.intro
  all_goals rfl
@[simp] theorem PtpRx.withSyncCorr_fields (x : PtpRx) (v : Int) :
    (x.withSyncCorr v).syncSeq = x.syncSeq ∧ (x.withSyncCorr v).syncAt = x.syncAt ∧ (x.withSyncCorr v).syncCorr = v
    ∧ (x.withSyncCorr v).t1 = x.t1 ∧ (x.withSyncCorr v).t2 = x.t2 ∧ (x.withSyncCorr v).reqSeq = x.reqSeq ∧ (x.withSyncCorr v).reqAt = x.reqAt
    ∧ (x.withSyncCorr v).respSeq = x.respSeq ∧ (x.withSyncCorr v).respAt = x.respAt ∧ (x.withSyncCorr v).peerIn = x.peerIn
    ∧ (x.withSyncCorr v).peerCorr = x.peerCorr ∧ (x.withSyncCorr v).delay = x.delay := by
  repeat' apply And.intro
  all_goals rfl
@[simp] theorem PtpRx.withT1_fields (x : PtpRx) (v : Option Int) :
    (x.withT1 v).syncSeq = x.syncSeq ∧ (x.withT1 v).syncAt = x.syncAt ∧ (x.withT1 v).syncCorr = x.syncCorr ∧ (x.withT1 v).t1 = v
    ∧ (x.withT1 v).t2 = x.t2 ∧ (x.withT1 v).reqSeq = x.reqSeq ∧ (x.withT1 v).reqAt = x.reqAt ∧ (x.withT1 v).respSeq = x.respSeq
    ∧ (x.withT1 v).respAt = x.respAt ∧ (x.withT1 v).peerIn = x.peerIn ∧ (x.withT1 v).peerCorr = x.peerCorr ∧ (x.withT1 v).delay = x.delay := by
  repeat' apply And.intro
  all_goals rfl
@[simp] theorem PtpRx.withT2_fields (x : PtpRx) (v : Nat) :
    (x.withT2 v).syncSeq = x.syncSeq ∧ (x.withT2 v).syncAt = x.syncAt ∧ (x.withT2 v).syncCorr = x.syncCorr ∧ (x.withT2 v).t1 = x.t1
    ∧ (x.withT2 v).t2 = v ∧ (x.withT2 v).reqSeq = x.reqSeq ∧ (x.withT2 v).reqAt = x.reqAt ∧ (x.withT2 v).respSeq = x.respSeq
    ∧ (x.withT2 v).respAt = x.respAt ∧ (x.withT2 v).peerIn = x.peerIn ∧ (x.withT2 v).peerCorr = x.peerCorr ∧ (x.withT2 v).delay = x.delay := by
  repeat' apply And.intro
  all_goals rfl
@[simp] theorem PtpRx.withReqSeq_fields (x : PtpRx) (v : Nat) :
    (x.withReqSeq v).syncSeq = x.syncSeq ∧ (x.withReqSeq v).syncAt = x.syncAt ∧ (x.withReqSeq v).syncCorr = x.syncCorr
    ∧ (x.withReqSeq v).t1 = x.t1 ∧ (x.withReqSeq v).t2 = x.t2 ∧ (x.withReqSeq v).reqSeq = v ∧ (x.withReqSeq v).reqAt = x.reqAt
    ∧ (x.withReqSeq v).respSeq = x.respSeq ∧ (x.withReqSeq v).respAt = x.respAt ∧ (x.withReqSeq v).peerIn = x.peerIn
    ∧ (x.withReqSeq v).peerCorr = x.peerCorr ∧ (x.withReqSeq v).delay = x.delay := by
  repeat' apply And.intro
  all_goals rfl
@[simp] theorem PtpRx.withReqAt_fields (x : PtpRx) (v : Option Nat) :
    (x.withReqAt v).syncSeq = x.syncSeq ∧ (x.withReqAt v).syncAt = x.syncAt ∧ (x.withReqAt v).syncCorr = x.syncCorr
    ∧ (x.withReqAt v).t1 = x.t1 ∧ (x.withReqAt v).t2 = x.t2 ∧ (x.withReqAt v).reqSeq = x.reqSeq ∧ (x.withReqAt v).reqAt = v
    ∧ (x.withReqAt v).respSeq = x.respSeq ∧ (x.withReqAt v).respAt = x.respAt ∧ (x.withReqAt v).peerIn = x.peerIn
    ∧ (x.withReqAt v).peerCorr = x.peerCorr ∧ (x.withReqAt v).delay = x.delay := by
  repeat' apply And.intro
  all_goals rfl
@[simp] theorem PtpRx.withRespSeq_fields (x : PtpRx) (v : Nat) :
    (x.withRespSeq v).syncSeq = x.syncSeq ∧ (x.withRespSeq v).syncAt = x.syncAt ∧ (x.withRespSeq v).syncCorr = x.syncCorr
    ∧ (x.withRespSeq v).t1 = x.t1 ∧ (x.withRespSeq v).t2 = x.t2 ∧ (x.withRespSeq v).reqSeq = x.reqSeq ∧ (x.withRespSeq v).reqAt = x.reqAt
    ∧ (x.withRespSeq v).respSeq = v ∧ (x.withRespSeq v).respAt = x.respAt ∧ (x.withRespSeq v).peerIn = x.peerIn
    ∧ (x.withRespSeq v).peerCorr = x.peerCorr ∧ (x.withRespSeq v).delay = x.delay := by
  repeat' apply And.intro
  all_goals rfl
@[simp] theorem PtpRx.withRespAt_fields (x : PtpRx) (v : Option Nat) :
    (x.withRespAt v).syncSeq = x.syncSeq ∧ (x.withRespAt v).syncAt = x.syncAt ∧ (x.withRespAt v).syncCorr = x.syncCorr
    ∧ (x.withRespAt v).t1 = x.t1 ∧ (x.withRespAt v).t2 = x.t2 ∧ (x.withRespAt v).reqSeq = x.reqSeq ∧ (x.withRespAt v).reqAt = x.reqAt
    ∧ (x.withRespAt v).respSeq = x.respSeq ∧ (x.withRespAt v).respAt = v ∧ (x.withRespAt v).peerIn = x.peerIn
    ∧ (x.withRespAt v).peerCorr = x.peerCorr ∧ (x.withRespAt v).delay = x.delay := by
  repeat' apply And.intro
  all_goals rfl
@[simp] theorem PtpRx.withPeerIn_fields (x : PtpRx) (v : Int) :
    (x.withPeerIn v).syncSeq = x.syncSeq ∧ (x.withPeerIn v).syncAt = x.syncAt ∧ (x.withPeerIn v).syncCorr = x.syncCorr
    ∧ (x.withPeerIn v).t1 = x.t1 ∧ (x.withPeerIn v).t2 = x.t2 ∧ (x.withPeerIn v).reqSeq = x.reqSeq ∧ (x.withPeerIn v).reqAt = x.reqAt
    ∧ (x.withPeerIn v).respSeq = x.respSeq ∧ (x.withPeerIn v).respAt = x.respAt ∧ (x.withPeerIn v).peerIn = v
    ∧ (x.withPeerIn v).peerCorr = x.peerCorr ∧ (x.withPeerIn v).delay = x.delay := by
  repeat' apply And.intro
  all_goals rfl
@[simp] theorem PtpRx.withPeerCorr_fields (x : PtpRx) (v : Int) :
    (x.withPeerCorr v).syncSeq = x.syncSeq ∧ (x.withPeerCorr v).syncAt = x.syncAt ∧ (x.withPeerCorr v).syncCorr = x.syncCorr
    ∧ (x.withPeerCorr v).t1 = x.t1 ∧ (x.withPeerCorr v).t2 = x.t2 ∧ (x.withPeerCorr v).reqSeq = x.reqSeq ∧ (x.withPeerCorr v).reqAt = x.reqAt
    ∧ (x.withPeerCorr v).respSeq = x.respSeq ∧ (x.withPeerCorr v).respAt = x.respAt ∧ (x.withPeerCorr v).peerIn = x.peerIn
    ∧ (x.withPeerCorr v).peerCorr = v ∧ (x.withPeerCorr v).delay = x.delay := by
  repeat' apply And.intro
  all_goals rfl
@[simp] theorem PtpRx.withDelay_fields (x : PtpRx) (v : Option Nat) :
    (x.withDelay v).syncSeq = x.syncSeq ∧ (x.withDelay v).syncAt = x.syncAt ∧ (x.withDelay v).syncCorr = x.syncCorr
    ∧ (x.withDelay v).t1 = x.t1 ∧ (x.withDelay v).t2 = x.t2 ∧ (x.withDelay v).reqSeq = x.reqSeq ∧ (x.withDelay v).reqAt = x.reqAt
    ∧ (x.withDelay v).respSeq = x.respSeq ∧ (x.withDelay v).respAt = x.respAt ∧ (x.withDelay v).peerIn = x.peerIn
    ∧ (x.withDelay v).peerCorr = x.peerCorr ∧ (x.withDelay v).delay = v := by
  repeat' apply And.intro
  all_goals rfl
@[simp] theorem PtpSt.withIntegral_fields (x : PtpSt) (v : Int) :
    (x.withIntegral v).integral = v ∧ (x.withIntegral v).good = x.good ∧ (x.withIntegral v).lastSync = x.lastSync
    ∧ (x.withIntegral v).most = x.most ∧ (x.withIntegral v).mark = x.mark ∧ (x.withIntegral v).ticks = x.ticks := by
  repeat' apply And.intro
  all_goals rfl
@[simp] theorem PtpSt.withGood_fields (x : PtpSt) (v : Nat) :
    (x.withGood v).integral = x.integral ∧ (x.withGood v).good = v ∧ (x.withGood v).lastSync = x.lastSync ∧ (x.withGood v).most = x.most
    ∧ (x.withGood v).mark = x.mark ∧ (x.withGood v).ticks = x.ticks := by
  repeat' apply And.intro
  all_goals rfl
@[simp] theorem PtpSt.withLastSync_fields (x : PtpSt) (v : Option Nat) :
    (x.withLastSync v).integral = x.integral ∧ (x.withLastSync v).good = x.good ∧ (x.withLastSync v).lastSync = v
    ∧ (x.withLastSync v).most = x.most ∧ (x.withLastSync v).mark = x.mark ∧ (x.withLastSync v).ticks = x.ticks := by
  repeat' apply And.intro
  all_goals rfl
@[simp] theorem PtpSt.withMost_fields (x : PtpSt) (v : Nat) :
    (x.withMost v).integral = x.integral ∧ (x.withMost v).good = x.good ∧ (x.withMost v).lastSync = x.lastSync ∧ (x.withMost v).most = v
    ∧ (x.withMost v).mark = x.mark ∧ (x.withMost v).ticks = x.ticks := by
  repeat' apply And.intro
  all_goals rfl
@[simp] theorem PtpSt.withMark_fields (x : PtpSt) (v : Nat) :
    (x.withMark v).integral = x.integral ∧ (x.withMark v).good = x.good ∧ (x.withMark v).lastSync = x.lastSync ∧ (x.withMark v).most = x.most
    ∧ (x.withMark v).mark = v ∧ (x.withMark v).ticks = x.ticks := by
  repeat' apply And.intro
  all_goals rfl
@[simp] theorem PtpSt.withTicks_fields (x : PtpSt) (v : Nat) :
    (x.withTicks v).integral = x.integral ∧ (x.withTicks v).good = x.good ∧ (x.withTicks v).lastSync = x.lastSync
    ∧ (x.withTicks v).most = x.most ∧ (x.withTicks v).mark = x.mark ∧ (x.withTicks v).ticks = v := by
  repeat' apply And.intro
  all_goals rfl
@[simp] theorem PwrSt.withStopped_fields (x : PwrSt) (v : List ClockDomain) :
    (x.withStopped v).stopped = v ∧ (x.withStopped v).wantLit = x.wantLit ∧ (x.withStopped v).changing = x.changing
    ∧ (x.withStopped v).hot = x.hot ∧ (x.withStopped v).hotOther = x.hotOther ∧ (x.withStopped v).samples = x.samples
    ∧ (x.withStopped v).history = x.history ∧ (x.withStopped v).coolSince = x.coolSince ∧ (x.withStopped v).trip = x.trip
    ∧ (x.withStopped v).inputW = x.inputW ∧ (x.withStopped v).i3c = x.i3c := by
  repeat' apply And.intro
  all_goals rfl
@[simp] theorem PwrSt.withWantLit_fields (x : PwrSt) (v : Bool) :
    (x.withWantLit v).stopped = x.stopped ∧ (x.withWantLit v).wantLit = v ∧ (x.withWantLit v).changing = x.changing
    ∧ (x.withWantLit v).hot = x.hot ∧ (x.withWantLit v).hotOther = x.hotOther ∧ (x.withWantLit v).samples = x.samples
    ∧ (x.withWantLit v).history = x.history ∧ (x.withWantLit v).coolSince = x.coolSince ∧ (x.withWantLit v).trip = x.trip
    ∧ (x.withWantLit v).inputW = x.inputW ∧ (x.withWantLit v).i3c = x.i3c := by
  repeat' apply And.intro
  all_goals rfl
@[simp] theorem PwrSt.withChanging_fields (x : PwrSt) (v : List Nat) :
    (x.withChanging v).stopped = x.stopped ∧ (x.withChanging v).wantLit = x.wantLit ∧ (x.withChanging v).changing = v
    ∧ (x.withChanging v).hot = x.hot ∧ (x.withChanging v).hotOther = x.hotOther ∧ (x.withChanging v).samples = x.samples
    ∧ (x.withChanging v).history = x.history ∧ (x.withChanging v).coolSince = x.coolSince ∧ (x.withChanging v).trip = x.trip
    ∧ (x.withChanging v).inputW = x.inputW ∧ (x.withChanging v).i3c = x.i3c := by
  repeat' apply And.intro
  all_goals rfl
@[simp] theorem PwrSt.withHot_fields (x : PwrSt) (v : List (Nat × Nat)) :
    (x.withHot v).stopped = x.stopped ∧ (x.withHot v).wantLit = x.wantLit ∧ (x.withHot v).changing = x.changing ∧ (x.withHot v).hot = v
    ∧ (x.withHot v).hotOther = x.hotOther ∧ (x.withHot v).samples = x.samples ∧ (x.withHot v).history = x.history
    ∧ (x.withHot v).coolSince = x.coolSince ∧ (x.withHot v).trip = x.trip ∧ (x.withHot v).inputW = x.inputW ∧ (x.withHot v).i3c = x.i3c := by
  repeat' apply And.intro
  all_goals rfl
@[simp] theorem PwrSt.withHotOther_fields (x : PwrSt) (v : Bool) :
    (x.withHotOther v).stopped = x.stopped ∧ (x.withHotOther v).wantLit = x.wantLit ∧ (x.withHotOther v).changing = x.changing
    ∧ (x.withHotOther v).hot = x.hot ∧ (x.withHotOther v).hotOther = v ∧ (x.withHotOther v).samples = x.samples
    ∧ (x.withHotOther v).history = x.history ∧ (x.withHotOther v).coolSince = x.coolSince ∧ (x.withHotOther v).trip = x.trip
    ∧ (x.withHotOther v).inputW = x.inputW ∧ (x.withHotOther v).i3c = x.i3c := by
  repeat' apply And.intro
  all_goals rfl
@[simp] theorem PwrSt.withSamples_fields (x : PwrSt) (v : List Nat) :
    (x.withSamples v).stopped = x.stopped ∧ (x.withSamples v).wantLit = x.wantLit ∧ (x.withSamples v).changing = x.changing
    ∧ (x.withSamples v).hot = x.hot ∧ (x.withSamples v).hotOther = x.hotOther ∧ (x.withSamples v).samples = v
    ∧ (x.withSamples v).history = x.history ∧ (x.withSamples v).coolSince = x.coolSince ∧ (x.withSamples v).trip = x.trip
    ∧ (x.withSamples v).inputW = x.inputW ∧ (x.withSamples v).i3c = x.i3c := by
  repeat' apply And.intro
  all_goals rfl
@[simp] theorem PwrSt.withHistory_fields (x : PwrSt) (v : List Nat) :
    (x.withHistory v).stopped = x.stopped ∧ (x.withHistory v).wantLit = x.wantLit ∧ (x.withHistory v).changing = x.changing
    ∧ (x.withHistory v).hot = x.hot ∧ (x.withHistory v).hotOther = x.hotOther ∧ (x.withHistory v).samples = x.samples
    ∧ (x.withHistory v).history = v ∧ (x.withHistory v).coolSince = x.coolSince ∧ (x.withHistory v).trip = x.trip
    ∧ (x.withHistory v).inputW = x.inputW ∧ (x.withHistory v).i3c = x.i3c := by
  repeat' apply And.intro
  all_goals rfl
@[simp] theorem PwrSt.withCoolSince_fields (x : PwrSt) (v : Option Nat) :
    (x.withCoolSince v).stopped = x.stopped ∧ (x.withCoolSince v).wantLit = x.wantLit ∧ (x.withCoolSince v).changing = x.changing
    ∧ (x.withCoolSince v).hot = x.hot ∧ (x.withCoolSince v).hotOther = x.hotOther ∧ (x.withCoolSince v).samples = x.samples
    ∧ (x.withCoolSince v).history = x.history ∧ (x.withCoolSince v).coolSince = v ∧ (x.withCoolSince v).trip = x.trip
    ∧ (x.withCoolSince v).inputW = x.inputW ∧ (x.withCoolSince v).i3c = x.i3c := by
  repeat' apply And.intro
  all_goals rfl
@[simp] theorem PwrSt.withTrip_fields (x : PwrSt) (v : Bool) :
    (x.withTrip v).stopped = x.stopped ∧ (x.withTrip v).wantLit = x.wantLit ∧ (x.withTrip v).changing = x.changing
    ∧ (x.withTrip v).hot = x.hot ∧ (x.withTrip v).hotOther = x.hotOther ∧ (x.withTrip v).samples = x.samples
    ∧ (x.withTrip v).history = x.history ∧ (x.withTrip v).coolSince = x.coolSince ∧ (x.withTrip v).trip = v
    ∧ (x.withTrip v).inputW = x.inputW ∧ (x.withTrip v).i3c = x.i3c := by
  repeat' apply And.intro
  all_goals rfl
@[simp] theorem PwrSt.withInputW_fields (x : PwrSt) (v : Nat) :
    (x.withInputW v).stopped = x.stopped ∧ (x.withInputW v).wantLit = x.wantLit ∧ (x.withInputW v).changing = x.changing
    ∧ (x.withInputW v).hot = x.hot ∧ (x.withInputW v).hotOther = x.hotOther ∧ (x.withInputW v).samples = x.samples
    ∧ (x.withInputW v).history = x.history ∧ (x.withInputW v).coolSince = x.coolSince ∧ (x.withInputW v).trip = x.trip
    ∧ (x.withInputW v).inputW = v ∧ (x.withInputW v).i3c = x.i3c := by
  repeat' apply And.intro
  all_goals rfl
@[simp] theorem PwrSt.withI3c_fields (x : PwrSt) (v : List (I3cReq × Option Nat)) :
    (x.withI3c v).stopped = x.stopped ∧ (x.withI3c v).wantLit = x.wantLit ∧ (x.withI3c v).changing = x.changing ∧ (x.withI3c v).hot = x.hot
    ∧ (x.withI3c v).hotOther = x.hotOther ∧ (x.withI3c v).samples = x.samples ∧ (x.withI3c v).history = x.history
    ∧ (x.withI3c v).coolSince = x.coolSince ∧ (x.withI3c v).trip = x.trip ∧ (x.withI3c v).inputW = x.inputW ∧ (x.withI3c v).i3c = v := by
  repeat' apply And.intro
  all_goals rfl
@[simp] theorem Queue.withCfg_fields (x : Queue) (v : W64) :
    (x.withCfg v).cfg = v ∧ (x.withCfg v).entries = x.entries ∧ (x.withCfg v).front = x.front ∧ (x.withCfg v).seg = x.seg
    ∧ (x.withCfg v).segOff = x.segOff ∧ (x.withCfg v).spill = x.spill := by
  repeat' apply And.intro
  all_goals rfl
@[simp] theorem Queue.withEntries_fields (x : Queue) (v : List Token) :
    (x.withEntries v).cfg = x.cfg ∧ (x.withEntries v).entries = v ∧ (x.withEntries v).front = x.front ∧ (x.withEntries v).seg = x.seg
    ∧ (x.withEntries v).segOff = x.segOff ∧ (x.withEntries v).spill = x.spill := by
  repeat' apply And.intro
  all_goals rfl
@[simp] theorem Queue.withFront_fields (x : Queue) (v : Option Token) :
    (x.withFront v).cfg = x.cfg ∧ (x.withFront v).entries = x.entries ∧ (x.withFront v).front = v ∧ (x.withFront v).seg = x.seg
    ∧ (x.withFront v).segOff = x.segOff ∧ (x.withFront v).spill = x.spill := by
  repeat' apply And.intro
  all_goals rfl
@[simp] theorem Queue.withSeg_fields (x : Queue) (v : List Token) :
    (x.withSeg v).cfg = x.cfg ∧ (x.withSeg v).entries = x.entries ∧ (x.withSeg v).front = x.front ∧ (x.withSeg v).seg = v
    ∧ (x.withSeg v).segOff = x.segOff ∧ (x.withSeg v).spill = x.spill := by
  repeat' apply And.intro
  all_goals rfl
@[simp] theorem Queue.withSegOff_fields (x : Queue) (v : Nat) :
    (x.withSegOff v).cfg = x.cfg ∧ (x.withSegOff v).entries = x.entries ∧ (x.withSegOff v).front = x.front ∧ (x.withSegOff v).seg = x.seg
    ∧ (x.withSegOff v).segOff = v ∧ (x.withSegOff v).spill = x.spill := by
  repeat' apply And.intro
  all_goals rfl
@[simp] theorem Queue.withSpill_fields (x : Queue) (v : Bool) :
    (x.withSpill v).cfg = x.cfg ∧ (x.withSpill v).entries = x.entries ∧ (x.withSpill v).front = x.front ∧ (x.withSpill v).seg = x.seg
    ∧ (x.withSpill v).segOff = x.segOff ∧ (x.withSpill v).spill = v := by
  repeat' apply And.intro
  all_goals rfl
@[simp] theorem Resv.withHeld_fields (x : Resv) (v : Nat) :
    (x.withHeld v).id = x.id ∧ (x.withHeld v).len = x.len ∧ (x.withHeld v).held = v ∧ (x.withHeld v).done = x.done
    ∧ (x.withHeld v).maker = x.maker := by
  repeat' apply And.intro
  all_goals rfl
@[simp] theorem Resv.withDone_fields (x : Resv) (v : Bool) :
    (x.withDone v).id = x.id ∧ (x.withDone v).len = x.len ∧ (x.withDone v).held = x.held ∧ (x.withDone v).done = v
    ∧ (x.withDone v).maker = x.maker := by
  repeat' apply And.intro
  all_goals rfl
@[simp] theorem RfuOp.withRow_fields (x : RfuOp) (v : Nat) :
    (x.withRow v).select = x.select ∧ (x.withRow v).word = x.word ∧ (x.withRow v).pc = x.pc ∧ (x.withRow v).n = x.n ∧ (x.withRow v).row = v
    ∧ (x.withRow v).offA = x.offA ∧ (x.withRow v).offB = x.offB ∧ (x.withRow v).offC = x.offC ∧ (x.withRow v).scalar = x.scalar
    ∧ (x.withRow v).mask = x.mask ∧ (x.withRow v).psel = x.psel ∧ (x.withRow v).out = x.out ∧ (x.withRow v).cOut = x.cOut := by
  repeat' apply And.intro
  all_goals rfl
@[simp] theorem RfuOp.withOut_fields (x : RfuOp) (v : OutRun) :
    (x.withOut v).select = x.select ∧ (x.withOut v).word = x.word ∧ (x.withOut v).pc = x.pc ∧ (x.withOut v).n = x.n
    ∧ (x.withOut v).row = x.row ∧ (x.withOut v).offA = x.offA ∧ (x.withOut v).offB = x.offB ∧ (x.withOut v).offC = x.offC
    ∧ (x.withOut v).scalar = x.scalar ∧ (x.withOut v).mask = x.mask ∧ (x.withOut v).psel = x.psel ∧ (x.withOut v).out = v
    ∧ (x.withOut v).cOut = x.cOut := by
  repeat' apply And.intro
  all_goals rfl
@[simp] theorem RfuOp.withCOut_fields (x : RfuOp) (v : OutRun) :
    (x.withCOut v).select = x.select ∧ (x.withCOut v).word = x.word ∧ (x.withCOut v).pc = x.pc ∧ (x.withCOut v).n = x.n
    ∧ (x.withCOut v).row = x.row ∧ (x.withCOut v).offA = x.offA ∧ (x.withCOut v).offB = x.offB ∧ (x.withCOut v).offC = x.offC
    ∧ (x.withCOut v).scalar = x.scalar ∧ (x.withCOut v).mask = x.mask ∧ (x.withCOut v).psel = x.psel ∧ (x.withCOut v).out = x.out
    ∧ (x.withCOut v).cOut = v := by
  repeat' apply And.intro
  all_goals rfl
@[simp] theorem Ring.withCfg_fields (x : Ring) (v : W64) :
    (x.withCfg v).cfg = v ∧ (x.withCfg v).head = x.head ∧ (x.withCfg v).headWrap = x.headWrap ∧ (x.withCfg v).tail = x.tail
    ∧ (x.withCfg v).tailWrap = x.tailWrap ∧ (x.withCfg v).resv = x.resv ∧ (x.withCfg v).nextId = x.nextId := by
  repeat' apply And.intro
  all_goals rfl
@[simp] theorem Ring.withHead_fields (x : Ring) (v : Nat) :
    (x.withHead v).cfg = x.cfg ∧ (x.withHead v).head = v ∧ (x.withHead v).headWrap = x.headWrap ∧ (x.withHead v).tail = x.tail
    ∧ (x.withHead v).tailWrap = x.tailWrap ∧ (x.withHead v).resv = x.resv ∧ (x.withHead v).nextId = x.nextId := by
  repeat' apply And.intro
  all_goals rfl
@[simp] theorem Ring.withHeadWrap_fields (x : Ring) (v : Bool) :
    (x.withHeadWrap v).cfg = x.cfg ∧ (x.withHeadWrap v).head = x.head ∧ (x.withHeadWrap v).headWrap = v ∧ (x.withHeadWrap v).tail = x.tail
    ∧ (x.withHeadWrap v).tailWrap = x.tailWrap ∧ (x.withHeadWrap v).resv = x.resv ∧ (x.withHeadWrap v).nextId = x.nextId := by
  repeat' apply And.intro
  all_goals rfl
@[simp] theorem Ring.withTail_fields (x : Ring) (v : Nat) :
    (x.withTail v).cfg = x.cfg ∧ (x.withTail v).head = x.head ∧ (x.withTail v).headWrap = x.headWrap ∧ (x.withTail v).tail = v
    ∧ (x.withTail v).tailWrap = x.tailWrap ∧ (x.withTail v).resv = x.resv ∧ (x.withTail v).nextId = x.nextId := by
  repeat' apply And.intro
  all_goals rfl
@[simp] theorem Ring.withTailWrap_fields (x : Ring) (v : Bool) :
    (x.withTailWrap v).cfg = x.cfg ∧ (x.withTailWrap v).head = x.head ∧ (x.withTailWrap v).headWrap = x.headWrap
    ∧ (x.withTailWrap v).tail = x.tail ∧ (x.withTailWrap v).tailWrap = v ∧ (x.withTailWrap v).resv = x.resv
    ∧ (x.withTailWrap v).nextId = x.nextId := by
  repeat' apply And.intro
  all_goals rfl
@[simp] theorem Ring.withResv_fields (x : Ring) (v : List Resv) :
    (x.withResv v).cfg = x.cfg ∧ (x.withResv v).head = x.head ∧ (x.withResv v).headWrap = x.headWrap ∧ (x.withResv v).tail = x.tail
    ∧ (x.withResv v).tailWrap = x.tailWrap ∧ (x.withResv v).resv = v ∧ (x.withResv v).nextId = x.nextId := by
  repeat' apply And.intro
  all_goals rfl
@[simp] theorem Ring.withNextId_fields (x : Ring) (v : Nat) :
    (x.withNextId v).cfg = x.cfg ∧ (x.withNextId v).head = x.head ∧ (x.withNextId v).headWrap = x.headWrap ∧ (x.withNextId v).tail = x.tail
    ∧ (x.withNextId v).tailWrap = x.tailWrap ∧ (x.withNextId v).resv = x.resv ∧ (x.withNextId v).nextId = v := by
  repeat' apply And.intro
  all_goals rfl
@[simp] theorem RxStream.withInc_fields (x : RxStream) (v : Option Nat) :
    (x.withInc v).inc = v ∧ (x.withInc v).cum = x.cum ∧ (x.withInc v).got = x.got ∧ (x.withInc v).fresh = x.fresh ∧ (x.withInc v).due = x.due
    ∧ (x.withInc v).ce = x.ce ∧ (x.withInc v).resyncAt = x.resyncAt := by
  repeat' apply And.intro
  all_goals rfl
@[simp] theorem RxStream.withCum_fields (x : RxStream) (v : Nat) :
    (x.withCum v).inc = x.inc ∧ (x.withCum v).cum = v ∧ (x.withCum v).got = x.got ∧ (x.withCum v).fresh = x.fresh ∧ (x.withCum v).due = x.due
    ∧ (x.withCum v).ce = x.ce ∧ (x.withCum v).resyncAt = x.resyncAt := by
  repeat' apply And.intro
  all_goals rfl
@[simp] theorem RxStream.withGot_fields (x : RxStream) (v : List Nat) :
    (x.withGot v).inc = x.inc ∧ (x.withGot v).cum = x.cum ∧ (x.withGot v).got = v ∧ (x.withGot v).fresh = x.fresh ∧ (x.withGot v).due = x.due
    ∧ (x.withGot v).ce = x.ce ∧ (x.withGot v).resyncAt = x.resyncAt := by
  repeat' apply And.intro
  all_goals rfl
@[simp] theorem RxStream.withFresh_fields (x : RxStream) (v : Nat) :
    (x.withFresh v).inc = x.inc ∧ (x.withFresh v).cum = x.cum ∧ (x.withFresh v).got = x.got ∧ (x.withFresh v).fresh = v
    ∧ (x.withFresh v).due = x.due ∧ (x.withFresh v).ce = x.ce ∧ (x.withFresh v).resyncAt = x.resyncAt := by
  repeat' apply And.intro
  all_goals rfl
@[simp] theorem RxStream.withDue_fields (x : RxStream) (v : Bool) :
    (x.withDue v).inc = x.inc ∧ (x.withDue v).cum = x.cum ∧ (x.withDue v).got = x.got ∧ (x.withDue v).fresh = x.fresh ∧ (x.withDue v).due = v
    ∧ (x.withDue v).ce = x.ce ∧ (x.withDue v).resyncAt = x.resyncAt := by
  repeat' apply And.intro
  all_goals rfl
@[simp] theorem RxStream.withCe_fields (x : RxStream) (v : Bool) :
    (x.withCe v).inc = x.inc ∧ (x.withCe v).cum = x.cum ∧ (x.withCe v).got = x.got ∧ (x.withCe v).fresh = x.fresh ∧ (x.withCe v).due = x.due
    ∧ (x.withCe v).ce = v ∧ (x.withCe v).resyncAt = x.resyncAt := by
  repeat' apply And.intro
  all_goals rfl
@[simp] theorem RxStream.withResyncAt_fields (x : RxStream) (v : Option Nat) :
    (x.withResyncAt v).inc = x.inc ∧ (x.withResyncAt v).cum = x.cum ∧ (x.withResyncAt v).got = x.got ∧ (x.withResyncAt v).fresh = x.fresh
    ∧ (x.withResyncAt v).due = x.due ∧ (x.withResyncAt v).ce = x.ce ∧ (x.withResyncAt v).resyncAt = v := by
  repeat' apply And.intro
  all_goals rfl
@[simp] theorem Section.withSt_fields (x : Section) (v : SecSt) :
    (x.withSt v).st = v ∧ (x.withSt v).loadStatus = x.loadStatus ∧ (x.withSt v).epoch = x.epoch ∧ (x.withSt v).image = x.image
    ∧ (x.withSt v).tiles = x.tiles ∧ (x.withSt v).passes = x.passes ∧ (x.withSt v).report = x.report ∧ (x.withSt v).spill = x.spill
    ∧ (x.withSt v).reported = x.reported ∧ (x.withSt v).xcode = x.xcode ∧ (x.withSt v).xcodeOr = x.xcodeOr ∧ (x.withSt v).fault = x.fault
    ∧ (x.withSt v).runFires = x.runFires ∧ (x.withSt v).runPeak = x.runPeak ∧ (x.withSt v).fires = x.fires ∧ (x.withSt v).peak = x.peak
    ∧ (x.withSt v).startHeld = x.startHeld ∧ (x.withSt v).tag = x.tag ∧ (x.withSt v).lens = x.lens ∧ (x.withSt v).lenNext = x.lenNext
    ∧ (x.withSt v).rearmNext = x.rearmNext ∧ (x.withSt v).src = x.src := by
  repeat' apply And.intro
  all_goals rfl
@[simp] theorem Section.withLoadStatus_fields (x : Section) (v : Nat) :
    (x.withLoadStatus v).st = x.st ∧ (x.withLoadStatus v).loadStatus = v ∧ (x.withLoadStatus v).epoch = x.epoch
    ∧ (x.withLoadStatus v).image = x.image ∧ (x.withLoadStatus v).tiles = x.tiles ∧ (x.withLoadStatus v).passes = x.passes
    ∧ (x.withLoadStatus v).report = x.report ∧ (x.withLoadStatus v).spill = x.spill ∧ (x.withLoadStatus v).reported = x.reported
    ∧ (x.withLoadStatus v).xcode = x.xcode ∧ (x.withLoadStatus v).xcodeOr = x.xcodeOr ∧ (x.withLoadStatus v).fault = x.fault
    ∧ (x.withLoadStatus v).runFires = x.runFires ∧ (x.withLoadStatus v).runPeak = x.runPeak ∧ (x.withLoadStatus v).fires = x.fires
    ∧ (x.withLoadStatus v).peak = x.peak ∧ (x.withLoadStatus v).startHeld = x.startHeld ∧ (x.withLoadStatus v).tag = x.tag
    ∧ (x.withLoadStatus v).lens = x.lens ∧ (x.withLoadStatus v).lenNext = x.lenNext ∧ (x.withLoadStatus v).rearmNext = x.rearmNext
    ∧ (x.withLoadStatus v).src = x.src := by
  repeat' apply And.intro
  all_goals rfl
@[simp] theorem Section.withEpoch_fields (x : Section) (v : Nat) :
    (x.withEpoch v).st = x.st ∧ (x.withEpoch v).loadStatus = x.loadStatus ∧ (x.withEpoch v).epoch = v ∧ (x.withEpoch v).image = x.image
    ∧ (x.withEpoch v).tiles = x.tiles ∧ (x.withEpoch v).passes = x.passes ∧ (x.withEpoch v).report = x.report
    ∧ (x.withEpoch v).spill = x.spill ∧ (x.withEpoch v).reported = x.reported ∧ (x.withEpoch v).xcode = x.xcode
    ∧ (x.withEpoch v).xcodeOr = x.xcodeOr ∧ (x.withEpoch v).fault = x.fault ∧ (x.withEpoch v).runFires = x.runFires
    ∧ (x.withEpoch v).runPeak = x.runPeak ∧ (x.withEpoch v).fires = x.fires ∧ (x.withEpoch v).peak = x.peak
    ∧ (x.withEpoch v).startHeld = x.startHeld ∧ (x.withEpoch v).tag = x.tag ∧ (x.withEpoch v).lens = x.lens
    ∧ (x.withEpoch v).lenNext = x.lenNext ∧ (x.withEpoch v).rearmNext = x.rearmNext ∧ (x.withEpoch v).src = x.src := by
  repeat' apply And.intro
  all_goals rfl
@[simp] theorem Section.withImage_fields (x : Section) (v : Option Image) :
    (x.withImage v).st = x.st ∧ (x.withImage v).loadStatus = x.loadStatus ∧ (x.withImage v).epoch = x.epoch ∧ (x.withImage v).image = v
    ∧ (x.withImage v).tiles = x.tiles ∧ (x.withImage v).passes = x.passes ∧ (x.withImage v).report = x.report
    ∧ (x.withImage v).spill = x.spill ∧ (x.withImage v).reported = x.reported ∧ (x.withImage v).xcode = x.xcode
    ∧ (x.withImage v).xcodeOr = x.xcodeOr ∧ (x.withImage v).fault = x.fault ∧ (x.withImage v).runFires = x.runFires
    ∧ (x.withImage v).runPeak = x.runPeak ∧ (x.withImage v).fires = x.fires ∧ (x.withImage v).peak = x.peak
    ∧ (x.withImage v).startHeld = x.startHeld ∧ (x.withImage v).tag = x.tag ∧ (x.withImage v).lens = x.lens
    ∧ (x.withImage v).lenNext = x.lenNext ∧ (x.withImage v).rearmNext = x.rearmNext ∧ (x.withImage v).src = x.src := by
  repeat' apply And.intro
  all_goals rfl
@[simp] theorem Section.withTiles_fields (x : Section) (v : List Nat) :
    (x.withTiles v).st = x.st ∧ (x.withTiles v).loadStatus = x.loadStatus ∧ (x.withTiles v).epoch = x.epoch ∧ (x.withTiles v).image = x.image
    ∧ (x.withTiles v).tiles = v ∧ (x.withTiles v).passes = x.passes ∧ (x.withTiles v).report = x.report ∧ (x.withTiles v).spill = x.spill
    ∧ (x.withTiles v).reported = x.reported ∧ (x.withTiles v).xcode = x.xcode ∧ (x.withTiles v).xcodeOr = x.xcodeOr
    ∧ (x.withTiles v).fault = x.fault ∧ (x.withTiles v).runFires = x.runFires ∧ (x.withTiles v).runPeak = x.runPeak
    ∧ (x.withTiles v).fires = x.fires ∧ (x.withTiles v).peak = x.peak ∧ (x.withTiles v).startHeld = x.startHeld ∧ (x.withTiles v).tag = x.tag
    ∧ (x.withTiles v).lens = x.lens ∧ (x.withTiles v).lenNext = x.lenNext ∧ (x.withTiles v).rearmNext = x.rearmNext
    ∧ (x.withTiles v).src = x.src := by
  repeat' apply And.intro
  all_goals rfl
@[simp] theorem Section.withPasses_fields (x : Section) (v : List Nat) :
    (x.withPasses v).st = x.st ∧ (x.withPasses v).loadStatus = x.loadStatus ∧ (x.withPasses v).epoch = x.epoch
    ∧ (x.withPasses v).image = x.image ∧ (x.withPasses v).tiles = x.tiles ∧ (x.withPasses v).passes = v ∧ (x.withPasses v).report = x.report
    ∧ (x.withPasses v).spill = x.spill ∧ (x.withPasses v).reported = x.reported ∧ (x.withPasses v).xcode = x.xcode
    ∧ (x.withPasses v).xcodeOr = x.xcodeOr ∧ (x.withPasses v).fault = x.fault ∧ (x.withPasses v).runFires = x.runFires
    ∧ (x.withPasses v).runPeak = x.runPeak ∧ (x.withPasses v).fires = x.fires ∧ (x.withPasses v).peak = x.peak
    ∧ (x.withPasses v).startHeld = x.startHeld ∧ (x.withPasses v).tag = x.tag ∧ (x.withPasses v).lens = x.lens
    ∧ (x.withPasses v).lenNext = x.lenNext ∧ (x.withPasses v).rearmNext = x.rearmNext ∧ (x.withPasses v).src = x.src := by
  repeat' apply And.intro
  all_goals rfl
@[simp] theorem Section.withReport_fields (x : Section) (v : Nat) :
    (x.withReport v).st = x.st ∧ (x.withReport v).loadStatus = x.loadStatus ∧ (x.withReport v).epoch = x.epoch
    ∧ (x.withReport v).image = x.image ∧ (x.withReport v).tiles = x.tiles ∧ (x.withReport v).passes = x.passes ∧ (x.withReport v).report = v
    ∧ (x.withReport v).spill = x.spill ∧ (x.withReport v).reported = x.reported ∧ (x.withReport v).xcode = x.xcode
    ∧ (x.withReport v).xcodeOr = x.xcodeOr ∧ (x.withReport v).fault = x.fault ∧ (x.withReport v).runFires = x.runFires
    ∧ (x.withReport v).runPeak = x.runPeak ∧ (x.withReport v).fires = x.fires ∧ (x.withReport v).peak = x.peak
    ∧ (x.withReport v).startHeld = x.startHeld ∧ (x.withReport v).tag = x.tag ∧ (x.withReport v).lens = x.lens
    ∧ (x.withReport v).lenNext = x.lenNext ∧ (x.withReport v).rearmNext = x.rearmNext ∧ (x.withReport v).src = x.src := by
  repeat' apply And.intro
  all_goals rfl
@[simp] theorem Section.withSpill_fields (x : Section) (v : List Nat) :
    (x.withSpill v).st = x.st ∧ (x.withSpill v).loadStatus = x.loadStatus ∧ (x.withSpill v).epoch = x.epoch ∧ (x.withSpill v).image = x.image
    ∧ (x.withSpill v).tiles = x.tiles ∧ (x.withSpill v).passes = x.passes ∧ (x.withSpill v).report = x.report ∧ (x.withSpill v).spill = v
    ∧ (x.withSpill v).reported = x.reported ∧ (x.withSpill v).xcode = x.xcode ∧ (x.withSpill v).xcodeOr = x.xcodeOr
    ∧ (x.withSpill v).fault = x.fault ∧ (x.withSpill v).runFires = x.runFires ∧ (x.withSpill v).runPeak = x.runPeak
    ∧ (x.withSpill v).fires = x.fires ∧ (x.withSpill v).peak = x.peak ∧ (x.withSpill v).startHeld = x.startHeld ∧ (x.withSpill v).tag = x.tag
    ∧ (x.withSpill v).lens = x.lens ∧ (x.withSpill v).lenNext = x.lenNext ∧ (x.withSpill v).rearmNext = x.rearmNext
    ∧ (x.withSpill v).src = x.src := by
  repeat' apply And.intro
  all_goals rfl
@[simp] theorem Section.withReported_fields (x : Section) (v : List Nat) :
    (x.withReported v).st = x.st ∧ (x.withReported v).loadStatus = x.loadStatus ∧ (x.withReported v).epoch = x.epoch
    ∧ (x.withReported v).image = x.image ∧ (x.withReported v).tiles = x.tiles ∧ (x.withReported v).passes = x.passes
    ∧ (x.withReported v).report = x.report ∧ (x.withReported v).spill = x.spill ∧ (x.withReported v).reported = v
    ∧ (x.withReported v).xcode = x.xcode ∧ (x.withReported v).xcodeOr = x.xcodeOr ∧ (x.withReported v).fault = x.fault
    ∧ (x.withReported v).runFires = x.runFires ∧ (x.withReported v).runPeak = x.runPeak ∧ (x.withReported v).fires = x.fires
    ∧ (x.withReported v).peak = x.peak ∧ (x.withReported v).startHeld = x.startHeld ∧ (x.withReported v).tag = x.tag
    ∧ (x.withReported v).lens = x.lens ∧ (x.withReported v).lenNext = x.lenNext ∧ (x.withReported v).rearmNext = x.rearmNext
    ∧ (x.withReported v).src = x.src := by
  repeat' apply And.intro
  all_goals rfl
@[simp] theorem Section.withXcode_fields (x : Section) (v : W32) :
    (x.withXcode v).st = x.st ∧ (x.withXcode v).loadStatus = x.loadStatus ∧ (x.withXcode v).epoch = x.epoch ∧ (x.withXcode v).image = x.image
    ∧ (x.withXcode v).tiles = x.tiles ∧ (x.withXcode v).passes = x.passes ∧ (x.withXcode v).report = x.report
    ∧ (x.withXcode v).spill = x.spill ∧ (x.withXcode v).reported = x.reported ∧ (x.withXcode v).xcode = v
    ∧ (x.withXcode v).xcodeOr = x.xcodeOr ∧ (x.withXcode v).fault = x.fault ∧ (x.withXcode v).runFires = x.runFires
    ∧ (x.withXcode v).runPeak = x.runPeak ∧ (x.withXcode v).fires = x.fires ∧ (x.withXcode v).peak = x.peak
    ∧ (x.withXcode v).startHeld = x.startHeld ∧ (x.withXcode v).tag = x.tag ∧ (x.withXcode v).lens = x.lens
    ∧ (x.withXcode v).lenNext = x.lenNext ∧ (x.withXcode v).rearmNext = x.rearmNext ∧ (x.withXcode v).src = x.src := by
  repeat' apply And.intro
  all_goals rfl
@[simp] theorem Section.withXcodeOr_fields (x : Section) (v : W32) :
    (x.withXcodeOr v).st = x.st ∧ (x.withXcodeOr v).loadStatus = x.loadStatus ∧ (x.withXcodeOr v).epoch = x.epoch
    ∧ (x.withXcodeOr v).image = x.image ∧ (x.withXcodeOr v).tiles = x.tiles ∧ (x.withXcodeOr v).passes = x.passes
    ∧ (x.withXcodeOr v).report = x.report ∧ (x.withXcodeOr v).spill = x.spill ∧ (x.withXcodeOr v).reported = x.reported
    ∧ (x.withXcodeOr v).xcode = x.xcode ∧ (x.withXcodeOr v).xcodeOr = v ∧ (x.withXcodeOr v).fault = x.fault
    ∧ (x.withXcodeOr v).runFires = x.runFires ∧ (x.withXcodeOr v).runPeak = x.runPeak ∧ (x.withXcodeOr v).fires = x.fires
    ∧ (x.withXcodeOr v).peak = x.peak ∧ (x.withXcodeOr v).startHeld = x.startHeld ∧ (x.withXcodeOr v).tag = x.tag
    ∧ (x.withXcodeOr v).lens = x.lens ∧ (x.withXcodeOr v).lenNext = x.lenNext ∧ (x.withXcodeOr v).rearmNext = x.rearmNext
    ∧ (x.withXcodeOr v).src = x.src := by
  repeat' apply And.intro
  all_goals rfl
@[simp] theorem Section.withFault_fields (x : Section) (v : Option SecFault) :
    (x.withFault v).st = x.st ∧ (x.withFault v).loadStatus = x.loadStatus ∧ (x.withFault v).epoch = x.epoch ∧ (x.withFault v).image = x.image
    ∧ (x.withFault v).tiles = x.tiles ∧ (x.withFault v).passes = x.passes ∧ (x.withFault v).report = x.report
    ∧ (x.withFault v).spill = x.spill ∧ (x.withFault v).reported = x.reported ∧ (x.withFault v).xcode = x.xcode
    ∧ (x.withFault v).xcodeOr = x.xcodeOr ∧ (x.withFault v).fault = v ∧ (x.withFault v).runFires = x.runFires
    ∧ (x.withFault v).runPeak = x.runPeak ∧ (x.withFault v).fires = x.fires ∧ (x.withFault v).peak = x.peak
    ∧ (x.withFault v).startHeld = x.startHeld ∧ (x.withFault v).tag = x.tag ∧ (x.withFault v).lens = x.lens
    ∧ (x.withFault v).lenNext = x.lenNext ∧ (x.withFault v).rearmNext = x.rearmNext ∧ (x.withFault v).src = x.src := by
  repeat' apply And.intro
  all_goals rfl
@[simp] theorem Section.withRunFires_fields (x : Section) (v : Nat) :
    (x.withRunFires v).st = x.st ∧ (x.withRunFires v).loadStatus = x.loadStatus ∧ (x.withRunFires v).epoch = x.epoch
    ∧ (x.withRunFires v).image = x.image ∧ (x.withRunFires v).tiles = x.tiles ∧ (x.withRunFires v).passes = x.passes
    ∧ (x.withRunFires v).report = x.report ∧ (x.withRunFires v).spill = x.spill ∧ (x.withRunFires v).reported = x.reported
    ∧ (x.withRunFires v).xcode = x.xcode ∧ (x.withRunFires v).xcodeOr = x.xcodeOr ∧ (x.withRunFires v).fault = x.fault
    ∧ (x.withRunFires v).runFires = v ∧ (x.withRunFires v).runPeak = x.runPeak ∧ (x.withRunFires v).fires = x.fires
    ∧ (x.withRunFires v).peak = x.peak ∧ (x.withRunFires v).startHeld = x.startHeld ∧ (x.withRunFires v).tag = x.tag
    ∧ (x.withRunFires v).lens = x.lens ∧ (x.withRunFires v).lenNext = x.lenNext ∧ (x.withRunFires v).rearmNext = x.rearmNext
    ∧ (x.withRunFires v).src = x.src := by
  repeat' apply And.intro
  all_goals rfl
@[simp] theorem Section.withRunPeak_fields (x : Section) (v : Nat) :
    (x.withRunPeak v).st = x.st ∧ (x.withRunPeak v).loadStatus = x.loadStatus ∧ (x.withRunPeak v).epoch = x.epoch
    ∧ (x.withRunPeak v).image = x.image ∧ (x.withRunPeak v).tiles = x.tiles ∧ (x.withRunPeak v).passes = x.passes
    ∧ (x.withRunPeak v).report = x.report ∧ (x.withRunPeak v).spill = x.spill ∧ (x.withRunPeak v).reported = x.reported
    ∧ (x.withRunPeak v).xcode = x.xcode ∧ (x.withRunPeak v).xcodeOr = x.xcodeOr ∧ (x.withRunPeak v).fault = x.fault
    ∧ (x.withRunPeak v).runFires = x.runFires ∧ (x.withRunPeak v).runPeak = v ∧ (x.withRunPeak v).fires = x.fires
    ∧ (x.withRunPeak v).peak = x.peak ∧ (x.withRunPeak v).startHeld = x.startHeld ∧ (x.withRunPeak v).tag = x.tag
    ∧ (x.withRunPeak v).lens = x.lens ∧ (x.withRunPeak v).lenNext = x.lenNext ∧ (x.withRunPeak v).rearmNext = x.rearmNext
    ∧ (x.withRunPeak v).src = x.src := by
  repeat' apply And.intro
  all_goals rfl
@[simp] theorem Section.withFires_fields (x : Section) (v : Nat) :
    (x.withFires v).st = x.st ∧ (x.withFires v).loadStatus = x.loadStatus ∧ (x.withFires v).epoch = x.epoch ∧ (x.withFires v).image = x.image
    ∧ (x.withFires v).tiles = x.tiles ∧ (x.withFires v).passes = x.passes ∧ (x.withFires v).report = x.report
    ∧ (x.withFires v).spill = x.spill ∧ (x.withFires v).reported = x.reported ∧ (x.withFires v).xcode = x.xcode
    ∧ (x.withFires v).xcodeOr = x.xcodeOr ∧ (x.withFires v).fault = x.fault ∧ (x.withFires v).runFires = x.runFires
    ∧ (x.withFires v).runPeak = x.runPeak ∧ (x.withFires v).fires = v ∧ (x.withFires v).peak = x.peak
    ∧ (x.withFires v).startHeld = x.startHeld ∧ (x.withFires v).tag = x.tag ∧ (x.withFires v).lens = x.lens
    ∧ (x.withFires v).lenNext = x.lenNext ∧ (x.withFires v).rearmNext = x.rearmNext ∧ (x.withFires v).src = x.src := by
  repeat' apply And.intro
  all_goals rfl
@[simp] theorem Section.withPeak_fields (x : Section) (v : Nat) :
    (x.withPeak v).st = x.st ∧ (x.withPeak v).loadStatus = x.loadStatus ∧ (x.withPeak v).epoch = x.epoch ∧ (x.withPeak v).image = x.image
    ∧ (x.withPeak v).tiles = x.tiles ∧ (x.withPeak v).passes = x.passes ∧ (x.withPeak v).report = x.report ∧ (x.withPeak v).spill = x.spill
    ∧ (x.withPeak v).reported = x.reported ∧ (x.withPeak v).xcode = x.xcode ∧ (x.withPeak v).xcodeOr = x.xcodeOr
    ∧ (x.withPeak v).fault = x.fault ∧ (x.withPeak v).runFires = x.runFires ∧ (x.withPeak v).runPeak = x.runPeak
    ∧ (x.withPeak v).fires = x.fires ∧ (x.withPeak v).peak = v ∧ (x.withPeak v).startHeld = x.startHeld ∧ (x.withPeak v).tag = x.tag
    ∧ (x.withPeak v).lens = x.lens ∧ (x.withPeak v).lenNext = x.lenNext ∧ (x.withPeak v).rearmNext = x.rearmNext ∧ (x.withPeak v).src = x.src := by
  repeat' apply And.intro
  all_goals rfl
@[simp] theorem Section.withStartHeld_fields (x : Section) (v : Bool) :
    (x.withStartHeld v).st = x.st ∧ (x.withStartHeld v).loadStatus = x.loadStatus ∧ (x.withStartHeld v).epoch = x.epoch
    ∧ (x.withStartHeld v).image = x.image ∧ (x.withStartHeld v).tiles = x.tiles ∧ (x.withStartHeld v).passes = x.passes
    ∧ (x.withStartHeld v).report = x.report ∧ (x.withStartHeld v).spill = x.spill ∧ (x.withStartHeld v).reported = x.reported
    ∧ (x.withStartHeld v).xcode = x.xcode ∧ (x.withStartHeld v).xcodeOr = x.xcodeOr ∧ (x.withStartHeld v).fault = x.fault
    ∧ (x.withStartHeld v).runFires = x.runFires ∧ (x.withStartHeld v).runPeak = x.runPeak ∧ (x.withStartHeld v).fires = x.fires
    ∧ (x.withStartHeld v).peak = x.peak ∧ (x.withStartHeld v).startHeld = v ∧ (x.withStartHeld v).tag = x.tag
    ∧ (x.withStartHeld v).lens = x.lens ∧ (x.withStartHeld v).lenNext = x.lenNext ∧ (x.withStartHeld v).rearmNext = x.rearmNext
    ∧ (x.withStartHeld v).src = x.src := by
  repeat' apply And.intro
  all_goals rfl
@[simp] theorem Section.withTag_fields (x : Section) (v : Nat) :
    (x.withTag v).st = x.st ∧ (x.withTag v).loadStatus = x.loadStatus ∧ (x.withTag v).epoch = x.epoch ∧ (x.withTag v).image = x.image
    ∧ (x.withTag v).tiles = x.tiles ∧ (x.withTag v).passes = x.passes ∧ (x.withTag v).report = x.report ∧ (x.withTag v).spill = x.spill
    ∧ (x.withTag v).reported = x.reported ∧ (x.withTag v).xcode = x.xcode ∧ (x.withTag v).xcodeOr = x.xcodeOr ∧ (x.withTag v).fault = x.fault
    ∧ (x.withTag v).runFires = x.runFires ∧ (x.withTag v).runPeak = x.runPeak ∧ (x.withTag v).fires = x.fires ∧ (x.withTag v).peak = x.peak
    ∧ (x.withTag v).startHeld = x.startHeld ∧ (x.withTag v).tag = v ∧ (x.withTag v).lens = x.lens ∧ (x.withTag v).lenNext = x.lenNext
    ∧ (x.withTag v).rearmNext = x.rearmNext ∧ (x.withTag v).src = x.src := by
  repeat' apply And.intro
  all_goals rfl
@[simp] theorem Section.withLens_fields (x : Section) (v : List (Nat × W32)) :
    (x.withLens v).st = x.st ∧ (x.withLens v).loadStatus = x.loadStatus ∧ (x.withLens v).epoch = x.epoch ∧ (x.withLens v).image = x.image
    ∧ (x.withLens v).tiles = x.tiles ∧ (x.withLens v).passes = x.passes ∧ (x.withLens v).report = x.report ∧ (x.withLens v).spill = x.spill
    ∧ (x.withLens v).reported = x.reported ∧ (x.withLens v).xcode = x.xcode ∧ (x.withLens v).xcodeOr = x.xcodeOr
    ∧ (x.withLens v).fault = x.fault ∧ (x.withLens v).runFires = x.runFires ∧ (x.withLens v).runPeak = x.runPeak
    ∧ (x.withLens v).fires = x.fires ∧ (x.withLens v).peak = x.peak ∧ (x.withLens v).startHeld = x.startHeld ∧ (x.withLens v).tag = x.tag
    ∧ (x.withLens v).lens = v ∧ (x.withLens v).lenNext = x.lenNext ∧ (x.withLens v).rearmNext = x.rearmNext ∧ (x.withLens v).src = x.src := by
  repeat' apply And.intro
  all_goals rfl
@[simp] theorem Section.withLenNext_fields (x : Section) (v : List (Nat × W32)) :
    (x.withLenNext v).st = x.st ∧ (x.withLenNext v).loadStatus = x.loadStatus ∧ (x.withLenNext v).epoch = x.epoch
    ∧ (x.withLenNext v).image = x.image ∧ (x.withLenNext v).tiles = x.tiles ∧ (x.withLenNext v).passes = x.passes
    ∧ (x.withLenNext v).report = x.report ∧ (x.withLenNext v).spill = x.spill ∧ (x.withLenNext v).reported = x.reported
    ∧ (x.withLenNext v).xcode = x.xcode ∧ (x.withLenNext v).xcodeOr = x.xcodeOr ∧ (x.withLenNext v).fault = x.fault
    ∧ (x.withLenNext v).runFires = x.runFires ∧ (x.withLenNext v).runPeak = x.runPeak ∧ (x.withLenNext v).fires = x.fires
    ∧ (x.withLenNext v).peak = x.peak ∧ (x.withLenNext v).startHeld = x.startHeld ∧ (x.withLenNext v).tag = x.tag
    ∧ (x.withLenNext v).lens = x.lens ∧ (x.withLenNext v).lenNext = v ∧ (x.withLenNext v).rearmNext = x.rearmNext
    ∧ (x.withLenNext v).src = x.src := by
  repeat' apply And.intro
  all_goals rfl
@[simp] theorem Section.withRearmNext_fields (x : Section) (v : List (Nat × Nat × Nat)) :
    (x.withRearmNext v).st = x.st ∧ (x.withRearmNext v).loadStatus = x.loadStatus ∧ (x.withRearmNext v).epoch = x.epoch
    ∧ (x.withRearmNext v).image = x.image ∧ (x.withRearmNext v).tiles = x.tiles ∧ (x.withRearmNext v).passes = x.passes
    ∧ (x.withRearmNext v).report = x.report ∧ (x.withRearmNext v).spill = x.spill ∧ (x.withRearmNext v).reported = x.reported
    ∧ (x.withRearmNext v).xcode = x.xcode ∧ (x.withRearmNext v).xcodeOr = x.xcodeOr ∧ (x.withRearmNext v).fault = x.fault
    ∧ (x.withRearmNext v).runFires = x.runFires ∧ (x.withRearmNext v).runPeak = x.runPeak ∧ (x.withRearmNext v).fires = x.fires
    ∧ (x.withRearmNext v).peak = x.peak ∧ (x.withRearmNext v).startHeld = x.startHeld ∧ (x.withRearmNext v).tag = x.tag
    ∧ (x.withRearmNext v).lens = x.lens ∧ (x.withRearmNext v).lenNext = x.lenNext ∧ (x.withRearmNext v).rearmNext = v
    ∧ (x.withRearmNext v).src = x.src := by
  repeat' apply And.intro
  all_goals rfl
@[simp] theorem Section.withSrc_fields (x : Section) (v : Nat) :
    (x.withSrc v).st = x.st ∧ (x.withSrc v).loadStatus = x.loadStatus ∧ (x.withSrc v).epoch = x.epoch ∧ (x.withSrc v).image = x.image
    ∧ (x.withSrc v).tiles = x.tiles ∧ (x.withSrc v).passes = x.passes ∧ (x.withSrc v).report = x.report ∧ (x.withSrc v).spill = x.spill
    ∧ (x.withSrc v).reported = x.reported ∧ (x.withSrc v).xcode = x.xcode ∧ (x.withSrc v).xcodeOr = x.xcodeOr ∧ (x.withSrc v).fault = x.fault
    ∧ (x.withSrc v).runFires = x.runFires ∧ (x.withSrc v).runPeak = x.runPeak ∧ (x.withSrc v).fires = x.fires ∧ (x.withSrc v).peak = x.peak
    ∧ (x.withSrc v).startHeld = x.startHeld ∧ (x.withSrc v).tag = x.tag ∧ (x.withSrc v).lens = x.lens ∧ (x.withSrc v).lenNext = x.lenNext
    ∧ (x.withSrc v).rearmNext = x.rearmNext ∧ (x.withSrc v).src = v := by
  repeat' apply And.intro
  all_goals rfl
@[simp] theorem SrvSt.withPeriod_fields (x : SrvSt) (v : Nat) :
    (x.withPeriod v).period = v ∧ (x.withPeriod v).cutoff = x.cutoff ∧ (x.withPeriod v).phase = x.phase ∧ (x.withPeriod v).seqs = x.seqs
    ∧ (x.withPeriod v).echo = x.echo ∧ (x.withPeriod v).decode = x.decode ∧ (x.withPeriod v).chunks = x.chunks
    ∧ (x.withPeriod v).running = x.running ∧ (x.withPeriod v).entries = x.entries ∧ (x.withPeriod v).gaps = x.gaps
    ∧ (x.withPeriod v).lastSeq = x.lastSeq ∧ (x.withPeriod v).lastTenant = x.lastTenant ∧ (x.withPeriod v).beat = x.beat
    ∧ (x.withPeriod v).holdDue = x.holdDue ∧ (x.withPeriod v).resumeDue = x.resumeDue ∧ (x.withPeriod v).swaps = x.swaps
    ∧ (x.withPeriod v).gens = x.gens ∧ (x.withPeriod v).redo = x.redo ∧ (x.withPeriod v).late = x.late ∧ (x.withPeriod v).charges = x.charges
    ∧ (x.withPeriod v).due = x.due ∧ (x.withPeriod v).going = x.going := by
  repeat' apply And.intro
  all_goals rfl
@[simp] theorem SrvSt.withCutoff_fields (x : SrvSt) (v : Nat) :
    (x.withCutoff v).period = x.period ∧ (x.withCutoff v).cutoff = v ∧ (x.withCutoff v).phase = x.phase ∧ (x.withCutoff v).seqs = x.seqs
    ∧ (x.withCutoff v).echo = x.echo ∧ (x.withCutoff v).decode = x.decode ∧ (x.withCutoff v).chunks = x.chunks
    ∧ (x.withCutoff v).running = x.running ∧ (x.withCutoff v).entries = x.entries ∧ (x.withCutoff v).gaps = x.gaps
    ∧ (x.withCutoff v).lastSeq = x.lastSeq ∧ (x.withCutoff v).lastTenant = x.lastTenant ∧ (x.withCutoff v).beat = x.beat
    ∧ (x.withCutoff v).holdDue = x.holdDue ∧ (x.withCutoff v).resumeDue = x.resumeDue ∧ (x.withCutoff v).swaps = x.swaps
    ∧ (x.withCutoff v).gens = x.gens ∧ (x.withCutoff v).redo = x.redo ∧ (x.withCutoff v).late = x.late ∧ (x.withCutoff v).charges = x.charges
    ∧ (x.withCutoff v).due = x.due ∧ (x.withCutoff v).going = x.going := by
  repeat' apply And.intro
  all_goals rfl
@[simp] theorem SrvSt.withPhase_fields (x : SrvSt) (v : Nat) :
    (x.withPhase v).period = x.period ∧ (x.withPhase v).cutoff = x.cutoff ∧ (x.withPhase v).phase = v ∧ (x.withPhase v).seqs = x.seqs
    ∧ (x.withPhase v).echo = x.echo ∧ (x.withPhase v).decode = x.decode ∧ (x.withPhase v).chunks = x.chunks
    ∧ (x.withPhase v).running = x.running ∧ (x.withPhase v).entries = x.entries ∧ (x.withPhase v).gaps = x.gaps
    ∧ (x.withPhase v).lastSeq = x.lastSeq ∧ (x.withPhase v).lastTenant = x.lastTenant ∧ (x.withPhase v).beat = x.beat
    ∧ (x.withPhase v).holdDue = x.holdDue ∧ (x.withPhase v).resumeDue = x.resumeDue ∧ (x.withPhase v).swaps = x.swaps
    ∧ (x.withPhase v).gens = x.gens ∧ (x.withPhase v).redo = x.redo ∧ (x.withPhase v).late = x.late ∧ (x.withPhase v).charges = x.charges
    ∧ (x.withPhase v).due = x.due ∧ (x.withPhase v).going = x.going := by
  repeat' apply And.intro
  all_goals rfl
@[simp] theorem SrvSt.withSeqs_fields (x : SrvSt) (v : List Nat) :
    (x.withSeqs v).period = x.period ∧ (x.withSeqs v).cutoff = x.cutoff ∧ (x.withSeqs v).phase = x.phase ∧ (x.withSeqs v).seqs = v
    ∧ (x.withSeqs v).echo = x.echo ∧ (x.withSeqs v).decode = x.decode ∧ (x.withSeqs v).chunks = x.chunks ∧ (x.withSeqs v).running = x.running
    ∧ (x.withSeqs v).entries = x.entries ∧ (x.withSeqs v).gaps = x.gaps ∧ (x.withSeqs v).lastSeq = x.lastSeq
    ∧ (x.withSeqs v).lastTenant = x.lastTenant ∧ (x.withSeqs v).beat = x.beat ∧ (x.withSeqs v).holdDue = x.holdDue
    ∧ (x.withSeqs v).resumeDue = x.resumeDue ∧ (x.withSeqs v).swaps = x.swaps ∧ (x.withSeqs v).gens = x.gens ∧ (x.withSeqs v).redo = x.redo
    ∧ (x.withSeqs v).late = x.late ∧ (x.withSeqs v).charges = x.charges ∧ (x.withSeqs v).due = x.due ∧ (x.withSeqs v).going = x.going := by
  repeat' apply And.intro
  all_goals rfl
@[simp] theorem SrvSt.withEcho_fields (x : SrvSt) (v : List Echo) :
    (x.withEcho v).period = x.period ∧ (x.withEcho v).cutoff = x.cutoff ∧ (x.withEcho v).phase = x.phase ∧ (x.withEcho v).seqs = x.seqs
    ∧ (x.withEcho v).echo = v ∧ (x.withEcho v).decode = x.decode ∧ (x.withEcho v).chunks = x.chunks ∧ (x.withEcho v).running = x.running
    ∧ (x.withEcho v).entries = x.entries ∧ (x.withEcho v).gaps = x.gaps ∧ (x.withEcho v).lastSeq = x.lastSeq
    ∧ (x.withEcho v).lastTenant = x.lastTenant ∧ (x.withEcho v).beat = x.beat ∧ (x.withEcho v).holdDue = x.holdDue
    ∧ (x.withEcho v).resumeDue = x.resumeDue ∧ (x.withEcho v).swaps = x.swaps ∧ (x.withEcho v).gens = x.gens ∧ (x.withEcho v).redo = x.redo
    ∧ (x.withEcho v).late = x.late ∧ (x.withEcho v).charges = x.charges ∧ (x.withEcho v).due = x.due ∧ (x.withEcho v).going = x.going := by
  repeat' apply And.intro
  all_goals rfl
@[simp] theorem SrvSt.withDecode_fields (x : SrvSt) (v : List Nat) :
    (x.withDecode v).period = x.period ∧ (x.withDecode v).cutoff = x.cutoff ∧ (x.withDecode v).phase = x.phase
    ∧ (x.withDecode v).seqs = x.seqs ∧ (x.withDecode v).echo = x.echo ∧ (x.withDecode v).decode = v ∧ (x.withDecode v).chunks = x.chunks
    ∧ (x.withDecode v).running = x.running ∧ (x.withDecode v).entries = x.entries ∧ (x.withDecode v).gaps = x.gaps
    ∧ (x.withDecode v).lastSeq = x.lastSeq ∧ (x.withDecode v).lastTenant = x.lastTenant ∧ (x.withDecode v).beat = x.beat
    ∧ (x.withDecode v).holdDue = x.holdDue ∧ (x.withDecode v).resumeDue = x.resumeDue ∧ (x.withDecode v).swaps = x.swaps
    ∧ (x.withDecode v).gens = x.gens ∧ (x.withDecode v).redo = x.redo ∧ (x.withDecode v).late = x.late ∧ (x.withDecode v).charges = x.charges
    ∧ (x.withDecode v).due = x.due ∧ (x.withDecode v).going = x.going := by
  repeat' apply And.intro
  all_goals rfl
@[simp] theorem SrvSt.withChunks_fields (x : SrvSt) (v : List Chunk) :
    (x.withChunks v).period = x.period ∧ (x.withChunks v).cutoff = x.cutoff ∧ (x.withChunks v).phase = x.phase
    ∧ (x.withChunks v).seqs = x.seqs ∧ (x.withChunks v).echo = x.echo ∧ (x.withChunks v).decode = x.decode ∧ (x.withChunks v).chunks = v
    ∧ (x.withChunks v).running = x.running ∧ (x.withChunks v).entries = x.entries ∧ (x.withChunks v).gaps = x.gaps
    ∧ (x.withChunks v).lastSeq = x.lastSeq ∧ (x.withChunks v).lastTenant = x.lastTenant ∧ (x.withChunks v).beat = x.beat
    ∧ (x.withChunks v).holdDue = x.holdDue ∧ (x.withChunks v).resumeDue = x.resumeDue ∧ (x.withChunks v).swaps = x.swaps
    ∧ (x.withChunks v).gens = x.gens ∧ (x.withChunks v).redo = x.redo ∧ (x.withChunks v).late = x.late ∧ (x.withChunks v).charges = x.charges
    ∧ (x.withChunks v).due = x.due ∧ (x.withChunks v).going = x.going := by
  repeat' apply And.intro
  all_goals rfl
@[simp] theorem SrvSt.withRunning_fields (x : SrvSt) (v : List Chunk) :
    (x.withRunning v).period = x.period ∧ (x.withRunning v).cutoff = x.cutoff ∧ (x.withRunning v).phase = x.phase
    ∧ (x.withRunning v).seqs = x.seqs ∧ (x.withRunning v).echo = x.echo ∧ (x.withRunning v).decode = x.decode
    ∧ (x.withRunning v).chunks = x.chunks ∧ (x.withRunning v).running = v ∧ (x.withRunning v).entries = x.entries
    ∧ (x.withRunning v).gaps = x.gaps ∧ (x.withRunning v).lastSeq = x.lastSeq ∧ (x.withRunning v).lastTenant = x.lastTenant
    ∧ (x.withRunning v).beat = x.beat ∧ (x.withRunning v).holdDue = x.holdDue ∧ (x.withRunning v).resumeDue = x.resumeDue
    ∧ (x.withRunning v).swaps = x.swaps ∧ (x.withRunning v).gens = x.gens ∧ (x.withRunning v).redo = x.redo ∧ (x.withRunning v).late = x.late
    ∧ (x.withRunning v).charges = x.charges ∧ (x.withRunning v).due = x.due ∧ (x.withRunning v).going = x.going := by
  repeat' apply And.intro
  all_goals rfl
@[simp] theorem SrvSt.withEntries_fields (x : SrvSt) (v : List StepEnt) :
    (x.withEntries v).period = x.period ∧ (x.withEntries v).cutoff = x.cutoff ∧ (x.withEntries v).phase = x.phase
    ∧ (x.withEntries v).seqs = x.seqs ∧ (x.withEntries v).echo = x.echo ∧ (x.withEntries v).decode = x.decode
    ∧ (x.withEntries v).chunks = x.chunks ∧ (x.withEntries v).running = x.running ∧ (x.withEntries v).entries = v
    ∧ (x.withEntries v).gaps = x.gaps ∧ (x.withEntries v).lastSeq = x.lastSeq ∧ (x.withEntries v).lastTenant = x.lastTenant
    ∧ (x.withEntries v).beat = x.beat ∧ (x.withEntries v).holdDue = x.holdDue ∧ (x.withEntries v).resumeDue = x.resumeDue
    ∧ (x.withEntries v).swaps = x.swaps ∧ (x.withEntries v).gens = x.gens ∧ (x.withEntries v).redo = x.redo ∧ (x.withEntries v).late = x.late
    ∧ (x.withEntries v).charges = x.charges ∧ (x.withEntries v).due = x.due ∧ (x.withEntries v).going = x.going := by
  repeat' apply And.intro
  all_goals rfl
@[simp] theorem SrvSt.withGaps_fields (x : SrvSt) (v : List Gap) :
    (x.withGaps v).period = x.period ∧ (x.withGaps v).cutoff = x.cutoff ∧ (x.withGaps v).phase = x.phase ∧ (x.withGaps v).seqs = x.seqs
    ∧ (x.withGaps v).echo = x.echo ∧ (x.withGaps v).decode = x.decode ∧ (x.withGaps v).chunks = x.chunks ∧ (x.withGaps v).running = x.running
    ∧ (x.withGaps v).entries = x.entries ∧ (x.withGaps v).gaps = v ∧ (x.withGaps v).lastSeq = x.lastSeq
    ∧ (x.withGaps v).lastTenant = x.lastTenant ∧ (x.withGaps v).beat = x.beat ∧ (x.withGaps v).holdDue = x.holdDue
    ∧ (x.withGaps v).resumeDue = x.resumeDue ∧ (x.withGaps v).swaps = x.swaps ∧ (x.withGaps v).gens = x.gens ∧ (x.withGaps v).redo = x.redo
    ∧ (x.withGaps v).late = x.late ∧ (x.withGaps v).charges = x.charges ∧ (x.withGaps v).due = x.due ∧ (x.withGaps v).going = x.going := by
  repeat' apply And.intro
  all_goals rfl
@[simp] theorem SrvSt.withLastSeq_fields (x : SrvSt) (v : List (Nat × Nat)) :
    (x.withLastSeq v).period = x.period ∧ (x.withLastSeq v).cutoff = x.cutoff ∧ (x.withLastSeq v).phase = x.phase
    ∧ (x.withLastSeq v).seqs = x.seqs ∧ (x.withLastSeq v).echo = x.echo ∧ (x.withLastSeq v).decode = x.decode
    ∧ (x.withLastSeq v).chunks = x.chunks ∧ (x.withLastSeq v).running = x.running ∧ (x.withLastSeq v).entries = x.entries
    ∧ (x.withLastSeq v).gaps = x.gaps ∧ (x.withLastSeq v).lastSeq = v ∧ (x.withLastSeq v).lastTenant = x.lastTenant
    ∧ (x.withLastSeq v).beat = x.beat ∧ (x.withLastSeq v).holdDue = x.holdDue ∧ (x.withLastSeq v).resumeDue = x.resumeDue
    ∧ (x.withLastSeq v).swaps = x.swaps ∧ (x.withLastSeq v).gens = x.gens ∧ (x.withLastSeq v).redo = x.redo ∧ (x.withLastSeq v).late = x.late
    ∧ (x.withLastSeq v).charges = x.charges ∧ (x.withLastSeq v).due = x.due ∧ (x.withLastSeq v).going = x.going := by
  repeat' apply And.intro
  all_goals rfl
@[simp] theorem SrvSt.withLastTenant_fields (x : SrvSt) (v : Nat) :
    (x.withLastTenant v).period = x.period ∧ (x.withLastTenant v).cutoff = x.cutoff ∧ (x.withLastTenant v).phase = x.phase
    ∧ (x.withLastTenant v).seqs = x.seqs ∧ (x.withLastTenant v).echo = x.echo ∧ (x.withLastTenant v).decode = x.decode
    ∧ (x.withLastTenant v).chunks = x.chunks ∧ (x.withLastTenant v).running = x.running ∧ (x.withLastTenant v).entries = x.entries
    ∧ (x.withLastTenant v).gaps = x.gaps ∧ (x.withLastTenant v).lastSeq = x.lastSeq ∧ (x.withLastTenant v).lastTenant = v
    ∧ (x.withLastTenant v).beat = x.beat ∧ (x.withLastTenant v).holdDue = x.holdDue ∧ (x.withLastTenant v).resumeDue = x.resumeDue
    ∧ (x.withLastTenant v).swaps = x.swaps ∧ (x.withLastTenant v).gens = x.gens ∧ (x.withLastTenant v).redo = x.redo
    ∧ (x.withLastTenant v).late = x.late ∧ (x.withLastTenant v).charges = x.charges ∧ (x.withLastTenant v).due = x.due
    ∧ (x.withLastTenant v).going = x.going := by
  repeat' apply And.intro
  all_goals rfl
@[simp] theorem SrvSt.withBeat_fields (x : SrvSt) (v : Option Nat) :
    (x.withBeat v).period = x.period ∧ (x.withBeat v).cutoff = x.cutoff ∧ (x.withBeat v).phase = x.phase ∧ (x.withBeat v).seqs = x.seqs
    ∧ (x.withBeat v).echo = x.echo ∧ (x.withBeat v).decode = x.decode ∧ (x.withBeat v).chunks = x.chunks ∧ (x.withBeat v).running = x.running
    ∧ (x.withBeat v).entries = x.entries ∧ (x.withBeat v).gaps = x.gaps ∧ (x.withBeat v).lastSeq = x.lastSeq
    ∧ (x.withBeat v).lastTenant = x.lastTenant ∧ (x.withBeat v).beat = v ∧ (x.withBeat v).holdDue = x.holdDue
    ∧ (x.withBeat v).resumeDue = x.resumeDue ∧ (x.withBeat v).swaps = x.swaps ∧ (x.withBeat v).gens = x.gens ∧ (x.withBeat v).redo = x.redo
    ∧ (x.withBeat v).late = x.late ∧ (x.withBeat v).charges = x.charges ∧ (x.withBeat v).due = x.due ∧ (x.withBeat v).going = x.going := by
  repeat' apply And.intro
  all_goals rfl
@[simp] theorem SrvSt.withHoldDue_fields (x : SrvSt) (v : Bool) :
    (x.withHoldDue v).period = x.period ∧ (x.withHoldDue v).cutoff = x.cutoff ∧ (x.withHoldDue v).phase = x.phase
    ∧ (x.withHoldDue v).seqs = x.seqs ∧ (x.withHoldDue v).echo = x.echo ∧ (x.withHoldDue v).decode = x.decode
    ∧ (x.withHoldDue v).chunks = x.chunks ∧ (x.withHoldDue v).running = x.running ∧ (x.withHoldDue v).entries = x.entries
    ∧ (x.withHoldDue v).gaps = x.gaps ∧ (x.withHoldDue v).lastSeq = x.lastSeq ∧ (x.withHoldDue v).lastTenant = x.lastTenant
    ∧ (x.withHoldDue v).beat = x.beat ∧ (x.withHoldDue v).holdDue = v ∧ (x.withHoldDue v).resumeDue = x.resumeDue
    ∧ (x.withHoldDue v).swaps = x.swaps ∧ (x.withHoldDue v).gens = x.gens ∧ (x.withHoldDue v).redo = x.redo ∧ (x.withHoldDue v).late = x.late
    ∧ (x.withHoldDue v).charges = x.charges ∧ (x.withHoldDue v).due = x.due ∧ (x.withHoldDue v).going = x.going := by
  repeat' apply And.intro
  all_goals rfl
@[simp] theorem SrvSt.withResumeDue_fields (x : SrvSt) (v : Bool) :
    (x.withResumeDue v).period = x.period ∧ (x.withResumeDue v).cutoff = x.cutoff ∧ (x.withResumeDue v).phase = x.phase
    ∧ (x.withResumeDue v).seqs = x.seqs ∧ (x.withResumeDue v).echo = x.echo ∧ (x.withResumeDue v).decode = x.decode
    ∧ (x.withResumeDue v).chunks = x.chunks ∧ (x.withResumeDue v).running = x.running ∧ (x.withResumeDue v).entries = x.entries
    ∧ (x.withResumeDue v).gaps = x.gaps ∧ (x.withResumeDue v).lastSeq = x.lastSeq ∧ (x.withResumeDue v).lastTenant = x.lastTenant
    ∧ (x.withResumeDue v).beat = x.beat ∧ (x.withResumeDue v).holdDue = x.holdDue ∧ (x.withResumeDue v).resumeDue = v
    ∧ (x.withResumeDue v).swaps = x.swaps ∧ (x.withResumeDue v).gens = x.gens ∧ (x.withResumeDue v).redo = x.redo
    ∧ (x.withResumeDue v).late = x.late ∧ (x.withResumeDue v).charges = x.charges ∧ (x.withResumeDue v).due = x.due
    ∧ (x.withResumeDue v).going = x.going := by
  repeat' apply And.intro
  all_goals rfl
@[simp] theorem SrvSt.withSwaps_fields (x : SrvSt) (v : List (Nat × Nat × Nat)) :
    (x.withSwaps v).period = x.period ∧ (x.withSwaps v).cutoff = x.cutoff ∧ (x.withSwaps v).phase = x.phase ∧ (x.withSwaps v).seqs = x.seqs
    ∧ (x.withSwaps v).echo = x.echo ∧ (x.withSwaps v).decode = x.decode ∧ (x.withSwaps v).chunks = x.chunks
    ∧ (x.withSwaps v).running = x.running ∧ (x.withSwaps v).entries = x.entries ∧ (x.withSwaps v).gaps = x.gaps
    ∧ (x.withSwaps v).lastSeq = x.lastSeq ∧ (x.withSwaps v).lastTenant = x.lastTenant ∧ (x.withSwaps v).beat = x.beat
    ∧ (x.withSwaps v).holdDue = x.holdDue ∧ (x.withSwaps v).resumeDue = x.resumeDue ∧ (x.withSwaps v).swaps = v
    ∧ (x.withSwaps v).gens = x.gens ∧ (x.withSwaps v).redo = x.redo ∧ (x.withSwaps v).late = x.late ∧ (x.withSwaps v).charges = x.charges
    ∧ (x.withSwaps v).due = x.due ∧ (x.withSwaps v).going = x.going := by
  repeat' apply And.intro
  all_goals rfl
@[simp] theorem SrvSt.withGens_fields (x : SrvSt) (v : List (Nat × Nat)) :
    (x.withGens v).period = x.period ∧ (x.withGens v).cutoff = x.cutoff ∧ (x.withGens v).phase = x.phase ∧ (x.withGens v).seqs = x.seqs
    ∧ (x.withGens v).echo = x.echo ∧ (x.withGens v).decode = x.decode ∧ (x.withGens v).chunks = x.chunks ∧ (x.withGens v).running = x.running
    ∧ (x.withGens v).entries = x.entries ∧ (x.withGens v).gaps = x.gaps ∧ (x.withGens v).lastSeq = x.lastSeq
    ∧ (x.withGens v).lastTenant = x.lastTenant ∧ (x.withGens v).beat = x.beat ∧ (x.withGens v).holdDue = x.holdDue
    ∧ (x.withGens v).resumeDue = x.resumeDue ∧ (x.withGens v).swaps = x.swaps ∧ (x.withGens v).gens = v ∧ (x.withGens v).redo = x.redo
    ∧ (x.withGens v).late = x.late ∧ (x.withGens v).charges = x.charges ∧ (x.withGens v).due = x.due ∧ (x.withGens v).going = x.going := by
  repeat' apply And.intro
  all_goals rfl
@[simp] theorem SrvSt.withRedo_fields (x : SrvSt) (v : List (Nat × Nat)) :
    (x.withRedo v).period = x.period ∧ (x.withRedo v).cutoff = x.cutoff ∧ (x.withRedo v).phase = x.phase ∧ (x.withRedo v).seqs = x.seqs
    ∧ (x.withRedo v).echo = x.echo ∧ (x.withRedo v).decode = x.decode ∧ (x.withRedo v).chunks = x.chunks ∧ (x.withRedo v).running = x.running
    ∧ (x.withRedo v).entries = x.entries ∧ (x.withRedo v).gaps = x.gaps ∧ (x.withRedo v).lastSeq = x.lastSeq
    ∧ (x.withRedo v).lastTenant = x.lastTenant ∧ (x.withRedo v).beat = x.beat ∧ (x.withRedo v).holdDue = x.holdDue
    ∧ (x.withRedo v).resumeDue = x.resumeDue ∧ (x.withRedo v).swaps = x.swaps ∧ (x.withRedo v).gens = x.gens ∧ (x.withRedo v).redo = v
    ∧ (x.withRedo v).late = x.late ∧ (x.withRedo v).charges = x.charges ∧ (x.withRedo v).due = x.due ∧ (x.withRedo v).going = x.going := by
  repeat' apply And.intro
  all_goals rfl
@[simp] theorem SrvSt.withLate_fields (x : SrvSt) (v : List (Nat × Nat)) :
    (x.withLate v).period = x.period ∧ (x.withLate v).cutoff = x.cutoff ∧ (x.withLate v).phase = x.phase ∧ (x.withLate v).seqs = x.seqs
    ∧ (x.withLate v).echo = x.echo ∧ (x.withLate v).decode = x.decode ∧ (x.withLate v).chunks = x.chunks ∧ (x.withLate v).running = x.running
    ∧ (x.withLate v).entries = x.entries ∧ (x.withLate v).gaps = x.gaps ∧ (x.withLate v).lastSeq = x.lastSeq
    ∧ (x.withLate v).lastTenant = x.lastTenant ∧ (x.withLate v).beat = x.beat ∧ (x.withLate v).holdDue = x.holdDue
    ∧ (x.withLate v).resumeDue = x.resumeDue ∧ (x.withLate v).swaps = x.swaps ∧ (x.withLate v).gens = x.gens ∧ (x.withLate v).redo = x.redo
    ∧ (x.withLate v).late = v ∧ (x.withLate v).charges = x.charges ∧ (x.withLate v).due = x.due ∧ (x.withLate v).going = x.going := by
  repeat' apply And.intro
  all_goals rfl
@[simp] theorem SrvSt.withCharges_fields (x : SrvSt) (v : List (Nat × Nat)) :
    (x.withCharges v).period = x.period ∧ (x.withCharges v).cutoff = x.cutoff ∧ (x.withCharges v).phase = x.phase
    ∧ (x.withCharges v).seqs = x.seqs ∧ (x.withCharges v).echo = x.echo ∧ (x.withCharges v).decode = x.decode
    ∧ (x.withCharges v).chunks = x.chunks ∧ (x.withCharges v).running = x.running ∧ (x.withCharges v).entries = x.entries
    ∧ (x.withCharges v).gaps = x.gaps ∧ (x.withCharges v).lastSeq = x.lastSeq ∧ (x.withCharges v).lastTenant = x.lastTenant
    ∧ (x.withCharges v).beat = x.beat ∧ (x.withCharges v).holdDue = x.holdDue ∧ (x.withCharges v).resumeDue = x.resumeDue
    ∧ (x.withCharges v).swaps = x.swaps ∧ (x.withCharges v).gens = x.gens ∧ (x.withCharges v).redo = x.redo ∧ (x.withCharges v).late = x.late
    ∧ (x.withCharges v).charges = v ∧ (x.withCharges v).due = x.due ∧ (x.withCharges v).going = x.going := by
  repeat' apply And.intro
  all_goals rfl
@[simp] theorem SrvSt.withDue_fields (x : SrvSt) (v : Nat) :
    (x.withDue v).period = x.period ∧ (x.withDue v).cutoff = x.cutoff ∧ (x.withDue v).phase = x.phase ∧ (x.withDue v).seqs = x.seqs
    ∧ (x.withDue v).echo = x.echo ∧ (x.withDue v).decode = x.decode ∧ (x.withDue v).chunks = x.chunks ∧ (x.withDue v).running = x.running
    ∧ (x.withDue v).entries = x.entries ∧ (x.withDue v).gaps = x.gaps ∧ (x.withDue v).lastSeq = x.lastSeq
    ∧ (x.withDue v).lastTenant = x.lastTenant ∧ (x.withDue v).beat = x.beat ∧ (x.withDue v).holdDue = x.holdDue
    ∧ (x.withDue v).resumeDue = x.resumeDue ∧ (x.withDue v).swaps = x.swaps ∧ (x.withDue v).gens = x.gens ∧ (x.withDue v).redo = x.redo
    ∧ (x.withDue v).late = x.late ∧ (x.withDue v).charges = x.charges ∧ (x.withDue v).due = v ∧ (x.withDue v).going = x.going := by
  repeat' apply And.intro
  all_goals rfl
@[simp] theorem SrvSt.withGoing_fields (x : SrvSt) (v : Bool) :
    (x.withGoing v).period = x.period ∧ (x.withGoing v).cutoff = x.cutoff ∧ (x.withGoing v).phase = x.phase ∧ (x.withGoing v).seqs = x.seqs
    ∧ (x.withGoing v).echo = x.echo ∧ (x.withGoing v).decode = x.decode ∧ (x.withGoing v).chunks = x.chunks
    ∧ (x.withGoing v).running = x.running ∧ (x.withGoing v).entries = x.entries ∧ (x.withGoing v).gaps = x.gaps
    ∧ (x.withGoing v).lastSeq = x.lastSeq ∧ (x.withGoing v).lastTenant = x.lastTenant ∧ (x.withGoing v).beat = x.beat
    ∧ (x.withGoing v).holdDue = x.holdDue ∧ (x.withGoing v).resumeDue = x.resumeDue ∧ (x.withGoing v).swaps = x.swaps
    ∧ (x.withGoing v).gens = x.gens ∧ (x.withGoing v).redo = x.redo ∧ (x.withGoing v).late = x.late ∧ (x.withGoing v).charges = x.charges
    ∧ (x.withGoing v).due = x.due ∧ (x.withGoing v).going = v := by
  repeat' apply And.intro
  all_goals rfl
@[simp] theorem StepEnt.withStatus_fields (x : StepEnt) (v : Nat) :
    (x.withStatus v).seq = x.seq ∧ (x.withStatus v).dest = x.dest ∧ (x.withStatus v).id = x.id ∧ (x.withStatus v).tenant = x.tenant
    ∧ (x.withStatus v).status = v ∧ (x.withStatus v).count = x.count ∧ (x.withStatus v).index = x.index ∧ (x.withStatus v).token = x.token := by
  repeat' apply And.intro
  all_goals rfl
@[simp] theorem StrmOp.withIssued_fields (x : StrmOp) (v : Nat) :
    (x.withIssued v).rearm = x.rearm ∧ (x.withIssued v).word = x.word ∧ (x.withIssued v).pc = x.pc ∧ (x.withIssued v).off = x.off
    ∧ (x.withIssued v).n = x.n ∧ (x.withIssued v).issued = v ∧ (x.withIssued v).base = x.base ∧ (x.withIssued v).id = x.id := by
  repeat' apply And.intro
  all_goals rfl
@[simp] theorem SubPort.withEgress_fields (x : SubPort) (v : List OutFrame) :
    (x.withEgress v).egress = v ∧ (x.withEgress v).turn = x.turn ∧ (x.withEgress v).spent = x.spent ∧ (x.withEgress v).pauses = x.pauses
    ∧ (x.withEgress v).xoff = x.xoff ∧ (x.withEgress v).hello = x.hello ∧ (x.withEgress v).helloAt = x.helloAt
    ∧ (x.withEgress v).ptpSeq = x.ptpSeq ∧ (x.withEgress v).ptpAt = x.ptpAt ∧ (x.withEgress v).ptpSent = x.ptpSent
    ∧ (x.withEgress v).ptp = x.ptp ∧ (x.withEgress v).dark = x.dark ∧ (x.withEgress v).trainAt = x.trainAt ∧ (x.withEgress v).fails = x.fails
    ∧ (x.withEgress v).lowest = x.lowest := by
  repeat' apply And.intro
  all_goals rfl
@[simp] theorem SubPort.withTurn_fields (x : SubPort) (v : Nat) :
    (x.withTurn v).egress = x.egress ∧ (x.withTurn v).turn = v ∧ (x.withTurn v).spent = x.spent ∧ (x.withTurn v).pauses = x.pauses
    ∧ (x.withTurn v).xoff = x.xoff ∧ (x.withTurn v).hello = x.hello ∧ (x.withTurn v).helloAt = x.helloAt ∧ (x.withTurn v).ptpSeq = x.ptpSeq
    ∧ (x.withTurn v).ptpAt = x.ptpAt ∧ (x.withTurn v).ptpSent = x.ptpSent ∧ (x.withTurn v).ptp = x.ptp ∧ (x.withTurn v).dark = x.dark
    ∧ (x.withTurn v).trainAt = x.trainAt ∧ (x.withTurn v).fails = x.fails ∧ (x.withTurn v).lowest = x.lowest := by
  repeat' apply And.intro
  all_goals rfl
@[simp] theorem SubPort.withSpent_fields (x : SubPort) (v : Nat) :
    (x.withSpent v).egress = x.egress ∧ (x.withSpent v).turn = x.turn ∧ (x.withSpent v).spent = v ∧ (x.withSpent v).pauses = x.pauses
    ∧ (x.withSpent v).xoff = x.xoff ∧ (x.withSpent v).hello = x.hello ∧ (x.withSpent v).helloAt = x.helloAt
    ∧ (x.withSpent v).ptpSeq = x.ptpSeq ∧ (x.withSpent v).ptpAt = x.ptpAt ∧ (x.withSpent v).ptpSent = x.ptpSent ∧ (x.withSpent v).ptp = x.ptp
    ∧ (x.withSpent v).dark = x.dark ∧ (x.withSpent v).trainAt = x.trainAt ∧ (x.withSpent v).fails = x.fails
    ∧ (x.withSpent v).lowest = x.lowest := by
  repeat' apply And.intro
  all_goals rfl
@[simp] theorem SubPort.withPauses_fields (x : SubPort) (v : List (Nat × Nat)) :
    (x.withPauses v).egress = x.egress ∧ (x.withPauses v).turn = x.turn ∧ (x.withPauses v).spent = x.spent ∧ (x.withPauses v).pauses = v
    ∧ (x.withPauses v).xoff = x.xoff ∧ (x.withPauses v).hello = x.hello ∧ (x.withPauses v).helloAt = x.helloAt
    ∧ (x.withPauses v).ptpSeq = x.ptpSeq ∧ (x.withPauses v).ptpAt = x.ptpAt ∧ (x.withPauses v).ptpSent = x.ptpSent
    ∧ (x.withPauses v).ptp = x.ptp ∧ (x.withPauses v).dark = x.dark ∧ (x.withPauses v).trainAt = x.trainAt ∧ (x.withPauses v).fails = x.fails
    ∧ (x.withPauses v).lowest = x.lowest := by
  repeat' apply And.intro
  all_goals rfl
@[simp] theorem SubPort.withXoff_fields (x : SubPort) (v : List (Nat × Nat)) :
    (x.withXoff v).egress = x.egress ∧ (x.withXoff v).turn = x.turn ∧ (x.withXoff v).spent = x.spent ∧ (x.withXoff v).pauses = x.pauses
    ∧ (x.withXoff v).xoff = v ∧ (x.withXoff v).hello = x.hello ∧ (x.withXoff v).helloAt = x.helloAt ∧ (x.withXoff v).ptpSeq = x.ptpSeq
    ∧ (x.withXoff v).ptpAt = x.ptpAt ∧ (x.withXoff v).ptpSent = x.ptpSent ∧ (x.withXoff v).ptp = x.ptp ∧ (x.withXoff v).dark = x.dark
    ∧ (x.withXoff v).trainAt = x.trainAt ∧ (x.withXoff v).fails = x.fails ∧ (x.withXoff v).lowest = x.lowest := by
  repeat' apply And.intro
  all_goals rfl
@[simp] theorem SubPort.withHello_fields (x : SubPort) (v : Option Hello) :
    (x.withHello v).egress = x.egress ∧ (x.withHello v).turn = x.turn ∧ (x.withHello v).spent = x.spent ∧ (x.withHello v).pauses = x.pauses
    ∧ (x.withHello v).xoff = x.xoff ∧ (x.withHello v).hello = v ∧ (x.withHello v).helloAt = x.helloAt ∧ (x.withHello v).ptpSeq = x.ptpSeq
    ∧ (x.withHello v).ptpAt = x.ptpAt ∧ (x.withHello v).ptpSent = x.ptpSent ∧ (x.withHello v).ptp = x.ptp ∧ (x.withHello v).dark = x.dark
    ∧ (x.withHello v).trainAt = x.trainAt ∧ (x.withHello v).fails = x.fails ∧ (x.withHello v).lowest = x.lowest := by
  repeat' apply And.intro
  all_goals rfl
@[simp] theorem SubPort.withHelloAt_fields (x : SubPort) (v : Nat) :
    (x.withHelloAt v).egress = x.egress ∧ (x.withHelloAt v).turn = x.turn ∧ (x.withHelloAt v).spent = x.spent
    ∧ (x.withHelloAt v).pauses = x.pauses ∧ (x.withHelloAt v).xoff = x.xoff ∧ (x.withHelloAt v).hello = x.hello
    ∧ (x.withHelloAt v).helloAt = v ∧ (x.withHelloAt v).ptpSeq = x.ptpSeq ∧ (x.withHelloAt v).ptpAt = x.ptpAt
    ∧ (x.withHelloAt v).ptpSent = x.ptpSent ∧ (x.withHelloAt v).ptp = x.ptp ∧ (x.withHelloAt v).dark = x.dark
    ∧ (x.withHelloAt v).trainAt = x.trainAt ∧ (x.withHelloAt v).fails = x.fails ∧ (x.withHelloAt v).lowest = x.lowest := by
  repeat' apply And.intro
  all_goals rfl
@[simp] theorem SubPort.withPtpSeq_fields (x : SubPort) (v : List (Nat × Nat)) :
    (x.withPtpSeq v).egress = x.egress ∧ (x.withPtpSeq v).turn = x.turn ∧ (x.withPtpSeq v).spent = x.spent
    ∧ (x.withPtpSeq v).pauses = x.pauses ∧ (x.withPtpSeq v).xoff = x.xoff ∧ (x.withPtpSeq v).hello = x.hello
    ∧ (x.withPtpSeq v).helloAt = x.helloAt ∧ (x.withPtpSeq v).ptpSeq = v ∧ (x.withPtpSeq v).ptpAt = x.ptpAt
    ∧ (x.withPtpSeq v).ptpSent = x.ptpSent ∧ (x.withPtpSeq v).ptp = x.ptp ∧ (x.withPtpSeq v).dark = x.dark
    ∧ (x.withPtpSeq v).trainAt = x.trainAt ∧ (x.withPtpSeq v).fails = x.fails ∧ (x.withPtpSeq v).lowest = x.lowest := by
  repeat' apply And.intro
  all_goals rfl
@[simp] theorem SubPort.withPtpAt_fields (x : SubPort) (v : List (Nat × Nat)) :
    (x.withPtpAt v).egress = x.egress ∧ (x.withPtpAt v).turn = x.turn ∧ (x.withPtpAt v).spent = x.spent ∧ (x.withPtpAt v).pauses = x.pauses
    ∧ (x.withPtpAt v).xoff = x.xoff ∧ (x.withPtpAt v).hello = x.hello ∧ (x.withPtpAt v).helloAt = x.helloAt
    ∧ (x.withPtpAt v).ptpSeq = x.ptpSeq ∧ (x.withPtpAt v).ptpAt = v ∧ (x.withPtpAt v).ptpSent = x.ptpSent ∧ (x.withPtpAt v).ptp = x.ptp
    ∧ (x.withPtpAt v).dark = x.dark ∧ (x.withPtpAt v).trainAt = x.trainAt ∧ (x.withPtpAt v).fails = x.fails
    ∧ (x.withPtpAt v).lowest = x.lowest := by
  repeat' apply And.intro
  all_goals rfl
@[simp] theorem SubPort.withPtpSent_fields (x : SubPort) (v : List (Nat × Nat × Nat)) :
    (x.withPtpSent v).egress = x.egress ∧ (x.withPtpSent v).turn = x.turn ∧ (x.withPtpSent v).spent = x.spent
    ∧ (x.withPtpSent v).pauses = x.pauses ∧ (x.withPtpSent v).xoff = x.xoff ∧ (x.withPtpSent v).hello = x.hello
    ∧ (x.withPtpSent v).helloAt = x.helloAt ∧ (x.withPtpSent v).ptpSeq = x.ptpSeq ∧ (x.withPtpSent v).ptpAt = x.ptpAt
    ∧ (x.withPtpSent v).ptpSent = v ∧ (x.withPtpSent v).ptp = x.ptp ∧ (x.withPtpSent v).dark = x.dark ∧ (x.withPtpSent v).trainAt = x.trainAt
    ∧ (x.withPtpSent v).fails = x.fails ∧ (x.withPtpSent v).lowest = x.lowest := by
  repeat' apply And.intro
  all_goals rfl
@[simp] theorem SubPort.withPtp_fields (x : SubPort) (v : PtpRx) :
    (x.withPtp v).egress = x.egress ∧ (x.withPtp v).turn = x.turn ∧ (x.withPtp v).spent = x.spent ∧ (x.withPtp v).pauses = x.pauses
    ∧ (x.withPtp v).xoff = x.xoff ∧ (x.withPtp v).hello = x.hello ∧ (x.withPtp v).helloAt = x.helloAt ∧ (x.withPtp v).ptpSeq = x.ptpSeq
    ∧ (x.withPtp v).ptpAt = x.ptpAt ∧ (x.withPtp v).ptpSent = x.ptpSent ∧ (x.withPtp v).ptp = v ∧ (x.withPtp v).dark = x.dark
    ∧ (x.withPtp v).trainAt = x.trainAt ∧ (x.withPtp v).fails = x.fails ∧ (x.withPtp v).lowest = x.lowest := by
  repeat' apply And.intro
  all_goals rfl
@[simp] theorem SubPort.withDark_fields (x : SubPort) (v : Bool) :
    (x.withDark v).egress = x.egress ∧ (x.withDark v).turn = x.turn ∧ (x.withDark v).spent = x.spent ∧ (x.withDark v).pauses = x.pauses
    ∧ (x.withDark v).xoff = x.xoff ∧ (x.withDark v).hello = x.hello ∧ (x.withDark v).helloAt = x.helloAt ∧ (x.withDark v).ptpSeq = x.ptpSeq
    ∧ (x.withDark v).ptpAt = x.ptpAt ∧ (x.withDark v).ptpSent = x.ptpSent ∧ (x.withDark v).ptp = x.ptp ∧ (x.withDark v).dark = v
    ∧ (x.withDark v).trainAt = x.trainAt ∧ (x.withDark v).fails = x.fails ∧ (x.withDark v).lowest = x.lowest := by
  repeat' apply And.intro
  all_goals rfl
@[simp] theorem SubPort.withTrainAt_fields (x : SubPort) (v : Nat) :
    (x.withTrainAt v).egress = x.egress ∧ (x.withTrainAt v).turn = x.turn ∧ (x.withTrainAt v).spent = x.spent
    ∧ (x.withTrainAt v).pauses = x.pauses ∧ (x.withTrainAt v).xoff = x.xoff ∧ (x.withTrainAt v).hello = x.hello
    ∧ (x.withTrainAt v).helloAt = x.helloAt ∧ (x.withTrainAt v).ptpSeq = x.ptpSeq ∧ (x.withTrainAt v).ptpAt = x.ptpAt
    ∧ (x.withTrainAt v).ptpSent = x.ptpSent ∧ (x.withTrainAt v).ptp = x.ptp ∧ (x.withTrainAt v).dark = x.dark ∧ (x.withTrainAt v).trainAt = v
    ∧ (x.withTrainAt v).fails = x.fails ∧ (x.withTrainAt v).lowest = x.lowest := by
  repeat' apply And.intro
  all_goals rfl
@[simp] theorem SubPort.withFails_fields (x : SubPort) (v : Nat) :
    (x.withFails v).egress = x.egress ∧ (x.withFails v).turn = x.turn ∧ (x.withFails v).spent = x.spent ∧ (x.withFails v).pauses = x.pauses
    ∧ (x.withFails v).xoff = x.xoff ∧ (x.withFails v).hello = x.hello ∧ (x.withFails v).helloAt = x.helloAt
    ∧ (x.withFails v).ptpSeq = x.ptpSeq ∧ (x.withFails v).ptpAt = x.ptpAt ∧ (x.withFails v).ptpSent = x.ptpSent ∧ (x.withFails v).ptp = x.ptp
    ∧ (x.withFails v).dark = x.dark ∧ (x.withFails v).trainAt = x.trainAt ∧ (x.withFails v).fails = v ∧ (x.withFails v).lowest = x.lowest := by
  repeat' apply And.intro
  all_goals rfl
@[simp] theorem SubPort.withLowest_fields (x : SubPort) (v : List (Nat × Nat)) :
    (x.withLowest v).egress = x.egress ∧ (x.withLowest v).turn = x.turn ∧ (x.withLowest v).spent = x.spent
    ∧ (x.withLowest v).pauses = x.pauses ∧ (x.withLowest v).xoff = x.xoff ∧ (x.withLowest v).hello = x.hello
    ∧ (x.withLowest v).helloAt = x.helloAt ∧ (x.withLowest v).ptpSeq = x.ptpSeq ∧ (x.withLowest v).ptpAt = x.ptpAt
    ∧ (x.withLowest v).ptpSent = x.ptpSent ∧ (x.withLowest v).ptp = x.ptp ∧ (x.withLowest v).dark = x.dark
    ∧ (x.withLowest v).trainAt = x.trainAt ∧ (x.withLowest v).fails = x.fails ∧ (x.withLowest v).lowest = v := by
  repeat' apply And.intro
  all_goals rfl
@[simp] theorem Tile.withSt_fields (x : Tile) (v : TileSt) :
    (x.withSt v).st = v ∧ (x.withSt v).parkTo = x.parkTo ∧ (x.withSt v).suspect = x.suspect ∧ (x.withSt v).run = x.run
    ∧ (x.withSt v).refused = x.refused ∧ (x.withSt v).qstray = x.qstray ∧ (x.withSt v).steerDrop = x.steerDrop
    ∧ (x.withSt v).stalls = x.stalls ∧ (x.withSt v).ctxs = x.ctxs ∧ (x.withSt v).transit = x.transit ∧ (x.withSt v).pstore = x.pstore
    ∧ (x.withSt v).spad = x.spad ∧ (x.withSt v).u = x.u := by
  repeat' apply And.intro
  all_goals rfl
@[simp] theorem Tile.withParkTo_fields (x : Tile) (v : Option Bool) :
    (x.withParkTo v).st = x.st ∧ (x.withParkTo v).parkTo = v ∧ (x.withParkTo v).suspect = x.suspect ∧ (x.withParkTo v).run = x.run
    ∧ (x.withParkTo v).refused = x.refused ∧ (x.withParkTo v).qstray = x.qstray ∧ (x.withParkTo v).steerDrop = x.steerDrop
    ∧ (x.withParkTo v).stalls = x.stalls ∧ (x.withParkTo v).ctxs = x.ctxs ∧ (x.withParkTo v).transit = x.transit
    ∧ (x.withParkTo v).pstore = x.pstore ∧ (x.withParkTo v).spad = x.spad ∧ (x.withParkTo v).u = x.u := by
  repeat' apply And.intro
  all_goals rfl
@[simp] theorem Tile.withSuspect_fields (x : Tile) (v : Bool) :
    (x.withSuspect v).st = x.st ∧ (x.withSuspect v).parkTo = x.parkTo ∧ (x.withSuspect v).suspect = v ∧ (x.withSuspect v).run = x.run
    ∧ (x.withSuspect v).refused = x.refused ∧ (x.withSuspect v).qstray = x.qstray ∧ (x.withSuspect v).steerDrop = x.steerDrop
    ∧ (x.withSuspect v).stalls = x.stalls ∧ (x.withSuspect v).ctxs = x.ctxs ∧ (x.withSuspect v).transit = x.transit
    ∧ (x.withSuspect v).pstore = x.pstore ∧ (x.withSuspect v).spad = x.spad ∧ (x.withSuspect v).u = x.u := by
  repeat' apply And.intro
  all_goals rfl
@[simp] theorem Tile.withRun_fields (x : Tile) (v : Option (Nat × Nat)) :
    (x.withRun v).st = x.st ∧ (x.withRun v).parkTo = x.parkTo ∧ (x.withRun v).suspect = x.suspect ∧ (x.withRun v).run = v
    ∧ (x.withRun v).refused = x.refused ∧ (x.withRun v).qstray = x.qstray ∧ (x.withRun v).steerDrop = x.steerDrop
    ∧ (x.withRun v).stalls = x.stalls ∧ (x.withRun v).ctxs = x.ctxs ∧ (x.withRun v).transit = x.transit ∧ (x.withRun v).pstore = x.pstore
    ∧ (x.withRun v).spad = x.spad ∧ (x.withRun v).u = x.u := by
  repeat' apply And.intro
  all_goals rfl
@[simp] theorem Tile.withRefused_fields (x : Tile) (v : W64) :
    (x.withRefused v).st = x.st ∧ (x.withRefused v).parkTo = x.parkTo ∧ (x.withRefused v).suspect = x.suspect ∧ (x.withRefused v).run = x.run
    ∧ (x.withRefused v).refused = v ∧ (x.withRefused v).qstray = x.qstray ∧ (x.withRefused v).steerDrop = x.steerDrop
    ∧ (x.withRefused v).stalls = x.stalls ∧ (x.withRefused v).ctxs = x.ctxs ∧ (x.withRefused v).transit = x.transit
    ∧ (x.withRefused v).pstore = x.pstore ∧ (x.withRefused v).spad = x.spad ∧ (x.withRefused v).u = x.u := by
  repeat' apply And.intro
  all_goals rfl
@[simp] theorem Tile.withQstray_fields (x : Tile) (v : W64) :
    (x.withQstray v).st = x.st ∧ (x.withQstray v).parkTo = x.parkTo ∧ (x.withQstray v).suspect = x.suspect ∧ (x.withQstray v).run = x.run
    ∧ (x.withQstray v).refused = x.refused ∧ (x.withQstray v).qstray = v ∧ (x.withQstray v).steerDrop = x.steerDrop
    ∧ (x.withQstray v).stalls = x.stalls ∧ (x.withQstray v).ctxs = x.ctxs ∧ (x.withQstray v).transit = x.transit
    ∧ (x.withQstray v).pstore = x.pstore ∧ (x.withQstray v).spad = x.spad ∧ (x.withQstray v).u = x.u := by
  repeat' apply And.intro
  all_goals rfl
@[simp] theorem Tile.withSteerDrop_fields (x : Tile) (v : W64) :
    (x.withSteerDrop v).st = x.st ∧ (x.withSteerDrop v).parkTo = x.parkTo ∧ (x.withSteerDrop v).suspect = x.suspect
    ∧ (x.withSteerDrop v).run = x.run ∧ (x.withSteerDrop v).refused = x.refused ∧ (x.withSteerDrop v).qstray = x.qstray
    ∧ (x.withSteerDrop v).steerDrop = v ∧ (x.withSteerDrop v).stalls = x.stalls ∧ (x.withSteerDrop v).ctxs = x.ctxs
    ∧ (x.withSteerDrop v).transit = x.transit ∧ (x.withSteerDrop v).pstore = x.pstore ∧ (x.withSteerDrop v).spad = x.spad
    ∧ (x.withSteerDrop v).u = x.u := by
  repeat' apply And.intro
  all_goals rfl
@[simp] theorem Tile.withStalls_fields (x : Tile) (v : List (Nat × Nat)) :
    (x.withStalls v).st = x.st ∧ (x.withStalls v).parkTo = x.parkTo ∧ (x.withStalls v).suspect = x.suspect ∧ (x.withStalls v).run = x.run
    ∧ (x.withStalls v).refused = x.refused ∧ (x.withStalls v).qstray = x.qstray ∧ (x.withStalls v).steerDrop = x.steerDrop
    ∧ (x.withStalls v).stalls = v ∧ (x.withStalls v).ctxs = x.ctxs ∧ (x.withStalls v).transit = x.transit
    ∧ (x.withStalls v).pstore = x.pstore ∧ (x.withStalls v).spad = x.spad ∧ (x.withStalls v).u = x.u := by
  repeat' apply And.intro
  all_goals rfl
@[simp] theorem Tile.withCtxs_fields (x : Tile) (v : List (Nat × TileCtx)) :
    (x.withCtxs v).st = x.st ∧ (x.withCtxs v).parkTo = x.parkTo ∧ (x.withCtxs v).suspect = x.suspect ∧ (x.withCtxs v).run = x.run
    ∧ (x.withCtxs v).refused = x.refused ∧ (x.withCtxs v).qstray = x.qstray ∧ (x.withCtxs v).steerDrop = x.steerDrop
    ∧ (x.withCtxs v).stalls = x.stalls ∧ (x.withCtxs v).ctxs = v ∧ (x.withCtxs v).transit = x.transit ∧ (x.withCtxs v).pstore = x.pstore
    ∧ (x.withCtxs v).spad = x.spad ∧ (x.withCtxs v).u = x.u := by
  repeat' apply And.intro
  all_goals rfl
@[simp] theorem Tile.withTransit_fields (x : Tile) (v : List (Nat × W64)) :
    (x.withTransit v).st = x.st ∧ (x.withTransit v).parkTo = x.parkTo ∧ (x.withTransit v).suspect = x.suspect ∧ (x.withTransit v).run = x.run
    ∧ (x.withTransit v).refused = x.refused ∧ (x.withTransit v).qstray = x.qstray ∧ (x.withTransit v).steerDrop = x.steerDrop
    ∧ (x.withTransit v).stalls = x.stalls ∧ (x.withTransit v).ctxs = x.ctxs ∧ (x.withTransit v).transit = v
    ∧ (x.withTransit v).pstore = x.pstore ∧ (x.withTransit v).spad = x.spad ∧ (x.withTransit v).u = x.u := by
  repeat' apply And.intro
  all_goals rfl
@[simp] theorem Tile.withPstore_fields (x : Tile) (v : List (Nat × W64)) :
    (x.withPstore v).st = x.st ∧ (x.withPstore v).parkTo = x.parkTo ∧ (x.withPstore v).suspect = x.suspect ∧ (x.withPstore v).run = x.run
    ∧ (x.withPstore v).refused = x.refused ∧ (x.withPstore v).qstray = x.qstray ∧ (x.withPstore v).steerDrop = x.steerDrop
    ∧ (x.withPstore v).stalls = x.stalls ∧ (x.withPstore v).ctxs = x.ctxs ∧ (x.withPstore v).transit = x.transit
    ∧ (x.withPstore v).pstore = v ∧ (x.withPstore v).spad = x.spad ∧ (x.withPstore v).u = x.u := by
  repeat' apply And.intro
  all_goals rfl
@[simp] theorem Tile.withSpad_fields (x : Tile) (v : List (Nat × Byte)) :
    (x.withSpad v).st = x.st ∧ (x.withSpad v).parkTo = x.parkTo ∧ (x.withSpad v).suspect = x.suspect ∧ (x.withSpad v).run = x.run
    ∧ (x.withSpad v).refused = x.refused ∧ (x.withSpad v).qstray = x.qstray ∧ (x.withSpad v).steerDrop = x.steerDrop
    ∧ (x.withSpad v).stalls = x.stalls ∧ (x.withSpad v).ctxs = x.ctxs ∧ (x.withSpad v).transit = x.transit ∧ (x.withSpad v).pstore = x.pstore
    ∧ (x.withSpad v).spad = v ∧ (x.withSpad v).u = x.u := by
  repeat' apply And.intro
  all_goals rfl
@[simp] theorem Tile.withU_fields (x : Tile) (v : Units) :
    (x.withU v).st = x.st ∧ (x.withU v).parkTo = x.parkTo ∧ (x.withU v).suspect = x.suspect ∧ (x.withU v).run = x.run
    ∧ (x.withU v).refused = x.refused ∧ (x.withU v).qstray = x.qstray ∧ (x.withU v).steerDrop = x.steerDrop ∧ (x.withU v).stalls = x.stalls
    ∧ (x.withU v).ctxs = x.ctxs ∧ (x.withU v).transit = x.transit ∧ (x.withU v).pstore = x.pstore ∧ (x.withU v).spad = x.spad
    ∧ (x.withU v).u = v := by
  repeat' apply And.intro
  all_goals rfl
@[simp] theorem TileCtx.withFpctl_fields (x : TileCtx) (v : W64) :
    (x.withFpctl v).fpctl = v ∧ (x.withFpctl v).srseed = x.srseed ∧ (x.withFpctl v).fpstat = x.fpstat ∧ (x.withFpctl v).pstore = x.pstore
    ∧ (x.withFpctl v).spad = x.spad ∧ (x.withFpctl v).x = x.x ∧ (x.withFpctl v).p = x.p ∧ (x.withFpctl v).lc = x.lc
    ∧ (x.withFpctl v).pc = x.pc ∧ (x.withFpctl v).rings = x.rings ∧ (x.withFpctl v).apts = x.apts ∧ (x.withFpctl v).queues = x.queues
    ∧ (x.withFpctl v).routes = x.routes ∧ (x.withFpctl v).binds = x.binds ∧ (x.withFpctl v).drains = x.drains := by
  repeat' apply And.intro
  all_goals rfl
@[simp] theorem TileCtx.withSrseed_fields (x : TileCtx) (v : W64) :
    (x.withSrseed v).fpctl = x.fpctl ∧ (x.withSrseed v).srseed = v ∧ (x.withSrseed v).fpstat = x.fpstat ∧ (x.withSrseed v).pstore = x.pstore
    ∧ (x.withSrseed v).spad = x.spad ∧ (x.withSrseed v).x = x.x ∧ (x.withSrseed v).p = x.p ∧ (x.withSrseed v).lc = x.lc
    ∧ (x.withSrseed v).pc = x.pc ∧ (x.withSrseed v).rings = x.rings ∧ (x.withSrseed v).apts = x.apts ∧ (x.withSrseed v).queues = x.queues
    ∧ (x.withSrseed v).routes = x.routes ∧ (x.withSrseed v).binds = x.binds ∧ (x.withSrseed v).drains = x.drains := by
  repeat' apply And.intro
  all_goals rfl
@[simp] theorem TileCtx.withFpstat_fields (x : TileCtx) (v : W64) :
    (x.withFpstat v).fpctl = x.fpctl ∧ (x.withFpstat v).srseed = x.srseed ∧ (x.withFpstat v).fpstat = v ∧ (x.withFpstat v).pstore = x.pstore
    ∧ (x.withFpstat v).spad = x.spad ∧ (x.withFpstat v).x = x.x ∧ (x.withFpstat v).p = x.p ∧ (x.withFpstat v).lc = x.lc
    ∧ (x.withFpstat v).pc = x.pc ∧ (x.withFpstat v).rings = x.rings ∧ (x.withFpstat v).apts = x.apts ∧ (x.withFpstat v).queues = x.queues
    ∧ (x.withFpstat v).routes = x.routes ∧ (x.withFpstat v).binds = x.binds ∧ (x.withFpstat v).drains = x.drains := by
  repeat' apply And.intro
  all_goals rfl
@[simp] theorem TileCtx.withPstore_fields (x : TileCtx) (v : W64) :
    (x.withPstore v).fpctl = x.fpctl ∧ (x.withPstore v).srseed = x.srseed ∧ (x.withPstore v).fpstat = x.fpstat ∧ (x.withPstore v).pstore = v
    ∧ (x.withPstore v).spad = x.spad ∧ (x.withPstore v).x = x.x ∧ (x.withPstore v).p = x.p ∧ (x.withPstore v).lc = x.lc
    ∧ (x.withPstore v).pc = x.pc ∧ (x.withPstore v).rings = x.rings ∧ (x.withPstore v).apts = x.apts ∧ (x.withPstore v).queues = x.queues
    ∧ (x.withPstore v).routes = x.routes ∧ (x.withPstore v).binds = x.binds ∧ (x.withPstore v).drains = x.drains := by
  repeat' apply And.intro
  all_goals rfl
@[simp] theorem TileCtx.withSpad_fields (x : TileCtx) (v : W64) :
    (x.withSpad v).fpctl = x.fpctl ∧ (x.withSpad v).srseed = x.srseed ∧ (x.withSpad v).fpstat = x.fpstat ∧ (x.withSpad v).pstore = x.pstore
    ∧ (x.withSpad v).spad = v ∧ (x.withSpad v).x = x.x ∧ (x.withSpad v).p = x.p ∧ (x.withSpad v).lc = x.lc ∧ (x.withSpad v).pc = x.pc
    ∧ (x.withSpad v).rings = x.rings ∧ (x.withSpad v).apts = x.apts ∧ (x.withSpad v).queues = x.queues ∧ (x.withSpad v).routes = x.routes
    ∧ (x.withSpad v).binds = x.binds ∧ (x.withSpad v).drains = x.drains := by
  repeat' apply And.intro
  all_goals rfl
@[simp] theorem TileCtx.withX_fields (x : TileCtx) (v : List (Nat × W32)) :
    (x.withX v).fpctl = x.fpctl ∧ (x.withX v).srseed = x.srseed ∧ (x.withX v).fpstat = x.fpstat ∧ (x.withX v).pstore = x.pstore
    ∧ (x.withX v).spad = x.spad ∧ (x.withX v).x = v ∧ (x.withX v).p = x.p ∧ (x.withX v).lc = x.lc ∧ (x.withX v).pc = x.pc
    ∧ (x.withX v).rings = x.rings ∧ (x.withX v).apts = x.apts ∧ (x.withX v).queues = x.queues ∧ (x.withX v).routes = x.routes
    ∧ (x.withX v).binds = x.binds ∧ (x.withX v).drains = x.drains := by
  repeat' apply And.intro
  all_goals rfl
@[simp] theorem TileCtx.withP_fields (x : TileCtx) (v : List (Nat × Bool)) :
    (x.withP v).fpctl = x.fpctl ∧ (x.withP v).srseed = x.srseed ∧ (x.withP v).fpstat = x.fpstat ∧ (x.withP v).pstore = x.pstore
    ∧ (x.withP v).spad = x.spad ∧ (x.withP v).x = x.x ∧ (x.withP v).p = v ∧ (x.withP v).lc = x.lc ∧ (x.withP v).pc = x.pc
    ∧ (x.withP v).rings = x.rings ∧ (x.withP v).apts = x.apts ∧ (x.withP v).queues = x.queues ∧ (x.withP v).routes = x.routes
    ∧ (x.withP v).binds = x.binds ∧ (x.withP v).drains = x.drains := by
  repeat' apply And.intro
  all_goals rfl
@[simp] theorem TileCtx.withLc_fields (x : TileCtx) (v : List (Nat × W32)) :
    (x.withLc v).fpctl = x.fpctl ∧ (x.withLc v).srseed = x.srseed ∧ (x.withLc v).fpstat = x.fpstat ∧ (x.withLc v).pstore = x.pstore
    ∧ (x.withLc v).spad = x.spad ∧ (x.withLc v).x = x.x ∧ (x.withLc v).p = x.p ∧ (x.withLc v).lc = v ∧ (x.withLc v).pc = x.pc
    ∧ (x.withLc v).rings = x.rings ∧ (x.withLc v).apts = x.apts ∧ (x.withLc v).queues = x.queues ∧ (x.withLc v).routes = x.routes
    ∧ (x.withLc v).binds = x.binds ∧ (x.withLc v).drains = x.drains := by
  repeat' apply And.intro
  all_goals rfl
@[simp] theorem TileCtx.withPc_fields (x : TileCtx) (v : Nat) :
    (x.withPc v).fpctl = x.fpctl ∧ (x.withPc v).srseed = x.srseed ∧ (x.withPc v).fpstat = x.fpstat ∧ (x.withPc v).pstore = x.pstore
    ∧ (x.withPc v).spad = x.spad ∧ (x.withPc v).x = x.x ∧ (x.withPc v).p = x.p ∧ (x.withPc v).lc = x.lc ∧ (x.withPc v).pc = v
    ∧ (x.withPc v).rings = x.rings ∧ (x.withPc v).apts = x.apts ∧ (x.withPc v).queues = x.queues ∧ (x.withPc v).routes = x.routes
    ∧ (x.withPc v).binds = x.binds ∧ (x.withPc v).drains = x.drains := by
  repeat' apply And.intro
  all_goals rfl
@[simp] theorem TileCtx.withRings_fields (x : TileCtx) (v : List (Nat × Ring)) :
    (x.withRings v).fpctl = x.fpctl ∧ (x.withRings v).srseed = x.srseed ∧ (x.withRings v).fpstat = x.fpstat
    ∧ (x.withRings v).pstore = x.pstore ∧ (x.withRings v).spad = x.spad ∧ (x.withRings v).x = x.x ∧ (x.withRings v).p = x.p
    ∧ (x.withRings v).lc = x.lc ∧ (x.withRings v).pc = x.pc ∧ (x.withRings v).rings = v ∧ (x.withRings v).apts = x.apts
    ∧ (x.withRings v).queues = x.queues ∧ (x.withRings v).routes = x.routes ∧ (x.withRings v).binds = x.binds
    ∧ (x.withRings v).drains = x.drains := by
  repeat' apply And.intro
  all_goals rfl
@[simp] theorem TileCtx.withApts_fields (x : TileCtx) (v : List (Nat × Aperture)) :
    (x.withApts v).fpctl = x.fpctl ∧ (x.withApts v).srseed = x.srseed ∧ (x.withApts v).fpstat = x.fpstat ∧ (x.withApts v).pstore = x.pstore
    ∧ (x.withApts v).spad = x.spad ∧ (x.withApts v).x = x.x ∧ (x.withApts v).p = x.p ∧ (x.withApts v).lc = x.lc ∧ (x.withApts v).pc = x.pc
    ∧ (x.withApts v).rings = x.rings ∧ (x.withApts v).apts = v ∧ (x.withApts v).queues = x.queues ∧ (x.withApts v).routes = x.routes
    ∧ (x.withApts v).binds = x.binds ∧ (x.withApts v).drains = x.drains := by
  repeat' apply And.intro
  all_goals rfl
@[simp] theorem TileCtx.withQueues_fields (x : TileCtx) (v : List (Nat × Queue)) :
    (x.withQueues v).fpctl = x.fpctl ∧ (x.withQueues v).srseed = x.srseed ∧ (x.withQueues v).fpstat = x.fpstat
    ∧ (x.withQueues v).pstore = x.pstore ∧ (x.withQueues v).spad = x.spad ∧ (x.withQueues v).x = x.x ∧ (x.withQueues v).p = x.p
    ∧ (x.withQueues v).lc = x.lc ∧ (x.withQueues v).pc = x.pc ∧ (x.withQueues v).rings = x.rings ∧ (x.withQueues v).apts = x.apts
    ∧ (x.withQueues v).queues = v ∧ (x.withQueues v).routes = x.routes ∧ (x.withQueues v).binds = x.binds
    ∧ (x.withQueues v).drains = x.drains := by
  repeat' apply And.intro
  all_goals rfl
@[simp] theorem TileCtx.withRoutes_fields (x : TileCtx) (v : List (Nat × W64)) :
    (x.withRoutes v).fpctl = x.fpctl ∧ (x.withRoutes v).srseed = x.srseed ∧ (x.withRoutes v).fpstat = x.fpstat
    ∧ (x.withRoutes v).pstore = x.pstore ∧ (x.withRoutes v).spad = x.spad ∧ (x.withRoutes v).x = x.x ∧ (x.withRoutes v).p = x.p
    ∧ (x.withRoutes v).lc = x.lc ∧ (x.withRoutes v).pc = x.pc ∧ (x.withRoutes v).rings = x.rings ∧ (x.withRoutes v).apts = x.apts
    ∧ (x.withRoutes v).queues = x.queues ∧ (x.withRoutes v).routes = v ∧ (x.withRoutes v).binds = x.binds
    ∧ (x.withRoutes v).drains = x.drains := by
  repeat' apply And.intro
  all_goals rfl
@[simp] theorem TileCtx.withBinds_fields (x : TileCtx) (v : List (Nat × Binding)) :
    (x.withBinds v).fpctl = x.fpctl ∧ (x.withBinds v).srseed = x.srseed ∧ (x.withBinds v).fpstat = x.fpstat
    ∧ (x.withBinds v).pstore = x.pstore ∧ (x.withBinds v).spad = x.spad ∧ (x.withBinds v).x = x.x ∧ (x.withBinds v).p = x.p
    ∧ (x.withBinds v).lc = x.lc ∧ (x.withBinds v).pc = x.pc ∧ (x.withBinds v).rings = x.rings ∧ (x.withBinds v).apts = x.apts
    ∧ (x.withBinds v).queues = x.queues ∧ (x.withBinds v).routes = x.routes ∧ (x.withBinds v).binds = v ∧ (x.withBinds v).drains = x.drains := by
  repeat' apply And.intro
  all_goals rfl
@[simp] theorem TileCtx.withDrains_fields (x : TileCtx) (v : Nat) :
    (x.withDrains v).fpctl = x.fpctl ∧ (x.withDrains v).srseed = x.srseed ∧ (x.withDrains v).fpstat = x.fpstat
    ∧ (x.withDrains v).pstore = x.pstore ∧ (x.withDrains v).spad = x.spad ∧ (x.withDrains v).x = x.x ∧ (x.withDrains v).p = x.p
    ∧ (x.withDrains v).lc = x.lc ∧ (x.withDrains v).pc = x.pc ∧ (x.withDrains v).rings = x.rings ∧ (x.withDrains v).apts = x.apts
    ∧ (x.withDrains v).queues = x.queues ∧ (x.withDrains v).routes = x.routes ∧ (x.withDrains v).binds = x.binds
    ∧ (x.withDrains v).drains = v := by
  repeat' apply And.intro
  all_goals rfl
@[simp] theorem TintJob.withSt_fields (x : TintJob) (v : JobSt) :
    (x.withSt v).addr = x.addr ∧ (x.withSt v).since = x.since ∧ (x.withSt v).st = v ∧ (x.withSt v).desc = x.desc ∧ (x.withSt v).ctl = x.ctl
    ∧ (x.withSt v).idx = x.idx ∧ (x.withSt v).ents = x.ents ∧ (x.withSt v).next = x.next ∧ (x.withSt v).recs = x.recs
    ∧ (x.withSt v).status = x.status ∧ (x.withSt v).flags = x.flags ∧ (x.withSt v).hits = x.hits ∧ (x.withSt v).misses = x.misses
    ∧ (x.withSt v).missBy = x.missBy ∧ (x.withSt v).todo = x.todo ∧ (x.withSt v).facts = x.facts ∧ (x.withSt v).base = x.base := by
  repeat' apply And.intro
  all_goals rfl
@[simp] theorem TintJob.withDesc_fields (x : TintJob) (v : List Byte) :
    (x.withDesc v).addr = x.addr ∧ (x.withDesc v).since = x.since ∧ (x.withDesc v).st = x.st ∧ (x.withDesc v).desc = v
    ∧ (x.withDesc v).ctl = x.ctl ∧ (x.withDesc v).idx = x.idx ∧ (x.withDesc v).ents = x.ents ∧ (x.withDesc v).next = x.next
    ∧ (x.withDesc v).recs = x.recs ∧ (x.withDesc v).status = x.status ∧ (x.withDesc v).flags = x.flags ∧ (x.withDesc v).hits = x.hits
    ∧ (x.withDesc v).misses = x.misses ∧ (x.withDesc v).missBy = x.missBy ∧ (x.withDesc v).todo = x.todo ∧ (x.withDesc v).facts = x.facts
    ∧ (x.withDesc v).base = x.base := by
  repeat' apply And.intro
  all_goals rfl
@[simp] theorem TintJob.withCtl_fields (x : TintJob) (v : W64) :
    (x.withCtl v).addr = x.addr ∧ (x.withCtl v).since = x.since ∧ (x.withCtl v).st = x.st ∧ (x.withCtl v).desc = x.desc
    ∧ (x.withCtl v).ctl = v ∧ (x.withCtl v).idx = x.idx ∧ (x.withCtl v).ents = x.ents ∧ (x.withCtl v).next = x.next
    ∧ (x.withCtl v).recs = x.recs ∧ (x.withCtl v).status = x.status ∧ (x.withCtl v).flags = x.flags ∧ (x.withCtl v).hits = x.hits
    ∧ (x.withCtl v).misses = x.misses ∧ (x.withCtl v).missBy = x.missBy ∧ (x.withCtl v).todo = x.todo ∧ (x.withCtl v).facts = x.facts
    ∧ (x.withCtl v).base = x.base := by
  repeat' apply And.intro
  all_goals rfl
@[simp] theorem TintJob.withIdx_fields (x : TintJob) (v : List Nat) :
    (x.withIdx v).addr = x.addr ∧ (x.withIdx v).since = x.since ∧ (x.withIdx v).st = x.st ∧ (x.withIdx v).desc = x.desc
    ∧ (x.withIdx v).ctl = x.ctl ∧ (x.withIdx v).idx = v ∧ (x.withIdx v).ents = x.ents ∧ (x.withIdx v).next = x.next
    ∧ (x.withIdx v).recs = x.recs ∧ (x.withIdx v).status = x.status ∧ (x.withIdx v).flags = x.flags ∧ (x.withIdx v).hits = x.hits
    ∧ (x.withIdx v).misses = x.misses ∧ (x.withIdx v).missBy = x.missBy ∧ (x.withIdx v).todo = x.todo ∧ (x.withIdx v).facts = x.facts
    ∧ (x.withIdx v).base = x.base := by
  repeat' apply And.intro
  all_goals rfl
@[simp] theorem TintJob.withEnts_fields (x : TintJob) (v : List (Nat × List Byte)) :
    (x.withEnts v).addr = x.addr ∧ (x.withEnts v).since = x.since ∧ (x.withEnts v).st = x.st ∧ (x.withEnts v).desc = x.desc
    ∧ (x.withEnts v).ctl = x.ctl ∧ (x.withEnts v).idx = x.idx ∧ (x.withEnts v).ents = v ∧ (x.withEnts v).next = x.next
    ∧ (x.withEnts v).recs = x.recs ∧ (x.withEnts v).status = x.status ∧ (x.withEnts v).flags = x.flags ∧ (x.withEnts v).hits = x.hits
    ∧ (x.withEnts v).misses = x.misses ∧ (x.withEnts v).missBy = x.missBy ∧ (x.withEnts v).todo = x.todo ∧ (x.withEnts v).facts = x.facts
    ∧ (x.withEnts v).base = x.base := by
  repeat' apply And.intro
  all_goals rfl
@[simp] theorem TintJob.withNext_fields (x : TintJob) (v : Nat) :
    (x.withNext v).addr = x.addr ∧ (x.withNext v).since = x.since ∧ (x.withNext v).st = x.st ∧ (x.withNext v).desc = x.desc
    ∧ (x.withNext v).ctl = x.ctl ∧ (x.withNext v).idx = x.idx ∧ (x.withNext v).ents = x.ents ∧ (x.withNext v).next = v
    ∧ (x.withNext v).recs = x.recs ∧ (x.withNext v).status = x.status ∧ (x.withNext v).flags = x.flags ∧ (x.withNext v).hits = x.hits
    ∧ (x.withNext v).misses = x.misses ∧ (x.withNext v).missBy = x.missBy ∧ (x.withNext v).todo = x.todo ∧ (x.withNext v).facts = x.facts
    ∧ (x.withNext v).base = x.base := by
  repeat' apply And.intro
  all_goals rfl
@[simp] theorem TintJob.withRecs_fields (x : TintJob) (v : List TintRec) :
    (x.withRecs v).addr = x.addr ∧ (x.withRecs v).since = x.since ∧ (x.withRecs v).st = x.st ∧ (x.withRecs v).desc = x.desc
    ∧ (x.withRecs v).ctl = x.ctl ∧ (x.withRecs v).idx = x.idx ∧ (x.withRecs v).ents = x.ents ∧ (x.withRecs v).next = x.next
    ∧ (x.withRecs v).recs = v ∧ (x.withRecs v).status = x.status ∧ (x.withRecs v).flags = x.flags ∧ (x.withRecs v).hits = x.hits
    ∧ (x.withRecs v).misses = x.misses ∧ (x.withRecs v).missBy = x.missBy ∧ (x.withRecs v).todo = x.todo ∧ (x.withRecs v).facts = x.facts
    ∧ (x.withRecs v).base = x.base := by
  repeat' apply And.intro
  all_goals rfl
@[simp] theorem TintJob.withFlags_fields (x : TintJob) (v : Nat) :
    (x.withFlags v).addr = x.addr ∧ (x.withFlags v).since = x.since ∧ (x.withFlags v).st = x.st ∧ (x.withFlags v).desc = x.desc
    ∧ (x.withFlags v).ctl = x.ctl ∧ (x.withFlags v).idx = x.idx ∧ (x.withFlags v).ents = x.ents ∧ (x.withFlags v).next = x.next
    ∧ (x.withFlags v).recs = x.recs ∧ (x.withFlags v).status = x.status ∧ (x.withFlags v).flags = v ∧ (x.withFlags v).hits = x.hits
    ∧ (x.withFlags v).misses = x.misses ∧ (x.withFlags v).missBy = x.missBy ∧ (x.withFlags v).todo = x.todo ∧ (x.withFlags v).facts = x.facts
    ∧ (x.withFlags v).base = x.base := by
  repeat' apply And.intro
  all_goals rfl
@[simp] theorem TintJob.withHits_fields (x : TintJob) (v : Nat) :
    (x.withHits v).addr = x.addr ∧ (x.withHits v).since = x.since ∧ (x.withHits v).st = x.st ∧ (x.withHits v).desc = x.desc
    ∧ (x.withHits v).ctl = x.ctl ∧ (x.withHits v).idx = x.idx ∧ (x.withHits v).ents = x.ents ∧ (x.withHits v).next = x.next
    ∧ (x.withHits v).recs = x.recs ∧ (x.withHits v).status = x.status ∧ (x.withHits v).flags = x.flags ∧ (x.withHits v).hits = v
    ∧ (x.withHits v).misses = x.misses ∧ (x.withHits v).missBy = x.missBy ∧ (x.withHits v).todo = x.todo ∧ (x.withHits v).facts = x.facts
    ∧ (x.withHits v).base = x.base := by
  repeat' apply And.intro
  all_goals rfl
@[simp] theorem TintJob.withMisses_fields (x : TintJob) (v : Nat) :
    (x.withMisses v).addr = x.addr ∧ (x.withMisses v).since = x.since ∧ (x.withMisses v).st = x.st ∧ (x.withMisses v).desc = x.desc
    ∧ (x.withMisses v).ctl = x.ctl ∧ (x.withMisses v).idx = x.idx ∧ (x.withMisses v).ents = x.ents ∧ (x.withMisses v).next = x.next
    ∧ (x.withMisses v).recs = x.recs ∧ (x.withMisses v).status = x.status ∧ (x.withMisses v).flags = x.flags ∧ (x.withMisses v).hits = x.hits
    ∧ (x.withMisses v).misses = v ∧ (x.withMisses v).missBy = x.missBy ∧ (x.withMisses v).todo = x.todo ∧ (x.withMisses v).facts = x.facts
    ∧ (x.withMisses v).base = x.base := by
  repeat' apply And.intro
  all_goals rfl
@[simp] theorem TintJob.withMissBy_fields (x : TintJob) (v : List (Nat × Nat)) :
    (x.withMissBy v).addr = x.addr ∧ (x.withMissBy v).since = x.since ∧ (x.withMissBy v).st = x.st ∧ (x.withMissBy v).desc = x.desc
    ∧ (x.withMissBy v).ctl = x.ctl ∧ (x.withMissBy v).idx = x.idx ∧ (x.withMissBy v).ents = x.ents ∧ (x.withMissBy v).next = x.next
    ∧ (x.withMissBy v).recs = x.recs ∧ (x.withMissBy v).status = x.status ∧ (x.withMissBy v).flags = x.flags ∧ (x.withMissBy v).hits = x.hits
    ∧ (x.withMissBy v).misses = x.misses ∧ (x.withMissBy v).missBy = v ∧ (x.withMissBy v).todo = x.todo ∧ (x.withMissBy v).facts = x.facts
    ∧ (x.withMissBy v).base = x.base := by
  repeat' apply And.intro
  all_goals rfl
@[simp] theorem TintJob.withTodo_fields (x : TintJob) (v : List (Nat × Nat)) :
    (x.withTodo v).addr = x.addr ∧ (x.withTodo v).since = x.since ∧ (x.withTodo v).st = x.st ∧ (x.withTodo v).desc = x.desc
    ∧ (x.withTodo v).ctl = x.ctl ∧ (x.withTodo v).idx = x.idx ∧ (x.withTodo v).ents = x.ents ∧ (x.withTodo v).next = x.next
    ∧ (x.withTodo v).recs = x.recs ∧ (x.withTodo v).status = x.status ∧ (x.withTodo v).flags = x.flags ∧ (x.withTodo v).hits = x.hits
    ∧ (x.withTodo v).misses = x.misses ∧ (x.withTodo v).missBy = x.missBy ∧ (x.withTodo v).todo = v ∧ (x.withTodo v).facts = x.facts
    ∧ (x.withTodo v).base = x.base := by
  repeat' apply And.intro
  all_goals rfl
@[simp] theorem TintJob.withFacts_fields (x : TintJob) (v : List (Nat × Nat × List Byte)) :
    (x.withFacts v).addr = x.addr ∧ (x.withFacts v).since = x.since ∧ (x.withFacts v).st = x.st ∧ (x.withFacts v).desc = x.desc
    ∧ (x.withFacts v).ctl = x.ctl ∧ (x.withFacts v).idx = x.idx ∧ (x.withFacts v).ents = x.ents ∧ (x.withFacts v).next = x.next
    ∧ (x.withFacts v).recs = x.recs ∧ (x.withFacts v).status = x.status ∧ (x.withFacts v).flags = x.flags ∧ (x.withFacts v).hits = x.hits
    ∧ (x.withFacts v).misses = x.misses ∧ (x.withFacts v).missBy = x.missBy ∧ (x.withFacts v).todo = x.todo ∧ (x.withFacts v).facts = v
    ∧ (x.withFacts v).base = x.base := by
  repeat' apply And.intro
  all_goals rfl
@[simp] theorem TintJob.withBase_fields (x : TintJob) (v : W64) :
    (x.withBase v).addr = x.addr ∧ (x.withBase v).since = x.since ∧ (x.withBase v).st = x.st ∧ (x.withBase v).desc = x.desc
    ∧ (x.withBase v).ctl = x.ctl ∧ (x.withBase v).idx = x.idx ∧ (x.withBase v).ents = x.ents ∧ (x.withBase v).next = x.next
    ∧ (x.withBase v).recs = x.recs ∧ (x.withBase v).status = x.status ∧ (x.withBase v).flags = x.flags ∧ (x.withBase v).hits = x.hits
    ∧ (x.withBase v).misses = x.misses ∧ (x.withBase v).missBy = x.missBy ∧ (x.withBase v).todo = x.todo ∧ (x.withBase v).facts = x.facts
    ∧ (x.withBase v).base = v := by
  repeat' apply And.intro
  all_goals rfl
@[simp] theorem TintRec.withSince_fields (x : TintRec) (v : Option Nat) :
    (x.withSince v).rho = x.rho ∧ (x.withSince v).addr = x.addr ∧ (x.withSince v).data = x.data ∧ (x.withSince v).since = v := by
  repeat' apply And.intro
  all_goals rfl
@[simp] theorem TintUnit.withJobs_fields (x : TintUnit) (v : List TintJob) :
    (x.withJobs v).jobs = v ∧ (x.withJobs v).lines = x.lines ∧ (x.withJobs v).stale = x.stale := by
  repeat' apply And.intro
  all_goals rfl
@[simp] theorem TintUnit.withLines_fields (x : TintUnit) (v : List TintLine) :
    (x.withLines v).jobs = x.jobs ∧ (x.withLines v).lines = v ∧ (x.withLines v).stale = x.stale := by
  repeat' apply And.intro
  all_goals rfl
@[simp] theorem TintUnit.withStale_fields (x : TintUnit) (v : Bool) :
    (x.withStale v).jobs = x.jobs ∧ (x.withStale v).lines = x.lines ∧ (x.withStale v).stale = v := by
  repeat' apply And.intro
  all_goals rfl
@[simp] theorem Token.withPoison_fields (x : Token) (v : Bool) :
    (x.withPoison v).control = x.control ∧ (x.withPoison v).ctx = x.ctx ∧ (x.withPoison v).tag = x.tag ∧ (x.withPoison v).seq = x.seq
    ∧ (x.withPoison v).etag = x.etag ∧ (x.withPoison v).region = x.region ∧ (x.withPoison v).payload = x.payload
    ∧ (x.withPoison v).poison = v := by
  repeat' apply And.intro
  all_goals rfl
@[simp] theorem TrustSt.withFwver_fields (x : TrustSt) (v : Nat) :
    (x.withFwver v).fwver = v ∧ (x.withFwver v).report = x.report ∧ (x.withFwver v).signed = x.signed ∧ (x.withFwver v).floor = x.floor
    ∧ (x.withFwver v).closed = x.closed := by
  repeat' apply And.intro
  all_goals rfl
@[simp] theorem TrustSt.withReport_fields (x : TrustSt) (v : Option (Nat × List Byte)) :
    (x.withReport v).fwver = x.fwver ∧ (x.withReport v).report = v ∧ (x.withReport v).signed = x.signed ∧ (x.withReport v).floor = x.floor
    ∧ (x.withReport v).closed = x.closed := by
  repeat' apply And.intro
  all_goals rfl
@[simp] theorem TrustSt.withSigned_fields (x : TrustSt) (v : Nat) :
    (x.withSigned v).fwver = x.fwver ∧ (x.withSigned v).report = x.report ∧ (x.withSigned v).signed = v ∧ (x.withSigned v).floor = x.floor
    ∧ (x.withSigned v).closed = x.closed := by
  repeat' apply And.intro
  all_goals rfl
@[simp] theorem TrustSt.withFloor_fields (x : TrustSt) (v : Option Nat) :
    (x.withFloor v).fwver = x.fwver ∧ (x.withFloor v).report = x.report ∧ (x.withFloor v).signed = x.signed ∧ (x.withFloor v).floor = v
    ∧ (x.withFloor v).closed = x.closed := by
  repeat' apply And.intro
  all_goals rfl
@[simp] theorem TrustSt.withClosed_fields (x : TrustSt) (v : Bool) :
    (x.withClosed v).fwver = x.fwver ∧ (x.withClosed v).report = x.report ∧ (x.withClosed v).signed = x.signed
    ∧ (x.withClosed v).floor = x.floor ∧ (x.withClosed v).closed = v := by
  repeat' apply And.intro
  all_goals rfl
@[simp] theorem TxFrame.withBytes_fields (x : TxFrame) (v : List Byte) :
    (x.withBytes v).seq = x.seq ∧ (x.withBytes v).bytes = v ∧ (x.withBytes v).salt = x.salt ∧ (x.withBytes v).sends = x.sends
    ∧ (x.withBytes v).last = x.last ∧ (x.withBytes v).order = x.order ∧ (x.withBytes v).acks = x.acks ∧ (x.withBytes v).tree = x.tree := by
  repeat' apply And.intro
  all_goals rfl
@[simp] theorem TxFrame.withSalt_fields (x : TxFrame) (v : Nat) :
    (x.withSalt v).seq = x.seq ∧ (x.withSalt v).bytes = x.bytes ∧ (x.withSalt v).salt = v ∧ (x.withSalt v).sends = x.sends
    ∧ (x.withSalt v).last = x.last ∧ (x.withSalt v).order = x.order ∧ (x.withSalt v).acks = x.acks ∧ (x.withSalt v).tree = x.tree := by
  repeat' apply And.intro
  all_goals rfl
@[simp] theorem TxFrame.withSends_fields (x : TxFrame) (v : Nat) :
    (x.withSends v).seq = x.seq ∧ (x.withSends v).bytes = x.bytes ∧ (x.withSends v).salt = x.salt ∧ (x.withSends v).sends = v
    ∧ (x.withSends v).last = x.last ∧ (x.withSends v).order = x.order ∧ (x.withSends v).acks = x.acks ∧ (x.withSends v).tree = x.tree := by
  repeat' apply And.intro
  all_goals rfl
@[simp] theorem TxFrame.withLast_fields (x : TxFrame) (v : Nat) :
    (x.withLast v).seq = x.seq ∧ (x.withLast v).bytes = x.bytes ∧ (x.withLast v).salt = x.salt ∧ (x.withLast v).sends = x.sends
    ∧ (x.withLast v).last = v ∧ (x.withLast v).order = x.order ∧ (x.withLast v).acks = x.acks ∧ (x.withLast v).tree = x.tree := by
  repeat' apply And.intro
  all_goals rfl
@[simp] theorem TxFrame.withOrder_fields (x : TxFrame) (v : Nat) :
    (x.withOrder v).seq = x.seq ∧ (x.withOrder v).bytes = x.bytes ∧ (x.withOrder v).salt = x.salt ∧ (x.withOrder v).sends = x.sends
    ∧ (x.withOrder v).last = x.last ∧ (x.withOrder v).order = v ∧ (x.withOrder v).acks = x.acks ∧ (x.withOrder v).tree = x.tree := by
  repeat' apply And.intro
  all_goals rfl
@[simp] theorem TxStream.withSynced_fields (x : TxStream) (v : Bool) :
    (x.withSynced v).synced = v ∧ (x.withSynced v).syncSends = x.syncSends ∧ (x.withSynced v).syncAt = x.syncAt
    ∧ (x.withSynced v).nextSeq = x.nextSeq ∧ (x.withSynced v).cwnd = x.cwnd ∧ (x.withSynced v).cutAt = x.cutAt
    ∧ (x.withSynced v).salt = x.salt ∧ (x.withSynced v).order = x.order ∧ (x.withSynced v).una = x.una ∧ (x.withSynced v).wait = x.wait := by
  repeat' apply And.intro
  all_goals rfl
@[simp] theorem TxStream.withSyncSends_fields (x : TxStream) (v : Nat) :
    (x.withSyncSends v).synced = x.synced ∧ (x.withSyncSends v).syncSends = v ∧ (x.withSyncSends v).syncAt = x.syncAt
    ∧ (x.withSyncSends v).nextSeq = x.nextSeq ∧ (x.withSyncSends v).cwnd = x.cwnd ∧ (x.withSyncSends v).cutAt = x.cutAt
    ∧ (x.withSyncSends v).salt = x.salt ∧ (x.withSyncSends v).order = x.order ∧ (x.withSyncSends v).una = x.una
    ∧ (x.withSyncSends v).wait = x.wait := by
  repeat' apply And.intro
  all_goals rfl
@[simp] theorem TxStream.withSyncAt_fields (x : TxStream) (v : Nat) :
    (x.withSyncAt v).synced = x.synced ∧ (x.withSyncAt v).syncSends = x.syncSends ∧ (x.withSyncAt v).syncAt = v
    ∧ (x.withSyncAt v).nextSeq = x.nextSeq ∧ (x.withSyncAt v).cwnd = x.cwnd ∧ (x.withSyncAt v).cutAt = x.cutAt
    ∧ (x.withSyncAt v).salt = x.salt ∧ (x.withSyncAt v).order = x.order ∧ (x.withSyncAt v).una = x.una ∧ (x.withSyncAt v).wait = x.wait := by
  repeat' apply And.intro
  all_goals rfl
@[simp] theorem TxStream.withNextSeq_fields (x : TxStream) (v : Nat) :
    (x.withNextSeq v).synced = x.synced ∧ (x.withNextSeq v).syncSends = x.syncSends ∧ (x.withNextSeq v).syncAt = x.syncAt
    ∧ (x.withNextSeq v).nextSeq = v ∧ (x.withNextSeq v).cwnd = x.cwnd ∧ (x.withNextSeq v).cutAt = x.cutAt ∧ (x.withNextSeq v).salt = x.salt
    ∧ (x.withNextSeq v).order = x.order ∧ (x.withNextSeq v).una = x.una ∧ (x.withNextSeq v).wait = x.wait := by
  repeat' apply And.intro
  all_goals rfl
@[simp] theorem TxStream.withCwnd_fields (x : TxStream) (v : Nat) :
    (x.withCwnd v).synced = x.synced ∧ (x.withCwnd v).syncSends = x.syncSends ∧ (x.withCwnd v).syncAt = x.syncAt
    ∧ (x.withCwnd v).nextSeq = x.nextSeq ∧ (x.withCwnd v).cwnd = v ∧ (x.withCwnd v).cutAt = x.cutAt ∧ (x.withCwnd v).salt = x.salt
    ∧ (x.withCwnd v).order = x.order ∧ (x.withCwnd v).una = x.una ∧ (x.withCwnd v).wait = x.wait := by
  repeat' apply And.intro
  all_goals rfl
@[simp] theorem TxStream.withCutAt_fields (x : TxStream) (v : Option Nat) :
    (x.withCutAt v).synced = x.synced ∧ (x.withCutAt v).syncSends = x.syncSends ∧ (x.withCutAt v).syncAt = x.syncAt
    ∧ (x.withCutAt v).nextSeq = x.nextSeq ∧ (x.withCutAt v).cwnd = x.cwnd ∧ (x.withCutAt v).cutAt = v ∧ (x.withCutAt v).salt = x.salt
    ∧ (x.withCutAt v).order = x.order ∧ (x.withCutAt v).una = x.una ∧ (x.withCutAt v).wait = x.wait := by
  repeat' apply And.intro
  all_goals rfl
@[simp] theorem TxStream.withSalt_fields (x : TxStream) (v : Nat) :
    (x.withSalt v).synced = x.synced ∧ (x.withSalt v).syncSends = x.syncSends ∧ (x.withSalt v).syncAt = x.syncAt
    ∧ (x.withSalt v).nextSeq = x.nextSeq ∧ (x.withSalt v).cwnd = x.cwnd ∧ (x.withSalt v).cutAt = x.cutAt ∧ (x.withSalt v).salt = v
    ∧ (x.withSalt v).order = x.order ∧ (x.withSalt v).una = x.una ∧ (x.withSalt v).wait = x.wait := by
  repeat' apply And.intro
  all_goals rfl
@[simp] theorem TxStream.withOrder_fields (x : TxStream) (v : Nat) :
    (x.withOrder v).synced = x.synced ∧ (x.withOrder v).syncSends = x.syncSends ∧ (x.withOrder v).syncAt = x.syncAt
    ∧ (x.withOrder v).nextSeq = x.nextSeq ∧ (x.withOrder v).cwnd = x.cwnd ∧ (x.withOrder v).cutAt = x.cutAt ∧ (x.withOrder v).salt = x.salt
    ∧ (x.withOrder v).order = v ∧ (x.withOrder v).una = x.una ∧ (x.withOrder v).wait = x.wait := by
  repeat' apply And.intro
  all_goals rfl
@[simp] theorem TxStream.withUna_fields (x : TxStream) (v : List TxFrame) :
    (x.withUna v).synced = x.synced ∧ (x.withUna v).syncSends = x.syncSends ∧ (x.withUna v).syncAt = x.syncAt
    ∧ (x.withUna v).nextSeq = x.nextSeq ∧ (x.withUna v).cwnd = x.cwnd ∧ (x.withUna v).cutAt = x.cutAt ∧ (x.withUna v).salt = x.salt
    ∧ (x.withUna v).order = x.order ∧ (x.withUna v).una = v ∧ (x.withUna v).wait = x.wait := by
  repeat' apply And.intro
  all_goals rfl
@[simp] theorem TxStream.withWait_fields (x : TxStream) (v : List TxFrame) :
    (x.withWait v).synced = x.synced ∧ (x.withWait v).syncSends = x.syncSends ∧ (x.withWait v).syncAt = x.syncAt
    ∧ (x.withWait v).nextSeq = x.nextSeq ∧ (x.withWait v).cwnd = x.cwnd ∧ (x.withWait v).cutAt = x.cutAt ∧ (x.withWait v).salt = x.salt
    ∧ (x.withWait v).order = x.order ∧ (x.withWait v).una = x.una ∧ (x.withWait v).wait = v := by
  repeat' apply And.intro
  all_goals rfl
@[simp] theorem Units.withIssue_fields (x : Units) (v : Issue) :
    (x.withIssue v).issue = v ∧ (x.withIssue v).seqNo = x.seqNo ∧ (x.withIssue v).loops = x.loops ∧ (x.withIssue v).arrayQ = x.arrayQ
    ∧ (x.withIssue v).accQ = x.accQ ∧ (x.withIssue v).rfuQ = x.rfuQ ∧ (x.withIssue v).ringQ = x.ringQ ∧ (x.withIssue v).strmQ = x.strmQ
    ∧ (x.withIssue v).sendQ = x.sendQ ∧ (x.withIssue v).recvQ = x.recvQ ∧ (x.withIssue v).steerQ = x.steerQ ∧ (x.withIssue v).slot = x.slot
    ∧ (x.withIssue v).pair = x.pair ∧ (x.withIssue v).live = x.live ∧ (x.withIssue v).shadow = x.shadow
    ∧ (x.withIssue v).shadowSt = x.shadowSt ∧ (x.withIssue v).drain = x.drain ∧ (x.withIssue v).fill = x.fill
    ∧ (x.withIssue v).pieces = x.pieces ∧ (x.withIssue v).port = x.port ∧ (x.withIssue v).rests = x.rests ∧ (x.withIssue v).xcode = x.xcode := by
  repeat' apply And.intro
  all_goals rfl
@[simp] theorem Units.withSeqNo_fields (x : Units) (v : Nat) :
    (x.withSeqNo v).issue = x.issue ∧ (x.withSeqNo v).seqNo = v ∧ (x.withSeqNo v).loops = x.loops ∧ (x.withSeqNo v).arrayQ = x.arrayQ
    ∧ (x.withSeqNo v).accQ = x.accQ ∧ (x.withSeqNo v).rfuQ = x.rfuQ ∧ (x.withSeqNo v).ringQ = x.ringQ ∧ (x.withSeqNo v).strmQ = x.strmQ
    ∧ (x.withSeqNo v).sendQ = x.sendQ ∧ (x.withSeqNo v).recvQ = x.recvQ ∧ (x.withSeqNo v).steerQ = x.steerQ ∧ (x.withSeqNo v).slot = x.slot
    ∧ (x.withSeqNo v).pair = x.pair ∧ (x.withSeqNo v).live = x.live ∧ (x.withSeqNo v).shadow = x.shadow
    ∧ (x.withSeqNo v).shadowSt = x.shadowSt ∧ (x.withSeqNo v).drain = x.drain ∧ (x.withSeqNo v).fill = x.fill
    ∧ (x.withSeqNo v).pieces = x.pieces ∧ (x.withSeqNo v).port = x.port ∧ (x.withSeqNo v).rests = x.rests ∧ (x.withSeqNo v).xcode = x.xcode := by
  repeat' apply And.intro
  all_goals rfl
@[simp] theorem Units.withLoops_fields (x : Units) (v : List LoopFrame) :
    (x.withLoops v).issue = x.issue ∧ (x.withLoops v).seqNo = x.seqNo ∧ (x.withLoops v).loops = v ∧ (x.withLoops v).arrayQ = x.arrayQ
    ∧ (x.withLoops v).accQ = x.accQ ∧ (x.withLoops v).rfuQ = x.rfuQ ∧ (x.withLoops v).ringQ = x.ringQ ∧ (x.withLoops v).strmQ = x.strmQ
    ∧ (x.withLoops v).sendQ = x.sendQ ∧ (x.withLoops v).recvQ = x.recvQ ∧ (x.withLoops v).steerQ = x.steerQ ∧ (x.withLoops v).slot = x.slot
    ∧ (x.withLoops v).pair = x.pair ∧ (x.withLoops v).live = x.live ∧ (x.withLoops v).shadow = x.shadow
    ∧ (x.withLoops v).shadowSt = x.shadowSt ∧ (x.withLoops v).drain = x.drain ∧ (x.withLoops v).fill = x.fill
    ∧ (x.withLoops v).pieces = x.pieces ∧ (x.withLoops v).port = x.port ∧ (x.withLoops v).rests = x.rests ∧ (x.withLoops v).xcode = x.xcode := by
  repeat' apply And.intro
  all_goals rfl
@[simp] theorem Units.withArrayQ_fields (x : Units) (v : List MmaOp) :
    (x.withArrayQ v).issue = x.issue ∧ (x.withArrayQ v).seqNo = x.seqNo ∧ (x.withArrayQ v).loops = x.loops ∧ (x.withArrayQ v).arrayQ = v
    ∧ (x.withArrayQ v).accQ = x.accQ ∧ (x.withArrayQ v).rfuQ = x.rfuQ ∧ (x.withArrayQ v).ringQ = x.ringQ ∧ (x.withArrayQ v).strmQ = x.strmQ
    ∧ (x.withArrayQ v).sendQ = x.sendQ ∧ (x.withArrayQ v).recvQ = x.recvQ ∧ (x.withArrayQ v).steerQ = x.steerQ
    ∧ (x.withArrayQ v).slot = x.slot ∧ (x.withArrayQ v).pair = x.pair ∧ (x.withArrayQ v).live = x.live ∧ (x.withArrayQ v).shadow = x.shadow
    ∧ (x.withArrayQ v).shadowSt = x.shadowSt ∧ (x.withArrayQ v).drain = x.drain ∧ (x.withArrayQ v).fill = x.fill
    ∧ (x.withArrayQ v).pieces = x.pieces ∧ (x.withArrayQ v).port = x.port ∧ (x.withArrayQ v).rests = x.rests
    ∧ (x.withArrayQ v).xcode = x.xcode := by
  repeat' apply And.intro
  all_goals rfl
@[simp] theorem Units.withAccQ_fields (x : Units) (v : List AccOp) :
    (x.withAccQ v).issue = x.issue ∧ (x.withAccQ v).seqNo = x.seqNo ∧ (x.withAccQ v).loops = x.loops ∧ (x.withAccQ v).arrayQ = x.arrayQ
    ∧ (x.withAccQ v).accQ = v ∧ (x.withAccQ v).rfuQ = x.rfuQ ∧ (x.withAccQ v).ringQ = x.ringQ ∧ (x.withAccQ v).strmQ = x.strmQ
    ∧ (x.withAccQ v).sendQ = x.sendQ ∧ (x.withAccQ v).recvQ = x.recvQ ∧ (x.withAccQ v).steerQ = x.steerQ ∧ (x.withAccQ v).slot = x.slot
    ∧ (x.withAccQ v).pair = x.pair ∧ (x.withAccQ v).live = x.live ∧ (x.withAccQ v).shadow = x.shadow ∧ (x.withAccQ v).shadowSt = x.shadowSt
    ∧ (x.withAccQ v).drain = x.drain ∧ (x.withAccQ v).fill = x.fill ∧ (x.withAccQ v).pieces = x.pieces ∧ (x.withAccQ v).port = x.port
    ∧ (x.withAccQ v).rests = x.rests ∧ (x.withAccQ v).xcode = x.xcode := by
  repeat' apply And.intro
  all_goals rfl
@[simp] theorem Units.withRfuQ_fields (x : Units) (v : List RfuOp) :
    (x.withRfuQ v).issue = x.issue ∧ (x.withRfuQ v).seqNo = x.seqNo ∧ (x.withRfuQ v).loops = x.loops ∧ (x.withRfuQ v).arrayQ = x.arrayQ
    ∧ (x.withRfuQ v).accQ = x.accQ ∧ (x.withRfuQ v).rfuQ = v ∧ (x.withRfuQ v).ringQ = x.ringQ ∧ (x.withRfuQ v).strmQ = x.strmQ
    ∧ (x.withRfuQ v).sendQ = x.sendQ ∧ (x.withRfuQ v).recvQ = x.recvQ ∧ (x.withRfuQ v).steerQ = x.steerQ ∧ (x.withRfuQ v).slot = x.slot
    ∧ (x.withRfuQ v).pair = x.pair ∧ (x.withRfuQ v).live = x.live ∧ (x.withRfuQ v).shadow = x.shadow ∧ (x.withRfuQ v).shadowSt = x.shadowSt
    ∧ (x.withRfuQ v).drain = x.drain ∧ (x.withRfuQ v).fill = x.fill ∧ (x.withRfuQ v).pieces = x.pieces ∧ (x.withRfuQ v).port = x.port
    ∧ (x.withRfuQ v).rests = x.rests ∧ (x.withRfuQ v).xcode = x.xcode := by
  repeat' apply And.intro
  all_goals rfl
@[simp] theorem Units.withRingQ_fields (x : Units) (v : List MoveOp) :
    (x.withRingQ v).issue = x.issue ∧ (x.withRingQ v).seqNo = x.seqNo ∧ (x.withRingQ v).loops = x.loops ∧ (x.withRingQ v).arrayQ = x.arrayQ
    ∧ (x.withRingQ v).accQ = x.accQ ∧ (x.withRingQ v).rfuQ = x.rfuQ ∧ (x.withRingQ v).ringQ = v ∧ (x.withRingQ v).strmQ = x.strmQ
    ∧ (x.withRingQ v).sendQ = x.sendQ ∧ (x.withRingQ v).recvQ = x.recvQ ∧ (x.withRingQ v).steerQ = x.steerQ ∧ (x.withRingQ v).slot = x.slot
    ∧ (x.withRingQ v).pair = x.pair ∧ (x.withRingQ v).live = x.live ∧ (x.withRingQ v).shadow = x.shadow
    ∧ (x.withRingQ v).shadowSt = x.shadowSt ∧ (x.withRingQ v).drain = x.drain ∧ (x.withRingQ v).fill = x.fill
    ∧ (x.withRingQ v).pieces = x.pieces ∧ (x.withRingQ v).port = x.port ∧ (x.withRingQ v).rests = x.rests ∧ (x.withRingQ v).xcode = x.xcode := by
  repeat' apply And.intro
  all_goals rfl
@[simp] theorem Units.withStrmQ_fields (x : Units) (v : List StrmOp) :
    (x.withStrmQ v).issue = x.issue ∧ (x.withStrmQ v).seqNo = x.seqNo ∧ (x.withStrmQ v).loops = x.loops ∧ (x.withStrmQ v).arrayQ = x.arrayQ
    ∧ (x.withStrmQ v).accQ = x.accQ ∧ (x.withStrmQ v).rfuQ = x.rfuQ ∧ (x.withStrmQ v).ringQ = x.ringQ ∧ (x.withStrmQ v).strmQ = v
    ∧ (x.withStrmQ v).sendQ = x.sendQ ∧ (x.withStrmQ v).recvQ = x.recvQ ∧ (x.withStrmQ v).steerQ = x.steerQ ∧ (x.withStrmQ v).slot = x.slot
    ∧ (x.withStrmQ v).pair = x.pair ∧ (x.withStrmQ v).live = x.live ∧ (x.withStrmQ v).shadow = x.shadow
    ∧ (x.withStrmQ v).shadowSt = x.shadowSt ∧ (x.withStrmQ v).drain = x.drain ∧ (x.withStrmQ v).fill = x.fill
    ∧ (x.withStrmQ v).pieces = x.pieces ∧ (x.withStrmQ v).port = x.port ∧ (x.withStrmQ v).rests = x.rests ∧ (x.withStrmQ v).xcode = x.xcode := by
  repeat' apply And.intro
  all_goals rfl
@[simp] theorem Units.withSendQ_fields (x : Units) (v : List MoveOp) :
    (x.withSendQ v).issue = x.issue ∧ (x.withSendQ v).seqNo = x.seqNo ∧ (x.withSendQ v).loops = x.loops ∧ (x.withSendQ v).arrayQ = x.arrayQ
    ∧ (x.withSendQ v).accQ = x.accQ ∧ (x.withSendQ v).rfuQ = x.rfuQ ∧ (x.withSendQ v).ringQ = x.ringQ ∧ (x.withSendQ v).strmQ = x.strmQ
    ∧ (x.withSendQ v).sendQ = v ∧ (x.withSendQ v).recvQ = x.recvQ ∧ (x.withSendQ v).steerQ = x.steerQ ∧ (x.withSendQ v).slot = x.slot
    ∧ (x.withSendQ v).pair = x.pair ∧ (x.withSendQ v).live = x.live ∧ (x.withSendQ v).shadow = x.shadow
    ∧ (x.withSendQ v).shadowSt = x.shadowSt ∧ (x.withSendQ v).drain = x.drain ∧ (x.withSendQ v).fill = x.fill
    ∧ (x.withSendQ v).pieces = x.pieces ∧ (x.withSendQ v).port = x.port ∧ (x.withSendQ v).rests = x.rests ∧ (x.withSendQ v).xcode = x.xcode := by
  repeat' apply And.intro
  all_goals rfl
@[simp] theorem Units.withRecvQ_fields (x : Units) (v : List MoveOp) :
    (x.withRecvQ v).issue = x.issue ∧ (x.withRecvQ v).seqNo = x.seqNo ∧ (x.withRecvQ v).loops = x.loops ∧ (x.withRecvQ v).arrayQ = x.arrayQ
    ∧ (x.withRecvQ v).accQ = x.accQ ∧ (x.withRecvQ v).rfuQ = x.rfuQ ∧ (x.withRecvQ v).ringQ = x.ringQ ∧ (x.withRecvQ v).strmQ = x.strmQ
    ∧ (x.withRecvQ v).sendQ = x.sendQ ∧ (x.withRecvQ v).recvQ = v ∧ (x.withRecvQ v).steerQ = x.steerQ ∧ (x.withRecvQ v).slot = x.slot
    ∧ (x.withRecvQ v).pair = x.pair ∧ (x.withRecvQ v).live = x.live ∧ (x.withRecvQ v).shadow = x.shadow
    ∧ (x.withRecvQ v).shadowSt = x.shadowSt ∧ (x.withRecvQ v).drain = x.drain ∧ (x.withRecvQ v).fill = x.fill
    ∧ (x.withRecvQ v).pieces = x.pieces ∧ (x.withRecvQ v).port = x.port ∧ (x.withRecvQ v).rests = x.rests ∧ (x.withRecvQ v).xcode = x.xcode := by
  repeat' apply And.intro
  all_goals rfl
@[simp] theorem Units.withSteerQ_fields (x : Units) (v : List MoveOp) :
    (x.withSteerQ v).issue = x.issue ∧ (x.withSteerQ v).seqNo = x.seqNo ∧ (x.withSteerQ v).loops = x.loops
    ∧ (x.withSteerQ v).arrayQ = x.arrayQ ∧ (x.withSteerQ v).accQ = x.accQ ∧ (x.withSteerQ v).rfuQ = x.rfuQ ∧ (x.withSteerQ v).ringQ = x.ringQ
    ∧ (x.withSteerQ v).strmQ = x.strmQ ∧ (x.withSteerQ v).sendQ = x.sendQ ∧ (x.withSteerQ v).recvQ = x.recvQ ∧ (x.withSteerQ v).steerQ = v
    ∧ (x.withSteerQ v).slot = x.slot ∧ (x.withSteerQ v).pair = x.pair ∧ (x.withSteerQ v).live = x.live ∧ (x.withSteerQ v).shadow = x.shadow
    ∧ (x.withSteerQ v).shadowSt = x.shadowSt ∧ (x.withSteerQ v).drain = x.drain ∧ (x.withSteerQ v).fill = x.fill
    ∧ (x.withSteerQ v).pieces = x.pieces ∧ (x.withSteerQ v).port = x.port ∧ (x.withSteerQ v).rests = x.rests
    ∧ (x.withSteerQ v).xcode = x.xcode := by
  repeat' apply And.intro
  all_goals rfl
@[simp] theorem Units.withSlot_fields (x : Units) (v : Option PairSlot) :
    (x.withSlot v).issue = x.issue ∧ (x.withSlot v).seqNo = x.seqNo ∧ (x.withSlot v).loops = x.loops ∧ (x.withSlot v).arrayQ = x.arrayQ
    ∧ (x.withSlot v).accQ = x.accQ ∧ (x.withSlot v).rfuQ = x.rfuQ ∧ (x.withSlot v).ringQ = x.ringQ ∧ (x.withSlot v).strmQ = x.strmQ
    ∧ (x.withSlot v).sendQ = x.sendQ ∧ (x.withSlot v).recvQ = x.recvQ ∧ (x.withSlot v).steerQ = x.steerQ ∧ (x.withSlot v).slot = v
    ∧ (x.withSlot v).pair = x.pair ∧ (x.withSlot v).live = x.live ∧ (x.withSlot v).shadow = x.shadow ∧ (x.withSlot v).shadowSt = x.shadowSt
    ∧ (x.withSlot v).drain = x.drain ∧ (x.withSlot v).fill = x.fill ∧ (x.withSlot v).pieces = x.pieces ∧ (x.withSlot v).port = x.port
    ∧ (x.withSlot v).rests = x.rests ∧ (x.withSlot v).xcode = x.xcode := by
  repeat' apply And.intro
  all_goals rfl
@[simp] theorem Units.withPair_fields (x : Units) (v : Option Nat) :
    (x.withPair v).issue = x.issue ∧ (x.withPair v).seqNo = x.seqNo ∧ (x.withPair v).loops = x.loops ∧ (x.withPair v).arrayQ = x.arrayQ
    ∧ (x.withPair v).accQ = x.accQ ∧ (x.withPair v).rfuQ = x.rfuQ ∧ (x.withPair v).ringQ = x.ringQ ∧ (x.withPair v).strmQ = x.strmQ
    ∧ (x.withPair v).sendQ = x.sendQ ∧ (x.withPair v).recvQ = x.recvQ ∧ (x.withPair v).steerQ = x.steerQ ∧ (x.withPair v).slot = x.slot
    ∧ (x.withPair v).pair = v ∧ (x.withPair v).live = x.live ∧ (x.withPair v).shadow = x.shadow ∧ (x.withPair v).shadowSt = x.shadowSt
    ∧ (x.withPair v).drain = x.drain ∧ (x.withPair v).fill = x.fill ∧ (x.withPair v).pieces = x.pieces ∧ (x.withPair v).port = x.port
    ∧ (x.withPair v).rests = x.rests ∧ (x.withPair v).xcode = x.xcode := by
  repeat' apply And.intro
  all_goals rfl
@[simp] theorem Units.withLive_fields (x : Units) (v : AccSet) :
    (x.withLive v).issue = x.issue ∧ (x.withLive v).seqNo = x.seqNo ∧ (x.withLive v).loops = x.loops ∧ (x.withLive v).arrayQ = x.arrayQ
    ∧ (x.withLive v).accQ = x.accQ ∧ (x.withLive v).rfuQ = x.rfuQ ∧ (x.withLive v).ringQ = x.ringQ ∧ (x.withLive v).strmQ = x.strmQ
    ∧ (x.withLive v).sendQ = x.sendQ ∧ (x.withLive v).recvQ = x.recvQ ∧ (x.withLive v).steerQ = x.steerQ ∧ (x.withLive v).slot = x.slot
    ∧ (x.withLive v).pair = x.pair ∧ (x.withLive v).live = v ∧ (x.withLive v).shadow = x.shadow ∧ (x.withLive v).shadowSt = x.shadowSt
    ∧ (x.withLive v).drain = x.drain ∧ (x.withLive v).fill = x.fill ∧ (x.withLive v).pieces = x.pieces ∧ (x.withLive v).port = x.port
    ∧ (x.withLive v).rests = x.rests ∧ (x.withLive v).xcode = x.xcode := by
  repeat' apply And.intro
  all_goals rfl
@[simp] theorem Units.withShadow_fields (x : Units) (v : AccSet) :
    (x.withShadow v).issue = x.issue ∧ (x.withShadow v).seqNo = x.seqNo ∧ (x.withShadow v).loops = x.loops
    ∧ (x.withShadow v).arrayQ = x.arrayQ ∧ (x.withShadow v).accQ = x.accQ ∧ (x.withShadow v).rfuQ = x.rfuQ ∧ (x.withShadow v).ringQ = x.ringQ
    ∧ (x.withShadow v).strmQ = x.strmQ ∧ (x.withShadow v).sendQ = x.sendQ ∧ (x.withShadow v).recvQ = x.recvQ
    ∧ (x.withShadow v).steerQ = x.steerQ ∧ (x.withShadow v).slot = x.slot ∧ (x.withShadow v).pair = x.pair ∧ (x.withShadow v).live = x.live
    ∧ (x.withShadow v).shadow = v ∧ (x.withShadow v).shadowSt = x.shadowSt ∧ (x.withShadow v).drain = x.drain
    ∧ (x.withShadow v).fill = x.fill ∧ (x.withShadow v).pieces = x.pieces ∧ (x.withShadow v).port = x.port ∧ (x.withShadow v).rests = x.rests
    ∧ (x.withShadow v).xcode = x.xcode := by
  repeat' apply And.intro
  all_goals rfl
@[simp] theorem Units.withShadowSt_fields (x : Units) (v : Shadow) :
    (x.withShadowSt v).issue = x.issue ∧ (x.withShadowSt v).seqNo = x.seqNo ∧ (x.withShadowSt v).loops = x.loops
    ∧ (x.withShadowSt v).arrayQ = x.arrayQ ∧ (x.withShadowSt v).accQ = x.accQ ∧ (x.withShadowSt v).rfuQ = x.rfuQ
    ∧ (x.withShadowSt v).ringQ = x.ringQ ∧ (x.withShadowSt v).strmQ = x.strmQ ∧ (x.withShadowSt v).sendQ = x.sendQ
    ∧ (x.withShadowSt v).recvQ = x.recvQ ∧ (x.withShadowSt v).steerQ = x.steerQ ∧ (x.withShadowSt v).slot = x.slot
    ∧ (x.withShadowSt v).pair = x.pair ∧ (x.withShadowSt v).live = x.live ∧ (x.withShadowSt v).shadow = x.shadow
    ∧ (x.withShadowSt v).shadowSt = v ∧ (x.withShadowSt v).drain = x.drain ∧ (x.withShadowSt v).fill = x.fill
    ∧ (x.withShadowSt v).pieces = x.pieces ∧ (x.withShadowSt v).port = x.port ∧ (x.withShadowSt v).rests = x.rests
    ∧ (x.withShadowSt v).xcode = x.xcode := by
  repeat' apply And.intro
  all_goals rfl
@[simp] theorem Units.withDrain_fields (x : Units) (v : Option DrainRun) :
    (x.withDrain v).issue = x.issue ∧ (x.withDrain v).seqNo = x.seqNo ∧ (x.withDrain v).loops = x.loops ∧ (x.withDrain v).arrayQ = x.arrayQ
    ∧ (x.withDrain v).accQ = x.accQ ∧ (x.withDrain v).rfuQ = x.rfuQ ∧ (x.withDrain v).ringQ = x.ringQ ∧ (x.withDrain v).strmQ = x.strmQ
    ∧ (x.withDrain v).sendQ = x.sendQ ∧ (x.withDrain v).recvQ = x.recvQ ∧ (x.withDrain v).steerQ = x.steerQ ∧ (x.withDrain v).slot = x.slot
    ∧ (x.withDrain v).pair = x.pair ∧ (x.withDrain v).live = x.live ∧ (x.withDrain v).shadow = x.shadow
    ∧ (x.withDrain v).shadowSt = x.shadowSt ∧ (x.withDrain v).drain = v ∧ (x.withDrain v).fill = x.fill ∧ (x.withDrain v).pieces = x.pieces
    ∧ (x.withDrain v).port = x.port ∧ (x.withDrain v).rests = x.rests ∧ (x.withDrain v).xcode = x.xcode := by
  repeat' apply And.intro
  all_goals rfl
@[simp] theorem Units.withFill_fields (x : Units) (v : Option FillRun) :
    (x.withFill v).issue = x.issue ∧ (x.withFill v).seqNo = x.seqNo ∧ (x.withFill v).loops = x.loops ∧ (x.withFill v).arrayQ = x.arrayQ
    ∧ (x.withFill v).accQ = x.accQ ∧ (x.withFill v).rfuQ = x.rfuQ ∧ (x.withFill v).ringQ = x.ringQ ∧ (x.withFill v).strmQ = x.strmQ
    ∧ (x.withFill v).sendQ = x.sendQ ∧ (x.withFill v).recvQ = x.recvQ ∧ (x.withFill v).steerQ = x.steerQ ∧ (x.withFill v).slot = x.slot
    ∧ (x.withFill v).pair = x.pair ∧ (x.withFill v).live = x.live ∧ (x.withFill v).shadow = x.shadow ∧ (x.withFill v).shadowSt = x.shadowSt
    ∧ (x.withFill v).drain = x.drain ∧ (x.withFill v).fill = v ∧ (x.withFill v).pieces = x.pieces ∧ (x.withFill v).port = x.port
    ∧ (x.withFill v).rests = x.rests ∧ (x.withFill v).xcode = x.xcode := by
  repeat' apply And.intro
  all_goals rfl
@[simp] theorem Units.withPieces_fields (x : Units) (v : List Piece) :
    (x.withPieces v).issue = x.issue ∧ (x.withPieces v).seqNo = x.seqNo ∧ (x.withPieces v).loops = x.loops
    ∧ (x.withPieces v).arrayQ = x.arrayQ ∧ (x.withPieces v).accQ = x.accQ ∧ (x.withPieces v).rfuQ = x.rfuQ ∧ (x.withPieces v).ringQ = x.ringQ
    ∧ (x.withPieces v).strmQ = x.strmQ ∧ (x.withPieces v).sendQ = x.sendQ ∧ (x.withPieces v).recvQ = x.recvQ
    ∧ (x.withPieces v).steerQ = x.steerQ ∧ (x.withPieces v).slot = x.slot ∧ (x.withPieces v).pair = x.pair ∧ (x.withPieces v).live = x.live
    ∧ (x.withPieces v).shadow = x.shadow ∧ (x.withPieces v).shadowSt = x.shadowSt ∧ (x.withPieces v).drain = x.drain
    ∧ (x.withPieces v).fill = x.fill ∧ (x.withPieces v).pieces = v ∧ (x.withPieces v).port = x.port ∧ (x.withPieces v).rests = x.rests
    ∧ (x.withPieces v).xcode = x.xcode := by
  repeat' apply And.intro
  all_goals rfl
@[simp] theorem Units.withPort_fields (x : Units) (v : List Arrived) :
    (x.withPort v).issue = x.issue ∧ (x.withPort v).seqNo = x.seqNo ∧ (x.withPort v).loops = x.loops ∧ (x.withPort v).arrayQ = x.arrayQ
    ∧ (x.withPort v).accQ = x.accQ ∧ (x.withPort v).rfuQ = x.rfuQ ∧ (x.withPort v).ringQ = x.ringQ ∧ (x.withPort v).strmQ = x.strmQ
    ∧ (x.withPort v).sendQ = x.sendQ ∧ (x.withPort v).recvQ = x.recvQ ∧ (x.withPort v).steerQ = x.steerQ ∧ (x.withPort v).slot = x.slot
    ∧ (x.withPort v).pair = x.pair ∧ (x.withPort v).live = x.live ∧ (x.withPort v).shadow = x.shadow ∧ (x.withPort v).shadowSt = x.shadowSt
    ∧ (x.withPort v).drain = x.drain ∧ (x.withPort v).fill = x.fill ∧ (x.withPort v).pieces = x.pieces ∧ (x.withPort v).port = v
    ∧ (x.withPort v).rests = x.rests ∧ (x.withPort v).xcode = x.xcode := by
  repeat' apply And.intro
  all_goals rfl
@[simp] theorem Units.withRests_fields (x : Units) (v : List (Nat × List Byte)) :
    (x.withRests v).issue = x.issue ∧ (x.withRests v).seqNo = x.seqNo ∧ (x.withRests v).loops = x.loops ∧ (x.withRests v).arrayQ = x.arrayQ
    ∧ (x.withRests v).accQ = x.accQ ∧ (x.withRests v).rfuQ = x.rfuQ ∧ (x.withRests v).ringQ = x.ringQ ∧ (x.withRests v).strmQ = x.strmQ
    ∧ (x.withRests v).sendQ = x.sendQ ∧ (x.withRests v).recvQ = x.recvQ ∧ (x.withRests v).steerQ = x.steerQ ∧ (x.withRests v).slot = x.slot
    ∧ (x.withRests v).pair = x.pair ∧ (x.withRests v).live = x.live ∧ (x.withRests v).shadow = x.shadow
    ∧ (x.withRests v).shadowSt = x.shadowSt ∧ (x.withRests v).drain = x.drain ∧ (x.withRests v).fill = x.fill
    ∧ (x.withRests v).pieces = x.pieces ∧ (x.withRests v).port = x.port ∧ (x.withRests v).rests = v ∧ (x.withRests v).xcode = x.xcode := by
  repeat' apply And.intro
  all_goals rfl
@[simp] theorem Units.withXcode_fields (x : Units) (v : W32) :
    (x.withXcode v).issue = x.issue ∧ (x.withXcode v).seqNo = x.seqNo ∧ (x.withXcode v).loops = x.loops ∧ (x.withXcode v).arrayQ = x.arrayQ
    ∧ (x.withXcode v).accQ = x.accQ ∧ (x.withXcode v).rfuQ = x.rfuQ ∧ (x.withXcode v).ringQ = x.ringQ ∧ (x.withXcode v).strmQ = x.strmQ
    ∧ (x.withXcode v).sendQ = x.sendQ ∧ (x.withXcode v).recvQ = x.recvQ ∧ (x.withXcode v).steerQ = x.steerQ ∧ (x.withXcode v).slot = x.slot
    ∧ (x.withXcode v).pair = x.pair ∧ (x.withXcode v).live = x.live ∧ (x.withXcode v).shadow = x.shadow
    ∧ (x.withXcode v).shadowSt = x.shadowSt ∧ (x.withXcode v).drain = x.drain ∧ (x.withXcode v).fill = x.fill
    ∧ (x.withXcode v).pieces = x.pieces ∧ (x.withXcode v).port = x.port ∧ (x.withXcode v).rests = x.rests ∧ (x.withXcode v).xcode = v := by
  repeat' apply And.intro
  all_goals rfl

end Sys2Proof.Machine
end

