-- ==== Sys2Proof/Laws/Sparse.lean ====
section
/-! SUPPORT. Laws of the sparse maps: a read after a write, and that every operation keeps the canonical form. -/
namespace Sys2Proof.Machine

/-! ## A read after a write -/

theorem Sparse.get_insert_same {α : Type} (d : Nat → α) (k : Nat) (v : α) : ∀ m : List (Nat × α), Sparse.get d (Sparse.insert k v m) k = v
  | [] => by simp [Sparse.insert, Sparse.get]
  | (j, w) :: m => by
    unfold Sparse.insert
    split
    · rename_i h
      have : ¬ j = k := by omega
      simp only [Sparse.get, this, if_false]
      exact Sparse.get_insert_same d k v m
    · split <;> simp [Sparse.get]

theorem Sparse.get_insert_other {α : Type} (d : Nat → α) {k j : Nat} (v : α) (h : j ≠ k) :
    ∀ m : List (Nat × α), Sparse.get d (Sparse.insert k v m) j = Sparse.get d m j
  | [] => by simp [Sparse.insert, Sparse.get, Ne.symm h]
  | (i, w) :: m => by
    unfold Sparse.insert
    split
    · simp only [Sparse.get]
      split
      · rfl
      · exact Sparse.get_insert_other d v h m
    · split
      · rename_i h2; subst h2; simp [Sparse.get, Ne.symm h]
      · simp [Sparse.get, Ne.symm h]

theorem Sparse.get_erase_same {α : Type} (d : Nat → α) (k : Nat) : ∀ m : List (Nat × α), Sparse.get d (m.filter (fun e => e.1 != k)) k = d k
  | [] => rfl
  | (j, w) :: m => by
    rw [List.filter_cons]
    split
    · rename_i h
      have : ¬ j = k := by simpa using h
      simp only [Sparse.get, this, if_false]
      exact Sparse.get_erase_same d k m
    · exact Sparse.get_erase_same d k m

theorem Sparse.get_erase_other {α : Type} (d : Nat → α) {k j : Nat} (h : j ≠ k) :
    ∀ m : List (Nat × α), Sparse.get d (m.filter (fun e => e.1 != k)) j = Sparse.get d m j
  | [] => rfl
  | (i, w) :: m => by
    rw [List.filter_cons]
    split
    · simp only [Sparse.get]
      split
      · rfl
      · exact Sparse.get_erase_other d h m
    · rename_i h2
      have : i = k := by simpa using h2
      subst this
      simp only [Sparse.get, Ne.symm h, if_false]
      exact Sparse.get_erase_other d h m

/-- A read of the key just set gives the value. -/
@[simp] theorem Sparse.get_put_same {α : Type} [DecidableEq α] (d : Nat → α) (m : List (Nat × α)) (k : Nat) (v : α) :
    Sparse.get d (Sparse.put d m k v) k = v := by
  unfold Sparse.put; split
  · rename_i h; rw [h]; exact Sparse.get_erase_same d k m
  · exact Sparse.get_insert_same d k v m

/-- A write leaves every other key alone. -/
theorem Sparse.get_put_other {α : Type} [DecidableEq α] (d : Nat → α) (m : List (Nat × α)) {k j : Nat} (v : α) (h : j ≠ k) :
    Sparse.get d (Sparse.put d m k v) j = Sparse.get d m j := by
  unfold Sparse.put; split
  · exact Sparse.get_erase_other d h m
  · exact Sparse.get_insert_other d v h m

/-- A read after a write, by cases on the key. -/
theorem Sparse.get_put {α : Type} [DecidableEq α] (d : Nat → α) (m : List (Nat × α)) (k j : Nat) (v : α) :
    Sparse.get d (Sparse.put d m k v) j = if j = k then v else Sparse.get d m j := by
  split
  · rename_i h; subst h; exact Sparse.get_put_same d m j v
  · rename_i h; exact Sparse.get_put_other d m v h

/-- Keys below a run that is written stay. -/
theorem Sparse.get_putList_below {α : Type} [DecidableEq α] (d : Nat → α) : ∀ (l : List α) (k j : Nat) (m : List (Nat × α)), j < k →
    Sparse.get d (Sparse.putList d m k l) j = Sparse.get d m j
  | [], _, _, _, _ => rfl
  | v :: vs, k, j, m, h => by
    rw [Sparse.putList, Sparse.get_putList_below d vs (k + 1) j _ (by omega), Sparse.get_put_other d m v (by omega)]

/-- Keys at or above the end of a run that is written stay. -/
theorem Sparse.get_putList_above {α : Type} [DecidableEq α] (d : Nat → α) : ∀ (l : List α) (k j : Nat) (m : List (Nat × α)),
    k + l.length ≤ j → Sparse.get d (Sparse.putList d m k l) j = Sparse.get d m j
  | [], _, _, _, _ => rfl
  | v :: vs, k, j, m, h => by
    rw [List.length_cons] at h
    rw [Sparse.putList, Sparse.get_putList_above d vs (k + 1) j _ (by omega), Sparse.get_put_other d m v (by omega)]

/-- Values written as a run of keys are what a read of that run gives. -/
theorem Sparse.getList_putList {α : Type} [DecidableEq α] (d : Nat → α) : ∀ (l : List α) (k : Nat) (m : List (Nat × α)),
    Sparse.getList d (Sparse.putList d m k l) k l.length = l
  | [], _, _ => rfl
  | v :: vs, k, m => by
    rw [List.length_cons, Sparse.getList, Sparse.putList, Sparse.getList_putList d vs (k + 1),
      Sparse.get_putList_below d vs (k + 1) k _ (by omega), Sparse.get_put_same]

/-! ## The canonical form -/

theorem Sparse.rising_of_le {α : Type} {a b : Nat} (h : a ≤ b) : ∀ {m : List (Nat × α)}, Sparse.rising (some b) m = true →
    Sparse.rising (some a) m = true
  | [], _ => rfl
  | (j, _) :: _, q => by simp [Sparse.rising] at q ⊢; exact ⟨by omega, q.2⟩

theorem Sparse.rising_none {α : Type} {a : Nat} : ∀ {m : List (Nat × α)}, Sparse.rising (some a) m = true → Sparse.rising none m = true
  | [], _ => rfl
  | _ :: _, q => by simp [Sparse.rising] at q ⊢; exact q.2

theorem Sparse.rising_insert {α : Type} (k : Nat) (v : α) : ∀ {m : List (Nat × α)} {b : Nat}, b < k → Sparse.rising (some b) m = true →
    Sparse.rising (some b) (Sparse.insert k v m) = true
  | [], b, h, _ => by simp [Sparse.insert, Sparse.rising, h]
  | (j, w) :: m, b, h, q => by
    simp only [Sparse.rising, Bool.and_eq_true, decide_eq_true_eq] at q
    unfold Sparse.insert
    split
    · rename_i h1
      simp only [Sparse.rising, Bool.and_eq_true, decide_eq_true_eq]
      exact ⟨q.1, Sparse.rising_insert k v h1 q.2⟩
    · split
      · rename_i h2; subst h2
        simp only [Sparse.rising, Bool.and_eq_true, decide_eq_true_eq]; exact q
      · simp only [Sparse.rising, Bool.and_eq_true, decide_eq_true_eq]
        exact ⟨h, by omega, q.2⟩

theorem Sparse.rising_none_insert {α : Type} (k : Nat) (v : α) : ∀ {m : List (Nat × α)}, Sparse.rising none m = true →
    Sparse.rising none (Sparse.insert k v m) = true
  | [], _ => rfl
  | (j, w) :: m, q => by
    have q' : Sparse.rising (some j) m = true := q
    unfold Sparse.insert
    split
    · rename_i h1; exact Sparse.rising_insert k v h1 q'
    · split
      · rename_i h2; subst h2; exact q'
      · simp only [Sparse.rising, Bool.and_eq_true, decide_eq_true_eq]
        exact ⟨by omega, q'⟩

theorem Sparse.all_insert {α : Type} (p : Nat × α → Bool) {k : Nat} {v : α} (h : p (k, v) = true) : ∀ {m : List (Nat × α)}, m.all p = true →
    (Sparse.insert k v m).all p = true
  | [], _ => by simp [Sparse.insert, h]
  | (j, w) :: m, q => by
    simp only [List.all_cons, Bool.and_eq_true] at q
    unfold Sparse.insert
    split
    · simp only [List.all_cons, Bool.and_eq_true]; exact ⟨q.1, Sparse.all_insert p h q.2⟩
    · split
      · simp only [List.all_cons, Bool.and_eq_true]; exact ⟨h, q.2⟩
      · simp only [List.all_cons, Bool.and_eq_true]; exact ⟨h, q.1, q.2⟩

theorem Sparse.rising_filter {α : Type} (p : Nat × α → Bool) : ∀ {m : List (Nat × α)} {b : Nat}, Sparse.rising (some b) m = true →
    Sparse.rising (some b) (m.filter p) = true
  | [], _, _ => rfl
  | (j, w) :: m, b, q => by
    simp only [Sparse.rising, Bool.and_eq_true, decide_eq_true_eq] at q
    rw [List.filter_cons]
    split
    · simp only [Sparse.rising, Bool.and_eq_true, decide_eq_true_eq]; exact ⟨q.1, Sparse.rising_filter p q.2⟩
    · exact Sparse.rising_of_le (Nat.le_of_lt q.1) (Sparse.rising_filter p q.2)

/-- Dropping entries keeps the canonical form. -/
theorem Sparse.wf_filter {α : Type} [DecidableEq α] (d : Nat → α) (p : Nat × α → Bool) {m : List (Nat × α)} (h : Sparse.wf d m = true) :
    Sparse.wf d (m.filter p) = true := by
  simp only [Sparse.wf, Bool.and_eq_true] at h ⊢
  refine ⟨?_, ?_⟩
  · cases m with
    | nil => rfl
    | cons x xs =>
      have q : Sparse.rising (some x.1) xs = true := h.1
      rw [List.filter_cons]
      split
      · exact Sparse.rising_filter p q
      · exact Sparse.rising_none (Sparse.rising_filter p q)
  · rw [List.all_eq_true] at h ⊢
    exact fun e he => h.2 e (List.mem_filter.mp he).1

/-- Setting one key keeps the canonical form. -/
theorem Sparse.wf_put {α : Type} [DecidableEq α] (d : Nat → α) {m : List (Nat × α)} (k : Nat) (v : α) (h : Sparse.wf d m = true) :
    Sparse.wf d (Sparse.put d m k v) = true := by
  unfold Sparse.put; split
  · exact Sparse.wf_filter d _ h
  · rename_i hv
    simp only [Sparse.wf, Bool.and_eq_true] at h ⊢
    exact ⟨Sparse.rising_none_insert k v h.1, Sparse.all_insert _ (by simpa using hv) h.2⟩

/-- Setting a run of keys keeps the canonical form. -/
theorem Sparse.wf_putList {α : Type} [DecidableEq α] (d : Nat → α) : ∀ (l : List α) (k : Nat) {m : List (Nat × α)}, Sparse.wf d m = true →
    Sparse.wf d (Sparse.putList d m k l) = true
  | [], _, _, h => h
  | v :: vs, k, _, h => Sparse.wf_putList d vs (k + 1) (Sparse.wf_put d k v h)

/-- Clearing a range keeps the canonical form. -/
theorem Sparse.wf_clear {α : Type} [DecidableEq α] (d : Nat → α) {m : List (Nat × α)} (lo hi : Nat) (h : Sparse.wf d m = true) :
    Sparse.wf d (Sparse.clear m lo hi) = true :=
  Sparse.wf_filter d _ h

/-- Keeping some keys keeps the canonical form. -/
theorem Sparse.wf_keep {α : Type} [DecidableEq α] (d : Nat → α) {m : List (Nat × α)} (p : Nat → Bool) (h : Sparse.wf d m = true) :
    Sparse.wf d (Sparse.keep p m) = true :=
  Sparse.wf_filter d _ h

end Sys2Proof.Machine
end

