-- ==== Sys2Proof/Laws/State.lean ====
section
/-! SUPPORT. What each field of the state holds after each single-field update and after each named operation that updates one field.
Every lemma is true by unfolding the update once. -/
namespace Sys2Proof.Machine

/-! ## One field set -/

@[simp] theorem State.withPending_pending (s : State) (v : List Instr) : (s.withPending v).pending = v := rfl
@[simp] theorem State.withPending_reply (s : State) (v : List Instr) : (s.withPending v).reply = s.reply := rfl
@[simp] theorem State.withPending_mem (s : State) (v : List Instr) : (s.withPending v).mem = s.mem := rfl
@[simp] theorem State.withPending_bad (s : State) (v : List Instr) : (s.withPending v).bad = s.bad := rfl
@[simp] theorem State.withPending_regs (s : State) (v : List Instr) : (s.withPending v).regs = s.regs := rfl
@[simp] theorem State.withPending_tiles (s : State) (v : List Instr) : (s.withPending v).tiles = s.tiles := rfl
@[simp] theorem State.withPending_secs (s : State) (v : List Instr) : (s.withPending v).secs = s.secs := rfl
@[simp] theorem State.withPending_cmdqs (s : State) (v : List Instr) : (s.withPending v).cmdqs = s.cmdqs := rfl
@[simp] theorem State.withPending_prism (s : State) (v : List Instr) : (s.withPending v).prism = s.prism := rfl
@[simp] theorem State.withPending_tint (s : State) (v : List Instr) : (s.withPending v).tint = s.tint := rfl
@[simp] theorem State.withPending_done (s : State) (v : List Instr) : (s.withPending v).done = s.done := rfl
@[simp] theorem State.withPending_doneSerial (s : State) (v : List Instr) : (s.withPending v).doneSerial = s.doneSerial := rfl
@[simp] theorem State.withPending_net (s : State) (v : List Instr) : (s.withPending v).net = s.net := rfl
@[simp] theorem State.withPending_flight (s : State) (v : List Instr) : (s.withPending v).flight = s.flight := rfl
@[simp] theorem State.withPending_credits (s : State) (v : List Instr) : (s.withPending v).credits = s.credits := rfl
@[simp] theorem State.withPending_lastEpoch (s : State) (v : List Instr) : (s.withPending v).lastEpoch = s.lastEpoch := rfl
@[simp] theorem State.withPending_time (s : State) (v : List Instr) : (s.withPending v).time = s.time := rfl
@[simp] theorem State.withPending_logs (s : State) (v : List Instr) : (s.withPending v).logs = s.logs := rfl
@[simp] theorem State.withPending_chipInForce (s : State) (v : List Instr) : (s.withPending v).chipInForce = s.chipInForce := rfl
@[simp] theorem State.withPending_syncs (s : State) (v : List Instr) : (s.withPending v).syncs = s.syncs := rfl
@[simp] theorem State.withPending_efn (s : State) (v : List Instr) : (s.withPending v).efn = s.efn := rfl
@[simp] theorem State.withPending_boot (s : State) (v : List Instr) : (s.withPending v).boot = s.boot := rfl
@[simp] theorem State.withPending_pkg (s : State) (v : List Instr) : (s.withPending v).pkg = s.pkg := rfl
@[simp] theorem State.withPending_srv (s : State) (v : List Instr) : (s.withPending v).srv = s.srv := rfl
@[simp] theorem State.withPending_glare (s : State) (v : List Instr) : (s.withPending v).glare = s.glare := rfl
@[simp] theorem State.withPending_trust (s : State) (v : List Instr) : (s.withPending v).trust = s.trust := rfl
@[simp] theorem State.withPending_ptp (s : State) (v : List Instr) : (s.withPending v).ptp = s.ptp := rfl
@[simp] theorem State.withPending_pwr (s : State) (v : List Instr) : (s.withPending v).pwr = s.pwr := rfl
@[simp] theorem State.withPending_fused (s : State) (v : List Instr) : (s.withPending v).fused = s.fused := rfl
@[simp] theorem State.withPending_timerIrq (s : State) (v : List Instr) : (s.withPending v).timerIrq = s.timerIrq := rfl
@[simp] theorem State.withPending_engines (s : State) (v : List Instr) : (s.withPending v).engines = s.engines := rfl
@[simp] theorem State.withPending_free (s : State) (v : List Instr) : (s.withPending v).free = s.free := rfl
@[simp] theorem State.withReply_pending (s : State) (v : Reply) : (s.withReply v).pending = s.pending := rfl
@[simp] theorem State.withReply_reply (s : State) (v : Reply) : (s.withReply v).reply = v := rfl
@[simp] theorem State.withReply_mem (s : State) (v : Reply) : (s.withReply v).mem = s.mem := rfl
@[simp] theorem State.withReply_bad (s : State) (v : Reply) : (s.withReply v).bad = s.bad := rfl
@[simp] theorem State.withReply_regs (s : State) (v : Reply) : (s.withReply v).regs = s.regs := rfl
@[simp] theorem State.withReply_tiles (s : State) (v : Reply) : (s.withReply v).tiles = s.tiles := rfl
@[simp] theorem State.withReply_secs (s : State) (v : Reply) : (s.withReply v).secs = s.secs := rfl
@[simp] theorem State.withReply_cmdqs (s : State) (v : Reply) : (s.withReply v).cmdqs = s.cmdqs := rfl
@[simp] theorem State.withReply_prism (s : State) (v : Reply) : (s.withReply v).prism = s.prism := rfl
@[simp] theorem State.withReply_tint (s : State) (v : Reply) : (s.withReply v).tint = s.tint := rfl
@[simp] theorem State.withReply_done (s : State) (v : Reply) : (s.withReply v).done = s.done := rfl
@[simp] theorem State.withReply_doneSerial (s : State) (v : Reply) : (s.withReply v).doneSerial = s.doneSerial := rfl
@[simp] theorem State.withReply_net (s : State) (v : Reply) : (s.withReply v).net = s.net := rfl
@[simp] theorem State.withReply_flight (s : State) (v : Reply) : (s.withReply v).flight = s.flight := rfl
@[simp] theorem State.withReply_credits (s : State) (v : Reply) : (s.withReply v).credits = s.credits := rfl
@[simp] theorem State.withReply_lastEpoch (s : State) (v : Reply) : (s.withReply v).lastEpoch = s.lastEpoch := rfl
@[simp] theorem State.withReply_time (s : State) (v : Reply) : (s.withReply v).time = s.time := rfl
@[simp] theorem State.withReply_logs (s : State) (v : Reply) : (s.withReply v).logs = s.logs := rfl
@[simp] theorem State.withReply_chipInForce (s : State) (v : Reply) : (s.withReply v).chipInForce = s.chipInForce := rfl
@[simp] theorem State.withReply_syncs (s : State) (v : Reply) : (s.withReply v).syncs = s.syncs := rfl
@[simp] theorem State.withReply_efn (s : State) (v : Reply) : (s.withReply v).efn = s.efn := rfl
@[simp] theorem State.withReply_boot (s : State) (v : Reply) : (s.withReply v).boot = s.boot := rfl
@[simp] theorem State.withReply_pkg (s : State) (v : Reply) : (s.withReply v).pkg = s.pkg := rfl
@[simp] theorem State.withReply_srv (s : State) (v : Reply) : (s.withReply v).srv = s.srv := rfl
@[simp] theorem State.withReply_glare (s : State) (v : Reply) : (s.withReply v).glare = s.glare := rfl
@[simp] theorem State.withReply_trust (s : State) (v : Reply) : (s.withReply v).trust = s.trust := rfl
@[simp] theorem State.withReply_ptp (s : State) (v : Reply) : (s.withReply v).ptp = s.ptp := rfl
@[simp] theorem State.withReply_pwr (s : State) (v : Reply) : (s.withReply v).pwr = s.pwr := rfl
@[simp] theorem State.withReply_fused (s : State) (v : Reply) : (s.withReply v).fused = s.fused := rfl
@[simp] theorem State.withReply_timerIrq (s : State) (v : Reply) : (s.withReply v).timerIrq = s.timerIrq := rfl
@[simp] theorem State.withReply_engines (s : State) (v : Reply) : (s.withReply v).engines = s.engines := rfl
@[simp] theorem State.withReply_free (s : State) (v : Reply) : (s.withReply v).free = s.free := rfl
@[simp] theorem State.withMem_pending (s : State) (v : List (Nat × Byte)) : (s.withMem v).pending = s.pending := rfl
@[simp] theorem State.withMem_reply (s : State) (v : List (Nat × Byte)) : (s.withMem v).reply = s.reply := rfl
@[simp] theorem State.withMem_mem (s : State) (v : List (Nat × Byte)) : (s.withMem v).mem = v := rfl
@[simp] theorem State.withMem_bad (s : State) (v : List (Nat × Byte)) : (s.withMem v).bad = s.bad := rfl
@[simp] theorem State.withMem_regs (s : State) (v : List (Nat × Byte)) : (s.withMem v).regs = s.regs := rfl
@[simp] theorem State.withMem_tiles (s : State) (v : List (Nat × Byte)) : (s.withMem v).tiles = s.tiles := rfl
@[simp] theorem State.withMem_secs (s : State) (v : List (Nat × Byte)) : (s.withMem v).secs = s.secs := rfl
@[simp] theorem State.withMem_cmdqs (s : State) (v : List (Nat × Byte)) : (s.withMem v).cmdqs = s.cmdqs := rfl
@[simp] theorem State.withMem_prism (s : State) (v : List (Nat × Byte)) : (s.withMem v).prism = s.prism := rfl
@[simp] theorem State.withMem_tint (s : State) (v : List (Nat × Byte)) : (s.withMem v).tint = s.tint := rfl
@[simp] theorem State.withMem_done (s : State) (v : List (Nat × Byte)) : (s.withMem v).done = s.done := rfl
@[simp] theorem State.withMem_doneSerial (s : State) (v : List (Nat × Byte)) : (s.withMem v).doneSerial = s.doneSerial := rfl
@[simp] theorem State.withMem_net (s : State) (v : List (Nat × Byte)) : (s.withMem v).net = s.net := rfl
@[simp] theorem State.withMem_flight (s : State) (v : List (Nat × Byte)) : (s.withMem v).flight = s.flight := rfl
@[simp] theorem State.withMem_credits (s : State) (v : List (Nat × Byte)) : (s.withMem v).credits = s.credits := rfl
@[simp] theorem State.withMem_lastEpoch (s : State) (v : List (Nat × Byte)) : (s.withMem v).lastEpoch = s.lastEpoch := rfl
@[simp] theorem State.withMem_time (s : State) (v : List (Nat × Byte)) : (s.withMem v).time = s.time := rfl
@[simp] theorem State.withMem_logs (s : State) (v : List (Nat × Byte)) : (s.withMem v).logs = s.logs := rfl
@[simp] theorem State.withMem_chipInForce (s : State) (v : List (Nat × Byte)) : (s.withMem v).chipInForce = s.chipInForce := rfl
@[simp] theorem State.withMem_syncs (s : State) (v : List (Nat × Byte)) : (s.withMem v).syncs = s.syncs := rfl
@[simp] theorem State.withMem_efn (s : State) (v : List (Nat × Byte)) : (s.withMem v).efn = s.efn := rfl
@[simp] theorem State.withMem_boot (s : State) (v : List (Nat × Byte)) : (s.withMem v).boot = s.boot := rfl
@[simp] theorem State.withMem_pkg (s : State) (v : List (Nat × Byte)) : (s.withMem v).pkg = s.pkg := rfl
@[simp] theorem State.withMem_srv (s : State) (v : List (Nat × Byte)) : (s.withMem v).srv = s.srv := rfl
@[simp] theorem State.withMem_glare (s : State) (v : List (Nat × Byte)) : (s.withMem v).glare = s.glare := rfl
@[simp] theorem State.withMem_trust (s : State) (v : List (Nat × Byte)) : (s.withMem v).trust = s.trust := rfl
@[simp] theorem State.withMem_ptp (s : State) (v : List (Nat × Byte)) : (s.withMem v).ptp = s.ptp := rfl
@[simp] theorem State.withMem_pwr (s : State) (v : List (Nat × Byte)) : (s.withMem v).pwr = s.pwr := rfl
@[simp] theorem State.withMem_fused (s : State) (v : List (Nat × Byte)) : (s.withMem v).fused = s.fused := rfl
@[simp] theorem State.withMem_timerIrq (s : State) (v : List (Nat × Byte)) : (s.withMem v).timerIrq = s.timerIrq := rfl
@[simp] theorem State.withMem_engines (s : State) (v : List (Nat × Byte)) : (s.withMem v).engines = s.engines := rfl
@[simp] theorem State.withMem_free (s : State) (v : List (Nat × Byte)) : (s.withMem v).free = s.free := rfl
@[simp] theorem State.withBad_pending (s : State) (v : List Nat) : (s.withBad v).pending = s.pending := rfl
@[simp] theorem State.withBad_reply (s : State) (v : List Nat) : (s.withBad v).reply = s.reply := rfl
@[simp] theorem State.withBad_mem (s : State) (v : List Nat) : (s.withBad v).mem = s.mem := rfl
@[simp] theorem State.withBad_bad (s : State) (v : List Nat) : (s.withBad v).bad = v := rfl
@[simp] theorem State.withBad_regs (s : State) (v : List Nat) : (s.withBad v).regs = s.regs := rfl
@[simp] theorem State.withBad_tiles (s : State) (v : List Nat) : (s.withBad v).tiles = s.tiles := rfl
@[simp] theorem State.withBad_secs (s : State) (v : List Nat) : (s.withBad v).secs = s.secs := rfl
@[simp] theorem State.withBad_cmdqs (s : State) (v : List Nat) : (s.withBad v).cmdqs = s.cmdqs := rfl
@[simp] theorem State.withBad_prism (s : State) (v : List Nat) : (s.withBad v).prism = s.prism := rfl
@[simp] theorem State.withBad_tint (s : State) (v : List Nat) : (s.withBad v).tint = s.tint := rfl
@[simp] theorem State.withBad_done (s : State) (v : List Nat) : (s.withBad v).done = s.done := rfl
@[simp] theorem State.withBad_doneSerial (s : State) (v : List Nat) : (s.withBad v).doneSerial = s.doneSerial := rfl
@[simp] theorem State.withBad_net (s : State) (v : List Nat) : (s.withBad v).net = s.net := rfl
@[simp] theorem State.withBad_flight (s : State) (v : List Nat) : (s.withBad v).flight = s.flight := rfl
@[simp] theorem State.withBad_credits (s : State) (v : List Nat) : (s.withBad v).credits = s.credits := rfl
@[simp] theorem State.withBad_lastEpoch (s : State) (v : List Nat) : (s.withBad v).lastEpoch = s.lastEpoch := rfl
@[simp] theorem State.withBad_time (s : State) (v : List Nat) : (s.withBad v).time = s.time := rfl
@[simp] theorem State.withBad_logs (s : State) (v : List Nat) : (s.withBad v).logs = s.logs := rfl
@[simp] theorem State.withBad_chipInForce (s : State) (v : List Nat) : (s.withBad v).chipInForce = s.chipInForce := rfl
@[simp] theorem State.withBad_syncs (s : State) (v : List Nat) : (s.withBad v).syncs = s.syncs := rfl
@[simp] theorem State.withBad_efn (s : State) (v : List Nat) : (s.withBad v).efn = s.efn := rfl
@[simp] theorem State.withBad_boot (s : State) (v : List Nat) : (s.withBad v).boot = s.boot := rfl
@[simp] theorem State.withBad_pkg (s : State) (v : List Nat) : (s.withBad v).pkg = s.pkg := rfl
@[simp] theorem State.withBad_srv (s : State) (v : List Nat) : (s.withBad v).srv = s.srv := rfl
@[simp] theorem State.withBad_glare (s : State) (v : List Nat) : (s.withBad v).glare = s.glare := rfl
@[simp] theorem State.withBad_trust (s : State) (v : List Nat) : (s.withBad v).trust = s.trust := rfl
@[simp] theorem State.withBad_ptp (s : State) (v : List Nat) : (s.withBad v).ptp = s.ptp := rfl
@[simp] theorem State.withBad_pwr (s : State) (v : List Nat) : (s.withBad v).pwr = s.pwr := rfl
@[simp] theorem State.withBad_fused (s : State) (v : List Nat) : (s.withBad v).fused = s.fused := rfl
@[simp] theorem State.withBad_timerIrq (s : State) (v : List Nat) : (s.withBad v).timerIrq = s.timerIrq := rfl
@[simp] theorem State.withBad_engines (s : State) (v : List Nat) : (s.withBad v).engines = s.engines := rfl
@[simp] theorem State.withBad_free (s : State) (v : List Nat) : (s.withBad v).free = s.free := rfl
@[simp] theorem State.withRegs_pending (s : State) (v : List (Nat × W64)) : (s.withRegs v).pending = s.pending := rfl
@[simp] theorem State.withRegs_reply (s : State) (v : List (Nat × W64)) : (s.withRegs v).reply = s.reply := rfl
@[simp] theorem State.withRegs_mem (s : State) (v : List (Nat × W64)) : (s.withRegs v).mem = s.mem := rfl
@[simp] theorem State.withRegs_bad (s : State) (v : List (Nat × W64)) : (s.withRegs v).bad = s.bad := rfl
@[simp] theorem State.withRegs_regs (s : State) (v : List (Nat × W64)) : (s.withRegs v).regs = v := rfl
@[simp] theorem State.withRegs_tiles (s : State) (v : List (Nat × W64)) : (s.withRegs v).tiles = s.tiles := rfl
@[simp] theorem State.withRegs_secs (s : State) (v : List (Nat × W64)) : (s.withRegs v).secs = s.secs := rfl
@[simp] theorem State.withRegs_cmdqs (s : State) (v : List (Nat × W64)) : (s.withRegs v).cmdqs = s.cmdqs := rfl
@[simp] theorem State.withRegs_prism (s : State) (v : List (Nat × W64)) : (s.withRegs v).prism = s.prism := rfl
@[simp] theorem State.withRegs_tint (s : State) (v : List (Nat × W64)) : (s.withRegs v).tint = s.tint := rfl
@[simp] theorem State.withRegs_done (s : State) (v : List (Nat × W64)) : (s.withRegs v).done = s.done := rfl
@[simp] theorem State.withRegs_doneSerial (s : State) (v : List (Nat × W64)) : (s.withRegs v).doneSerial = s.doneSerial := rfl
@[simp] theorem State.withRegs_net (s : State) (v : List (Nat × W64)) : (s.withRegs v).net = s.net := rfl
@[simp] theorem State.withRegs_flight (s : State) (v : List (Nat × W64)) : (s.withRegs v).flight = s.flight := rfl
@[simp] theorem State.withRegs_credits (s : State) (v : List (Nat × W64)) : (s.withRegs v).credits = s.credits := rfl
@[simp] theorem State.withRegs_lastEpoch (s : State) (v : List (Nat × W64)) : (s.withRegs v).lastEpoch = s.lastEpoch := rfl
@[simp] theorem State.withRegs_time (s : State) (v : List (Nat × W64)) : (s.withRegs v).time = s.time := rfl
@[simp] theorem State.withRegs_logs (s : State) (v : List (Nat × W64)) : (s.withRegs v).logs = s.logs := rfl
@[simp] theorem State.withRegs_chipInForce (s : State) (v : List (Nat × W64)) : (s.withRegs v).chipInForce = s.chipInForce := rfl
@[simp] theorem State.withRegs_syncs (s : State) (v : List (Nat × W64)) : (s.withRegs v).syncs = s.syncs := rfl
@[simp] theorem State.withRegs_efn (s : State) (v : List (Nat × W64)) : (s.withRegs v).efn = s.efn := rfl
@[simp] theorem State.withRegs_boot (s : State) (v : List (Nat × W64)) : (s.withRegs v).boot = s.boot := rfl
@[simp] theorem State.withRegs_pkg (s : State) (v : List (Nat × W64)) : (s.withRegs v).pkg = s.pkg := rfl
@[simp] theorem State.withRegs_srv (s : State) (v : List (Nat × W64)) : (s.withRegs v).srv = s.srv := rfl
@[simp] theorem State.withRegs_glare (s : State) (v : List (Nat × W64)) : (s.withRegs v).glare = s.glare := rfl
@[simp] theorem State.withRegs_trust (s : State) (v : List (Nat × W64)) : (s.withRegs v).trust = s.trust := rfl
@[simp] theorem State.withRegs_ptp (s : State) (v : List (Nat × W64)) : (s.withRegs v).ptp = s.ptp := rfl
@[simp] theorem State.withRegs_pwr (s : State) (v : List (Nat × W64)) : (s.withRegs v).pwr = s.pwr := rfl
@[simp] theorem State.withRegs_fused (s : State) (v : List (Nat × W64)) : (s.withRegs v).fused = s.fused := rfl
@[simp] theorem State.withRegs_timerIrq (s : State) (v : List (Nat × W64)) : (s.withRegs v).timerIrq = s.timerIrq := rfl
@[simp] theorem State.withRegs_engines (s : State) (v : List (Nat × W64)) : (s.withRegs v).engines = s.engines := rfl
@[simp] theorem State.withRegs_free (s : State) (v : List (Nat × W64)) : (s.withRegs v).free = s.free := rfl
@[simp] theorem State.withTiles_pending (s : State) (v : List (Nat × Tile)) : (s.withTiles v).pending = s.pending := rfl
@[simp] theorem State.withTiles_reply (s : State) (v : List (Nat × Tile)) : (s.withTiles v).reply = s.reply := rfl
@[simp] theorem State.withTiles_mem (s : State) (v : List (Nat × Tile)) : (s.withTiles v).mem = s.mem := rfl
@[simp] theorem State.withTiles_bad (s : State) (v : List (Nat × Tile)) : (s.withTiles v).bad = s.bad := rfl
@[simp] theorem State.withTiles_regs (s : State) (v : List (Nat × Tile)) : (s.withTiles v).regs = s.regs := rfl
@[simp] theorem State.withTiles_tiles (s : State) (v : List (Nat × Tile)) : (s.withTiles v).tiles = v := rfl
@[simp] theorem State.withTiles_secs (s : State) (v : List (Nat × Tile)) : (s.withTiles v).secs = s.secs := rfl
@[simp] theorem State.withTiles_cmdqs (s : State) (v : List (Nat × Tile)) : (s.withTiles v).cmdqs = s.cmdqs := rfl
@[simp] theorem State.withTiles_prism (s : State) (v : List (Nat × Tile)) : (s.withTiles v).prism = s.prism := rfl
@[simp] theorem State.withTiles_tint (s : State) (v : List (Nat × Tile)) : (s.withTiles v).tint = s.tint := rfl
@[simp] theorem State.withTiles_done (s : State) (v : List (Nat × Tile)) : (s.withTiles v).done = s.done := rfl
@[simp] theorem State.withTiles_doneSerial (s : State) (v : List (Nat × Tile)) : (s.withTiles v).doneSerial = s.doneSerial := rfl
@[simp] theorem State.withTiles_net (s : State) (v : List (Nat × Tile)) : (s.withTiles v).net = s.net := rfl
@[simp] theorem State.withTiles_flight (s : State) (v : List (Nat × Tile)) : (s.withTiles v).flight = s.flight := rfl
@[simp] theorem State.withTiles_credits (s : State) (v : List (Nat × Tile)) : (s.withTiles v).credits = s.credits := rfl
@[simp] theorem State.withTiles_lastEpoch (s : State) (v : List (Nat × Tile)) : (s.withTiles v).lastEpoch = s.lastEpoch := rfl
@[simp] theorem State.withTiles_time (s : State) (v : List (Nat × Tile)) : (s.withTiles v).time = s.time := rfl
@[simp] theorem State.withTiles_logs (s : State) (v : List (Nat × Tile)) : (s.withTiles v).logs = s.logs := rfl
@[simp] theorem State.withTiles_chipInForce (s : State) (v : List (Nat × Tile)) : (s.withTiles v).chipInForce = s.chipInForce := rfl
@[simp] theorem State.withTiles_syncs (s : State) (v : List (Nat × Tile)) : (s.withTiles v).syncs = s.syncs := rfl
@[simp] theorem State.withTiles_efn (s : State) (v : List (Nat × Tile)) : (s.withTiles v).efn = s.efn := rfl
@[simp] theorem State.withTiles_boot (s : State) (v : List (Nat × Tile)) : (s.withTiles v).boot = s.boot := rfl
@[simp] theorem State.withTiles_pkg (s : State) (v : List (Nat × Tile)) : (s.withTiles v).pkg = s.pkg := rfl
@[simp] theorem State.withTiles_srv (s : State) (v : List (Nat × Tile)) : (s.withTiles v).srv = s.srv := rfl
@[simp] theorem State.withTiles_glare (s : State) (v : List (Nat × Tile)) : (s.withTiles v).glare = s.glare := rfl
@[simp] theorem State.withTiles_trust (s : State) (v : List (Nat × Tile)) : (s.withTiles v).trust = s.trust := rfl
@[simp] theorem State.withTiles_ptp (s : State) (v : List (Nat × Tile)) : (s.withTiles v).ptp = s.ptp := rfl
@[simp] theorem State.withTiles_pwr (s : State) (v : List (Nat × Tile)) : (s.withTiles v).pwr = s.pwr := rfl
@[simp] theorem State.withTiles_fused (s : State) (v : List (Nat × Tile)) : (s.withTiles v).fused = s.fused := rfl
@[simp] theorem State.withTiles_timerIrq (s : State) (v : List (Nat × Tile)) : (s.withTiles v).timerIrq = s.timerIrq := rfl
@[simp] theorem State.withTiles_engines (s : State) (v : List (Nat × Tile)) : (s.withTiles v).engines = s.engines := rfl
@[simp] theorem State.withTiles_free (s : State) (v : List (Nat × Tile)) : (s.withTiles v).free = s.free := rfl
@[simp] theorem State.withSecs_pending (s : State) (v : List (Nat × Section)) : (s.withSecs v).pending = s.pending := rfl
@[simp] theorem State.withSecs_reply (s : State) (v : List (Nat × Section)) : (s.withSecs v).reply = s.reply := rfl
@[simp] theorem State.withSecs_mem (s : State) (v : List (Nat × Section)) : (s.withSecs v).mem = s.mem := rfl
@[simp] theorem State.withSecs_bad (s : State) (v : List (Nat × Section)) : (s.withSecs v).bad = s.bad := rfl
@[simp] theorem State.withSecs_regs (s : State) (v : List (Nat × Section)) : (s.withSecs v).regs = s.regs := rfl
@[simp] theorem State.withSecs_tiles (s : State) (v : List (Nat × Section)) : (s.withSecs v).tiles = s.tiles := rfl
@[simp] theorem State.withSecs_secs (s : State) (v : List (Nat × Section)) : (s.withSecs v).secs = v := rfl
@[simp] theorem State.withSecs_cmdqs (s : State) (v : List (Nat × Section)) : (s.withSecs v).cmdqs = s.cmdqs := rfl
@[simp] theorem State.withSecs_prism (s : State) (v : List (Nat × Section)) : (s.withSecs v).prism = s.prism := rfl
@[simp] theorem State.withSecs_tint (s : State) (v : List (Nat × Section)) : (s.withSecs v).tint = s.tint := rfl
@[simp] theorem State.withSecs_done (s : State) (v : List (Nat × Section)) : (s.withSecs v).done = s.done := rfl
@[simp] theorem State.withSecs_doneSerial (s : State) (v : List (Nat × Section)) : (s.withSecs v).doneSerial = s.doneSerial := rfl
@[simp] theorem State.withSecs_net (s : State) (v : List (Nat × Section)) : (s.withSecs v).net = s.net := rfl
@[simp] theorem State.withSecs_flight (s : State) (v : List (Nat × Section)) : (s.withSecs v).flight = s.flight := rfl
@[simp] theorem State.withSecs_credits (s : State) (v : List (Nat × Section)) : (s.withSecs v).credits = s.credits := rfl
@[simp] theorem State.withSecs_lastEpoch (s : State) (v : List (Nat × Section)) : (s.withSecs v).lastEpoch = s.lastEpoch := rfl
@[simp] theorem State.withSecs_time (s : State) (v : List (Nat × Section)) : (s.withSecs v).time = s.time := rfl
@[simp] theorem State.withSecs_logs (s : State) (v : List (Nat × Section)) : (s.withSecs v).logs = s.logs := rfl
@[simp] theorem State.withSecs_chipInForce (s : State) (v : List (Nat × Section)) : (s.withSecs v).chipInForce = s.chipInForce := rfl
@[simp] theorem State.withSecs_syncs (s : State) (v : List (Nat × Section)) : (s.withSecs v).syncs = s.syncs := rfl
@[simp] theorem State.withSecs_efn (s : State) (v : List (Nat × Section)) : (s.withSecs v).efn = s.efn := rfl
@[simp] theorem State.withSecs_boot (s : State) (v : List (Nat × Section)) : (s.withSecs v).boot = s.boot := rfl
@[simp] theorem State.withSecs_pkg (s : State) (v : List (Nat × Section)) : (s.withSecs v).pkg = s.pkg := rfl
@[simp] theorem State.withSecs_srv (s : State) (v : List (Nat × Section)) : (s.withSecs v).srv = s.srv := rfl
@[simp] theorem State.withSecs_glare (s : State) (v : List (Nat × Section)) : (s.withSecs v).glare = s.glare := rfl
@[simp] theorem State.withSecs_trust (s : State) (v : List (Nat × Section)) : (s.withSecs v).trust = s.trust := rfl
@[simp] theorem State.withSecs_ptp (s : State) (v : List (Nat × Section)) : (s.withSecs v).ptp = s.ptp := rfl
@[simp] theorem State.withSecs_pwr (s : State) (v : List (Nat × Section)) : (s.withSecs v).pwr = s.pwr := rfl
@[simp] theorem State.withSecs_fused (s : State) (v : List (Nat × Section)) : (s.withSecs v).fused = s.fused := rfl
@[simp] theorem State.withSecs_timerIrq (s : State) (v : List (Nat × Section)) : (s.withSecs v).timerIrq = s.timerIrq := rfl
@[simp] theorem State.withSecs_engines (s : State) (v : List (Nat × Section)) : (s.withSecs v).engines = s.engines := rfl
@[simp] theorem State.withSecs_free (s : State) (v : List (Nat × Section)) : (s.withSecs v).free = s.free := rfl
@[simp] theorem State.withCmdqs_pending (s : State) (v : List (Nat × CmdQ)) : (s.withCmdqs v).pending = s.pending := rfl
@[simp] theorem State.withCmdqs_reply (s : State) (v : List (Nat × CmdQ)) : (s.withCmdqs v).reply = s.reply := rfl
@[simp] theorem State.withCmdqs_mem (s : State) (v : List (Nat × CmdQ)) : (s.withCmdqs v).mem = s.mem := rfl
@[simp] theorem State.withCmdqs_bad (s : State) (v : List (Nat × CmdQ)) : (s.withCmdqs v).bad = s.bad := rfl
@[simp] theorem State.withCmdqs_regs (s : State) (v : List (Nat × CmdQ)) : (s.withCmdqs v).regs = s.regs := rfl
@[simp] theorem State.withCmdqs_tiles (s : State) (v : List (Nat × CmdQ)) : (s.withCmdqs v).tiles = s.tiles := rfl
@[simp] theorem State.withCmdqs_secs (s : State) (v : List (Nat × CmdQ)) : (s.withCmdqs v).secs = s.secs := rfl
@[simp] theorem State.withCmdqs_cmdqs (s : State) (v : List (Nat × CmdQ)) : (s.withCmdqs v).cmdqs = v := rfl
@[simp] theorem State.withCmdqs_prism (s : State) (v : List (Nat × CmdQ)) : (s.withCmdqs v).prism = s.prism := rfl
@[simp] theorem State.withCmdqs_tint (s : State) (v : List (Nat × CmdQ)) : (s.withCmdqs v).tint = s.tint := rfl
@[simp] theorem State.withCmdqs_done (s : State) (v : List (Nat × CmdQ)) : (s.withCmdqs v).done = s.done := rfl
@[simp] theorem State.withCmdqs_doneSerial (s : State) (v : List (Nat × CmdQ)) : (s.withCmdqs v).doneSerial = s.doneSerial := rfl
@[simp] theorem State.withCmdqs_net (s : State) (v : List (Nat × CmdQ)) : (s.withCmdqs v).net = s.net := rfl
@[simp] theorem State.withCmdqs_flight (s : State) (v : List (Nat × CmdQ)) : (s.withCmdqs v).flight = s.flight := rfl
@[simp] theorem State.withCmdqs_credits (s : State) (v : List (Nat × CmdQ)) : (s.withCmdqs v).credits = s.credits := rfl
@[simp] theorem State.withCmdqs_lastEpoch (s : State) (v : List (Nat × CmdQ)) : (s.withCmdqs v).lastEpoch = s.lastEpoch := rfl
@[simp] theorem State.withCmdqs_time (s : State) (v : List (Nat × CmdQ)) : (s.withCmdqs v).time = s.time := rfl
@[simp] theorem State.withCmdqs_logs (s : State) (v : List (Nat × CmdQ)) : (s.withCmdqs v).logs = s.logs := rfl
@[simp] theorem State.withCmdqs_chipInForce (s : State) (v : List (Nat × CmdQ)) : (s.withCmdqs v).chipInForce = s.chipInForce := rfl
@[simp] theorem State.withCmdqs_syncs (s : State) (v : List (Nat × CmdQ)) : (s.withCmdqs v).syncs = s.syncs := rfl
@[simp] theorem State.withCmdqs_efn (s : State) (v : List (Nat × CmdQ)) : (s.withCmdqs v).efn = s.efn := rfl
@[simp] theorem State.withCmdqs_boot (s : State) (v : List (Nat × CmdQ)) : (s.withCmdqs v).boot = s.boot := rfl
@[simp] theorem State.withCmdqs_pkg (s : State) (v : List (Nat × CmdQ)) : (s.withCmdqs v).pkg = s.pkg := rfl
@[simp] theorem State.withCmdqs_srv (s : State) (v : List (Nat × CmdQ)) : (s.withCmdqs v).srv = s.srv := rfl
@[simp] theorem State.withCmdqs_glare (s : State) (v : List (Nat × CmdQ)) : (s.withCmdqs v).glare = s.glare := rfl
@[simp] theorem State.withCmdqs_trust (s : State) (v : List (Nat × CmdQ)) : (s.withCmdqs v).trust = s.trust := rfl
@[simp] theorem State.withCmdqs_ptp (s : State) (v : List (Nat × CmdQ)) : (s.withCmdqs v).ptp = s.ptp := rfl
@[simp] theorem State.withCmdqs_pwr (s : State) (v : List (Nat × CmdQ)) : (s.withCmdqs v).pwr = s.pwr := rfl
@[simp] theorem State.withCmdqs_fused (s : State) (v : List (Nat × CmdQ)) : (s.withCmdqs v).fused = s.fused := rfl
@[simp] theorem State.withCmdqs_timerIrq (s : State) (v : List (Nat × CmdQ)) : (s.withCmdqs v).timerIrq = s.timerIrq := rfl
@[simp] theorem State.withCmdqs_engines (s : State) (v : List (Nat × CmdQ)) : (s.withCmdqs v).engines = s.engines := rfl
@[simp] theorem State.withCmdqs_free (s : State) (v : List (Nat × CmdQ)) : (s.withCmdqs v).free = s.free := rfl
@[simp] theorem State.withPrism_pending (s : State) (v : List (Nat × List PrismJob)) : (s.withPrism v).pending = s.pending := rfl
@[simp] theorem State.withPrism_reply (s : State) (v : List (Nat × List PrismJob)) : (s.withPrism v).reply = s.reply := rfl
@[simp] theorem State.withPrism_mem (s : State) (v : List (Nat × List PrismJob)) : (s.withPrism v).mem = s.mem := rfl
@[simp] theorem State.withPrism_bad (s : State) (v : List (Nat × List PrismJob)) : (s.withPrism v).bad = s.bad := rfl
@[simp] theorem State.withPrism_regs (s : State) (v : List (Nat × List PrismJob)) : (s.withPrism v).regs = s.regs := rfl
@[simp] theorem State.withPrism_tiles (s : State) (v : List (Nat × List PrismJob)) : (s.withPrism v).tiles = s.tiles := rfl
@[simp] theorem State.withPrism_secs (s : State) (v : List (Nat × List PrismJob)) : (s.withPrism v).secs = s.secs := rfl
@[simp] theorem State.withPrism_cmdqs (s : State) (v : List (Nat × List PrismJob)) : (s.withPrism v).cmdqs = s.cmdqs := rfl
@[simp] theorem State.withPrism_prism (s : State) (v : List (Nat × List PrismJob)) : (s.withPrism v).prism = v := rfl
@[simp] theorem State.withPrism_tint (s : State) (v : List (Nat × List PrismJob)) : (s.withPrism v).tint = s.tint := rfl
@[simp] theorem State.withPrism_done (s : State) (v : List (Nat × List PrismJob)) : (s.withPrism v).done = s.done := rfl
@[simp] theorem State.withPrism_doneSerial (s : State) (v : List (Nat × List PrismJob)) : (s.withPrism v).doneSerial = s.doneSerial := rfl
@[simp] theorem State.withPrism_net (s : State) (v : List (Nat × List PrismJob)) : (s.withPrism v).net = s.net := rfl
@[simp] theorem State.withPrism_flight (s : State) (v : List (Nat × List PrismJob)) : (s.withPrism v).flight = s.flight := rfl
@[simp] theorem State.withPrism_credits (s : State) (v : List (Nat × List PrismJob)) : (s.withPrism v).credits = s.credits := rfl
@[simp] theorem State.withPrism_lastEpoch (s : State) (v : List (Nat × List PrismJob)) : (s.withPrism v).lastEpoch = s.lastEpoch := rfl
@[simp] theorem State.withPrism_time (s : State) (v : List (Nat × List PrismJob)) : (s.withPrism v).time = s.time := rfl
@[simp] theorem State.withPrism_logs (s : State) (v : List (Nat × List PrismJob)) : (s.withPrism v).logs = s.logs := rfl
@[simp] theorem State.withPrism_chipInForce (s : State) (v : List (Nat × List PrismJob)) : (s.withPrism v).chipInForce = s.chipInForce := rfl
@[simp] theorem State.withPrism_syncs (s : State) (v : List (Nat × List PrismJob)) : (s.withPrism v).syncs = s.syncs := rfl
@[simp] theorem State.withPrism_efn (s : State) (v : List (Nat × List PrismJob)) : (s.withPrism v).efn = s.efn := rfl
@[simp] theorem State.withPrism_boot (s : State) (v : List (Nat × List PrismJob)) : (s.withPrism v).boot = s.boot := rfl
@[simp] theorem State.withPrism_pkg (s : State) (v : List (Nat × List PrismJob)) : (s.withPrism v).pkg = s.pkg := rfl
@[simp] theorem State.withPrism_srv (s : State) (v : List (Nat × List PrismJob)) : (s.withPrism v).srv = s.srv := rfl
@[simp] theorem State.withPrism_glare (s : State) (v : List (Nat × List PrismJob)) : (s.withPrism v).glare = s.glare := rfl
@[simp] theorem State.withPrism_trust (s : State) (v : List (Nat × List PrismJob)) : (s.withPrism v).trust = s.trust := rfl
@[simp] theorem State.withPrism_ptp (s : State) (v : List (Nat × List PrismJob)) : (s.withPrism v).ptp = s.ptp := rfl
@[simp] theorem State.withPrism_pwr (s : State) (v : List (Nat × List PrismJob)) : (s.withPrism v).pwr = s.pwr := rfl
@[simp] theorem State.withPrism_fused (s : State) (v : List (Nat × List PrismJob)) : (s.withPrism v).fused = s.fused := rfl
@[simp] theorem State.withPrism_timerIrq (s : State) (v : List (Nat × List PrismJob)) : (s.withPrism v).timerIrq = s.timerIrq := rfl
@[simp] theorem State.withPrism_engines (s : State) (v : List (Nat × List PrismJob)) : (s.withPrism v).engines = s.engines := rfl
@[simp] theorem State.withPrism_free (s : State) (v : List (Nat × List PrismJob)) : (s.withPrism v).free = s.free := rfl
@[simp] theorem State.withTint_pending (s : State) (v : List (Nat × TintUnit)) : (s.withTint v).pending = s.pending := rfl
@[simp] theorem State.withTint_reply (s : State) (v : List (Nat × TintUnit)) : (s.withTint v).reply = s.reply := rfl
@[simp] theorem State.withTint_mem (s : State) (v : List (Nat × TintUnit)) : (s.withTint v).mem = s.mem := rfl
@[simp] theorem State.withTint_bad (s : State) (v : List (Nat × TintUnit)) : (s.withTint v).bad = s.bad := rfl
@[simp] theorem State.withTint_regs (s : State) (v : List (Nat × TintUnit)) : (s.withTint v).regs = s.regs := rfl
@[simp] theorem State.withTint_tiles (s : State) (v : List (Nat × TintUnit)) : (s.withTint v).tiles = s.tiles := rfl
@[simp] theorem State.withTint_secs (s : State) (v : List (Nat × TintUnit)) : (s.withTint v).secs = s.secs := rfl
@[simp] theorem State.withTint_cmdqs (s : State) (v : List (Nat × TintUnit)) : (s.withTint v).cmdqs = s.cmdqs := rfl
@[simp] theorem State.withTint_prism (s : State) (v : List (Nat × TintUnit)) : (s.withTint v).prism = s.prism := rfl
@[simp] theorem State.withTint_tint (s : State) (v : List (Nat × TintUnit)) : (s.withTint v).tint = v := rfl
@[simp] theorem State.withTint_done (s : State) (v : List (Nat × TintUnit)) : (s.withTint v).done = s.done := rfl
@[simp] theorem State.withTint_doneSerial (s : State) (v : List (Nat × TintUnit)) : (s.withTint v).doneSerial = s.doneSerial := rfl
@[simp] theorem State.withTint_net (s : State) (v : List (Nat × TintUnit)) : (s.withTint v).net = s.net := rfl
@[simp] theorem State.withTint_flight (s : State) (v : List (Nat × TintUnit)) : (s.withTint v).flight = s.flight := rfl
@[simp] theorem State.withTint_credits (s : State) (v : List (Nat × TintUnit)) : (s.withTint v).credits = s.credits := rfl
@[simp] theorem State.withTint_lastEpoch (s : State) (v : List (Nat × TintUnit)) : (s.withTint v).lastEpoch = s.lastEpoch := rfl
@[simp] theorem State.withTint_time (s : State) (v : List (Nat × TintUnit)) : (s.withTint v).time = s.time := rfl
@[simp] theorem State.withTint_logs (s : State) (v : List (Nat × TintUnit)) : (s.withTint v).logs = s.logs := rfl
@[simp] theorem State.withTint_chipInForce (s : State) (v : List (Nat × TintUnit)) : (s.withTint v).chipInForce = s.chipInForce := rfl
@[simp] theorem State.withTint_syncs (s : State) (v : List (Nat × TintUnit)) : (s.withTint v).syncs = s.syncs := rfl
@[simp] theorem State.withTint_efn (s : State) (v : List (Nat × TintUnit)) : (s.withTint v).efn = s.efn := rfl
@[simp] theorem State.withTint_boot (s : State) (v : List (Nat × TintUnit)) : (s.withTint v).boot = s.boot := rfl
@[simp] theorem State.withTint_pkg (s : State) (v : List (Nat × TintUnit)) : (s.withTint v).pkg = s.pkg := rfl
@[simp] theorem State.withTint_srv (s : State) (v : List (Nat × TintUnit)) : (s.withTint v).srv = s.srv := rfl
@[simp] theorem State.withTint_glare (s : State) (v : List (Nat × TintUnit)) : (s.withTint v).glare = s.glare := rfl
@[simp] theorem State.withTint_trust (s : State) (v : List (Nat × TintUnit)) : (s.withTint v).trust = s.trust := rfl
@[simp] theorem State.withTint_ptp (s : State) (v : List (Nat × TintUnit)) : (s.withTint v).ptp = s.ptp := rfl
@[simp] theorem State.withTint_pwr (s : State) (v : List (Nat × TintUnit)) : (s.withTint v).pwr = s.pwr := rfl
@[simp] theorem State.withTint_fused (s : State) (v : List (Nat × TintUnit)) : (s.withTint v).fused = s.fused := rfl
@[simp] theorem State.withTint_timerIrq (s : State) (v : List (Nat × TintUnit)) : (s.withTint v).timerIrq = s.timerIrq := rfl
@[simp] theorem State.withTint_engines (s : State) (v : List (Nat × TintUnit)) : (s.withTint v).engines = s.engines := rfl
@[simp] theorem State.withTint_free (s : State) (v : List (Nat × TintUnit)) : (s.withTint v).free = s.free := rfl
@[simp] theorem State.withDone_pending (s : State) (v : List (Nat × SecDone)) : (s.withDone v).pending = s.pending := rfl
@[simp] theorem State.withDone_reply (s : State) (v : List (Nat × SecDone)) : (s.withDone v).reply = s.reply := rfl
@[simp] theorem State.withDone_mem (s : State) (v : List (Nat × SecDone)) : (s.withDone v).mem = s.mem := rfl
@[simp] theorem State.withDone_bad (s : State) (v : List (Nat × SecDone)) : (s.withDone v).bad = s.bad := rfl
@[simp] theorem State.withDone_regs (s : State) (v : List (Nat × SecDone)) : (s.withDone v).regs = s.regs := rfl
@[simp] theorem State.withDone_tiles (s : State) (v : List (Nat × SecDone)) : (s.withDone v).tiles = s.tiles := rfl
@[simp] theorem State.withDone_secs (s : State) (v : List (Nat × SecDone)) : (s.withDone v).secs = s.secs := rfl
@[simp] theorem State.withDone_cmdqs (s : State) (v : List (Nat × SecDone)) : (s.withDone v).cmdqs = s.cmdqs := rfl
@[simp] theorem State.withDone_prism (s : State) (v : List (Nat × SecDone)) : (s.withDone v).prism = s.prism := rfl
@[simp] theorem State.withDone_tint (s : State) (v : List (Nat × SecDone)) : (s.withDone v).tint = s.tint := rfl
@[simp] theorem State.withDone_done (s : State) (v : List (Nat × SecDone)) : (s.withDone v).done = v := rfl
@[simp] theorem State.withDone_doneSerial (s : State) (v : List (Nat × SecDone)) : (s.withDone v).doneSerial = s.doneSerial := rfl
@[simp] theorem State.withDone_net (s : State) (v : List (Nat × SecDone)) : (s.withDone v).net = s.net := rfl
@[simp] theorem State.withDone_flight (s : State) (v : List (Nat × SecDone)) : (s.withDone v).flight = s.flight := rfl
@[simp] theorem State.withDone_credits (s : State) (v : List (Nat × SecDone)) : (s.withDone v).credits = s.credits := rfl
@[simp] theorem State.withDone_lastEpoch (s : State) (v : List (Nat × SecDone)) : (s.withDone v).lastEpoch = s.lastEpoch := rfl
@[simp] theorem State.withDone_time (s : State) (v : List (Nat × SecDone)) : (s.withDone v).time = s.time := rfl
@[simp] theorem State.withDone_logs (s : State) (v : List (Nat × SecDone)) : (s.withDone v).logs = s.logs := rfl
@[simp] theorem State.withDone_chipInForce (s : State) (v : List (Nat × SecDone)) : (s.withDone v).chipInForce = s.chipInForce := rfl
@[simp] theorem State.withDone_syncs (s : State) (v : List (Nat × SecDone)) : (s.withDone v).syncs = s.syncs := rfl
@[simp] theorem State.withDone_efn (s : State) (v : List (Nat × SecDone)) : (s.withDone v).efn = s.efn := rfl
@[simp] theorem State.withDone_boot (s : State) (v : List (Nat × SecDone)) : (s.withDone v).boot = s.boot := rfl
@[simp] theorem State.withDone_pkg (s : State) (v : List (Nat × SecDone)) : (s.withDone v).pkg = s.pkg := rfl
@[simp] theorem State.withDone_srv (s : State) (v : List (Nat × SecDone)) : (s.withDone v).srv = s.srv := rfl
@[simp] theorem State.withDone_glare (s : State) (v : List (Nat × SecDone)) : (s.withDone v).glare = s.glare := rfl
@[simp] theorem State.withDone_trust (s : State) (v : List (Nat × SecDone)) : (s.withDone v).trust = s.trust := rfl
@[simp] theorem State.withDone_ptp (s : State) (v : List (Nat × SecDone)) : (s.withDone v).ptp = s.ptp := rfl
@[simp] theorem State.withDone_pwr (s : State) (v : List (Nat × SecDone)) : (s.withDone v).pwr = s.pwr := rfl
@[simp] theorem State.withDone_fused (s : State) (v : List (Nat × SecDone)) : (s.withDone v).fused = s.fused := rfl
@[simp] theorem State.withDone_timerIrq (s : State) (v : List (Nat × SecDone)) : (s.withDone v).timerIrq = s.timerIrq := rfl
@[simp] theorem State.withDone_engines (s : State) (v : List (Nat × SecDone)) : (s.withDone v).engines = s.engines := rfl
@[simp] theorem State.withDone_free (s : State) (v : List (Nat × SecDone)) : (s.withDone v).free = s.free := rfl
@[simp] theorem State.withDoneSerial_pending (s : State) (v : Nat) : (s.withDoneSerial v).pending = s.pending := rfl
@[simp] theorem State.withDoneSerial_reply (s : State) (v : Nat) : (s.withDoneSerial v).reply = s.reply := rfl
@[simp] theorem State.withDoneSerial_mem (s : State) (v : Nat) : (s.withDoneSerial v).mem = s.mem := rfl
@[simp] theorem State.withDoneSerial_bad (s : State) (v : Nat) : (s.withDoneSerial v).bad = s.bad := rfl
@[simp] theorem State.withDoneSerial_regs (s : State) (v : Nat) : (s.withDoneSerial v).regs = s.regs := rfl
@[simp] theorem State.withDoneSerial_tiles (s : State) (v : Nat) : (s.withDoneSerial v).tiles = s.tiles := rfl
@[simp] theorem State.withDoneSerial_secs (s : State) (v : Nat) : (s.withDoneSerial v).secs = s.secs := rfl
@[simp] theorem State.withDoneSerial_cmdqs (s : State) (v : Nat) : (s.withDoneSerial v).cmdqs = s.cmdqs := rfl
@[simp] theorem State.withDoneSerial_prism (s : State) (v : Nat) : (s.withDoneSerial v).prism = s.prism := rfl
@[simp] theorem State.withDoneSerial_tint (s : State) (v : Nat) : (s.withDoneSerial v).tint = s.tint := rfl
@[simp] theorem State.withDoneSerial_done (s : State) (v : Nat) : (s.withDoneSerial v).done = s.done := rfl
@[simp] theorem State.withDoneSerial_doneSerial (s : State) (v : Nat) : (s.withDoneSerial v).doneSerial = v := rfl
@[simp] theorem State.withDoneSerial_net (s : State) (v : Nat) : (s.withDoneSerial v).net = s.net := rfl
@[simp] theorem State.withDoneSerial_flight (s : State) (v : Nat) : (s.withDoneSerial v).flight = s.flight := rfl
@[simp] theorem State.withDoneSerial_credits (s : State) (v : Nat) : (s.withDoneSerial v).credits = s.credits := rfl
@[simp] theorem State.withDoneSerial_lastEpoch (s : State) (v : Nat) : (s.withDoneSerial v).lastEpoch = s.lastEpoch := rfl
@[simp] theorem State.withDoneSerial_time (s : State) (v : Nat) : (s.withDoneSerial v).time = s.time := rfl
@[simp] theorem State.withDoneSerial_logs (s : State) (v : Nat) : (s.withDoneSerial v).logs = s.logs := rfl
@[simp] theorem State.withDoneSerial_chipInForce (s : State) (v : Nat) : (s.withDoneSerial v).chipInForce = s.chipInForce := rfl
@[simp] theorem State.withDoneSerial_syncs (s : State) (v : Nat) : (s.withDoneSerial v).syncs = s.syncs := rfl
@[simp] theorem State.withDoneSerial_efn (s : State) (v : Nat) : (s.withDoneSerial v).efn = s.efn := rfl
@[simp] theorem State.withDoneSerial_boot (s : State) (v : Nat) : (s.withDoneSerial v).boot = s.boot := rfl
@[simp] theorem State.withDoneSerial_pkg (s : State) (v : Nat) : (s.withDoneSerial v).pkg = s.pkg := rfl
@[simp] theorem State.withDoneSerial_srv (s : State) (v : Nat) : (s.withDoneSerial v).srv = s.srv := rfl
@[simp] theorem State.withDoneSerial_glare (s : State) (v : Nat) : (s.withDoneSerial v).glare = s.glare := rfl
@[simp] theorem State.withDoneSerial_trust (s : State) (v : Nat) : (s.withDoneSerial v).trust = s.trust := rfl
@[simp] theorem State.withDoneSerial_ptp (s : State) (v : Nat) : (s.withDoneSerial v).ptp = s.ptp := rfl
@[simp] theorem State.withDoneSerial_pwr (s : State) (v : Nat) : (s.withDoneSerial v).pwr = s.pwr := rfl
@[simp] theorem State.withDoneSerial_fused (s : State) (v : Nat) : (s.withDoneSerial v).fused = s.fused := rfl
@[simp] theorem State.withDoneSerial_timerIrq (s : State) (v : Nat) : (s.withDoneSerial v).timerIrq = s.timerIrq := rfl
@[simp] theorem State.withDoneSerial_engines (s : State) (v : Nat) : (s.withDoneSerial v).engines = s.engines := rfl
@[simp] theorem State.withDoneSerial_free (s : State) (v : Nat) : (s.withDoneSerial v).free = s.free := rfl
@[simp] theorem State.withNet_pending (s : State) (v : NetSt) : (s.withNet v).pending = s.pending := rfl
@[simp] theorem State.withNet_reply (s : State) (v : NetSt) : (s.withNet v).reply = s.reply := rfl
@[simp] theorem State.withNet_mem (s : State) (v : NetSt) : (s.withNet v).mem = s.mem := rfl
@[simp] theorem State.withNet_bad (s : State) (v : NetSt) : (s.withNet v).bad = s.bad := rfl
@[simp] theorem State.withNet_regs (s : State) (v : NetSt) : (s.withNet v).regs = s.regs := rfl
@[simp] theorem State.withNet_tiles (s : State) (v : NetSt) : (s.withNet v).tiles = s.tiles := rfl
@[simp] theorem State.withNet_secs (s : State) (v : NetSt) : (s.withNet v).secs = s.secs := rfl
@[simp] theorem State.withNet_cmdqs (s : State) (v : NetSt) : (s.withNet v).cmdqs = s.cmdqs := rfl
@[simp] theorem State.withNet_prism (s : State) (v : NetSt) : (s.withNet v).prism = s.prism := rfl
@[simp] theorem State.withNet_tint (s : State) (v : NetSt) : (s.withNet v).tint = s.tint := rfl
@[simp] theorem State.withNet_done (s : State) (v : NetSt) : (s.withNet v).done = s.done := rfl
@[simp] theorem State.withNet_doneSerial (s : State) (v : NetSt) : (s.withNet v).doneSerial = s.doneSerial := rfl
@[simp] theorem State.withNet_net (s : State) (v : NetSt) : (s.withNet v).net = v := rfl
@[simp] theorem State.withNet_flight (s : State) (v : NetSt) : (s.withNet v).flight = s.flight := rfl
@[simp] theorem State.withNet_credits (s : State) (v : NetSt) : (s.withNet v).credits = s.credits := rfl
@[simp] theorem State.withNet_lastEpoch (s : State) (v : NetSt) : (s.withNet v).lastEpoch = s.lastEpoch := rfl
@[simp] theorem State.withNet_time (s : State) (v : NetSt) : (s.withNet v).time = s.time := rfl
@[simp] theorem State.withNet_logs (s : State) (v : NetSt) : (s.withNet v).logs = s.logs := rfl
@[simp] theorem State.withNet_chipInForce (s : State) (v : NetSt) : (s.withNet v).chipInForce = s.chipInForce := rfl
@[simp] theorem State.withNet_syncs (s : State) (v : NetSt) : (s.withNet v).syncs = s.syncs := rfl
@[simp] theorem State.withNet_efn (s : State) (v : NetSt) : (s.withNet v).efn = s.efn := rfl
@[simp] theorem State.withNet_boot (s : State) (v : NetSt) : (s.withNet v).boot = s.boot := rfl
@[simp] theorem State.withNet_pkg (s : State) (v : NetSt) : (s.withNet v).pkg = s.pkg := rfl
@[simp] theorem State.withNet_srv (s : State) (v : NetSt) : (s.withNet v).srv = s.srv := rfl
@[simp] theorem State.withNet_glare (s : State) (v : NetSt) : (s.withNet v).glare = s.glare := rfl
@[simp] theorem State.withNet_trust (s : State) (v : NetSt) : (s.withNet v).trust = s.trust := rfl
@[simp] theorem State.withNet_ptp (s : State) (v : NetSt) : (s.withNet v).ptp = s.ptp := rfl
@[simp] theorem State.withNet_pwr (s : State) (v : NetSt) : (s.withNet v).pwr = s.pwr := rfl
@[simp] theorem State.withNet_fused (s : State) (v : NetSt) : (s.withNet v).fused = s.fused := rfl
@[simp] theorem State.withNet_timerIrq (s : State) (v : NetSt) : (s.withNet v).timerIrq = s.timerIrq := rfl
@[simp] theorem State.withNet_engines (s : State) (v : NetSt) : (s.withNet v).engines = s.engines := rfl
@[simp] theorem State.withNet_free (s : State) (v : NetSt) : (s.withNet v).free = s.free := rfl
@[simp] theorem State.withFlight_pending (s : State) (v : List Flight) : (s.withFlight v).pending = s.pending := rfl
@[simp] theorem State.withFlight_reply (s : State) (v : List Flight) : (s.withFlight v).reply = s.reply := rfl
@[simp] theorem State.withFlight_mem (s : State) (v : List Flight) : (s.withFlight v).mem = s.mem := rfl
@[simp] theorem State.withFlight_bad (s : State) (v : List Flight) : (s.withFlight v).bad = s.bad := rfl
@[simp] theorem State.withFlight_regs (s : State) (v : List Flight) : (s.withFlight v).regs = s.regs := rfl
@[simp] theorem State.withFlight_tiles (s : State) (v : List Flight) : (s.withFlight v).tiles = s.tiles := rfl
@[simp] theorem State.withFlight_secs (s : State) (v : List Flight) : (s.withFlight v).secs = s.secs := rfl
@[simp] theorem State.withFlight_cmdqs (s : State) (v : List Flight) : (s.withFlight v).cmdqs = s.cmdqs := rfl
@[simp] theorem State.withFlight_prism (s : State) (v : List Flight) : (s.withFlight v).prism = s.prism := rfl
@[simp] theorem State.withFlight_tint (s : State) (v : List Flight) : (s.withFlight v).tint = s.tint := rfl
@[simp] theorem State.withFlight_done (s : State) (v : List Flight) : (s.withFlight v).done = s.done := rfl
@[simp] theorem State.withFlight_doneSerial (s : State) (v : List Flight) : (s.withFlight v).doneSerial = s.doneSerial := rfl
@[simp] theorem State.withFlight_net (s : State) (v : List Flight) : (s.withFlight v).net = s.net := rfl
@[simp] theorem State.withFlight_flight (s : State) (v : List Flight) : (s.withFlight v).flight = v := rfl
@[simp] theorem State.withFlight_credits (s : State) (v : List Flight) : (s.withFlight v).credits = s.credits := rfl
@[simp] theorem State.withFlight_lastEpoch (s : State) (v : List Flight) : (s.withFlight v).lastEpoch = s.lastEpoch := rfl
@[simp] theorem State.withFlight_time (s : State) (v : List Flight) : (s.withFlight v).time = s.time := rfl
@[simp] theorem State.withFlight_logs (s : State) (v : List Flight) : (s.withFlight v).logs = s.logs := rfl
@[simp] theorem State.withFlight_chipInForce (s : State) (v : List Flight) : (s.withFlight v).chipInForce = s.chipInForce := rfl
@[simp] theorem State.withFlight_syncs (s : State) (v : List Flight) : (s.withFlight v).syncs = s.syncs := rfl
@[simp] theorem State.withFlight_efn (s : State) (v : List Flight) : (s.withFlight v).efn = s.efn := rfl
@[simp] theorem State.withFlight_boot (s : State) (v : List Flight) : (s.withFlight v).boot = s.boot := rfl
@[simp] theorem State.withFlight_pkg (s : State) (v : List Flight) : (s.withFlight v).pkg = s.pkg := rfl
@[simp] theorem State.withFlight_srv (s : State) (v : List Flight) : (s.withFlight v).srv = s.srv := rfl
@[simp] theorem State.withFlight_glare (s : State) (v : List Flight) : (s.withFlight v).glare = s.glare := rfl
@[simp] theorem State.withFlight_trust (s : State) (v : List Flight) : (s.withFlight v).trust = s.trust := rfl
@[simp] theorem State.withFlight_ptp (s : State) (v : List Flight) : (s.withFlight v).ptp = s.ptp := rfl
@[simp] theorem State.withFlight_pwr (s : State) (v : List Flight) : (s.withFlight v).pwr = s.pwr := rfl
@[simp] theorem State.withFlight_fused (s : State) (v : List Flight) : (s.withFlight v).fused = s.fused := rfl
@[simp] theorem State.withFlight_timerIrq (s : State) (v : List Flight) : (s.withFlight v).timerIrq = s.timerIrq := rfl
@[simp] theorem State.withFlight_engines (s : State) (v : List Flight) : (s.withFlight v).engines = s.engines := rfl
@[simp] theorem State.withFlight_free (s : State) (v : List Flight) : (s.withFlight v).free = s.free := rfl
@[simp] theorem State.withCredits_pending (s : State) (v : List CreditFlight) : (s.withCredits v).pending = s.pending := rfl
@[simp] theorem State.withCredits_reply (s : State) (v : List CreditFlight) : (s.withCredits v).reply = s.reply := rfl
@[simp] theorem State.withCredits_mem (s : State) (v : List CreditFlight) : (s.withCredits v).mem = s.mem := rfl
@[simp] theorem State.withCredits_bad (s : State) (v : List CreditFlight) : (s.withCredits v).bad = s.bad := rfl
@[simp] theorem State.withCredits_regs (s : State) (v : List CreditFlight) : (s.withCredits v).regs = s.regs := rfl
@[simp] theorem State.withCredits_tiles (s : State) (v : List CreditFlight) : (s.withCredits v).tiles = s.tiles := rfl
@[simp] theorem State.withCredits_secs (s : State) (v : List CreditFlight) : (s.withCredits v).secs = s.secs := rfl
@[simp] theorem State.withCredits_cmdqs (s : State) (v : List CreditFlight) : (s.withCredits v).cmdqs = s.cmdqs := rfl
@[simp] theorem State.withCredits_prism (s : State) (v : List CreditFlight) : (s.withCredits v).prism = s.prism := rfl
@[simp] theorem State.withCredits_tint (s : State) (v : List CreditFlight) : (s.withCredits v).tint = s.tint := rfl
@[simp] theorem State.withCredits_done (s : State) (v : List CreditFlight) : (s.withCredits v).done = s.done := rfl
@[simp] theorem State.withCredits_doneSerial (s : State) (v : List CreditFlight) : (s.withCredits v).doneSerial = s.doneSerial := rfl
@[simp] theorem State.withCredits_net (s : State) (v : List CreditFlight) : (s.withCredits v).net = s.net := rfl
@[simp] theorem State.withCredits_flight (s : State) (v : List CreditFlight) : (s.withCredits v).flight = s.flight := rfl
@[simp] theorem State.withCredits_credits (s : State) (v : List CreditFlight) : (s.withCredits v).credits = v := rfl
@[simp] theorem State.withCredits_lastEpoch (s : State) (v : List CreditFlight) : (s.withCredits v).lastEpoch = s.lastEpoch := rfl
@[simp] theorem State.withCredits_time (s : State) (v : List CreditFlight) : (s.withCredits v).time = s.time := rfl
@[simp] theorem State.withCredits_logs (s : State) (v : List CreditFlight) : (s.withCredits v).logs = s.logs := rfl
@[simp] theorem State.withCredits_chipInForce (s : State) (v : List CreditFlight) : (s.withCredits v).chipInForce = s.chipInForce := rfl
@[simp] theorem State.withCredits_syncs (s : State) (v : List CreditFlight) : (s.withCredits v).syncs = s.syncs := rfl
@[simp] theorem State.withCredits_efn (s : State) (v : List CreditFlight) : (s.withCredits v).efn = s.efn := rfl
@[simp] theorem State.withCredits_boot (s : State) (v : List CreditFlight) : (s.withCredits v).boot = s.boot := rfl
@[simp] theorem State.withCredits_pkg (s : State) (v : List CreditFlight) : (s.withCredits v).pkg = s.pkg := rfl
@[simp] theorem State.withCredits_srv (s : State) (v : List CreditFlight) : (s.withCredits v).srv = s.srv := rfl
@[simp] theorem State.withCredits_glare (s : State) (v : List CreditFlight) : (s.withCredits v).glare = s.glare := rfl
@[simp] theorem State.withCredits_trust (s : State) (v : List CreditFlight) : (s.withCredits v).trust = s.trust := rfl
@[simp] theorem State.withCredits_ptp (s : State) (v : List CreditFlight) : (s.withCredits v).ptp = s.ptp := rfl
@[simp] theorem State.withCredits_pwr (s : State) (v : List CreditFlight) : (s.withCredits v).pwr = s.pwr := rfl
@[simp] theorem State.withCredits_fused (s : State) (v : List CreditFlight) : (s.withCredits v).fused = s.fused := rfl
@[simp] theorem State.withCredits_timerIrq (s : State) (v : List CreditFlight) : (s.withCredits v).timerIrq = s.timerIrq := rfl
@[simp] theorem State.withCredits_engines (s : State) (v : List CreditFlight) : (s.withCredits v).engines = s.engines := rfl
@[simp] theorem State.withCredits_free (s : State) (v : List CreditFlight) : (s.withCredits v).free = s.free := rfl
@[simp] theorem State.withLastEpoch_pending (s : State) (v : List (Nat × Nat)) : (s.withLastEpoch v).pending = s.pending := rfl
@[simp] theorem State.withLastEpoch_reply (s : State) (v : List (Nat × Nat)) : (s.withLastEpoch v).reply = s.reply := rfl
@[simp] theorem State.withLastEpoch_mem (s : State) (v : List (Nat × Nat)) : (s.withLastEpoch v).mem = s.mem := rfl
@[simp] theorem State.withLastEpoch_bad (s : State) (v : List (Nat × Nat)) : (s.withLastEpoch v).bad = s.bad := rfl
@[simp] theorem State.withLastEpoch_regs (s : State) (v : List (Nat × Nat)) : (s.withLastEpoch v).regs = s.regs := rfl
@[simp] theorem State.withLastEpoch_tiles (s : State) (v : List (Nat × Nat)) : (s.withLastEpoch v).tiles = s.tiles := rfl
@[simp] theorem State.withLastEpoch_secs (s : State) (v : List (Nat × Nat)) : (s.withLastEpoch v).secs = s.secs := rfl
@[simp] theorem State.withLastEpoch_cmdqs (s : State) (v : List (Nat × Nat)) : (s.withLastEpoch v).cmdqs = s.cmdqs := rfl
@[simp] theorem State.withLastEpoch_prism (s : State) (v : List (Nat × Nat)) : (s.withLastEpoch v).prism = s.prism := rfl
@[simp] theorem State.withLastEpoch_tint (s : State) (v : List (Nat × Nat)) : (s.withLastEpoch v).tint = s.tint := rfl
@[simp] theorem State.withLastEpoch_done (s : State) (v : List (Nat × Nat)) : (s.withLastEpoch v).done = s.done := rfl
@[simp] theorem State.withLastEpoch_doneSerial (s : State) (v : List (Nat × Nat)) : (s.withLastEpoch v).doneSerial = s.doneSerial := rfl
@[simp] theorem State.withLastEpoch_net (s : State) (v : List (Nat × Nat)) : (s.withLastEpoch v).net = s.net := rfl
@[simp] theorem State.withLastEpoch_flight (s : State) (v : List (Nat × Nat)) : (s.withLastEpoch v).flight = s.flight := rfl
@[simp] theorem State.withLastEpoch_credits (s : State) (v : List (Nat × Nat)) : (s.withLastEpoch v).credits = s.credits := rfl
@[simp] theorem State.withLastEpoch_lastEpoch (s : State) (v : List (Nat × Nat)) : (s.withLastEpoch v).lastEpoch = v := rfl
@[simp] theorem State.withLastEpoch_time (s : State) (v : List (Nat × Nat)) : (s.withLastEpoch v).time = s.time := rfl
@[simp] theorem State.withLastEpoch_logs (s : State) (v : List (Nat × Nat)) : (s.withLastEpoch v).logs = s.logs := rfl
@[simp] theorem State.withLastEpoch_chipInForce (s : State) (v : List (Nat × Nat)) : (s.withLastEpoch v).chipInForce = s.chipInForce := rfl
@[simp] theorem State.withLastEpoch_syncs (s : State) (v : List (Nat × Nat)) : (s.withLastEpoch v).syncs = s.syncs := rfl
@[simp] theorem State.withLastEpoch_efn (s : State) (v : List (Nat × Nat)) : (s.withLastEpoch v).efn = s.efn := rfl
@[simp] theorem State.withLastEpoch_boot (s : State) (v : List (Nat × Nat)) : (s.withLastEpoch v).boot = s.boot := rfl
@[simp] theorem State.withLastEpoch_pkg (s : State) (v : List (Nat × Nat)) : (s.withLastEpoch v).pkg = s.pkg := rfl
@[simp] theorem State.withLastEpoch_srv (s : State) (v : List (Nat × Nat)) : (s.withLastEpoch v).srv = s.srv := rfl
@[simp] theorem State.withLastEpoch_glare (s : State) (v : List (Nat × Nat)) : (s.withLastEpoch v).glare = s.glare := rfl
@[simp] theorem State.withLastEpoch_trust (s : State) (v : List (Nat × Nat)) : (s.withLastEpoch v).trust = s.trust := rfl
@[simp] theorem State.withLastEpoch_ptp (s : State) (v : List (Nat × Nat)) : (s.withLastEpoch v).ptp = s.ptp := rfl
@[simp] theorem State.withLastEpoch_pwr (s : State) (v : List (Nat × Nat)) : (s.withLastEpoch v).pwr = s.pwr := rfl
@[simp] theorem State.withLastEpoch_fused (s : State) (v : List (Nat × Nat)) : (s.withLastEpoch v).fused = s.fused := rfl
@[simp] theorem State.withLastEpoch_timerIrq (s : State) (v : List (Nat × Nat)) : (s.withLastEpoch v).timerIrq = s.timerIrq := rfl
@[simp] theorem State.withLastEpoch_engines (s : State) (v : List (Nat × Nat)) : (s.withLastEpoch v).engines = s.engines := rfl
@[simp] theorem State.withLastEpoch_free (s : State) (v : List (Nat × Nat)) : (s.withLastEpoch v).free = s.free := rfl
@[simp] theorem State.withTime_pending (s : State) (v : Nat) : (s.withTime v).pending = s.pending := rfl
@[simp] theorem State.withTime_reply (s : State) (v : Nat) : (s.withTime v).reply = s.reply := rfl
@[simp] theorem State.withTime_mem (s : State) (v : Nat) : (s.withTime v).mem = s.mem := rfl
@[simp] theorem State.withTime_bad (s : State) (v : Nat) : (s.withTime v).bad = s.bad := rfl
@[simp] theorem State.withTime_regs (s : State) (v : Nat) : (s.withTime v).regs = s.regs := rfl
@[simp] theorem State.withTime_tiles (s : State) (v : Nat) : (s.withTime v).tiles = s.tiles := rfl
@[simp] theorem State.withTime_secs (s : State) (v : Nat) : (s.withTime v).secs = s.secs := rfl
@[simp] theorem State.withTime_cmdqs (s : State) (v : Nat) : (s.withTime v).cmdqs = s.cmdqs := rfl
@[simp] theorem State.withTime_prism (s : State) (v : Nat) : (s.withTime v).prism = s.prism := rfl
@[simp] theorem State.withTime_tint (s : State) (v : Nat) : (s.withTime v).tint = s.tint := rfl
@[simp] theorem State.withTime_done (s : State) (v : Nat) : (s.withTime v).done = s.done := rfl
@[simp] theorem State.withTime_doneSerial (s : State) (v : Nat) : (s.withTime v).doneSerial = s.doneSerial := rfl
@[simp] theorem State.withTime_net (s : State) (v : Nat) : (s.withTime v).net = s.net := rfl
@[simp] theorem State.withTime_flight (s : State) (v : Nat) : (s.withTime v).flight = s.flight := rfl
@[simp] theorem State.withTime_credits (s : State) (v : Nat) : (s.withTime v).credits = s.credits := rfl
@[simp] theorem State.withTime_lastEpoch (s : State) (v : Nat) : (s.withTime v).lastEpoch = s.lastEpoch := rfl
@[simp] theorem State.withTime_time (s : State) (v : Nat) : (s.withTime v).time = v := rfl
@[simp] theorem State.withTime_logs (s : State) (v : Nat) : (s.withTime v).logs = s.logs := rfl
@[simp] theorem State.withTime_chipInForce (s : State) (v : Nat) : (s.withTime v).chipInForce = s.chipInForce := rfl
@[simp] theorem State.withTime_syncs (s : State) (v : Nat) : (s.withTime v).syncs = s.syncs := rfl
@[simp] theorem State.withTime_efn (s : State) (v : Nat) : (s.withTime v).efn = s.efn := rfl
@[simp] theorem State.withTime_boot (s : State) (v : Nat) : (s.withTime v).boot = s.boot := rfl
@[simp] theorem State.withTime_pkg (s : State) (v : Nat) : (s.withTime v).pkg = s.pkg := rfl
@[simp] theorem State.withTime_srv (s : State) (v : Nat) : (s.withTime v).srv = s.srv := rfl
@[simp] theorem State.withTime_glare (s : State) (v : Nat) : (s.withTime v).glare = s.glare := rfl
@[simp] theorem State.withTime_trust (s : State) (v : Nat) : (s.withTime v).trust = s.trust := rfl
@[simp] theorem State.withTime_ptp (s : State) (v : Nat) : (s.withTime v).ptp = s.ptp := rfl
@[simp] theorem State.withTime_pwr (s : State) (v : Nat) : (s.withTime v).pwr = s.pwr := rfl
@[simp] theorem State.withTime_fused (s : State) (v : Nat) : (s.withTime v).fused = s.fused := rfl
@[simp] theorem State.withTime_timerIrq (s : State) (v : Nat) : (s.withTime v).timerIrq = s.timerIrq := rfl
@[simp] theorem State.withTime_engines (s : State) (v : Nat) : (s.withTime v).engines = s.engines := rfl
@[simp] theorem State.withTime_free (s : State) (v : Nat) : (s.withTime v).free = s.free := rfl
@[simp] theorem State.withLogs_pending (s : State) (v : Logs) : (s.withLogs v).pending = s.pending := rfl
@[simp] theorem State.withLogs_reply (s : State) (v : Logs) : (s.withLogs v).reply = s.reply := rfl
@[simp] theorem State.withLogs_mem (s : State) (v : Logs) : (s.withLogs v).mem = s.mem := rfl
@[simp] theorem State.withLogs_bad (s : State) (v : Logs) : (s.withLogs v).bad = s.bad := rfl
@[simp] theorem State.withLogs_regs (s : State) (v : Logs) : (s.withLogs v).regs = s.regs := rfl
@[simp] theorem State.withLogs_tiles (s : State) (v : Logs) : (s.withLogs v).tiles = s.tiles := rfl
@[simp] theorem State.withLogs_secs (s : State) (v : Logs) : (s.withLogs v).secs = s.secs := rfl
@[simp] theorem State.withLogs_cmdqs (s : State) (v : Logs) : (s.withLogs v).cmdqs = s.cmdqs := rfl
@[simp] theorem State.withLogs_prism (s : State) (v : Logs) : (s.withLogs v).prism = s.prism := rfl
@[simp] theorem State.withLogs_tint (s : State) (v : Logs) : (s.withLogs v).tint = s.tint := rfl
@[simp] theorem State.withLogs_done (s : State) (v : Logs) : (s.withLogs v).done = s.done := rfl
@[simp] theorem State.withLogs_doneSerial (s : State) (v : Logs) : (s.withLogs v).doneSerial = s.doneSerial := rfl
@[simp] theorem State.withLogs_net (s : State) (v : Logs) : (s.withLogs v).net = s.net := rfl
@[simp] theorem State.withLogs_flight (s : State) (v : Logs) : (s.withLogs v).flight = s.flight := rfl
@[simp] theorem State.withLogs_credits (s : State) (v : Logs) : (s.withLogs v).credits = s.credits := rfl
@[simp] theorem State.withLogs_lastEpoch (s : State) (v : Logs) : (s.withLogs v).lastEpoch = s.lastEpoch := rfl
@[simp] theorem State.withLogs_time (s : State) (v : Logs) : (s.withLogs v).time = s.time := rfl
@[simp] theorem State.withLogs_logs (s : State) (v : Logs) : (s.withLogs v).logs = v := rfl
@[simp] theorem State.withLogs_chipInForce (s : State) (v : Logs) : (s.withLogs v).chipInForce = s.chipInForce := rfl
@[simp] theorem State.withLogs_syncs (s : State) (v : Logs) : (s.withLogs v).syncs = s.syncs := rfl
@[simp] theorem State.withLogs_efn (s : State) (v : Logs) : (s.withLogs v).efn = s.efn := rfl
@[simp] theorem State.withLogs_boot (s : State) (v : Logs) : (s.withLogs v).boot = s.boot := rfl
@[simp] theorem State.withLogs_pkg (s : State) (v : Logs) : (s.withLogs v).pkg = s.pkg := rfl
@[simp] theorem State.withLogs_srv (s : State) (v : Logs) : (s.withLogs v).srv = s.srv := rfl
@[simp] theorem State.withLogs_glare (s : State) (v : Logs) : (s.withLogs v).glare = s.glare := rfl
@[simp] theorem State.withLogs_trust (s : State) (v : Logs) : (s.withLogs v).trust = s.trust := rfl
@[simp] theorem State.withLogs_ptp (s : State) (v : Logs) : (s.withLogs v).ptp = s.ptp := rfl
@[simp] theorem State.withLogs_pwr (s : State) (v : Logs) : (s.withLogs v).pwr = s.pwr := rfl
@[simp] theorem State.withLogs_fused (s : State) (v : Logs) : (s.withLogs v).fused = s.fused := rfl
@[simp] theorem State.withLogs_timerIrq (s : State) (v : Logs) : (s.withLogs v).timerIrq = s.timerIrq := rfl
@[simp] theorem State.withLogs_engines (s : State) (v : Logs) : (s.withLogs v).engines = s.engines := rfl
@[simp] theorem State.withLogs_free (s : State) (v : Logs) : (s.withLogs v).free = s.free := rfl
@[simp] theorem State.withChipInForce_pending (s : State) (v : Nat) : (s.withChipInForce v).pending = s.pending := rfl
@[simp] theorem State.withChipInForce_reply (s : State) (v : Nat) : (s.withChipInForce v).reply = s.reply := rfl
@[simp] theorem State.withChipInForce_mem (s : State) (v : Nat) : (s.withChipInForce v).mem = s.mem := rfl
@[simp] theorem State.withChipInForce_bad (s : State) (v : Nat) : (s.withChipInForce v).bad = s.bad := rfl
@[simp] theorem State.withChipInForce_regs (s : State) (v : Nat) : (s.withChipInForce v).regs = s.regs := rfl
@[simp] theorem State.withChipInForce_tiles (s : State) (v : Nat) : (s.withChipInForce v).tiles = s.tiles := rfl
@[simp] theorem State.withChipInForce_secs (s : State) (v : Nat) : (s.withChipInForce v).secs = s.secs := rfl
@[simp] theorem State.withChipInForce_cmdqs (s : State) (v : Nat) : (s.withChipInForce v).cmdqs = s.cmdqs := rfl
@[simp] theorem State.withChipInForce_prism (s : State) (v : Nat) : (s.withChipInForce v).prism = s.prism := rfl
@[simp] theorem State.withChipInForce_tint (s : State) (v : Nat) : (s.withChipInForce v).tint = s.tint := rfl
@[simp] theorem State.withChipInForce_done (s : State) (v : Nat) : (s.withChipInForce v).done = s.done := rfl
@[simp] theorem State.withChipInForce_doneSerial (s : State) (v : Nat) : (s.withChipInForce v).doneSerial = s.doneSerial := rfl
@[simp] theorem State.withChipInForce_net (s : State) (v : Nat) : (s.withChipInForce v).net = s.net := rfl
@[simp] theorem State.withChipInForce_flight (s : State) (v : Nat) : (s.withChipInForce v).flight = s.flight := rfl
@[simp] theorem State.withChipInForce_credits (s : State) (v : Nat) : (s.withChipInForce v).credits = s.credits := rfl
@[simp] theorem State.withChipInForce_lastEpoch (s : State) (v : Nat) : (s.withChipInForce v).lastEpoch = s.lastEpoch := rfl
@[simp] theorem State.withChipInForce_time (s : State) (v : Nat) : (s.withChipInForce v).time = s.time := rfl
@[simp] theorem State.withChipInForce_logs (s : State) (v : Nat) : (s.withChipInForce v).logs = s.logs := rfl
@[simp] theorem State.withChipInForce_chipInForce (s : State) (v : Nat) : (s.withChipInForce v).chipInForce = v := rfl
@[simp] theorem State.withChipInForce_syncs (s : State) (v : Nat) : (s.withChipInForce v).syncs = s.syncs := rfl
@[simp] theorem State.withChipInForce_efn (s : State) (v : Nat) : (s.withChipInForce v).efn = s.efn := rfl
@[simp] theorem State.withChipInForce_boot (s : State) (v : Nat) : (s.withChipInForce v).boot = s.boot := rfl
@[simp] theorem State.withChipInForce_pkg (s : State) (v : Nat) : (s.withChipInForce v).pkg = s.pkg := rfl
@[simp] theorem State.withChipInForce_srv (s : State) (v : Nat) : (s.withChipInForce v).srv = s.srv := rfl
@[simp] theorem State.withChipInForce_glare (s : State) (v : Nat) : (s.withChipInForce v).glare = s.glare := rfl
@[simp] theorem State.withChipInForce_trust (s : State) (v : Nat) : (s.withChipInForce v).trust = s.trust := rfl
@[simp] theorem State.withChipInForce_ptp (s : State) (v : Nat) : (s.withChipInForce v).ptp = s.ptp := rfl
@[simp] theorem State.withChipInForce_pwr (s : State) (v : Nat) : (s.withChipInForce v).pwr = s.pwr := rfl
@[simp] theorem State.withChipInForce_fused (s : State) (v : Nat) : (s.withChipInForce v).fused = s.fused := rfl
@[simp] theorem State.withChipInForce_timerIrq (s : State) (v : Nat) : (s.withChipInForce v).timerIrq = s.timerIrq := rfl
@[simp] theorem State.withChipInForce_engines (s : State) (v : Nat) : (s.withChipInForce v).engines = s.engines := rfl
@[simp] theorem State.withChipInForce_free (s : State) (v : Nat) : (s.withChipInForce v).free = s.free := rfl
@[simp] theorem State.withSyncs_pending (s : State) (v : List (Nat × Nat × Nat)) : (s.withSyncs v).pending = s.pending := rfl
@[simp] theorem State.withSyncs_reply (s : State) (v : List (Nat × Nat × Nat)) : (s.withSyncs v).reply = s.reply := rfl
@[simp] theorem State.withSyncs_mem (s : State) (v : List (Nat × Nat × Nat)) : (s.withSyncs v).mem = s.mem := rfl
@[simp] theorem State.withSyncs_bad (s : State) (v : List (Nat × Nat × Nat)) : (s.withSyncs v).bad = s.bad := rfl
@[simp] theorem State.withSyncs_regs (s : State) (v : List (Nat × Nat × Nat)) : (s.withSyncs v).regs = s.regs := rfl
@[simp] theorem State.withSyncs_tiles (s : State) (v : List (Nat × Nat × Nat)) : (s.withSyncs v).tiles = s.tiles := rfl
@[simp] theorem State.withSyncs_secs (s : State) (v : List (Nat × Nat × Nat)) : (s.withSyncs v).secs = s.secs := rfl
@[simp] theorem State.withSyncs_cmdqs (s : State) (v : List (Nat × Nat × Nat)) : (s.withSyncs v).cmdqs = s.cmdqs := rfl
@[simp] theorem State.withSyncs_prism (s : State) (v : List (Nat × Nat × Nat)) : (s.withSyncs v).prism = s.prism := rfl
@[simp] theorem State.withSyncs_tint (s : State) (v : List (Nat × Nat × Nat)) : (s.withSyncs v).tint = s.tint := rfl
@[simp] theorem State.withSyncs_done (s : State) (v : List (Nat × Nat × Nat)) : (s.withSyncs v).done = s.done := rfl
@[simp] theorem State.withSyncs_doneSerial (s : State) (v : List (Nat × Nat × Nat)) : (s.withSyncs v).doneSerial = s.doneSerial := rfl
@[simp] theorem State.withSyncs_net (s : State) (v : List (Nat × Nat × Nat)) : (s.withSyncs v).net = s.net := rfl
@[simp] theorem State.withSyncs_flight (s : State) (v : List (Nat × Nat × Nat)) : (s.withSyncs v).flight = s.flight := rfl
@[simp] theorem State.withSyncs_credits (s : State) (v : List (Nat × Nat × Nat)) : (s.withSyncs v).credits = s.credits := rfl
@[simp] theorem State.withSyncs_lastEpoch (s : State) (v : List (Nat × Nat × Nat)) : (s.withSyncs v).lastEpoch = s.lastEpoch := rfl
@[simp] theorem State.withSyncs_time (s : State) (v : List (Nat × Nat × Nat)) : (s.withSyncs v).time = s.time := rfl
@[simp] theorem State.withSyncs_logs (s : State) (v : List (Nat × Nat × Nat)) : (s.withSyncs v).logs = s.logs := rfl
@[simp] theorem State.withSyncs_chipInForce (s : State) (v : List (Nat × Nat × Nat)) : (s.withSyncs v).chipInForce = s.chipInForce := rfl
@[simp] theorem State.withSyncs_syncs (s : State) (v : List (Nat × Nat × Nat)) : (s.withSyncs v).syncs = v := rfl
@[simp] theorem State.withSyncs_efn (s : State) (v : List (Nat × Nat × Nat)) : (s.withSyncs v).efn = s.efn := rfl
@[simp] theorem State.withSyncs_boot (s : State) (v : List (Nat × Nat × Nat)) : (s.withSyncs v).boot = s.boot := rfl
@[simp] theorem State.withSyncs_pkg (s : State) (v : List (Nat × Nat × Nat)) : (s.withSyncs v).pkg = s.pkg := rfl
@[simp] theorem State.withSyncs_srv (s : State) (v : List (Nat × Nat × Nat)) : (s.withSyncs v).srv = s.srv := rfl
@[simp] theorem State.withSyncs_glare (s : State) (v : List (Nat × Nat × Nat)) : (s.withSyncs v).glare = s.glare := rfl
@[simp] theorem State.withSyncs_trust (s : State) (v : List (Nat × Nat × Nat)) : (s.withSyncs v).trust = s.trust := rfl
@[simp] theorem State.withSyncs_ptp (s : State) (v : List (Nat × Nat × Nat)) : (s.withSyncs v).ptp = s.ptp := rfl
@[simp] theorem State.withSyncs_pwr (s : State) (v : List (Nat × Nat × Nat)) : (s.withSyncs v).pwr = s.pwr := rfl
@[simp] theorem State.withSyncs_fused (s : State) (v : List (Nat × Nat × Nat)) : (s.withSyncs v).fused = s.fused := rfl
@[simp] theorem State.withSyncs_timerIrq (s : State) (v : List (Nat × Nat × Nat)) : (s.withSyncs v).timerIrq = s.timerIrq := rfl
@[simp] theorem State.withSyncs_engines (s : State) (v : List (Nat × Nat × Nat)) : (s.withSyncs v).engines = s.engines := rfl
@[simp] theorem State.withSyncs_free (s : State) (v : List (Nat × Nat × Nat)) : (s.withSyncs v).free = s.free := rfl
@[simp] theorem State.withEfn_pending (s : State) (v : EfnSt) : (s.withEfn v).pending = s.pending := rfl
@[simp] theorem State.withEfn_reply (s : State) (v : EfnSt) : (s.withEfn v).reply = s.reply := rfl
@[simp] theorem State.withEfn_mem (s : State) (v : EfnSt) : (s.withEfn v).mem = s.mem := rfl
@[simp] theorem State.withEfn_bad (s : State) (v : EfnSt) : (s.withEfn v).bad = s.bad := rfl
@[simp] theorem State.withEfn_regs (s : State) (v : EfnSt) : (s.withEfn v).regs = s.regs := rfl
@[simp] theorem State.withEfn_tiles (s : State) (v : EfnSt) : (s.withEfn v).tiles = s.tiles := rfl
@[simp] theorem State.withEfn_secs (s : State) (v : EfnSt) : (s.withEfn v).secs = s.secs := rfl
@[simp] theorem State.withEfn_cmdqs (s : State) (v : EfnSt) : (s.withEfn v).cmdqs = s.cmdqs := rfl
@[simp] theorem State.withEfn_prism (s : State) (v : EfnSt) : (s.withEfn v).prism = s.prism := rfl
@[simp] theorem State.withEfn_tint (s : State) (v : EfnSt) : (s.withEfn v).tint = s.tint := rfl
@[simp] theorem State.withEfn_done (s : State) (v : EfnSt) : (s.withEfn v).done = s.done := rfl
@[simp] theorem State.withEfn_doneSerial (s : State) (v : EfnSt) : (s.withEfn v).doneSerial = s.doneSerial := rfl
@[simp] theorem State.withEfn_net (s : State) (v : EfnSt) : (s.withEfn v).net = s.net := rfl
@[simp] theorem State.withEfn_flight (s : State) (v : EfnSt) : (s.withEfn v).flight = s.flight := rfl
@[simp] theorem State.withEfn_credits (s : State) (v : EfnSt) : (s.withEfn v).credits = s.credits := rfl
@[simp] theorem State.withEfn_lastEpoch (s : State) (v : EfnSt) : (s.withEfn v).lastEpoch = s.lastEpoch := rfl
@[simp] theorem State.withEfn_time (s : State) (v : EfnSt) : (s.withEfn v).time = s.time := rfl
@[simp] theorem State.withEfn_logs (s : State) (v : EfnSt) : (s.withEfn v).logs = s.logs := rfl
@[simp] theorem State.withEfn_chipInForce (s : State) (v : EfnSt) : (s.withEfn v).chipInForce = s.chipInForce := rfl
@[simp] theorem State.withEfn_syncs (s : State) (v : EfnSt) : (s.withEfn v).syncs = s.syncs := rfl
@[simp] theorem State.withEfn_efn (s : State) (v : EfnSt) : (s.withEfn v).efn = v := rfl
@[simp] theorem State.withEfn_boot (s : State) (v : EfnSt) : (s.withEfn v).boot = s.boot := rfl
@[simp] theorem State.withEfn_pkg (s : State) (v : EfnSt) : (s.withEfn v).pkg = s.pkg := rfl
@[simp] theorem State.withEfn_srv (s : State) (v : EfnSt) : (s.withEfn v).srv = s.srv := rfl
@[simp] theorem State.withEfn_glare (s : State) (v : EfnSt) : (s.withEfn v).glare = s.glare := rfl
@[simp] theorem State.withEfn_trust (s : State) (v : EfnSt) : (s.withEfn v).trust = s.trust := rfl
@[simp] theorem State.withEfn_ptp (s : State) (v : EfnSt) : (s.withEfn v).ptp = s.ptp := rfl
@[simp] theorem State.withEfn_pwr (s : State) (v : EfnSt) : (s.withEfn v).pwr = s.pwr := rfl
@[simp] theorem State.withEfn_fused (s : State) (v : EfnSt) : (s.withEfn v).fused = s.fused := rfl
@[simp] theorem State.withEfn_timerIrq (s : State) (v : EfnSt) : (s.withEfn v).timerIrq = s.timerIrq := rfl
@[simp] theorem State.withEfn_engines (s : State) (v : EfnSt) : (s.withEfn v).engines = s.engines := rfl
@[simp] theorem State.withEfn_free (s : State) (v : EfnSt) : (s.withEfn v).free = s.free := rfl
@[simp] theorem State.withBoot_pending (s : State) (v : BootSt) : (s.withBoot v).pending = s.pending := rfl
@[simp] theorem State.withBoot_reply (s : State) (v : BootSt) : (s.withBoot v).reply = s.reply := rfl
@[simp] theorem State.withBoot_mem (s : State) (v : BootSt) : (s.withBoot v).mem = s.mem := rfl
@[simp] theorem State.withBoot_bad (s : State) (v : BootSt) : (s.withBoot v).bad = s.bad := rfl
@[simp] theorem State.withBoot_regs (s : State) (v : BootSt) : (s.withBoot v).regs = s.regs := rfl
@[simp] theorem State.withBoot_tiles (s : State) (v : BootSt) : (s.withBoot v).tiles = s.tiles := rfl
@[simp] theorem State.withBoot_secs (s : State) (v : BootSt) : (s.withBoot v).secs = s.secs := rfl
@[simp] theorem State.withBoot_cmdqs (s : State) (v : BootSt) : (s.withBoot v).cmdqs = s.cmdqs := rfl
@[simp] theorem State.withBoot_prism (s : State) (v : BootSt) : (s.withBoot v).prism = s.prism := rfl
@[simp] theorem State.withBoot_tint (s : State) (v : BootSt) : (s.withBoot v).tint = s.tint := rfl
@[simp] theorem State.withBoot_done (s : State) (v : BootSt) : (s.withBoot v).done = s.done := rfl
@[simp] theorem State.withBoot_doneSerial (s : State) (v : BootSt) : (s.withBoot v).doneSerial = s.doneSerial := rfl
@[simp] theorem State.withBoot_net (s : State) (v : BootSt) : (s.withBoot v).net = s.net := rfl
@[simp] theorem State.withBoot_flight (s : State) (v : BootSt) : (s.withBoot v).flight = s.flight := rfl
@[simp] theorem State.withBoot_credits (s : State) (v : BootSt) : (s.withBoot v).credits = s.credits := rfl
@[simp] theorem State.withBoot_lastEpoch (s : State) (v : BootSt) : (s.withBoot v).lastEpoch = s.lastEpoch := rfl
@[simp] theorem State.withBoot_time (s : State) (v : BootSt) : (s.withBoot v).time = s.time := rfl
@[simp] theorem State.withBoot_logs (s : State) (v : BootSt) : (s.withBoot v).logs = s.logs := rfl
@[simp] theorem State.withBoot_chipInForce (s : State) (v : BootSt) : (s.withBoot v).chipInForce = s.chipInForce := rfl
@[simp] theorem State.withBoot_syncs (s : State) (v : BootSt) : (s.withBoot v).syncs = s.syncs := rfl
@[simp] theorem State.withBoot_efn (s : State) (v : BootSt) : (s.withBoot v).efn = s.efn := rfl
@[simp] theorem State.withBoot_boot (s : State) (v : BootSt) : (s.withBoot v).boot = v := rfl
@[simp] theorem State.withBoot_pkg (s : State) (v : BootSt) : (s.withBoot v).pkg = s.pkg := rfl
@[simp] theorem State.withBoot_srv (s : State) (v : BootSt) : (s.withBoot v).srv = s.srv := rfl
@[simp] theorem State.withBoot_glare (s : State) (v : BootSt) : (s.withBoot v).glare = s.glare := rfl
@[simp] theorem State.withBoot_trust (s : State) (v : BootSt) : (s.withBoot v).trust = s.trust := rfl
@[simp] theorem State.withBoot_ptp (s : State) (v : BootSt) : (s.withBoot v).ptp = s.ptp := rfl
@[simp] theorem State.withBoot_pwr (s : State) (v : BootSt) : (s.withBoot v).pwr = s.pwr := rfl
@[simp] theorem State.withBoot_fused (s : State) (v : BootSt) : (s.withBoot v).fused = s.fused := rfl
@[simp] theorem State.withBoot_timerIrq (s : State) (v : BootSt) : (s.withBoot v).timerIrq = s.timerIrq := rfl
@[simp] theorem State.withBoot_engines (s : State) (v : BootSt) : (s.withBoot v).engines = s.engines := rfl
@[simp] theorem State.withBoot_free (s : State) (v : BootSt) : (s.withBoot v).free = s.free := rfl
@[simp] theorem State.withPkg_pending (s : State) (v : PkgSt) : (s.withPkg v).pending = s.pending := rfl
@[simp] theorem State.withPkg_reply (s : State) (v : PkgSt) : (s.withPkg v).reply = s.reply := rfl
@[simp] theorem State.withPkg_mem (s : State) (v : PkgSt) : (s.withPkg v).mem = s.mem := rfl
@[simp] theorem State.withPkg_bad (s : State) (v : PkgSt) : (s.withPkg v).bad = s.bad := rfl
@[simp] theorem State.withPkg_regs (s : State) (v : PkgSt) : (s.withPkg v).regs = s.regs := rfl
@[simp] theorem State.withPkg_tiles (s : State) (v : PkgSt) : (s.withPkg v).tiles = s.tiles := rfl
@[simp] theorem State.withPkg_secs (s : State) (v : PkgSt) : (s.withPkg v).secs = s.secs := rfl
@[simp] theorem State.withPkg_cmdqs (s : State) (v : PkgSt) : (s.withPkg v).cmdqs = s.cmdqs := rfl
@[simp] theorem State.withPkg_prism (s : State) (v : PkgSt) : (s.withPkg v).prism = s.prism := rfl
@[simp] theorem State.withPkg_tint (s : State) (v : PkgSt) : (s.withPkg v).tint = s.tint := rfl
@[simp] theorem State.withPkg_done (s : State) (v : PkgSt) : (s.withPkg v).done = s.done := rfl
@[simp] theorem State.withPkg_doneSerial (s : State) (v : PkgSt) : (s.withPkg v).doneSerial = s.doneSerial := rfl
@[simp] theorem State.withPkg_net (s : State) (v : PkgSt) : (s.withPkg v).net = s.net := rfl
@[simp] theorem State.withPkg_flight (s : State) (v : PkgSt) : (s.withPkg v).flight = s.flight := rfl
@[simp] theorem State.withPkg_credits (s : State) (v : PkgSt) : (s.withPkg v).credits = s.credits := rfl
@[simp] theorem State.withPkg_lastEpoch (s : State) (v : PkgSt) : (s.withPkg v).lastEpoch = s.lastEpoch := rfl
@[simp] theorem State.withPkg_time (s : State) (v : PkgSt) : (s.withPkg v).time = s.time := rfl
@[simp] theorem State.withPkg_logs (s : State) (v : PkgSt) : (s.withPkg v).logs = s.logs := rfl
@[simp] theorem State.withPkg_chipInForce (s : State) (v : PkgSt) : (s.withPkg v).chipInForce = s.chipInForce := rfl
@[simp] theorem State.withPkg_syncs (s : State) (v : PkgSt) : (s.withPkg v).syncs = s.syncs := rfl
@[simp] theorem State.withPkg_efn (s : State) (v : PkgSt) : (s.withPkg v).efn = s.efn := rfl
@[simp] theorem State.withPkg_boot (s : State) (v : PkgSt) : (s.withPkg v).boot = s.boot := rfl
@[simp] theorem State.withPkg_pkg (s : State) (v : PkgSt) : (s.withPkg v).pkg = v := rfl
@[simp] theorem State.withPkg_srv (s : State) (v : PkgSt) : (s.withPkg v).srv = s.srv := rfl
@[simp] theorem State.withPkg_glare (s : State) (v : PkgSt) : (s.withPkg v).glare = s.glare := rfl
@[simp] theorem State.withPkg_trust (s : State) (v : PkgSt) : (s.withPkg v).trust = s.trust := rfl
@[simp] theorem State.withPkg_ptp (s : State) (v : PkgSt) : (s.withPkg v).ptp = s.ptp := rfl
@[simp] theorem State.withPkg_pwr (s : State) (v : PkgSt) : (s.withPkg v).pwr = s.pwr := rfl
@[simp] theorem State.withPkg_fused (s : State) (v : PkgSt) : (s.withPkg v).fused = s.fused := rfl
@[simp] theorem State.withPkg_timerIrq (s : State) (v : PkgSt) : (s.withPkg v).timerIrq = s.timerIrq := rfl
@[simp] theorem State.withPkg_engines (s : State) (v : PkgSt) : (s.withPkg v).engines = s.engines := rfl
@[simp] theorem State.withPkg_free (s : State) (v : PkgSt) : (s.withPkg v).free = s.free := rfl
@[simp] theorem State.withSrv_pending (s : State) (v : SrvSt) : (s.withSrv v).pending = s.pending := rfl
@[simp] theorem State.withSrv_reply (s : State) (v : SrvSt) : (s.withSrv v).reply = s.reply := rfl
@[simp] theorem State.withSrv_mem (s : State) (v : SrvSt) : (s.withSrv v).mem = s.mem := rfl
@[simp] theorem State.withSrv_bad (s : State) (v : SrvSt) : (s.withSrv v).bad = s.bad := rfl
@[simp] theorem State.withSrv_regs (s : State) (v : SrvSt) : (s.withSrv v).regs = s.regs := rfl
@[simp] theorem State.withSrv_tiles (s : State) (v : SrvSt) : (s.withSrv v).tiles = s.tiles := rfl
@[simp] theorem State.withSrv_secs (s : State) (v : SrvSt) : (s.withSrv v).secs = s.secs := rfl
@[simp] theorem State.withSrv_cmdqs (s : State) (v : SrvSt) : (s.withSrv v).cmdqs = s.cmdqs := rfl
@[simp] theorem State.withSrv_prism (s : State) (v : SrvSt) : (s.withSrv v).prism = s.prism := rfl
@[simp] theorem State.withSrv_tint (s : State) (v : SrvSt) : (s.withSrv v).tint = s.tint := rfl
@[simp] theorem State.withSrv_done (s : State) (v : SrvSt) : (s.withSrv v).done = s.done := rfl
@[simp] theorem State.withSrv_doneSerial (s : State) (v : SrvSt) : (s.withSrv v).doneSerial = s.doneSerial := rfl
@[simp] theorem State.withSrv_net (s : State) (v : SrvSt) : (s.withSrv v).net = s.net := rfl
@[simp] theorem State.withSrv_flight (s : State) (v : SrvSt) : (s.withSrv v).flight = s.flight := rfl
@[simp] theorem State.withSrv_credits (s : State) (v : SrvSt) : (s.withSrv v).credits = s.credits := rfl
@[simp] theorem State.withSrv_lastEpoch (s : State) (v : SrvSt) : (s.withSrv v).lastEpoch = s.lastEpoch := rfl
@[simp] theorem State.withSrv_time (s : State) (v : SrvSt) : (s.withSrv v).time = s.time := rfl
@[simp] theorem State.withSrv_logs (s : State) (v : SrvSt) : (s.withSrv v).logs = s.logs := rfl
@[simp] theorem State.withSrv_chipInForce (s : State) (v : SrvSt) : (s.withSrv v).chipInForce = s.chipInForce := rfl
@[simp] theorem State.withSrv_syncs (s : State) (v : SrvSt) : (s.withSrv v).syncs = s.syncs := rfl
@[simp] theorem State.withSrv_efn (s : State) (v : SrvSt) : (s.withSrv v).efn = s.efn := rfl
@[simp] theorem State.withSrv_boot (s : State) (v : SrvSt) : (s.withSrv v).boot = s.boot := rfl
@[simp] theorem State.withSrv_pkg (s : State) (v : SrvSt) : (s.withSrv v).pkg = s.pkg := rfl
@[simp] theorem State.withSrv_srv (s : State) (v : SrvSt) : (s.withSrv v).srv = v := rfl
@[simp] theorem State.withSrv_glare (s : State) (v : SrvSt) : (s.withSrv v).glare = s.glare := rfl
@[simp] theorem State.withSrv_trust (s : State) (v : SrvSt) : (s.withSrv v).trust = s.trust := rfl
@[simp] theorem State.withSrv_ptp (s : State) (v : SrvSt) : (s.withSrv v).ptp = s.ptp := rfl
@[simp] theorem State.withSrv_pwr (s : State) (v : SrvSt) : (s.withSrv v).pwr = s.pwr := rfl
@[simp] theorem State.withSrv_fused (s : State) (v : SrvSt) : (s.withSrv v).fused = s.fused := rfl
@[simp] theorem State.withSrv_timerIrq (s : State) (v : SrvSt) : (s.withSrv v).timerIrq = s.timerIrq := rfl
@[simp] theorem State.withSrv_engines (s : State) (v : SrvSt) : (s.withSrv v).engines = s.engines := rfl
@[simp] theorem State.withSrv_free (s : State) (v : SrvSt) : (s.withSrv v).free = s.free := rfl
@[simp] theorem State.withGlare_pending (s : State) (v : GlareSt) : (s.withGlare v).pending = s.pending := rfl
@[simp] theorem State.withGlare_reply (s : State) (v : GlareSt) : (s.withGlare v).reply = s.reply := rfl
@[simp] theorem State.withGlare_mem (s : State) (v : GlareSt) : (s.withGlare v).mem = s.mem := rfl
@[simp] theorem State.withGlare_bad (s : State) (v : GlareSt) : (s.withGlare v).bad = s.bad := rfl
@[simp] theorem State.withGlare_regs (s : State) (v : GlareSt) : (s.withGlare v).regs = s.regs := rfl
@[simp] theorem State.withGlare_tiles (s : State) (v : GlareSt) : (s.withGlare v).tiles = s.tiles := rfl
@[simp] theorem State.withGlare_secs (s : State) (v : GlareSt) : (s.withGlare v).secs = s.secs := rfl
@[simp] theorem State.withGlare_cmdqs (s : State) (v : GlareSt) : (s.withGlare v).cmdqs = s.cmdqs := rfl
@[simp] theorem State.withGlare_prism (s : State) (v : GlareSt) : (s.withGlare v).prism = s.prism := rfl
@[simp] theorem State.withGlare_tint (s : State) (v : GlareSt) : (s.withGlare v).tint = s.tint := rfl
@[simp] theorem State.withGlare_done (s : State) (v : GlareSt) : (s.withGlare v).done = s.done := rfl
@[simp] theorem State.withGlare_doneSerial (s : State) (v : GlareSt) : (s.withGlare v).doneSerial = s.doneSerial := rfl
@[simp] theorem State.withGlare_net (s : State) (v : GlareSt) : (s.withGlare v).net = s.net := rfl
@[simp] theorem State.withGlare_flight (s : State) (v : GlareSt) : (s.withGlare v).flight = s.flight := rfl
@[simp] theorem State.withGlare_credits (s : State) (v : GlareSt) : (s.withGlare v).credits = s.credits := rfl
@[simp] theorem State.withGlare_lastEpoch (s : State) (v : GlareSt) : (s.withGlare v).lastEpoch = s.lastEpoch := rfl
@[simp] theorem State.withGlare_time (s : State) (v : GlareSt) : (s.withGlare v).time = s.time := rfl
@[simp] theorem State.withGlare_logs (s : State) (v : GlareSt) : (s.withGlare v).logs = s.logs := rfl
@[simp] theorem State.withGlare_chipInForce (s : State) (v : GlareSt) : (s.withGlare v).chipInForce = s.chipInForce := rfl
@[simp] theorem State.withGlare_syncs (s : State) (v : GlareSt) : (s.withGlare v).syncs = s.syncs := rfl
@[simp] theorem State.withGlare_efn (s : State) (v : GlareSt) : (s.withGlare v).efn = s.efn := rfl
@[simp] theorem State.withGlare_boot (s : State) (v : GlareSt) : (s.withGlare v).boot = s.boot := rfl
@[simp] theorem State.withGlare_pkg (s : State) (v : GlareSt) : (s.withGlare v).pkg = s.pkg := rfl
@[simp] theorem State.withGlare_srv (s : State) (v : GlareSt) : (s.withGlare v).srv = s.srv := rfl
@[simp] theorem State.withGlare_glare (s : State) (v : GlareSt) : (s.withGlare v).glare = v := rfl
@[simp] theorem State.withGlare_trust (s : State) (v : GlareSt) : (s.withGlare v).trust = s.trust := rfl
@[simp] theorem State.withGlare_ptp (s : State) (v : GlareSt) : (s.withGlare v).ptp = s.ptp := rfl
@[simp] theorem State.withGlare_pwr (s : State) (v : GlareSt) : (s.withGlare v).pwr = s.pwr := rfl
@[simp] theorem State.withGlare_fused (s : State) (v : GlareSt) : (s.withGlare v).fused = s.fused := rfl
@[simp] theorem State.withGlare_timerIrq (s : State) (v : GlareSt) : (s.withGlare v).timerIrq = s.timerIrq := rfl
@[simp] theorem State.withGlare_engines (s : State) (v : GlareSt) : (s.withGlare v).engines = s.engines := rfl
@[simp] theorem State.withGlare_free (s : State) (v : GlareSt) : (s.withGlare v).free = s.free := rfl
@[simp] theorem State.withTrust_pending (s : State) (v : TrustSt) : (s.withTrust v).pending = s.pending := rfl
@[simp] theorem State.withTrust_reply (s : State) (v : TrustSt) : (s.withTrust v).reply = s.reply := rfl
@[simp] theorem State.withTrust_mem (s : State) (v : TrustSt) : (s.withTrust v).mem = s.mem := rfl
@[simp] theorem State.withTrust_bad (s : State) (v : TrustSt) : (s.withTrust v).bad = s.bad := rfl
@[simp] theorem State.withTrust_regs (s : State) (v : TrustSt) : (s.withTrust v).regs = s.regs := rfl
@[simp] theorem State.withTrust_tiles (s : State) (v : TrustSt) : (s.withTrust v).tiles = s.tiles := rfl
@[simp] theorem State.withTrust_secs (s : State) (v : TrustSt) : (s.withTrust v).secs = s.secs := rfl
@[simp] theorem State.withTrust_cmdqs (s : State) (v : TrustSt) : (s.withTrust v).cmdqs = s.cmdqs := rfl
@[simp] theorem State.withTrust_prism (s : State) (v : TrustSt) : (s.withTrust v).prism = s.prism := rfl
@[simp] theorem State.withTrust_tint (s : State) (v : TrustSt) : (s.withTrust v).tint = s.tint := rfl
@[simp] theorem State.withTrust_done (s : State) (v : TrustSt) : (s.withTrust v).done = s.done := rfl
@[simp] theorem State.withTrust_doneSerial (s : State) (v : TrustSt) : (s.withTrust v).doneSerial = s.doneSerial := rfl
@[simp] theorem State.withTrust_net (s : State) (v : TrustSt) : (s.withTrust v).net = s.net := rfl
@[simp] theorem State.withTrust_flight (s : State) (v : TrustSt) : (s.withTrust v).flight = s.flight := rfl
@[simp] theorem State.withTrust_credits (s : State) (v : TrustSt) : (s.withTrust v).credits = s.credits := rfl
@[simp] theorem State.withTrust_lastEpoch (s : State) (v : TrustSt) : (s.withTrust v).lastEpoch = s.lastEpoch := rfl
@[simp] theorem State.withTrust_time (s : State) (v : TrustSt) : (s.withTrust v).time = s.time := rfl
@[simp] theorem State.withTrust_logs (s : State) (v : TrustSt) : (s.withTrust v).logs = s.logs := rfl
@[simp] theorem State.withTrust_chipInForce (s : State) (v : TrustSt) : (s.withTrust v).chipInForce = s.chipInForce := rfl
@[simp] theorem State.withTrust_syncs (s : State) (v : TrustSt) : (s.withTrust v).syncs = s.syncs := rfl
@[simp] theorem State.withTrust_efn (s : State) (v : TrustSt) : (s.withTrust v).efn = s.efn := rfl
@[simp] theorem State.withTrust_boot (s : State) (v : TrustSt) : (s.withTrust v).boot = s.boot := rfl
@[simp] theorem State.withTrust_pkg (s : State) (v : TrustSt) : (s.withTrust v).pkg = s.pkg := rfl
@[simp] theorem State.withTrust_srv (s : State) (v : TrustSt) : (s.withTrust v).srv = s.srv := rfl
@[simp] theorem State.withTrust_glare (s : State) (v : TrustSt) : (s.withTrust v).glare = s.glare := rfl
@[simp] theorem State.withTrust_trust (s : State) (v : TrustSt) : (s.withTrust v).trust = v := rfl
@[simp] theorem State.withTrust_ptp (s : State) (v : TrustSt) : (s.withTrust v).ptp = s.ptp := rfl
@[simp] theorem State.withTrust_pwr (s : State) (v : TrustSt) : (s.withTrust v).pwr = s.pwr := rfl
@[simp] theorem State.withTrust_fused (s : State) (v : TrustSt) : (s.withTrust v).fused = s.fused := rfl
@[simp] theorem State.withTrust_timerIrq (s : State) (v : TrustSt) : (s.withTrust v).timerIrq = s.timerIrq := rfl
@[simp] theorem State.withTrust_engines (s : State) (v : TrustSt) : (s.withTrust v).engines = s.engines := rfl
@[simp] theorem State.withTrust_free (s : State) (v : TrustSt) : (s.withTrust v).free = s.free := rfl
@[simp] theorem State.withPtp_pending (s : State) (v : PtpSt) : (s.withPtp v).pending = s.pending := rfl
@[simp] theorem State.withPtp_reply (s : State) (v : PtpSt) : (s.withPtp v).reply = s.reply := rfl
@[simp] theorem State.withPtp_mem (s : State) (v : PtpSt) : (s.withPtp v).mem = s.mem := rfl
@[simp] theorem State.withPtp_bad (s : State) (v : PtpSt) : (s.withPtp v).bad = s.bad := rfl
@[simp] theorem State.withPtp_regs (s : State) (v : PtpSt) : (s.withPtp v).regs = s.regs := rfl
@[simp] theorem State.withPtp_tiles (s : State) (v : PtpSt) : (s.withPtp v).tiles = s.tiles := rfl
@[simp] theorem State.withPtp_secs (s : State) (v : PtpSt) : (s.withPtp v).secs = s.secs := rfl
@[simp] theorem State.withPtp_cmdqs (s : State) (v : PtpSt) : (s.withPtp v).cmdqs = s.cmdqs := rfl
@[simp] theorem State.withPtp_prism (s : State) (v : PtpSt) : (s.withPtp v).prism = s.prism := rfl
@[simp] theorem State.withPtp_tint (s : State) (v : PtpSt) : (s.withPtp v).tint = s.tint := rfl
@[simp] theorem State.withPtp_done (s : State) (v : PtpSt) : (s.withPtp v).done = s.done := rfl
@[simp] theorem State.withPtp_doneSerial (s : State) (v : PtpSt) : (s.withPtp v).doneSerial = s.doneSerial := rfl
@[simp] theorem State.withPtp_net (s : State) (v : PtpSt) : (s.withPtp v).net = s.net := rfl
@[simp] theorem State.withPtp_flight (s : State) (v : PtpSt) : (s.withPtp v).flight = s.flight := rfl
@[simp] theorem State.withPtp_credits (s : State) (v : PtpSt) : (s.withPtp v).credits = s.credits := rfl
@[simp] theorem State.withPtp_lastEpoch (s : State) (v : PtpSt) : (s.withPtp v).lastEpoch = s.lastEpoch := rfl
@[simp] theorem State.withPtp_time (s : State) (v : PtpSt) : (s.withPtp v).time = s.time := rfl
@[simp] theorem State.withPtp_logs (s : State) (v : PtpSt) : (s.withPtp v).logs = s.logs := rfl
@[simp] theorem State.withPtp_chipInForce (s : State) (v : PtpSt) : (s.withPtp v).chipInForce = s.chipInForce := rfl
@[simp] theorem State.withPtp_syncs (s : State) (v : PtpSt) : (s.withPtp v).syncs = s.syncs := rfl
@[simp] theorem State.withPtp_efn (s : State) (v : PtpSt) : (s.withPtp v).efn = s.efn := rfl
@[simp] theorem State.withPtp_boot (s : State) (v : PtpSt) : (s.withPtp v).boot = s.boot := rfl
@[simp] theorem State.withPtp_pkg (s : State) (v : PtpSt) : (s.withPtp v).pkg = s.pkg := rfl
@[simp] theorem State.withPtp_srv (s : State) (v : PtpSt) : (s.withPtp v).srv = s.srv := rfl
@[simp] theorem State.withPtp_glare (s : State) (v : PtpSt) : (s.withPtp v).glare = s.glare := rfl
@[simp] theorem State.withPtp_trust (s : State) (v : PtpSt) : (s.withPtp v).trust = s.trust := rfl
@[simp] theorem State.withPtp_ptp (s : State) (v : PtpSt) : (s.withPtp v).ptp = v := rfl
@[simp] theorem State.withPtp_pwr (s : State) (v : PtpSt) : (s.withPtp v).pwr = s.pwr := rfl
@[simp] theorem State.withPtp_fused (s : State) (v : PtpSt) : (s.withPtp v).fused = s.fused := rfl
@[simp] theorem State.withPtp_timerIrq (s : State) (v : PtpSt) : (s.withPtp v).timerIrq = s.timerIrq := rfl
@[simp] theorem State.withPtp_engines (s : State) (v : PtpSt) : (s.withPtp v).engines = s.engines := rfl
@[simp] theorem State.withPtp_free (s : State) (v : PtpSt) : (s.withPtp v).free = s.free := rfl
@[simp] theorem State.withPwr_pending (s : State) (v : PwrSt) : (s.withPwr v).pending = s.pending := rfl
@[simp] theorem State.withPwr_reply (s : State) (v : PwrSt) : (s.withPwr v).reply = s.reply := rfl
@[simp] theorem State.withPwr_mem (s : State) (v : PwrSt) : (s.withPwr v).mem = s.mem := rfl
@[simp] theorem State.withPwr_bad (s : State) (v : PwrSt) : (s.withPwr v).bad = s.bad := rfl
@[simp] theorem State.withPwr_regs (s : State) (v : PwrSt) : (s.withPwr v).regs = s.regs := rfl
@[simp] theorem State.withPwr_tiles (s : State) (v : PwrSt) : (s.withPwr v).tiles = s.tiles := rfl
@[simp] theorem State.withPwr_secs (s : State) (v : PwrSt) : (s.withPwr v).secs = s.secs := rfl
@[simp] theorem State.withPwr_cmdqs (s : State) (v : PwrSt) : (s.withPwr v).cmdqs = s.cmdqs := rfl
@[simp] theorem State.withPwr_prism (s : State) (v : PwrSt) : (s.withPwr v).prism = s.prism := rfl
@[simp] theorem State.withPwr_tint (s : State) (v : PwrSt) : (s.withPwr v).tint = s.tint := rfl
@[simp] theorem State.withPwr_done (s : State) (v : PwrSt) : (s.withPwr v).done = s.done := rfl
@[simp] theorem State.withPwr_doneSerial (s : State) (v : PwrSt) : (s.withPwr v).doneSerial = s.doneSerial := rfl
@[simp] theorem State.withPwr_net (s : State) (v : PwrSt) : (s.withPwr v).net = s.net := rfl
@[simp] theorem State.withPwr_flight (s : State) (v : PwrSt) : (s.withPwr v).flight = s.flight := rfl
@[simp] theorem State.withPwr_credits (s : State) (v : PwrSt) : (s.withPwr v).credits = s.credits := rfl
@[simp] theorem State.withPwr_lastEpoch (s : State) (v : PwrSt) : (s.withPwr v).lastEpoch = s.lastEpoch := rfl
@[simp] theorem State.withPwr_time (s : State) (v : PwrSt) : (s.withPwr v).time = s.time := rfl
@[simp] theorem State.withPwr_logs (s : State) (v : PwrSt) : (s.withPwr v).logs = s.logs := rfl
@[simp] theorem State.withPwr_chipInForce (s : State) (v : PwrSt) : (s.withPwr v).chipInForce = s.chipInForce := rfl
@[simp] theorem State.withPwr_syncs (s : State) (v : PwrSt) : (s.withPwr v).syncs = s.syncs := rfl
@[simp] theorem State.withPwr_efn (s : State) (v : PwrSt) : (s.withPwr v).efn = s.efn := rfl
@[simp] theorem State.withPwr_boot (s : State) (v : PwrSt) : (s.withPwr v).boot = s.boot := rfl
@[simp] theorem State.withPwr_pkg (s : State) (v : PwrSt) : (s.withPwr v).pkg = s.pkg := rfl
@[simp] theorem State.withPwr_srv (s : State) (v : PwrSt) : (s.withPwr v).srv = s.srv := rfl
@[simp] theorem State.withPwr_glare (s : State) (v : PwrSt) : (s.withPwr v).glare = s.glare := rfl
@[simp] theorem State.withPwr_trust (s : State) (v : PwrSt) : (s.withPwr v).trust = s.trust := rfl
@[simp] theorem State.withPwr_ptp (s : State) (v : PwrSt) : (s.withPwr v).ptp = s.ptp := rfl
@[simp] theorem State.withPwr_pwr (s : State) (v : PwrSt) : (s.withPwr v).pwr = v := rfl
@[simp] theorem State.withPwr_fused (s : State) (v : PwrSt) : (s.withPwr v).fused = s.fused := rfl
@[simp] theorem State.withPwr_timerIrq (s : State) (v : PwrSt) : (s.withPwr v).timerIrq = s.timerIrq := rfl
@[simp] theorem State.withPwr_engines (s : State) (v : PwrSt) : (s.withPwr v).engines = s.engines := rfl
@[simp] theorem State.withPwr_free (s : State) (v : PwrSt) : (s.withPwr v).free = s.free := rfl
@[simp] theorem State.withFused_pending (s : State) (v : List Nat) : (s.withFused v).pending = s.pending := rfl
@[simp] theorem State.withFused_reply (s : State) (v : List Nat) : (s.withFused v).reply = s.reply := rfl
@[simp] theorem State.withFused_mem (s : State) (v : List Nat) : (s.withFused v).mem = s.mem := rfl
@[simp] theorem State.withFused_bad (s : State) (v : List Nat) : (s.withFused v).bad = s.bad := rfl
@[simp] theorem State.withFused_regs (s : State) (v : List Nat) : (s.withFused v).regs = s.regs := rfl
@[simp] theorem State.withFused_tiles (s : State) (v : List Nat) : (s.withFused v).tiles = s.tiles := rfl
@[simp] theorem State.withFused_secs (s : State) (v : List Nat) : (s.withFused v).secs = s.secs := rfl
@[simp] theorem State.withFused_cmdqs (s : State) (v : List Nat) : (s.withFused v).cmdqs = s.cmdqs := rfl
@[simp] theorem State.withFused_prism (s : State) (v : List Nat) : (s.withFused v).prism = s.prism := rfl
@[simp] theorem State.withFused_tint (s : State) (v : List Nat) : (s.withFused v).tint = s.tint := rfl
@[simp] theorem State.withFused_done (s : State) (v : List Nat) : (s.withFused v).done = s.done := rfl
@[simp] theorem State.withFused_doneSerial (s : State) (v : List Nat) : (s.withFused v).doneSerial = s.doneSerial := rfl
@[simp] theorem State.withFused_net (s : State) (v : List Nat) : (s.withFused v).net = s.net := rfl
@[simp] theorem State.withFused_flight (s : State) (v : List Nat) : (s.withFused v).flight = s.flight := rfl
@[simp] theorem State.withFused_credits (s : State) (v : List Nat) : (s.withFused v).credits = s.credits := rfl
@[simp] theorem State.withFused_lastEpoch (s : State) (v : List Nat) : (s.withFused v).lastEpoch = s.lastEpoch := rfl
@[simp] theorem State.withFused_time (s : State) (v : List Nat) : (s.withFused v).time = s.time := rfl
@[simp] theorem State.withFused_logs (s : State) (v : List Nat) : (s.withFused v).logs = s.logs := rfl
@[simp] theorem State.withFused_chipInForce (s : State) (v : List Nat) : (s.withFused v).chipInForce = s.chipInForce := rfl
@[simp] theorem State.withFused_syncs (s : State) (v : List Nat) : (s.withFused v).syncs = s.syncs := rfl
@[simp] theorem State.withFused_efn (s : State) (v : List Nat) : (s.withFused v).efn = s.efn := rfl
@[simp] theorem State.withFused_boot (s : State) (v : List Nat) : (s.withFused v).boot = s.boot := rfl
@[simp] theorem State.withFused_pkg (s : State) (v : List Nat) : (s.withFused v).pkg = s.pkg := rfl
@[simp] theorem State.withFused_srv (s : State) (v : List Nat) : (s.withFused v).srv = s.srv := rfl
@[simp] theorem State.withFused_glare (s : State) (v : List Nat) : (s.withFused v).glare = s.glare := rfl
@[simp] theorem State.withFused_trust (s : State) (v : List Nat) : (s.withFused v).trust = s.trust := rfl
@[simp] theorem State.withFused_ptp (s : State) (v : List Nat) : (s.withFused v).ptp = s.ptp := rfl
@[simp] theorem State.withFused_pwr (s : State) (v : List Nat) : (s.withFused v).pwr = s.pwr := rfl
@[simp] theorem State.withFused_fused (s : State) (v : List Nat) : (s.withFused v).fused = v := rfl
@[simp] theorem State.withFused_timerIrq (s : State) (v : List Nat) : (s.withFused v).timerIrq = s.timerIrq := rfl
@[simp] theorem State.withFused_engines (s : State) (v : List Nat) : (s.withFused v).engines = s.engines := rfl
@[simp] theorem State.withFused_free (s : State) (v : List Nat) : (s.withFused v).free = s.free := rfl
@[simp] theorem State.withTimerIrq_pending (s : State) (v : List Nat) : (s.withTimerIrq v).pending = s.pending := rfl
@[simp] theorem State.withTimerIrq_reply (s : State) (v : List Nat) : (s.withTimerIrq v).reply = s.reply := rfl
@[simp] theorem State.withTimerIrq_mem (s : State) (v : List Nat) : (s.withTimerIrq v).mem = s.mem := rfl
@[simp] theorem State.withTimerIrq_bad (s : State) (v : List Nat) : (s.withTimerIrq v).bad = s.bad := rfl
@[simp] theorem State.withTimerIrq_regs (s : State) (v : List Nat) : (s.withTimerIrq v).regs = s.regs := rfl
@[simp] theorem State.withTimerIrq_tiles (s : State) (v : List Nat) : (s.withTimerIrq v).tiles = s.tiles := rfl
@[simp] theorem State.withTimerIrq_secs (s : State) (v : List Nat) : (s.withTimerIrq v).secs = s.secs := rfl
@[simp] theorem State.withTimerIrq_cmdqs (s : State) (v : List Nat) : (s.withTimerIrq v).cmdqs = s.cmdqs := rfl
@[simp] theorem State.withTimerIrq_prism (s : State) (v : List Nat) : (s.withTimerIrq v).prism = s.prism := rfl
@[simp] theorem State.withTimerIrq_tint (s : State) (v : List Nat) : (s.withTimerIrq v).tint = s.tint := rfl
@[simp] theorem State.withTimerIrq_done (s : State) (v : List Nat) : (s.withTimerIrq v).done = s.done := rfl
@[simp] theorem State.withTimerIrq_doneSerial (s : State) (v : List Nat) : (s.withTimerIrq v).doneSerial = s.doneSerial := rfl
@[simp] theorem State.withTimerIrq_net (s : State) (v : List Nat) : (s.withTimerIrq v).net = s.net := rfl
@[simp] theorem State.withTimerIrq_flight (s : State) (v : List Nat) : (s.withTimerIrq v).flight = s.flight := rfl
@[simp] theorem State.withTimerIrq_credits (s : State) (v : List Nat) : (s.withTimerIrq v).credits = s.credits := rfl
@[simp] theorem State.withTimerIrq_lastEpoch (s : State) (v : List Nat) : (s.withTimerIrq v).lastEpoch = s.lastEpoch := rfl
@[simp] theorem State.withTimerIrq_time (s : State) (v : List Nat) : (s.withTimerIrq v).time = s.time := rfl
@[simp] theorem State.withTimerIrq_logs (s : State) (v : List Nat) : (s.withTimerIrq v).logs = s.logs := rfl
@[simp] theorem State.withTimerIrq_chipInForce (s : State) (v : List Nat) : (s.withTimerIrq v).chipInForce = s.chipInForce := rfl
@[simp] theorem State.withTimerIrq_syncs (s : State) (v : List Nat) : (s.withTimerIrq v).syncs = s.syncs := rfl
@[simp] theorem State.withTimerIrq_efn (s : State) (v : List Nat) : (s.withTimerIrq v).efn = s.efn := rfl
@[simp] theorem State.withTimerIrq_boot (s : State) (v : List Nat) : (s.withTimerIrq v).boot = s.boot := rfl
@[simp] theorem State.withTimerIrq_pkg (s : State) (v : List Nat) : (s.withTimerIrq v).pkg = s.pkg := rfl
@[simp] theorem State.withTimerIrq_srv (s : State) (v : List Nat) : (s.withTimerIrq v).srv = s.srv := rfl
@[simp] theorem State.withTimerIrq_glare (s : State) (v : List Nat) : (s.withTimerIrq v).glare = s.glare := rfl
@[simp] theorem State.withTimerIrq_trust (s : State) (v : List Nat) : (s.withTimerIrq v).trust = s.trust := rfl
@[simp] theorem State.withTimerIrq_ptp (s : State) (v : List Nat) : (s.withTimerIrq v).ptp = s.ptp := rfl
@[simp] theorem State.withTimerIrq_pwr (s : State) (v : List Nat) : (s.withTimerIrq v).pwr = s.pwr := rfl
@[simp] theorem State.withTimerIrq_fused (s : State) (v : List Nat) : (s.withTimerIrq v).fused = s.fused := rfl
@[simp] theorem State.withTimerIrq_timerIrq (s : State) (v : List Nat) : (s.withTimerIrq v).timerIrq = v := rfl
@[simp] theorem State.withTimerIrq_engines (s : State) (v : List Nat) : (s.withTimerIrq v).engines = s.engines := rfl
@[simp] theorem State.withTimerIrq_free (s : State) (v : List Nat) : (s.withTimerIrq v).free = s.free := rfl
@[simp] theorem State.withEngines_pending (s : State) (v : List (Nat × Nat)) : (s.withEngines v).pending = s.pending := rfl
@[simp] theorem State.withEngines_reply (s : State) (v : List (Nat × Nat)) : (s.withEngines v).reply = s.reply := rfl
@[simp] theorem State.withEngines_mem (s : State) (v : List (Nat × Nat)) : (s.withEngines v).mem = s.mem := rfl
@[simp] theorem State.withEngines_bad (s : State) (v : List (Nat × Nat)) : (s.withEngines v).bad = s.bad := rfl
@[simp] theorem State.withEngines_regs (s : State) (v : List (Nat × Nat)) : (s.withEngines v).regs = s.regs := rfl
@[simp] theorem State.withEngines_tiles (s : State) (v : List (Nat × Nat)) : (s.withEngines v).tiles = s.tiles := rfl
@[simp] theorem State.withEngines_secs (s : State) (v : List (Nat × Nat)) : (s.withEngines v).secs = s.secs := rfl
@[simp] theorem State.withEngines_cmdqs (s : State) (v : List (Nat × Nat)) : (s.withEngines v).cmdqs = s.cmdqs := rfl
@[simp] theorem State.withEngines_prism (s : State) (v : List (Nat × Nat)) : (s.withEngines v).prism = s.prism := rfl
@[simp] theorem State.withEngines_tint (s : State) (v : List (Nat × Nat)) : (s.withEngines v).tint = s.tint := rfl
@[simp] theorem State.withEngines_done (s : State) (v : List (Nat × Nat)) : (s.withEngines v).done = s.done := rfl
@[simp] theorem State.withEngines_doneSerial (s : State) (v : List (Nat × Nat)) : (s.withEngines v).doneSerial = s.doneSerial := rfl
@[simp] theorem State.withEngines_net (s : State) (v : List (Nat × Nat)) : (s.withEngines v).net = s.net := rfl
@[simp] theorem State.withEngines_flight (s : State) (v : List (Nat × Nat)) : (s.withEngines v).flight = s.flight := rfl
@[simp] theorem State.withEngines_credits (s : State) (v : List (Nat × Nat)) : (s.withEngines v).credits = s.credits := rfl
@[simp] theorem State.withEngines_lastEpoch (s : State) (v : List (Nat × Nat)) : (s.withEngines v).lastEpoch = s.lastEpoch := rfl
@[simp] theorem State.withEngines_time (s : State) (v : List (Nat × Nat)) : (s.withEngines v).time = s.time := rfl
@[simp] theorem State.withEngines_logs (s : State) (v : List (Nat × Nat)) : (s.withEngines v).logs = s.logs := rfl
@[simp] theorem State.withEngines_chipInForce (s : State) (v : List (Nat × Nat)) : (s.withEngines v).chipInForce = s.chipInForce := rfl
@[simp] theorem State.withEngines_syncs (s : State) (v : List (Nat × Nat)) : (s.withEngines v).syncs = s.syncs := rfl
@[simp] theorem State.withEngines_efn (s : State) (v : List (Nat × Nat)) : (s.withEngines v).efn = s.efn := rfl
@[simp] theorem State.withEngines_boot (s : State) (v : List (Nat × Nat)) : (s.withEngines v).boot = s.boot := rfl
@[simp] theorem State.withEngines_pkg (s : State) (v : List (Nat × Nat)) : (s.withEngines v).pkg = s.pkg := rfl
@[simp] theorem State.withEngines_srv (s : State) (v : List (Nat × Nat)) : (s.withEngines v).srv = s.srv := rfl
@[simp] theorem State.withEngines_glare (s : State) (v : List (Nat × Nat)) : (s.withEngines v).glare = s.glare := rfl
@[simp] theorem State.withEngines_trust (s : State) (v : List (Nat × Nat)) : (s.withEngines v).trust = s.trust := rfl
@[simp] theorem State.withEngines_ptp (s : State) (v : List (Nat × Nat)) : (s.withEngines v).ptp = s.ptp := rfl
@[simp] theorem State.withEngines_pwr (s : State) (v : List (Nat × Nat)) : (s.withEngines v).pwr = s.pwr := rfl
@[simp] theorem State.withEngines_fused (s : State) (v : List (Nat × Nat)) : (s.withEngines v).fused = s.fused := rfl
@[simp] theorem State.withEngines_timerIrq (s : State) (v : List (Nat × Nat)) : (s.withEngines v).timerIrq = s.timerIrq := rfl
@[simp] theorem State.withEngines_engines (s : State) (v : List (Nat × Nat)) : (s.withEngines v).engines = v := rfl
@[simp] theorem State.withEngines_free (s : State) (v : List (Nat × Nat)) : (s.withEngines v).free = s.free := rfl
@[simp] theorem State.withFree_pending (s : State) (v : Nat) : (s.withFree v).pending = s.pending := rfl
@[simp] theorem State.withFree_reply (s : State) (v : Nat) : (s.withFree v).reply = s.reply := rfl
@[simp] theorem State.withFree_mem (s : State) (v : Nat) : (s.withFree v).mem = s.mem := rfl
@[simp] theorem State.withFree_bad (s : State) (v : Nat) : (s.withFree v).bad = s.bad := rfl
@[simp] theorem State.withFree_regs (s : State) (v : Nat) : (s.withFree v).regs = s.regs := rfl
@[simp] theorem State.withFree_tiles (s : State) (v : Nat) : (s.withFree v).tiles = s.tiles := rfl
@[simp] theorem State.withFree_secs (s : State) (v : Nat) : (s.withFree v).secs = s.secs := rfl
@[simp] theorem State.withFree_cmdqs (s : State) (v : Nat) : (s.withFree v).cmdqs = s.cmdqs := rfl
@[simp] theorem State.withFree_prism (s : State) (v : Nat) : (s.withFree v).prism = s.prism := rfl
@[simp] theorem State.withFree_tint (s : State) (v : Nat) : (s.withFree v).tint = s.tint := rfl
@[simp] theorem State.withFree_done (s : State) (v : Nat) : (s.withFree v).done = s.done := rfl
@[simp] theorem State.withFree_doneSerial (s : State) (v : Nat) : (s.withFree v).doneSerial = s.doneSerial := rfl
@[simp] theorem State.withFree_net (s : State) (v : Nat) : (s.withFree v).net = s.net := rfl
@[simp] theorem State.withFree_flight (s : State) (v : Nat) : (s.withFree v).flight = s.flight := rfl
@[simp] theorem State.withFree_credits (s : State) (v : Nat) : (s.withFree v).credits = s.credits := rfl
@[simp] theorem State.withFree_lastEpoch (s : State) (v : Nat) : (s.withFree v).lastEpoch = s.lastEpoch := rfl
@[simp] theorem State.withFree_time (s : State) (v : Nat) : (s.withFree v).time = s.time := rfl
@[simp] theorem State.withFree_logs (s : State) (v : Nat) : (s.withFree v).logs = s.logs := rfl
@[simp] theorem State.withFree_chipInForce (s : State) (v : Nat) : (s.withFree v).chipInForce = s.chipInForce := rfl
@[simp] theorem State.withFree_syncs (s : State) (v : Nat) : (s.withFree v).syncs = s.syncs := rfl
@[simp] theorem State.withFree_efn (s : State) (v : Nat) : (s.withFree v).efn = s.efn := rfl
@[simp] theorem State.withFree_boot (s : State) (v : Nat) : (s.withFree v).boot = s.boot := rfl
@[simp] theorem State.withFree_pkg (s : State) (v : Nat) : (s.withFree v).pkg = s.pkg := rfl
@[simp] theorem State.withFree_srv (s : State) (v : Nat) : (s.withFree v).srv = s.srv := rfl
@[simp] theorem State.withFree_glare (s : State) (v : Nat) : (s.withFree v).glare = s.glare := rfl
@[simp] theorem State.withFree_trust (s : State) (v : Nat) : (s.withFree v).trust = s.trust := rfl
@[simp] theorem State.withFree_ptp (s : State) (v : Nat) : (s.withFree v).ptp = s.ptp := rfl
@[simp] theorem State.withFree_pwr (s : State) (v : Nat) : (s.withFree v).pwr = s.pwr := rfl
@[simp] theorem State.withFree_fused (s : State) (v : Nat) : (s.withFree v).fused = s.fused := rfl
@[simp] theorem State.withFree_timerIrq (s : State) (v : Nat) : (s.withFree v).timerIrq = s.timerIrq := rfl
@[simp] theorem State.withFree_engines (s : State) (v : Nat) : (s.withFree v).engines = s.engines := rfl
@[simp] theorem State.withFree_free (s : State) (v : Nat) : (s.withFree v).free = v := rfl

/-! ## The named operations that update one field -/

@[simp] theorem State.setReg_pending (s : State) (o : Nat) (v : W64) : (s.setReg o v).pending = s.pending := rfl
@[simp] theorem State.setReg_reply (s : State) (o : Nat) (v : W64) : (s.setReg o v).reply = s.reply := rfl
@[simp] theorem State.setReg_mem (s : State) (o : Nat) (v : W64) : (s.setReg o v).mem = s.mem := rfl
@[simp] theorem State.setReg_bad (s : State) (o : Nat) (v : W64) : (s.setReg o v).bad = s.bad := rfl
@[simp] theorem State.setReg_tiles (s : State) (o : Nat) (v : W64) : (s.setReg o v).tiles = s.tiles := rfl
@[simp] theorem State.setReg_secs (s : State) (o : Nat) (v : W64) : (s.setReg o v).secs = s.secs := rfl
@[simp] theorem State.setReg_cmdqs (s : State) (o : Nat) (v : W64) : (s.setReg o v).cmdqs = s.cmdqs := rfl
@[simp] theorem State.setReg_prism (s : State) (o : Nat) (v : W64) : (s.setReg o v).prism = s.prism := rfl
@[simp] theorem State.setReg_tint (s : State) (o : Nat) (v : W64) : (s.setReg o v).tint = s.tint := rfl
@[simp] theorem State.setReg_done (s : State) (o : Nat) (v : W64) : (s.setReg o v).done = s.done := rfl
@[simp] theorem State.setReg_doneSerial (s : State) (o : Nat) (v : W64) : (s.setReg o v).doneSerial = s.doneSerial := rfl
@[simp] theorem State.setReg_net (s : State) (o : Nat) (v : W64) : (s.setReg o v).net = s.net := rfl
@[simp] theorem State.setReg_flight (s : State) (o : Nat) (v : W64) : (s.setReg o v).flight = s.flight := rfl
@[simp] theorem State.setReg_credits (s : State) (o : Nat) (v : W64) : (s.setReg o v).credits = s.credits := rfl
@[simp] theorem State.setReg_lastEpoch (s : State) (o : Nat) (v : W64) : (s.setReg o v).lastEpoch = s.lastEpoch := rfl
@[simp] theorem State.setReg_time (s : State) (o : Nat) (v : W64) : (s.setReg o v).time = s.time := rfl
@[simp] theorem State.setReg_logs (s : State) (o : Nat) (v : W64) : (s.setReg o v).logs = s.logs := rfl
@[simp] theorem State.setReg_chipInForce (s : State) (o : Nat) (v : W64) : (s.setReg o v).chipInForce = s.chipInForce := rfl
@[simp] theorem State.setReg_syncs (s : State) (o : Nat) (v : W64) : (s.setReg o v).syncs = s.syncs := rfl
@[simp] theorem State.setReg_efn (s : State) (o : Nat) (v : W64) : (s.setReg o v).efn = s.efn := rfl
@[simp] theorem State.setReg_boot (s : State) (o : Nat) (v : W64) : (s.setReg o v).boot = s.boot := rfl
@[simp] theorem State.setReg_pkg (s : State) (o : Nat) (v : W64) : (s.setReg o v).pkg = s.pkg := rfl
@[simp] theorem State.setReg_srv (s : State) (o : Nat) (v : W64) : (s.setReg o v).srv = s.srv := rfl
@[simp] theorem State.setReg_glare (s : State) (o : Nat) (v : W64) : (s.setReg o v).glare = s.glare := rfl
@[simp] theorem State.setReg_trust (s : State) (o : Nat) (v : W64) : (s.setReg o v).trust = s.trust := rfl
@[simp] theorem State.setReg_ptp (s : State) (o : Nat) (v : W64) : (s.setReg o v).ptp = s.ptp := rfl
@[simp] theorem State.setReg_pwr (s : State) (o : Nat) (v : W64) : (s.setReg o v).pwr = s.pwr := rfl
@[simp] theorem State.setReg_fused (s : State) (o : Nat) (v : W64) : (s.setReg o v).fused = s.fused := rfl
@[simp] theorem State.setReg_timerIrq (s : State) (o : Nat) (v : W64) : (s.setReg o v).timerIrq = s.timerIrq := rfl
@[simp] theorem State.setReg_engines (s : State) (o : Nat) (v : W64) : (s.setReg o v).engines = s.engines := rfl
@[simp] theorem State.setReg_free (s : State) (o : Nat) (v : W64) : (s.setReg o v).free = s.free := rfl
@[simp] theorem State.setRf_pending (s : State) (o hi lo v : Nat) : (s.setRf o hi lo v).pending = s.pending := rfl
@[simp] theorem State.setRf_reply (s : State) (o hi lo v : Nat) : (s.setRf o hi lo v).reply = s.reply := rfl
@[simp] theorem State.setRf_mem (s : State) (o hi lo v : Nat) : (s.setRf o hi lo v).mem = s.mem := rfl
@[simp] theorem State.setRf_bad (s : State) (o hi lo v : Nat) : (s.setRf o hi lo v).bad = s.bad := rfl
@[simp] theorem State.setRf_tiles (s : State) (o hi lo v : Nat) : (s.setRf o hi lo v).tiles = s.tiles := rfl
@[simp] theorem State.setRf_secs (s : State) (o hi lo v : Nat) : (s.setRf o hi lo v).secs = s.secs := rfl
@[simp] theorem State.setRf_cmdqs (s : State) (o hi lo v : Nat) : (s.setRf o hi lo v).cmdqs = s.cmdqs := rfl
@[simp] theorem State.setRf_prism (s : State) (o hi lo v : Nat) : (s.setRf o hi lo v).prism = s.prism := rfl
@[simp] theorem State.setRf_tint (s : State) (o hi lo v : Nat) : (s.setRf o hi lo v).tint = s.tint := rfl
@[simp] theorem State.setRf_done (s : State) (o hi lo v : Nat) : (s.setRf o hi lo v).done = s.done := rfl
@[simp] theorem State.setRf_doneSerial (s : State) (o hi lo v : Nat) : (s.setRf o hi lo v).doneSerial = s.doneSerial := rfl
@[simp] theorem State.setRf_net (s : State) (o hi lo v : Nat) : (s.setRf o hi lo v).net = s.net := rfl
@[simp] theorem State.setRf_flight (s : State) (o hi lo v : Nat) : (s.setRf o hi lo v).flight = s.flight := rfl
@[simp] theorem State.setRf_credits (s : State) (o hi lo v : Nat) : (s.setRf o hi lo v).credits = s.credits := rfl
@[simp] theorem State.setRf_lastEpoch (s : State) (o hi lo v : Nat) : (s.setRf o hi lo v).lastEpoch = s.lastEpoch := rfl
@[simp] theorem State.setRf_time (s : State) (o hi lo v : Nat) : (s.setRf o hi lo v).time = s.time := rfl
@[simp] theorem State.setRf_logs (s : State) (o hi lo v : Nat) : (s.setRf o hi lo v).logs = s.logs := rfl
@[simp] theorem State.setRf_chipInForce (s : State) (o hi lo v : Nat) : (s.setRf o hi lo v).chipInForce = s.chipInForce := rfl
@[simp] theorem State.setRf_syncs (s : State) (o hi lo v : Nat) : (s.setRf o hi lo v).syncs = s.syncs := rfl
@[simp] theorem State.setRf_efn (s : State) (o hi lo v : Nat) : (s.setRf o hi lo v).efn = s.efn := rfl
@[simp] theorem State.setRf_boot (s : State) (o hi lo v : Nat) : (s.setRf o hi lo v).boot = s.boot := rfl
@[simp] theorem State.setRf_pkg (s : State) (o hi lo v : Nat) : (s.setRf o hi lo v).pkg = s.pkg := rfl
@[simp] theorem State.setRf_srv (s : State) (o hi lo v : Nat) : (s.setRf o hi lo v).srv = s.srv := rfl
@[simp] theorem State.setRf_glare (s : State) (o hi lo v : Nat) : (s.setRf o hi lo v).glare = s.glare := rfl
@[simp] theorem State.setRf_trust (s : State) (o hi lo v : Nat) : (s.setRf o hi lo v).trust = s.trust := rfl
@[simp] theorem State.setRf_ptp (s : State) (o hi lo v : Nat) : (s.setRf o hi lo v).ptp = s.ptp := rfl
@[simp] theorem State.setRf_pwr (s : State) (o hi lo v : Nat) : (s.setRf o hi lo v).pwr = s.pwr := rfl
@[simp] theorem State.setRf_fused (s : State) (o hi lo v : Nat) : (s.setRf o hi lo v).fused = s.fused := rfl
@[simp] theorem State.setRf_timerIrq (s : State) (o hi lo v : Nat) : (s.setRf o hi lo v).timerIrq = s.timerIrq := rfl
@[simp] theorem State.setRf_engines (s : State) (o hi lo v : Nat) : (s.setRf o hi lo v).engines = s.engines := rfl
@[simp] theorem State.setRf_free (s : State) (o hi lo v : Nat) : (s.setRf o hi lo v).free = s.free := rfl
@[simp] theorem State.setRb_pending (s : State) (o i : Nat) (b : Bool) : (s.setRb o i b).pending = s.pending := rfl
@[simp] theorem State.setRb_reply (s : State) (o i : Nat) (b : Bool) : (s.setRb o i b).reply = s.reply := rfl
@[simp] theorem State.setRb_mem (s : State) (o i : Nat) (b : Bool) : (s.setRb o i b).mem = s.mem := rfl
@[simp] theorem State.setRb_bad (s : State) (o i : Nat) (b : Bool) : (s.setRb o i b).bad = s.bad := rfl
@[simp] theorem State.setRb_tiles (s : State) (o i : Nat) (b : Bool) : (s.setRb o i b).tiles = s.tiles := rfl
@[simp] theorem State.setRb_secs (s : State) (o i : Nat) (b : Bool) : (s.setRb o i b).secs = s.secs := rfl
@[simp] theorem State.setRb_cmdqs (s : State) (o i : Nat) (b : Bool) : (s.setRb o i b).cmdqs = s.cmdqs := rfl
@[simp] theorem State.setRb_prism (s : State) (o i : Nat) (b : Bool) : (s.setRb o i b).prism = s.prism := rfl
@[simp] theorem State.setRb_tint (s : State) (o i : Nat) (b : Bool) : (s.setRb o i b).tint = s.tint := rfl
@[simp] theorem State.setRb_done (s : State) (o i : Nat) (b : Bool) : (s.setRb o i b).done = s.done := rfl
@[simp] theorem State.setRb_doneSerial (s : State) (o i : Nat) (b : Bool) : (s.setRb o i b).doneSerial = s.doneSerial := rfl
@[simp] theorem State.setRb_net (s : State) (o i : Nat) (b : Bool) : (s.setRb o i b).net = s.net := rfl
@[simp] theorem State.setRb_flight (s : State) (o i : Nat) (b : Bool) : (s.setRb o i b).flight = s.flight := rfl
@[simp] theorem State.setRb_credits (s : State) (o i : Nat) (b : Bool) : (s.setRb o i b).credits = s.credits := rfl
@[simp] theorem State.setRb_lastEpoch (s : State) (o i : Nat) (b : Bool) : (s.setRb o i b).lastEpoch = s.lastEpoch := rfl
@[simp] theorem State.setRb_time (s : State) (o i : Nat) (b : Bool) : (s.setRb o i b).time = s.time := rfl
@[simp] theorem State.setRb_logs (s : State) (o i : Nat) (b : Bool) : (s.setRb o i b).logs = s.logs := rfl
@[simp] theorem State.setRb_chipInForce (s : State) (o i : Nat) (b : Bool) : (s.setRb o i b).chipInForce = s.chipInForce := rfl
@[simp] theorem State.setRb_syncs (s : State) (o i : Nat) (b : Bool) : (s.setRb o i b).syncs = s.syncs := rfl
@[simp] theorem State.setRb_efn (s : State) (o i : Nat) (b : Bool) : (s.setRb o i b).efn = s.efn := rfl
@[simp] theorem State.setRb_boot (s : State) (o i : Nat) (b : Bool) : (s.setRb o i b).boot = s.boot := rfl
@[simp] theorem State.setRb_pkg (s : State) (o i : Nat) (b : Bool) : (s.setRb o i b).pkg = s.pkg := rfl
@[simp] theorem State.setRb_srv (s : State) (o i : Nat) (b : Bool) : (s.setRb o i b).srv = s.srv := rfl
@[simp] theorem State.setRb_glare (s : State) (o i : Nat) (b : Bool) : (s.setRb o i b).glare = s.glare := rfl
@[simp] theorem State.setRb_trust (s : State) (o i : Nat) (b : Bool) : (s.setRb o i b).trust = s.trust := rfl
@[simp] theorem State.setRb_ptp (s : State) (o i : Nat) (b : Bool) : (s.setRb o i b).ptp = s.ptp := rfl
@[simp] theorem State.setRb_pwr (s : State) (o i : Nat) (b : Bool) : (s.setRb o i b).pwr = s.pwr := rfl
@[simp] theorem State.setRb_fused (s : State) (o i : Nat) (b : Bool) : (s.setRb o i b).fused = s.fused := rfl
@[simp] theorem State.setRb_timerIrq (s : State) (o i : Nat) (b : Bool) : (s.setRb o i b).timerIrq = s.timerIrq := rfl
@[simp] theorem State.setRb_engines (s : State) (o i : Nat) (b : Bool) : (s.setRb o i b).engines = s.engines := rfl
@[simp] theorem State.setRb_free (s : State) (o i : Nat) (b : Bool) : (s.setRb o i b).free = s.free := rfl
@[simp] theorem State.count_pending (s : State) (o hi lo n : Nat) : (s.count o hi lo n).pending = s.pending := rfl
@[simp] theorem State.count_reply (s : State) (o hi lo n : Nat) : (s.count o hi lo n).reply = s.reply := rfl
@[simp] theorem State.count_mem (s : State) (o hi lo n : Nat) : (s.count o hi lo n).mem = s.mem := rfl
@[simp] theorem State.count_bad (s : State) (o hi lo n : Nat) : (s.count o hi lo n).bad = s.bad := rfl
@[simp] theorem State.count_tiles (s : State) (o hi lo n : Nat) : (s.count o hi lo n).tiles = s.tiles := rfl
@[simp] theorem State.count_secs (s : State) (o hi lo n : Nat) : (s.count o hi lo n).secs = s.secs := rfl
@[simp] theorem State.count_cmdqs (s : State) (o hi lo n : Nat) : (s.count o hi lo n).cmdqs = s.cmdqs := rfl
@[simp] theorem State.count_prism (s : State) (o hi lo n : Nat) : (s.count o hi lo n).prism = s.prism := rfl
@[simp] theorem State.count_tint (s : State) (o hi lo n : Nat) : (s.count o hi lo n).tint = s.tint := rfl
@[simp] theorem State.count_done (s : State) (o hi lo n : Nat) : (s.count o hi lo n).done = s.done := rfl
@[simp] theorem State.count_doneSerial (s : State) (o hi lo n : Nat) : (s.count o hi lo n).doneSerial = s.doneSerial := rfl
@[simp] theorem State.count_net (s : State) (o hi lo n : Nat) : (s.count o hi lo n).net = s.net := rfl
@[simp] theorem State.count_flight (s : State) (o hi lo n : Nat) : (s.count o hi lo n).flight = s.flight := rfl
@[simp] theorem State.count_credits (s : State) (o hi lo n : Nat) : (s.count o hi lo n).credits = s.credits := rfl
@[simp] theorem State.count_lastEpoch (s : State) (o hi lo n : Nat) : (s.count o hi lo n).lastEpoch = s.lastEpoch := rfl
@[simp] theorem State.count_time (s : State) (o hi lo n : Nat) : (s.count o hi lo n).time = s.time := rfl
@[simp] theorem State.count_logs (s : State) (o hi lo n : Nat) : (s.count o hi lo n).logs = s.logs := rfl
@[simp] theorem State.count_chipInForce (s : State) (o hi lo n : Nat) : (s.count o hi lo n).chipInForce = s.chipInForce := rfl
@[simp] theorem State.count_syncs (s : State) (o hi lo n : Nat) : (s.count o hi lo n).syncs = s.syncs := rfl
@[simp] theorem State.count_efn (s : State) (o hi lo n : Nat) : (s.count o hi lo n).efn = s.efn := rfl
@[simp] theorem State.count_boot (s : State) (o hi lo n : Nat) : (s.count o hi lo n).boot = s.boot := rfl
@[simp] theorem State.count_pkg (s : State) (o hi lo n : Nat) : (s.count o hi lo n).pkg = s.pkg := rfl
@[simp] theorem State.count_srv (s : State) (o hi lo n : Nat) : (s.count o hi lo n).srv = s.srv := rfl
@[simp] theorem State.count_glare (s : State) (o hi lo n : Nat) : (s.count o hi lo n).glare = s.glare := rfl
@[simp] theorem State.count_trust (s : State) (o hi lo n : Nat) : (s.count o hi lo n).trust = s.trust := rfl
@[simp] theorem State.count_ptp (s : State) (o hi lo n : Nat) : (s.count o hi lo n).ptp = s.ptp := rfl
@[simp] theorem State.count_pwr (s : State) (o hi lo n : Nat) : (s.count o hi lo n).pwr = s.pwr := rfl
@[simp] theorem State.count_fused (s : State) (o hi lo n : Nat) : (s.count o hi lo n).fused = s.fused := rfl
@[simp] theorem State.count_timerIrq (s : State) (o hi lo n : Nat) : (s.count o hi lo n).timerIrq = s.timerIrq := rfl
@[simp] theorem State.count_engines (s : State) (o hi lo n : Nat) : (s.count o hi lo n).engines = s.engines := rfl
@[simp] theorem State.count_free (s : State) (o hi lo n : Nat) : (s.count o hi lo n).free = s.free := rfl
@[simp] theorem State.raise_pending (s : State) (o hi lo v : Nat) : (s.raise o hi lo v).pending = s.pending := rfl
@[simp] theorem State.raise_reply (s : State) (o hi lo v : Nat) : (s.raise o hi lo v).reply = s.reply := rfl
@[simp] theorem State.raise_mem (s : State) (o hi lo v : Nat) : (s.raise o hi lo v).mem = s.mem := rfl
@[simp] theorem State.raise_bad (s : State) (o hi lo v : Nat) : (s.raise o hi lo v).bad = s.bad := rfl
@[simp] theorem State.raise_tiles (s : State) (o hi lo v : Nat) : (s.raise o hi lo v).tiles = s.tiles := rfl
@[simp] theorem State.raise_secs (s : State) (o hi lo v : Nat) : (s.raise o hi lo v).secs = s.secs := rfl
@[simp] theorem State.raise_cmdqs (s : State) (o hi lo v : Nat) : (s.raise o hi lo v).cmdqs = s.cmdqs := rfl
@[simp] theorem State.raise_prism (s : State) (o hi lo v : Nat) : (s.raise o hi lo v).prism = s.prism := rfl
@[simp] theorem State.raise_tint (s : State) (o hi lo v : Nat) : (s.raise o hi lo v).tint = s.tint := rfl
@[simp] theorem State.raise_done (s : State) (o hi lo v : Nat) : (s.raise o hi lo v).done = s.done := rfl
@[simp] theorem State.raise_doneSerial (s : State) (o hi lo v : Nat) : (s.raise o hi lo v).doneSerial = s.doneSerial := rfl
@[simp] theorem State.raise_net (s : State) (o hi lo v : Nat) : (s.raise o hi lo v).net = s.net := rfl
@[simp] theorem State.raise_flight (s : State) (o hi lo v : Nat) : (s.raise o hi lo v).flight = s.flight := rfl
@[simp] theorem State.raise_credits (s : State) (o hi lo v : Nat) : (s.raise o hi lo v).credits = s.credits := rfl
@[simp] theorem State.raise_lastEpoch (s : State) (o hi lo v : Nat) : (s.raise o hi lo v).lastEpoch = s.lastEpoch := rfl
@[simp] theorem State.raise_time (s : State) (o hi lo v : Nat) : (s.raise o hi lo v).time = s.time := rfl
@[simp] theorem State.raise_logs (s : State) (o hi lo v : Nat) : (s.raise o hi lo v).logs = s.logs := rfl
@[simp] theorem State.raise_chipInForce (s : State) (o hi lo v : Nat) : (s.raise o hi lo v).chipInForce = s.chipInForce := rfl
@[simp] theorem State.raise_syncs (s : State) (o hi lo v : Nat) : (s.raise o hi lo v).syncs = s.syncs := rfl
@[simp] theorem State.raise_efn (s : State) (o hi lo v : Nat) : (s.raise o hi lo v).efn = s.efn := rfl
@[simp] theorem State.raise_boot (s : State) (o hi lo v : Nat) : (s.raise o hi lo v).boot = s.boot := rfl
@[simp] theorem State.raise_pkg (s : State) (o hi lo v : Nat) : (s.raise o hi lo v).pkg = s.pkg := rfl
@[simp] theorem State.raise_srv (s : State) (o hi lo v : Nat) : (s.raise o hi lo v).srv = s.srv := rfl
@[simp] theorem State.raise_glare (s : State) (o hi lo v : Nat) : (s.raise o hi lo v).glare = s.glare := rfl
@[simp] theorem State.raise_trust (s : State) (o hi lo v : Nat) : (s.raise o hi lo v).trust = s.trust := rfl
@[simp] theorem State.raise_ptp (s : State) (o hi lo v : Nat) : (s.raise o hi lo v).ptp = s.ptp := rfl
@[simp] theorem State.raise_pwr (s : State) (o hi lo v : Nat) : (s.raise o hi lo v).pwr = s.pwr := rfl
@[simp] theorem State.raise_fused (s : State) (o hi lo v : Nat) : (s.raise o hi lo v).fused = s.fused := rfl
@[simp] theorem State.raise_timerIrq (s : State) (o hi lo v : Nat) : (s.raise o hi lo v).timerIrq = s.timerIrq := rfl
@[simp] theorem State.raise_engines (s : State) (o hi lo v : Nat) : (s.raise o hi lo v).engines = s.engines := rfl
@[simp] theorem State.raise_free (s : State) (o hi lo v : Nat) : (s.raise o hi lo v).free = s.free := rfl
@[simp] theorem State.wrMem_pending (s : State) (k : Nat) (bs : List Byte) : (s.wrMem k bs).pending = s.pending := rfl
@[simp] theorem State.wrMem_reply (s : State) (k : Nat) (bs : List Byte) : (s.wrMem k bs).reply = s.reply := rfl
@[simp] theorem State.wrMem_bad (s : State) (k : Nat) (bs : List Byte) : (s.wrMem k bs).bad = s.bad := rfl
@[simp] theorem State.wrMem_regs (s : State) (k : Nat) (bs : List Byte) : (s.wrMem k bs).regs = s.regs := rfl
@[simp] theorem State.wrMem_tiles (s : State) (k : Nat) (bs : List Byte) : (s.wrMem k bs).tiles = s.tiles := rfl
@[simp] theorem State.wrMem_secs (s : State) (k : Nat) (bs : List Byte) : (s.wrMem k bs).secs = s.secs := rfl
@[simp] theorem State.wrMem_cmdqs (s : State) (k : Nat) (bs : List Byte) : (s.wrMem k bs).cmdqs = s.cmdqs := rfl
@[simp] theorem State.wrMem_prism (s : State) (k : Nat) (bs : List Byte) : (s.wrMem k bs).prism = s.prism := rfl
@[simp] theorem State.wrMem_tint (s : State) (k : Nat) (bs : List Byte) : (s.wrMem k bs).tint = s.tint := rfl
@[simp] theorem State.wrMem_done (s : State) (k : Nat) (bs : List Byte) : (s.wrMem k bs).done = s.done := rfl
@[simp] theorem State.wrMem_doneSerial (s : State) (k : Nat) (bs : List Byte) : (s.wrMem k bs).doneSerial = s.doneSerial := rfl
@[simp] theorem State.wrMem_net (s : State) (k : Nat) (bs : List Byte) : (s.wrMem k bs).net = s.net := rfl
@[simp] theorem State.wrMem_flight (s : State) (k : Nat) (bs : List Byte) : (s.wrMem k bs).flight = s.flight := rfl
@[simp] theorem State.wrMem_credits (s : State) (k : Nat) (bs : List Byte) : (s.wrMem k bs).credits = s.credits := rfl
@[simp] theorem State.wrMem_lastEpoch (s : State) (k : Nat) (bs : List Byte) : (s.wrMem k bs).lastEpoch = s.lastEpoch := rfl
@[simp] theorem State.wrMem_time (s : State) (k : Nat) (bs : List Byte) : (s.wrMem k bs).time = s.time := rfl
@[simp] theorem State.wrMem_logs (s : State) (k : Nat) (bs : List Byte) : (s.wrMem k bs).logs = s.logs := rfl
@[simp] theorem State.wrMem_chipInForce (s : State) (k : Nat) (bs : List Byte) : (s.wrMem k bs).chipInForce = s.chipInForce := rfl
@[simp] theorem State.wrMem_syncs (s : State) (k : Nat) (bs : List Byte) : (s.wrMem k bs).syncs = s.syncs := rfl
@[simp] theorem State.wrMem_efn (s : State) (k : Nat) (bs : List Byte) : (s.wrMem k bs).efn = s.efn := rfl
@[simp] theorem State.wrMem_boot (s : State) (k : Nat) (bs : List Byte) : (s.wrMem k bs).boot = s.boot := rfl
@[simp] theorem State.wrMem_pkg (s : State) (k : Nat) (bs : List Byte) : (s.wrMem k bs).pkg = s.pkg := rfl
@[simp] theorem State.wrMem_srv (s : State) (k : Nat) (bs : List Byte) : (s.wrMem k bs).srv = s.srv := rfl
@[simp] theorem State.wrMem_glare (s : State) (k : Nat) (bs : List Byte) : (s.wrMem k bs).glare = s.glare := rfl
@[simp] theorem State.wrMem_trust (s : State) (k : Nat) (bs : List Byte) : (s.wrMem k bs).trust = s.trust := rfl
@[simp] theorem State.wrMem_ptp (s : State) (k : Nat) (bs : List Byte) : (s.wrMem k bs).ptp = s.ptp := rfl
@[simp] theorem State.wrMem_pwr (s : State) (k : Nat) (bs : List Byte) : (s.wrMem k bs).pwr = s.pwr := rfl
@[simp] theorem State.wrMem_fused (s : State) (k : Nat) (bs : List Byte) : (s.wrMem k bs).fused = s.fused := rfl
@[simp] theorem State.wrMem_timerIrq (s : State) (k : Nat) (bs : List Byte) : (s.wrMem k bs).timerIrq = s.timerIrq := rfl
@[simp] theorem State.wrMem_engines (s : State) (k : Nat) (bs : List Byte) : (s.wrMem k bs).engines = s.engines := rfl
@[simp] theorem State.wrMem_free (s : State) (k : Nat) (bs : List Byte) : (s.wrMem k bs).free = s.free := rfl
@[simp] theorem State.wrLe_pending (s : State) (k n v : Nat) : (s.wrLe k n v).pending = s.pending := rfl
@[simp] theorem State.wrLe_reply (s : State) (k n v : Nat) : (s.wrLe k n v).reply = s.reply := rfl
@[simp] theorem State.wrLe_bad (s : State) (k n v : Nat) : (s.wrLe k n v).bad = s.bad := rfl
@[simp] theorem State.wrLe_regs (s : State) (k n v : Nat) : (s.wrLe k n v).regs = s.regs := rfl
@[simp] theorem State.wrLe_tiles (s : State) (k n v : Nat) : (s.wrLe k n v).tiles = s.tiles := rfl
@[simp] theorem State.wrLe_secs (s : State) (k n v : Nat) : (s.wrLe k n v).secs = s.secs := rfl
@[simp] theorem State.wrLe_cmdqs (s : State) (k n v : Nat) : (s.wrLe k n v).cmdqs = s.cmdqs := rfl
@[simp] theorem State.wrLe_prism (s : State) (k n v : Nat) : (s.wrLe k n v).prism = s.prism := rfl
@[simp] theorem State.wrLe_tint (s : State) (k n v : Nat) : (s.wrLe k n v).tint = s.tint := rfl
@[simp] theorem State.wrLe_done (s : State) (k n v : Nat) : (s.wrLe k n v).done = s.done := rfl
@[simp] theorem State.wrLe_doneSerial (s : State) (k n v : Nat) : (s.wrLe k n v).doneSerial = s.doneSerial := rfl
@[simp] theorem State.wrLe_net (s : State) (k n v : Nat) : (s.wrLe k n v).net = s.net := rfl
@[simp] theorem State.wrLe_flight (s : State) (k n v : Nat) : (s.wrLe k n v).flight = s.flight := rfl
@[simp] theorem State.wrLe_credits (s : State) (k n v : Nat) : (s.wrLe k n v).credits = s.credits := rfl
@[simp] theorem State.wrLe_lastEpoch (s : State) (k n v : Nat) : (s.wrLe k n v).lastEpoch = s.lastEpoch := rfl
@[simp] theorem State.wrLe_time (s : State) (k n v : Nat) : (s.wrLe k n v).time = s.time := rfl
@[simp] theorem State.wrLe_logs (s : State) (k n v : Nat) : (s.wrLe k n v).logs = s.logs := rfl
@[simp] theorem State.wrLe_chipInForce (s : State) (k n v : Nat) : (s.wrLe k n v).chipInForce = s.chipInForce := rfl
@[simp] theorem State.wrLe_syncs (s : State) (k n v : Nat) : (s.wrLe k n v).syncs = s.syncs := rfl
@[simp] theorem State.wrLe_efn (s : State) (k n v : Nat) : (s.wrLe k n v).efn = s.efn := rfl
@[simp] theorem State.wrLe_boot (s : State) (k n v : Nat) : (s.wrLe k n v).boot = s.boot := rfl
@[simp] theorem State.wrLe_pkg (s : State) (k n v : Nat) : (s.wrLe k n v).pkg = s.pkg := rfl
@[simp] theorem State.wrLe_srv (s : State) (k n v : Nat) : (s.wrLe k n v).srv = s.srv := rfl
@[simp] theorem State.wrLe_glare (s : State) (k n v : Nat) : (s.wrLe k n v).glare = s.glare := rfl
@[simp] theorem State.wrLe_trust (s : State) (k n v : Nat) : (s.wrLe k n v).trust = s.trust := rfl
@[simp] theorem State.wrLe_ptp (s : State) (k n v : Nat) : (s.wrLe k n v).ptp = s.ptp := rfl
@[simp] theorem State.wrLe_pwr (s : State) (k n v : Nat) : (s.wrLe k n v).pwr = s.pwr := rfl
@[simp] theorem State.wrLe_fused (s : State) (k n v : Nat) : (s.wrLe k n v).fused = s.fused := rfl
@[simp] theorem State.wrLe_timerIrq (s : State) (k n v : Nat) : (s.wrLe k n v).timerIrq = s.timerIrq := rfl
@[simp] theorem State.wrLe_engines (s : State) (k n v : Nat) : (s.wrLe k n v).engines = s.engines := rfl
@[simp] theorem State.wrLe_free (s : State) (k n v : Nat) : (s.wrLe k n v).free = s.free := rfl
@[simp] theorem State.zeroMem_pending (s : State) (lo hi : Nat) : (s.zeroMem lo hi).pending = s.pending := rfl
@[simp] theorem State.zeroMem_reply (s : State) (lo hi : Nat) : (s.zeroMem lo hi).reply = s.reply := rfl
@[simp] theorem State.zeroMem_bad (s : State) (lo hi : Nat) : (s.zeroMem lo hi).bad = s.bad := rfl
@[simp] theorem State.zeroMem_regs (s : State) (lo hi : Nat) : (s.zeroMem lo hi).regs = s.regs := rfl
@[simp] theorem State.zeroMem_tiles (s : State) (lo hi : Nat) : (s.zeroMem lo hi).tiles = s.tiles := rfl
@[simp] theorem State.zeroMem_secs (s : State) (lo hi : Nat) : (s.zeroMem lo hi).secs = s.secs := rfl
@[simp] theorem State.zeroMem_cmdqs (s : State) (lo hi : Nat) : (s.zeroMem lo hi).cmdqs = s.cmdqs := rfl
@[simp] theorem State.zeroMem_prism (s : State) (lo hi : Nat) : (s.zeroMem lo hi).prism = s.prism := rfl
@[simp] theorem State.zeroMem_tint (s : State) (lo hi : Nat) : (s.zeroMem lo hi).tint = s.tint := rfl
@[simp] theorem State.zeroMem_done (s : State) (lo hi : Nat) : (s.zeroMem lo hi).done = s.done := rfl
@[simp] theorem State.zeroMem_doneSerial (s : State) (lo hi : Nat) : (s.zeroMem lo hi).doneSerial = s.doneSerial := rfl
@[simp] theorem State.zeroMem_net (s : State) (lo hi : Nat) : (s.zeroMem lo hi).net = s.net := rfl
@[simp] theorem State.zeroMem_flight (s : State) (lo hi : Nat) : (s.zeroMem lo hi).flight = s.flight := rfl
@[simp] theorem State.zeroMem_credits (s : State) (lo hi : Nat) : (s.zeroMem lo hi).credits = s.credits := rfl
@[simp] theorem State.zeroMem_lastEpoch (s : State) (lo hi : Nat) : (s.zeroMem lo hi).lastEpoch = s.lastEpoch := rfl
@[simp] theorem State.zeroMem_time (s : State) (lo hi : Nat) : (s.zeroMem lo hi).time = s.time := rfl
@[simp] theorem State.zeroMem_logs (s : State) (lo hi : Nat) : (s.zeroMem lo hi).logs = s.logs := rfl
@[simp] theorem State.zeroMem_chipInForce (s : State) (lo hi : Nat) : (s.zeroMem lo hi).chipInForce = s.chipInForce := rfl
@[simp] theorem State.zeroMem_syncs (s : State) (lo hi : Nat) : (s.zeroMem lo hi).syncs = s.syncs := rfl
@[simp] theorem State.zeroMem_efn (s : State) (lo hi : Nat) : (s.zeroMem lo hi).efn = s.efn := rfl
@[simp] theorem State.zeroMem_boot (s : State) (lo hi : Nat) : (s.zeroMem lo hi).boot = s.boot := rfl
@[simp] theorem State.zeroMem_pkg (s : State) (lo hi : Nat) : (s.zeroMem lo hi).pkg = s.pkg := rfl
@[simp] theorem State.zeroMem_srv (s : State) (lo hi : Nat) : (s.zeroMem lo hi).srv = s.srv := rfl
@[simp] theorem State.zeroMem_glare (s : State) (lo hi : Nat) : (s.zeroMem lo hi).glare = s.glare := rfl
@[simp] theorem State.zeroMem_trust (s : State) (lo hi : Nat) : (s.zeroMem lo hi).trust = s.trust := rfl
@[simp] theorem State.zeroMem_ptp (s : State) (lo hi : Nat) : (s.zeroMem lo hi).ptp = s.ptp := rfl
@[simp] theorem State.zeroMem_pwr (s : State) (lo hi : Nat) : (s.zeroMem lo hi).pwr = s.pwr := rfl
@[simp] theorem State.zeroMem_fused (s : State) (lo hi : Nat) : (s.zeroMem lo hi).fused = s.fused := rfl
@[simp] theorem State.zeroMem_timerIrq (s : State) (lo hi : Nat) : (s.zeroMem lo hi).timerIrq = s.timerIrq := rfl
@[simp] theorem State.zeroMem_engines (s : State) (lo hi : Nat) : (s.zeroMem lo hi).engines = s.engines := rfl
@[simp] theorem State.zeroMem_free (s : State) (lo hi : Nat) : (s.zeroMem lo hi).free = s.free := rfl
@[simp] theorem State.answer_pending (s : State) (st : Nat) : (s.answer st).pending = s.pending := rfl
@[simp] theorem State.answer_mem (s : State) (st : Nat) : (s.answer st).mem = s.mem := rfl
@[simp] theorem State.answer_bad (s : State) (st : Nat) : (s.answer st).bad = s.bad := rfl
@[simp] theorem State.answer_regs (s : State) (st : Nat) : (s.answer st).regs = s.regs := rfl
@[simp] theorem State.answer_tiles (s : State) (st : Nat) : (s.answer st).tiles = s.tiles := rfl
@[simp] theorem State.answer_secs (s : State) (st : Nat) : (s.answer st).secs = s.secs := rfl
@[simp] theorem State.answer_cmdqs (s : State) (st : Nat) : (s.answer st).cmdqs = s.cmdqs := rfl
@[simp] theorem State.answer_prism (s : State) (st : Nat) : (s.answer st).prism = s.prism := rfl
@[simp] theorem State.answer_tint (s : State) (st : Nat) : (s.answer st).tint = s.tint := rfl
@[simp] theorem State.answer_done (s : State) (st : Nat) : (s.answer st).done = s.done := rfl
@[simp] theorem State.answer_doneSerial (s : State) (st : Nat) : (s.answer st).doneSerial = s.doneSerial := rfl
@[simp] theorem State.answer_net (s : State) (st : Nat) : (s.answer st).net = s.net := rfl
@[simp] theorem State.answer_flight (s : State) (st : Nat) : (s.answer st).flight = s.flight := rfl
@[simp] theorem State.answer_credits (s : State) (st : Nat) : (s.answer st).credits = s.credits := rfl
@[simp] theorem State.answer_lastEpoch (s : State) (st : Nat) : (s.answer st).lastEpoch = s.lastEpoch := rfl
@[simp] theorem State.answer_time (s : State) (st : Nat) : (s.answer st).time = s.time := rfl
@[simp] theorem State.answer_logs (s : State) (st : Nat) : (s.answer st).logs = s.logs := rfl
@[simp] theorem State.answer_chipInForce (s : State) (st : Nat) : (s.answer st).chipInForce = s.chipInForce := rfl
@[simp] theorem State.answer_syncs (s : State) (st : Nat) : (s.answer st).syncs = s.syncs := rfl
@[simp] theorem State.answer_efn (s : State) (st : Nat) : (s.answer st).efn = s.efn := rfl
@[simp] theorem State.answer_boot (s : State) (st : Nat) : (s.answer st).boot = s.boot := rfl
@[simp] theorem State.answer_pkg (s : State) (st : Nat) : (s.answer st).pkg = s.pkg := rfl
@[simp] theorem State.answer_srv (s : State) (st : Nat) : (s.answer st).srv = s.srv := rfl
@[simp] theorem State.answer_glare (s : State) (st : Nat) : (s.answer st).glare = s.glare := rfl
@[simp] theorem State.answer_trust (s : State) (st : Nat) : (s.answer st).trust = s.trust := rfl
@[simp] theorem State.answer_ptp (s : State) (st : Nat) : (s.answer st).ptp = s.ptp := rfl
@[simp] theorem State.answer_pwr (s : State) (st : Nat) : (s.answer st).pwr = s.pwr := rfl
@[simp] theorem State.answer_fused (s : State) (st : Nat) : (s.answer st).fused = s.fused := rfl
@[simp] theorem State.answer_timerIrq (s : State) (st : Nat) : (s.answer st).timerIrq = s.timerIrq := rfl
@[simp] theorem State.answer_engines (s : State) (st : Nat) : (s.answer st).engines = s.engines := rfl
@[simp] theorem State.answer_free (s : State) (st : Nat) : (s.answer st).free = s.free := rfl
@[simp] theorem State.answerData_pending (s : State) (st : Nat) (d : List Byte) : (s.answerData st d).pending = s.pending := rfl
@[simp] theorem State.answerData_mem (s : State) (st : Nat) (d : List Byte) : (s.answerData st d).mem = s.mem := rfl
@[simp] theorem State.answerData_bad (s : State) (st : Nat) (d : List Byte) : (s.answerData st d).bad = s.bad := rfl
@[simp] theorem State.answerData_regs (s : State) (st : Nat) (d : List Byte) : (s.answerData st d).regs = s.regs := rfl
@[simp] theorem State.answerData_tiles (s : State) (st : Nat) (d : List Byte) : (s.answerData st d).tiles = s.tiles := rfl
@[simp] theorem State.answerData_secs (s : State) (st : Nat) (d : List Byte) : (s.answerData st d).secs = s.secs := rfl
@[simp] theorem State.answerData_cmdqs (s : State) (st : Nat) (d : List Byte) : (s.answerData st d).cmdqs = s.cmdqs := rfl
@[simp] theorem State.answerData_prism (s : State) (st : Nat) (d : List Byte) : (s.answerData st d).prism = s.prism := rfl
@[simp] theorem State.answerData_tint (s : State) (st : Nat) (d : List Byte) : (s.answerData st d).tint = s.tint := rfl
@[simp] theorem State.answerData_done (s : State) (st : Nat) (d : List Byte) : (s.answerData st d).done = s.done := rfl
@[simp] theorem State.answerData_doneSerial (s : State) (st : Nat) (d : List Byte) : (s.answerData st d).doneSerial = s.doneSerial := rfl
@[simp] theorem State.answerData_net (s : State) (st : Nat) (d : List Byte) : (s.answerData st d).net = s.net := rfl
@[simp] theorem State.answerData_flight (s : State) (st : Nat) (d : List Byte) : (s.answerData st d).flight = s.flight := rfl
@[simp] theorem State.answerData_credits (s : State) (st : Nat) (d : List Byte) : (s.answerData st d).credits = s.credits := rfl
@[simp] theorem State.answerData_lastEpoch (s : State) (st : Nat) (d : List Byte) : (s.answerData st d).lastEpoch = s.lastEpoch := rfl
@[simp] theorem State.answerData_time (s : State) (st : Nat) (d : List Byte) : (s.answerData st d).time = s.time := rfl
@[simp] theorem State.answerData_logs (s : State) (st : Nat) (d : List Byte) : (s.answerData st d).logs = s.logs := rfl
@[simp] theorem State.answerData_chipInForce (s : State) (st : Nat) (d : List Byte) : (s.answerData st d).chipInForce = s.chipInForce := rfl
@[simp] theorem State.answerData_syncs (s : State) (st : Nat) (d : List Byte) : (s.answerData st d).syncs = s.syncs := rfl
@[simp] theorem State.answerData_efn (s : State) (st : Nat) (d : List Byte) : (s.answerData st d).efn = s.efn := rfl
@[simp] theorem State.answerData_boot (s : State) (st : Nat) (d : List Byte) : (s.answerData st d).boot = s.boot := rfl
@[simp] theorem State.answerData_pkg (s : State) (st : Nat) (d : List Byte) : (s.answerData st d).pkg = s.pkg := rfl
@[simp] theorem State.answerData_srv (s : State) (st : Nat) (d : List Byte) : (s.answerData st d).srv = s.srv := rfl
@[simp] theorem State.answerData_glare (s : State) (st : Nat) (d : List Byte) : (s.answerData st d).glare = s.glare := rfl
@[simp] theorem State.answerData_trust (s : State) (st : Nat) (d : List Byte) : (s.answerData st d).trust = s.trust := rfl
@[simp] theorem State.answerData_ptp (s : State) (st : Nat) (d : List Byte) : (s.answerData st d).ptp = s.ptp := rfl
@[simp] theorem State.answerData_pwr (s : State) (st : Nat) (d : List Byte) : (s.answerData st d).pwr = s.pwr := rfl
@[simp] theorem State.answerData_fused (s : State) (st : Nat) (d : List Byte) : (s.answerData st d).fused = s.fused := rfl
@[simp] theorem State.answerData_timerIrq (s : State) (st : Nat) (d : List Byte) : (s.answerData st d).timerIrq = s.timerIrq := rfl
@[simp] theorem State.answerData_engines (s : State) (st : Nat) (d : List Byte) : (s.answerData st d).engines = s.engines := rfl
@[simp] theorem State.answerData_free (s : State) (st : Nat) (d : List Byte) : (s.answerData st d).free = s.free := rfl
@[simp] theorem State.setTile_pending (s : State) (t : Nat) (x : Tile) : (s.setTile t x).pending = s.pending := rfl
@[simp] theorem State.setTile_reply (s : State) (t : Nat) (x : Tile) : (s.setTile t x).reply = s.reply := rfl
@[simp] theorem State.setTile_mem (s : State) (t : Nat) (x : Tile) : (s.setTile t x).mem = s.mem := rfl
@[simp] theorem State.setTile_bad (s : State) (t : Nat) (x : Tile) : (s.setTile t x).bad = s.bad := rfl
@[simp] theorem State.setTile_regs (s : State) (t : Nat) (x : Tile) : (s.setTile t x).regs = s.regs := rfl
@[simp] theorem State.setTile_secs (s : State) (t : Nat) (x : Tile) : (s.setTile t x).secs = s.secs := rfl
@[simp] theorem State.setTile_cmdqs (s : State) (t : Nat) (x : Tile) : (s.setTile t x).cmdqs = s.cmdqs := rfl
@[simp] theorem State.setTile_prism (s : State) (t : Nat) (x : Tile) : (s.setTile t x).prism = s.prism := rfl
@[simp] theorem State.setTile_tint (s : State) (t : Nat) (x : Tile) : (s.setTile t x).tint = s.tint := rfl
@[simp] theorem State.setTile_done (s : State) (t : Nat) (x : Tile) : (s.setTile t x).done = s.done := rfl
@[simp] theorem State.setTile_doneSerial (s : State) (t : Nat) (x : Tile) : (s.setTile t x).doneSerial = s.doneSerial := rfl
@[simp] theorem State.setTile_net (s : State) (t : Nat) (x : Tile) : (s.setTile t x).net = s.net := rfl
@[simp] theorem State.setTile_flight (s : State) (t : Nat) (x : Tile) : (s.setTile t x).flight = s.flight := rfl
@[simp] theorem State.setTile_credits (s : State) (t : Nat) (x : Tile) : (s.setTile t x).credits = s.credits := rfl
@[simp] theorem State.setTile_lastEpoch (s : State) (t : Nat) (x : Tile) : (s.setTile t x).lastEpoch = s.lastEpoch := rfl
@[simp] theorem State.setTile_time (s : State) (t : Nat) (x : Tile) : (s.setTile t x).time = s.time := rfl
@[simp] theorem State.setTile_logs (s : State) (t : Nat) (x : Tile) : (s.setTile t x).logs = s.logs := rfl
@[simp] theorem State.setTile_chipInForce (s : State) (t : Nat) (x : Tile) : (s.setTile t x).chipInForce = s.chipInForce := rfl
@[simp] theorem State.setTile_syncs (s : State) (t : Nat) (x : Tile) : (s.setTile t x).syncs = s.syncs := rfl
@[simp] theorem State.setTile_efn (s : State) (t : Nat) (x : Tile) : (s.setTile t x).efn = s.efn := rfl
@[simp] theorem State.setTile_boot (s : State) (t : Nat) (x : Tile) : (s.setTile t x).boot = s.boot := rfl
@[simp] theorem State.setTile_pkg (s : State) (t : Nat) (x : Tile) : (s.setTile t x).pkg = s.pkg := rfl
@[simp] theorem State.setTile_srv (s : State) (t : Nat) (x : Tile) : (s.setTile t x).srv = s.srv := rfl
@[simp] theorem State.setTile_glare (s : State) (t : Nat) (x : Tile) : (s.setTile t x).glare = s.glare := rfl
@[simp] theorem State.setTile_trust (s : State) (t : Nat) (x : Tile) : (s.setTile t x).trust = s.trust := rfl
@[simp] theorem State.setTile_ptp (s : State) (t : Nat) (x : Tile) : (s.setTile t x).ptp = s.ptp := rfl
@[simp] theorem State.setTile_pwr (s : State) (t : Nat) (x : Tile) : (s.setTile t x).pwr = s.pwr := rfl
@[simp] theorem State.setTile_fused (s : State) (t : Nat) (x : Tile) : (s.setTile t x).fused = s.fused := rfl
@[simp] theorem State.setTile_timerIrq (s : State) (t : Nat) (x : Tile) : (s.setTile t x).timerIrq = s.timerIrq := rfl
@[simp] theorem State.setTile_engines (s : State) (t : Nat) (x : Tile) : (s.setTile t x).engines = s.engines := rfl
@[simp] theorem State.setTile_free (s : State) (t : Nat) (x : Tile) : (s.setTile t x).free = s.free := rfl
@[simp] theorem State.updTile_pending (s : State) (t : Nat) (f : Tile → Tile) : (s.updTile t f).pending = s.pending := rfl
@[simp] theorem State.updTile_reply (s : State) (t : Nat) (f : Tile → Tile) : (s.updTile t f).reply = s.reply := rfl
@[simp] theorem State.updTile_mem (s : State) (t : Nat) (f : Tile → Tile) : (s.updTile t f).mem = s.mem := rfl
@[simp] theorem State.updTile_bad (s : State) (t : Nat) (f : Tile → Tile) : (s.updTile t f).bad = s.bad := rfl
@[simp] theorem State.updTile_regs (s : State) (t : Nat) (f : Tile → Tile) : (s.updTile t f).regs = s.regs := rfl
@[simp] theorem State.updTile_secs (s : State) (t : Nat) (f : Tile → Tile) : (s.updTile t f).secs = s.secs := rfl
@[simp] theorem State.updTile_cmdqs (s : State) (t : Nat) (f : Tile → Tile) : (s.updTile t f).cmdqs = s.cmdqs := rfl
@[simp] theorem State.updTile_prism (s : State) (t : Nat) (f : Tile → Tile) : (s.updTile t f).prism = s.prism := rfl
@[simp] theorem State.updTile_tint (s : State) (t : Nat) (f : Tile → Tile) : (s.updTile t f).tint = s.tint := rfl
@[simp] theorem State.updTile_done (s : State) (t : Nat) (f : Tile → Tile) : (s.updTile t f).done = s.done := rfl
@[simp] theorem State.updTile_doneSerial (s : State) (t : Nat) (f : Tile → Tile) : (s.updTile t f).doneSerial = s.doneSerial := rfl
@[simp] theorem State.updTile_net (s : State) (t : Nat) (f : Tile → Tile) : (s.updTile t f).net = s.net := rfl
@[simp] theorem State.updTile_flight (s : State) (t : Nat) (f : Tile → Tile) : (s.updTile t f).flight = s.flight := rfl
@[simp] theorem State.updTile_credits (s : State) (t : Nat) (f : Tile → Tile) : (s.updTile t f).credits = s.credits := rfl
@[simp] theorem State.updTile_lastEpoch (s : State) (t : Nat) (f : Tile → Tile) : (s.updTile t f).lastEpoch = s.lastEpoch := rfl
@[simp] theorem State.updTile_time (s : State) (t : Nat) (f : Tile → Tile) : (s.updTile t f).time = s.time := rfl
@[simp] theorem State.updTile_logs (s : State) (t : Nat) (f : Tile → Tile) : (s.updTile t f).logs = s.logs := rfl
@[simp] theorem State.updTile_chipInForce (s : State) (t : Nat) (f : Tile → Tile) : (s.updTile t f).chipInForce = s.chipInForce := rfl
@[simp] theorem State.updTile_syncs (s : State) (t : Nat) (f : Tile → Tile) : (s.updTile t f).syncs = s.syncs := rfl
@[simp] theorem State.updTile_efn (s : State) (t : Nat) (f : Tile → Tile) : (s.updTile t f).efn = s.efn := rfl
@[simp] theorem State.updTile_boot (s : State) (t : Nat) (f : Tile → Tile) : (s.updTile t f).boot = s.boot := rfl
@[simp] theorem State.updTile_pkg (s : State) (t : Nat) (f : Tile → Tile) : (s.updTile t f).pkg = s.pkg := rfl
@[simp] theorem State.updTile_srv (s : State) (t : Nat) (f : Tile → Tile) : (s.updTile t f).srv = s.srv := rfl
@[simp] theorem State.updTile_glare (s : State) (t : Nat) (f : Tile → Tile) : (s.updTile t f).glare = s.glare := rfl
@[simp] theorem State.updTile_trust (s : State) (t : Nat) (f : Tile → Tile) : (s.updTile t f).trust = s.trust := rfl
@[simp] theorem State.updTile_ptp (s : State) (t : Nat) (f : Tile → Tile) : (s.updTile t f).ptp = s.ptp := rfl
@[simp] theorem State.updTile_pwr (s : State) (t : Nat) (f : Tile → Tile) : (s.updTile t f).pwr = s.pwr := rfl
@[simp] theorem State.updTile_fused (s : State) (t : Nat) (f : Tile → Tile) : (s.updTile t f).fused = s.fused := rfl
@[simp] theorem State.updTile_timerIrq (s : State) (t : Nat) (f : Tile → Tile) : (s.updTile t f).timerIrq = s.timerIrq := rfl
@[simp] theorem State.updTile_engines (s : State) (t : Nat) (f : Tile → Tile) : (s.updTile t f).engines = s.engines := rfl
@[simp] theorem State.updTile_free (s : State) (t : Nat) (f : Tile → Tile) : (s.updTile t f).free = s.free := rfl
@[simp] theorem State.setSec_pending (s : State) (g c : Nat) (x : Section) : (s.setSec g c x).pending = s.pending := rfl
@[simp] theorem State.setSec_reply (s : State) (g c : Nat) (x : Section) : (s.setSec g c x).reply = s.reply := rfl
@[simp] theorem State.setSec_mem (s : State) (g c : Nat) (x : Section) : (s.setSec g c x).mem = s.mem := rfl
@[simp] theorem State.setSec_bad (s : State) (g c : Nat) (x : Section) : (s.setSec g c x).bad = s.bad := rfl
@[simp] theorem State.setSec_regs (s : State) (g c : Nat) (x : Section) : (s.setSec g c x).regs = s.regs := rfl
@[simp] theorem State.setSec_tiles (s : State) (g c : Nat) (x : Section) : (s.setSec g c x).tiles = s.tiles := rfl
@[simp] theorem State.setSec_cmdqs (s : State) (g c : Nat) (x : Section) : (s.setSec g c x).cmdqs = s.cmdqs := rfl
@[simp] theorem State.setSec_prism (s : State) (g c : Nat) (x : Section) : (s.setSec g c x).prism = s.prism := rfl
@[simp] theorem State.setSec_tint (s : State) (g c : Nat) (x : Section) : (s.setSec g c x).tint = s.tint := rfl
@[simp] theorem State.setSec_done (s : State) (g c : Nat) (x : Section) : (s.setSec g c x).done = s.done := rfl
@[simp] theorem State.setSec_doneSerial (s : State) (g c : Nat) (x : Section) : (s.setSec g c x).doneSerial = s.doneSerial := rfl
@[simp] theorem State.setSec_net (s : State) (g c : Nat) (x : Section) : (s.setSec g c x).net = s.net := rfl
@[simp] theorem State.setSec_flight (s : State) (g c : Nat) (x : Section) : (s.setSec g c x).flight = s.flight := rfl
@[simp] theorem State.setSec_credits (s : State) (g c : Nat) (x : Section) : (s.setSec g c x).credits = s.credits := rfl
@[simp] theorem State.setSec_lastEpoch (s : State) (g c : Nat) (x : Section) : (s.setSec g c x).lastEpoch = s.lastEpoch := rfl
@[simp] theorem State.setSec_time (s : State) (g c : Nat) (x : Section) : (s.setSec g c x).time = s.time := rfl
@[simp] theorem State.setSec_logs (s : State) (g c : Nat) (x : Section) : (s.setSec g c x).logs = s.logs := rfl
@[simp] theorem State.setSec_chipInForce (s : State) (g c : Nat) (x : Section) : (s.setSec g c x).chipInForce = s.chipInForce := rfl
@[simp] theorem State.setSec_syncs (s : State) (g c : Nat) (x : Section) : (s.setSec g c x).syncs = s.syncs := rfl
@[simp] theorem State.setSec_efn (s : State) (g c : Nat) (x : Section) : (s.setSec g c x).efn = s.efn := rfl
@[simp] theorem State.setSec_boot (s : State) (g c : Nat) (x : Section) : (s.setSec g c x).boot = s.boot := rfl
@[simp] theorem State.setSec_pkg (s : State) (g c : Nat) (x : Section) : (s.setSec g c x).pkg = s.pkg := rfl
@[simp] theorem State.setSec_srv (s : State) (g c : Nat) (x : Section) : (s.setSec g c x).srv = s.srv := rfl
@[simp] theorem State.setSec_glare (s : State) (g c : Nat) (x : Section) : (s.setSec g c x).glare = s.glare := rfl
@[simp] theorem State.setSec_trust (s : State) (g c : Nat) (x : Section) : (s.setSec g c x).trust = s.trust := rfl
@[simp] theorem State.setSec_ptp (s : State) (g c : Nat) (x : Section) : (s.setSec g c x).ptp = s.ptp := rfl
@[simp] theorem State.setSec_pwr (s : State) (g c : Nat) (x : Section) : (s.setSec g c x).pwr = s.pwr := rfl
@[simp] theorem State.setSec_fused (s : State) (g c : Nat) (x : Section) : (s.setSec g c x).fused = s.fused := rfl
@[simp] theorem State.setSec_timerIrq (s : State) (g c : Nat) (x : Section) : (s.setSec g c x).timerIrq = s.timerIrq := rfl
@[simp] theorem State.setSec_engines (s : State) (g c : Nat) (x : Section) : (s.setSec g c x).engines = s.engines := rfl
@[simp] theorem State.setSec_free (s : State) (g c : Nat) (x : Section) : (s.setSec g c x).free = s.free := rfl
@[simp] theorem State.updSec_pending (s : State) (g c : Nat) (f : Section → Section) : (s.updSec g c f).pending = s.pending := rfl
@[simp] theorem State.updSec_reply (s : State) (g c : Nat) (f : Section → Section) : (s.updSec g c f).reply = s.reply := rfl
@[simp] theorem State.updSec_mem (s : State) (g c : Nat) (f : Section → Section) : (s.updSec g c f).mem = s.mem := rfl
@[simp] theorem State.updSec_bad (s : State) (g c : Nat) (f : Section → Section) : (s.updSec g c f).bad = s.bad := rfl
@[simp] theorem State.updSec_regs (s : State) (g c : Nat) (f : Section → Section) : (s.updSec g c f).regs = s.regs := rfl
@[simp] theorem State.updSec_tiles (s : State) (g c : Nat) (f : Section → Section) : (s.updSec g c f).tiles = s.tiles := rfl
@[simp] theorem State.updSec_cmdqs (s : State) (g c : Nat) (f : Section → Section) : (s.updSec g c f).cmdqs = s.cmdqs := rfl
@[simp] theorem State.updSec_prism (s : State) (g c : Nat) (f : Section → Section) : (s.updSec g c f).prism = s.prism := rfl
@[simp] theorem State.updSec_tint (s : State) (g c : Nat) (f : Section → Section) : (s.updSec g c f).tint = s.tint := rfl
@[simp] theorem State.updSec_done (s : State) (g c : Nat) (f : Section → Section) : (s.updSec g c f).done = s.done := rfl
@[simp] theorem State.updSec_doneSerial (s : State) (g c : Nat) (f : Section → Section) : (s.updSec g c f).doneSerial = s.doneSerial := rfl
@[simp] theorem State.updSec_net (s : State) (g c : Nat) (f : Section → Section) : (s.updSec g c f).net = s.net := rfl
@[simp] theorem State.updSec_flight (s : State) (g c : Nat) (f : Section → Section) : (s.updSec g c f).flight = s.flight := rfl
@[simp] theorem State.updSec_credits (s : State) (g c : Nat) (f : Section → Section) : (s.updSec g c f).credits = s.credits := rfl
@[simp] theorem State.updSec_lastEpoch (s : State) (g c : Nat) (f : Section → Section) : (s.updSec g c f).lastEpoch = s.lastEpoch := rfl
@[simp] theorem State.updSec_time (s : State) (g c : Nat) (f : Section → Section) : (s.updSec g c f).time = s.time := rfl
@[simp] theorem State.updSec_logs (s : State) (g c : Nat) (f : Section → Section) : (s.updSec g c f).logs = s.logs := rfl
@[simp] theorem State.updSec_chipInForce (s : State) (g c : Nat) (f : Section → Section) : (s.updSec g c f).chipInForce = s.chipInForce := rfl
@[simp] theorem State.updSec_syncs (s : State) (g c : Nat) (f : Section → Section) : (s.updSec g c f).syncs = s.syncs := rfl
@[simp] theorem State.updSec_efn (s : State) (g c : Nat) (f : Section → Section) : (s.updSec g c f).efn = s.efn := rfl
@[simp] theorem State.updSec_boot (s : State) (g c : Nat) (f : Section → Section) : (s.updSec g c f).boot = s.boot := rfl
@[simp] theorem State.updSec_pkg (s : State) (g c : Nat) (f : Section → Section) : (s.updSec g c f).pkg = s.pkg := rfl
@[simp] theorem State.updSec_srv (s : State) (g c : Nat) (f : Section → Section) : (s.updSec g c f).srv = s.srv := rfl
@[simp] theorem State.updSec_glare (s : State) (g c : Nat) (f : Section → Section) : (s.updSec g c f).glare = s.glare := rfl
@[simp] theorem State.updSec_trust (s : State) (g c : Nat) (f : Section → Section) : (s.updSec g c f).trust = s.trust := rfl
@[simp] theorem State.updSec_ptp (s : State) (g c : Nat) (f : Section → Section) : (s.updSec g c f).ptp = s.ptp := rfl
@[simp] theorem State.updSec_pwr (s : State) (g c : Nat) (f : Section → Section) : (s.updSec g c f).pwr = s.pwr := rfl
@[simp] theorem State.updSec_fused (s : State) (g c : Nat) (f : Section → Section) : (s.updSec g c f).fused = s.fused := rfl
@[simp] theorem State.updSec_timerIrq (s : State) (g c : Nat) (f : Section → Section) : (s.updSec g c f).timerIrq = s.timerIrq := rfl
@[simp] theorem State.updSec_engines (s : State) (g c : Nat) (f : Section → Section) : (s.updSec g c f).engines = s.engines := rfl
@[simp] theorem State.updSec_free (s : State) (g c : Nat) (f : Section → Section) : (s.updSec g c f).free = s.free := rfl

end Sys2Proof.Machine
end

