-- ==== Sys2Proof/Laws/Memory.lean ====
section
/-! SUPPORT. Laws of memory: its canonical form is kept by every operation, and a read after a write. -/
namespace Sys2Proof.Machine

/-! ## The canonical form -/

theorem State.memOk_reset : State.reset.memOk = true := by rfl
theorem State.memOk_of_mem {s u : State} (h : u.mem = s.mem) (hs : s.memOk = true) : u.memOk = true := by
  unfold State.memOk at hs ⊢; rw [h]; exact hs
theorem State.memOk_wrMem {s : State} (k : Nat) (bs : List Byte) (h : s.memOk = true) : (s.wrMem k bs).memOk = true :=
  Sparse.wf_putList memD bs k h
theorem State.memOk_wrLe {s : State} (k n v : Nat) (h : s.memOk = true) : (s.wrLe k n v).memOk = true := State.memOk_wrMem k _ h
theorem State.memOk_zeroMem {s : State} (lo hi : Nat) (h : s.memOk = true) : (s.zeroMem lo hi).memOk = true := Sparse.wf_clear memD lo hi h
/-- What a warm reset keeps of memory. -/
theorem Memory.wf_keep {m : List (Nat × Byte)} (p : Nat → Bool) (h : Memory.wf m = true) : Memory.wf (Sparse.keep p m) = true := Sparse.wf_keep memD p h

/-! ## A read after a write -/

theorem State.rdMem_wrMem_same (s : State) (k : Nat) (bs : List Byte) : (s.wrMem k bs).rdMem k bs.length = bs := Sparse.getList_putList memD bs k s.mem
theorem State.get_wrMem_below (s : State) (k j : Nat) (bs : List Byte) (h : j < k) : Sparse.get memD (s.wrMem k bs).mem j = Sparse.get memD s.mem j :=
  Sparse.get_putList_below memD bs k j s.mem h
theorem State.get_wrMem_above (s : State) (k j : Nat) (bs : List Byte) (h : k + bs.length ≤ j) : Sparse.get memD (s.wrMem k bs).mem j = Sparse.get memD s.mem j :=
  Sparse.get_putList_above memD bs k j s.mem h
/-- Every byte outside what is stored reads as before. -/
theorem State.get_wrMem_outside (s : State) (k j : Nat) (bs : List Byte) (h : j < k ∨ k + bs.length ≤ j) :
    Sparse.get memD (s.wrMem k bs).mem j = Sparse.get memD s.mem j :=
  h.elim (s.get_wrMem_below k j bs) (s.get_wrMem_above k j bs)

/-- A range that lies outside what is stored reads as before. -/
theorem State.rdMem_wrMem_apart (s : State) (k : Nat) (bs : List Byte) : ∀ (n j : Nat), j + n ≤ k ∨ k + bs.length ≤ j →
    (s.wrMem k bs).rdMem j n = s.rdMem j n
  | 0, _, _ => rfl
  | n + 1, j, h => by
    have q := State.rdMem_wrMem_apart s k bs n (j + 1) (by omega)
    have r := s.get_wrMem_outside k j bs (by omega)
    unfold State.rdMem at q ⊢
    simp only [Sparse.getList]
    rw [q, r]

theorem Sparse.get_filter {α : Type} (d : Nat → α) (p : Nat → Bool) (k : Nat) : ∀ m : List (Nat × α),
    Sparse.get d (m.filter (fun e => p e.1)) k = if p k then Sparse.get d m k else d k
  | [] => by simp [Sparse.get]
  | (j, v) :: m => by
    have ih := Sparse.get_filter d p k m
    rw [List.filter_cons]
    by_cases hj : j = k
    · subst hj
      by_cases hp : p j = true
      · simp [hp, Sparse.get]
      · simp only [Bool.not_eq_true] at hp
        simp only [hp, Bool.false_eq_true, if_false] at ih ⊢
        exact ih
    · by_cases hp : p j = true
      · simp only [hp, if_true, Sparse.get, if_neg hj]; exact ih
      · simp only [Bool.not_eq_true] at hp
        simp only [hp, Bool.false_eq_true, if_false, Sparse.get, if_neg hj]; exact ih

/-- Bytes that are cleared read zero, and the others as before. -/
theorem State.get_zeroMem (s : State) (lo hi k : Nat) :
    Sparse.get memD (s.zeroMem lo hi).mem k = if lo ≤ k ∧ k < hi then memD k else Sparse.get memD s.mem k := by
  have h := Sparse.get_filter memD (fun j => !(decide (lo ≤ j) && decide (j < hi))) k s.mem
  show Sparse.get memD (Sparse.clear s.mem lo hi) k = _
  unfold Sparse.clear
  rw [h]
  by_cases a : lo ≤ k <;> by_cases b : k < hi <;> simp [a, b]
theorem State.get_keep (p : Nat → Bool) (m : List (Nat × Byte)) (k : Nat) : Sparse.get memD (Sparse.keep p m) k = if p k then Sparse.get memD m k else memD k :=
  Sparse.get_filter memD p k m

end Sys2Proof.Machine
end

