-- ==== Sys2Proof/Laws/Tiles.lean ====
section
/-! SUPPORT. Laws of tiles, contexts and their registers, and of the sequencer: what issueOp answers, and what going on at a word changes. -/
namespace Sys2Proof.Machine

/-! ## A read after a write -/

@[simp] theorem State.tile_setTile_same (s : State) (t : Nat) (x : Tile) : (s.setTile t x).tile t = x := Sparse.get_put_same ..
theorem State.tile_setTile_other (s : State) (t : Nat) (x : Tile) {j : Nat} (h : j ≠ t) : (s.setTile t x).tile j = s.tile j :=
  Sparse.get_put_other _ _ _ h
@[simp] theorem State.tile_updTile_same (s : State) (t : Nat) (f : Tile → Tile) : (s.updTile t f).tile t = f (s.tile t) := Sparse.get_put_same ..
theorem State.tile_updTile_other (s : State) (t : Nat) (f : Tile → Tile) {j : Nat} (h : j ≠ t) : (s.updTile t f).tile j = s.tile j :=
  Sparse.get_put_other _ _ _ h
@[simp] theorem Tile.ctx_setCtx_same (x : Tile) (c : Nat) (y : TileCtx) : (x.setCtx c y).ctx c = y := Sparse.get_put_same ..
theorem Tile.ctx_setCtx_other (x : Tile) (c : Nat) (y : TileCtx) {d : Nat} (h : d ≠ c) : (x.setCtx c y).ctx d = x.ctx d :=
  Sparse.get_put_other _ _ _ h
@[simp] theorem Tile.ctx_updCtx_same (x : Tile) (c : Nat) (f : TileCtx → TileCtx) : (x.updCtx c f).ctx c = f (x.ctx c) := Sparse.get_put_same ..
theorem Tile.ctx_updCtx_other (x : Tile) (c : Nat) (f : TileCtx → TileCtx) {d : Nat} (h : d ≠ c) : (x.updCtx c f).ctx d = x.ctx d :=
  Sparse.get_put_other _ _ _ h
@[simp] theorem Tile.ctx_withU (x : Tile) (u : Units) (c : Nat) : (x.withU u).ctx c = x.ctx c := rfl

@[simp] theorem TileCtx.xr_zero (y : TileCtx) : y.xr 0 = 0 := rfl
@[simp] theorem TileCtx.pr_zero (y : TileCtx) : y.pr 0 = true := rfl

/-- x[n] after a write of x[d]; x0 stays 0 (R120). -/
theorem TileCtx.xr_setX (y : TileCtx) (d j : Nat) (v : W32) : (y.setX d v).xr j = if j = d ∧ d ≠ 0 then v else y.xr j := by
  unfold TileCtx.setX TileCtx.xr
  by_cases hd : d = 0
  · subst hd; simp
  · rw [if_neg hd]
    by_cases hj : j = d
    · subst hj; simp [hd, TileCtx.withX]
    · simp only [hj, false_and, if_false, TileCtx.withX, Sparse.get_put_other _ _ _ hj]

/-- p[n] after a write of p[d]; p0 stays 1 (R120). -/
theorem TileCtx.pr_setP (y : TileCtx) (d j : Nat) (v : Bool) : (y.setP d v).pr j = if j = d ∧ d ≠ 0 then v else y.pr j := by
  unfold TileCtx.setP TileCtx.pr
  by_cases hd : d = 0
  · subst hd; simp
  · rw [if_neg hd]
    by_cases hj : j = d
    · subst hj; simp [hd, TileCtx.withP]
    · simp only [hj, false_and, if_false, TileCtx.withP, Sparse.get_put_other _ _ _ hj]

@[simp] theorem TileCtx.pr_setX (y : TileCtx) (d j : Nat) (v : W32) : (y.setX d v).pr j = y.pr j := by
  unfold TileCtx.setX; split <;> rfl
@[simp] theorem TileCtx.xr_setP (y : TileCtx) (d j : Nat) (v : Bool) : (y.setP d v).xr j = y.xr j := by
  unfold TileCtx.setP; split <;> rfl
@[simp] theorem TileCtx.lcr_setLc (y : TileCtx) (n : Nat) (v : W32) : (y.setLc n v).lcr n = v := Sparse.get_put_same ..

/-! ## The sequencer -/

section
variable {s u : State} {op t g c n k p : Nat} {w w2 : W64} {f : State → Nat → Nat → W64 → W64 → Issued}

/-- An instruction that takes effect: the sequencer goes on at the next word. -/
theorem issueOp_go (h : s.standsAt t g c op w w2 n) (hf : f s g c w w2 = .go u) :
    issueOp op t s f = .next (u.updTile t (fun x => x.goTo c (((s.tile t).ctx c).pc + n))) := by
  obtain ⟨⟨h1, h2⟩, h3, h4, h5, h6, h7⟩ := h
  unfold issueOp
  rw [if_neg (by omega)]
  simp only [h2, h3, h4, h5, h6, h7, hf]
  simp

theorem issueOp_jump (h : s.standsAt t g c op w w2 n) (hf : f s g c w w2 = .jump u p) :
    issueOp op t s f = .next (u.updTile t (fun x => x.goTo c p)) := by
  obtain ⟨⟨h1, h2⟩, h3, h4, h5, h6, h7⟩ := h
  unfold issueOp
  rw [if_neg (by omega)]
  simp only [h2, h3, h4, h5, h6, h7, hf]
  simp

theorem issueOp_stop (h : s.standsAt t g c op w w2 n) (hf : f s g c w w2 = .stop u) : issueOp op t s f = .next u := by
  obtain ⟨⟨h1, h2⟩, h3, h4, h5, h6, h7⟩ := h
  unfold issueOp
  rw [if_neg (by omega)]
  simp only [h2, h3, h4, h5, h6, h7, hf]
  simp

/-- An instruction that waits: its stall counter counts. -/
theorem issueOp_wait (h : s.standsAt t g c op w w2 n) (hf : f s g c w w2 = .wait k) :
    issueOp op t s f = .next (s.updTile t (fun x => x.stall k)) := by
  obtain ⟨⟨h1, h2⟩, h3, h4, h5, h6, h7⟩ := h
  unfold issueOp
  rw [if_neg (by omega)]
  simp only [h2, h3, h4, h5, h6, h7, hf]
  simp

theorem issueOp_exc (h : s.standsAt t g c op w w2 n) (hf : f s g c w w2 = .exc k) :
    issueOp op t s f = .next (s.tileExc t ((s.tile t).ctx c).pc k) := by
  obtain ⟨⟨h1, h2⟩, h3, h4, h5, h6, h7⟩ := h
  unfold issueOp
  rw [if_neg (by omega)]
  simp only [h2, h3, h4, h5, h6, h7, hf]
  simp

end

/-- No check of a list fails. -/
theorem firstExc_none {l : List (Bool × Nat)} (h : ∀ p ∈ l, p.1 = false) : firstExc l = none := by
  induction l with
  | nil => rfl
  | cons p l ih =>
    unfold firstExc
    rw [h p (List.mem_cons_self ..)]
    exact ih (fun q hq => h q (List.mem_cons_of_mem _ hq))

/-- An instruction whose checks hold takes effect. -/
theorem checked_ok {l : List (Bool × Nat)} {k : Issued} (h : ∀ p ∈ l, p.1 = false) : checked l k = k := by
  unfold checked; rw [firstExc_none h]

/-- A loop whose body does not end here stays. -/
theorem loopEnds_none {l : List LoopFrame} {y : TileCtx} {pc : Nat} (h : ∀ f, l.head? = some f → f.stop ≠ pc) : loopEnds l y pc = (l, y, pc) := by
  cases l with
  | nil => rfl
  | cons f fs =>
    have := h f rfl
    unfold loopEnds; rw [if_neg (Ne.symm this)]

/-- The ends of loops change counters alone. -/
theorem loopEnds_ctx : ∀ (l : List LoopFrame) (y : TileCtx) (pc : Nat), ∃ lc, (loopEnds l y pc).2.1 = y.withLc lc
  | [], y, _ => ⟨y.lc, rfl⟩
  | f :: fs, y, pc => by
    unfold loopEnds
    split
    · dsimp only
      split
      · exact ⟨_, rfl⟩
      · obtain ⟨lc, h⟩ := loopEnds_ctx fs (y.setLc f.lc (y.lcr f.lc + 1)) pc
        exact ⟨lc, h.trans rfl⟩
    · exact ⟨y.lc, rfl⟩

/-- Going on at a word changes the loop counters and the program counter of the context alone. -/
theorem Tile.goTo_ctx (x : Tile) (c pc : Nat) : ∃ lc pc', (x.goTo c pc).ctx c = (x.ctx c |>.withLc lc |>.withPc pc') := by
  obtain ⟨lc, h⟩ := loopEnds_ctx x.u.loops (x.ctx c) pc
  refine ⟨lc, (loopEnds x.u.loops (x.ctx c) pc).2.2, ?_⟩
  rw [← h]
  exact Tile.ctx_setCtx_same x c _

theorem TileCtx.back (y : TileCtx) (xs : List (Nat × W32)) (ps : List (Nat × Bool)) (lc : List (Nat × W32)) (pc : Nat) :
    (y |>.withX xs |>.withP ps |>.withLc lc |>.withPc pc |>.withX y.x |>.withP y.p |>.withLc y.lc |>.withPc y.pc) = y := by
  cases y; rfl

theorem TileCtx.back' (y : TileCtx) (lc : List (Nat × W32)) (pc : Nat) :
    (y |>.withLc lc |>.withPc pc |>.withLc y.lc |>.withPc y.pc) = y := by
  cases y; rfl

theorem Tile.back (x : Tile) (cs : List (Nat × TileCtx)) (u : Units) : ((x.withCtxs cs).withU u |>.withCtxs x.ctxs |>.withU x.u) = x := by
  cases x; rfl

theorem Tile.goTo_regs (x : Tile) (c pc : Nat) : OnlyRegs x (x.goTo c pc) c where
  body := Tile.back x _ _
  units := rfl
  others := fun d h => Tile.ctx_setCtx_other x c _ h
  here := by
    obtain ⟨lc, pc', h⟩ := Tile.goTo_ctx x c pc
    rw [h]; exact TileCtx.back (x.ctx c) _ _ _ _

theorem Tile.goTo_on (x : Tile) (c pc : Nat) : GoesOn x (x.goTo c pc) c pc := by
  intro h
  have e := loopEnds_none (y := x.ctx c) h
  have hc : (x.goTo c pc).ctx c = (loopEnds x.u.loops (x.ctx c) pc).2.1.withPc (loopEnds x.u.loops (x.ctx c) pc).2.2 :=
    Tile.ctx_setCtx_same x c _
  refine ⟨?_, ?_, ?_⟩
  · rw [hc, e]; rfl
  · show (loopEnds x.u.loops (x.ctx c) pc).1 = _
    rw [e]
  · rw [hc, e]; rfl

@[simp] theorem Tile.goTo_xr (x : Tile) (c pc j : Nat) : ((x.goTo c pc).ctx c).xr j = (x.ctx c).xr j := by
  obtain ⟨lc, pc', h⟩ := Tile.goTo_ctx x c pc
  rw [h]; rfl

@[simp] theorem Tile.goTo_pr (x : Tile) (c pc j : Nat) : ((x.goTo c pc).ctx c).pr j = (x.ctx c).pr j := by
  obtain ⟨lc, pc', h⟩ := Tile.goTo_ctx x c pc
  rw [h]; rfl

/-- A context changed in its registers and predicates alone. -/
def TileCtx.sameButRegs (y z : TileCtx) : Prop := ∃ xs ps, z = (y |>.withX xs |>.withP ps)

theorem TileCtx.setX_same (y : TileCtx) (d : Nat) (v : W32) : y.sameButRegs (y.setX d v) := by
  unfold TileCtx.setX; split
  · exact ⟨y.x, y.p, rfl⟩
  · exact ⟨Sparse.put (fun _ => 0) y.x d v, y.p, rfl⟩

theorem TileCtx.setP_same (y : TileCtx) (d : Nat) (v : Bool) : y.sameButRegs (y.setP d v) := by
  unfold TileCtx.setP; split
  · exact ⟨y.x, y.p, rfl⟩
  · exact ⟨y.x, Sparse.put (fun _ => false) y.p d v, rfl⟩

/-- Registers of context c changed, and the way to another word taken: what the tile keeps. -/
theorem OnlyRegs.after {x : Tile} {c pc : Nat} {f : TileCtx → TileCtx} (hf : (x.ctx c).sameButRegs (f (x.ctx c))) :
    OnlyRegs x ((x.updCtx c f).goTo c pc) c where
  body := Tile.back x _ _
  units := rfl
  others := fun d h => by rw [(Tile.goTo_regs (x.updCtx c f) c pc).others d h, Tile.ctx_updCtx_other x c f h]
  here := by
    obtain ⟨lc, pc', h⟩ := Tile.goTo_ctx (x.updCtx c f) c pc
    obtain ⟨xs, ps, h2⟩ := hf
    rw [h, Tile.ctx_updCtx_same, h2]; exact TileCtx.back (x.ctx c) _ _ _ _

theorem GoesOn.after {x : Tile} {c pc : Nat} {f : TileCtx → TileCtx} (hf : (x.ctx c).sameButRegs (f (x.ctx c))) :
    GoesOn x ((x.updCtx c f).goTo c pc) c pc := by
  intro h
  obtain ⟨h1, h2, h3⟩ := Tile.goTo_on (x.updCtx c f) c pc h
  obtain ⟨xs, ps, h4⟩ := hf
  exact ⟨h1, h2, by rw [h3, Tile.ctx_updCtx_same, h4]; rfl⟩

theorem OnlyTile.updTile (s : State) (t : Nat) (f : Tile → Tile) : OnlyTile s (s.updTile t f) t := ⟨rfl, fun _ h => State.tile_updTile_other s t f h⟩
theorem OnlyTile.setTile (s : State) (t : Nat) (x : Tile) : OnlyTile s (s.setTile t x) t := ⟨rfl, fun _ h => State.tile_setTile_other s t x h⟩
theorem OnlyTile.trans {s u v : State} {t : Nat} (h : OnlyTile s u t) (h' : OnlyTile u v t) : OnlyTile s v t :=
  ⟨by have h1 := h.rest; have h2 := h'.rest; rw [← h2] at h1; exact h1, fun j q => by rw [h'.others j q, h.others j q]⟩

/-- What an instruction that writes a register leaves. -/
theorem issueOp_writeX {s : State} {op t g c n d : Nat} {w w2 : W64} {v : W32} {f : State → Nat → Nat → W64 → W64 → Issued}
    (h : s.standsAt t g c op w w2 n) (hf : f s g c w w2 = writeX s t c d v) : ∃ u, issueOp op t s f = .next u ∧ WroteX s u t c n d v := by
  refine ⟨_, issueOp_go h hf, ?_⟩
  have ht : ((s.updTile t (fun x => x.updCtx c (fun y => y.setX d v))).updTile t (fun x => x.goTo c (((s.tile t).ctx c).pc + n))).tile t =
      ((s.tile t).updCtx c (fun y => y.setX d v)).goTo c (((s.tile t).ctx c).pc + n) := by
    rw [State.tile_updTile_same, State.tile_updTile_same]
  have hs := TileCtx.setX_same ((s.tile t).ctx c) d v
  exact {
    only := (OnlyTile.updTile s t _).trans (OnlyTile.updTile _ t _)
    regs := by rw [ht]; exact OnlyRegs.after hs
    goes := by rw [ht]; exact GoesOn.after hs
    x := fun j => by rw [ht, Tile.goTo_xr, Tile.ctx_updCtx_same, TileCtx.xr_setX]
    p := fun j => by rw [ht, Tile.goTo_pr, Tile.ctx_updCtx_same, TileCtx.pr_setX] }

/-- What an instruction that writes a predicate leaves. -/
theorem issueOp_writeP {s : State} {op t g c n d : Nat} {w w2 : W64} {v : Bool} {f : State → Nat → Nat → W64 → W64 → Issued}
    (h : s.standsAt t g c op w w2 n) (hd : d ≠ 0) (hf : f s g c w w2 = writeP s t c d (some v)) :
    ∃ u, issueOp op t s f = .next u ∧ WroteP s u t c n d v := by
  have hf' : f s g c w w2 = .go (s.updTile t (fun x => x.updCtx c (fun y => y.setP d v))) := by
    rw [hf]; unfold writeP; dsimp only; rw [if_neg hd]
  refine ⟨_, issueOp_go h hf', ?_⟩
  have ht : ((s.updTile t (fun x => x.updCtx c (fun y => y.setP d v))).updTile t (fun x => x.goTo c (((s.tile t).ctx c).pc + n))).tile t =
      ((s.tile t).updCtx c (fun y => y.setP d v)).goTo c (((s.tile t).ctx c).pc + n) := by
    rw [State.tile_updTile_same, State.tile_updTile_same]
  have hs := TileCtx.setP_same ((s.tile t).ctx c) d v
  exact {
    only := (OnlyTile.updTile s t _).trans (OnlyTile.updTile _ t _)
    regs := by rw [ht]; exact OnlyRegs.after hs
    goes := by rw [ht]; exact GoesOn.after hs
    x := fun j => by rw [ht, Tile.goTo_xr, Tile.ctx_updCtx_same, TileCtx.xr_setP]
    p := fun j => by rw [ht, Tile.goTo_pr, Tile.ctx_updCtx_same, TileCtx.pr_setP]; simp [hd] }

/-- What an instruction that enters a queue leaves. -/
theorem issueOp_enter {s : State} {op t g c n : Nat} {w w2 : W64} {v : Units} {f : State → Nat → Nat → W64 → W64 → Issued}
    (h : s.standsAt t g c op w w2 n) (hf : f s g c w w2 = .go (s.setTile t ((s.tile t).withU v))) :
    ∃ u, issueOp op t s f = .next u ∧ Entered s u t c n v := by
  refine ⟨_, issueOp_go h hf, ?_⟩
  have ht : ((s.setTile t ((s.tile t).withU v)).updTile t (fun x => x.goTo c (((s.tile t).ctx c).pc + n))).tile t =
      ((s.tile t).withU v).goTo c (((s.tile t).ctx c).pc + n) := by
    rw [State.tile_updTile_same, State.tile_setTile_same]
  have hr := Tile.goTo_regs ((s.tile t).withU v) c (((s.tile t).ctx c).pc + n)
  exact {
    only := (OnlyTile.setTile s t _).trans (OnlyTile.updTile _ t _)
    body := by rw [ht]; exact Tile.back (s.tile t) _ _
    units := by rw [ht]; exact hr.units
    others := fun d hd => by rw [ht]; exact hr.others d hd
    here := by
      rw [ht]
      obtain ⟨lc, pc', q⟩ := Tile.goTo_ctx ((s.tile t).withU v) c (((s.tile t).ctx c).pc + n)
      rw [q]; exact TileCtx.back' _ _ _
    goes := by rw [ht]; exact Tile.goTo_on _ _ _ }

end Sys2Proof.Machine
end

