-- ==== Sys2Proof/Laws/Rings.lean ====
section
/-! SUPPORT. Laws of rings and units: what an event of a unit answers, and what the moves of bytes leave alone. -/
namespace Sys2Proof.Machine

/-- The event of a unit of a tile that runs a context. -/
theorem unitOp_runs {s : State} {t g c : Nat} {f : Nat → Nat → Tile → State} (h : s.runs t g c) : unitOp t s f = .next (f g c (s.tile t)) := by
  unfold unitOp; rw [if_neg (Nat.not_le.mpr h.1)]; simp only [h.2]

section
variable (x : Tile) (p : Producer) (c ri n o b z : Nat) (bs : List Byte) (r : Ring)

@[simp] theorem Tile.wrWrap_u : (x.wrWrap b z o bs).u = x.u := by unfold Tile.wrWrap; dsimp only; split <;> rfl
@[simp] theorem Tile.wrWrap_ctxs : (x.wrWrap b z o bs).ctxs = x.ctxs := by unfold Tile.wrWrap; dsimp only; split <;> rfl
@[simp] theorem Tile.wrWrap_run : (x.wrWrap b z o bs).run = x.run := by unfold Tile.wrWrap; dsimp only; split <;> rfl
@[simp] theorem Tile.wrWrap_ctx : (x.wrWrap b z o bs).ctx c = x.ctx c := by unfold Tile.ctx; rw [Tile.wrWrap_ctxs]
@[simp] theorem Tile.append_u : (x.append p c ri bs).u = x.u := by
  unfold Tile.append Tile.wrRing; dsimp only; exact Tile.wrWrap_u x _ _ _ bs
@[simp] theorem Tile.append_run : (x.append p c ri bs).run = x.run := by
  unfold Tile.append Tile.wrRing; dsimp only; exact Tile.wrWrap_run x _ _ _ bs
@[simp] theorem Tile.popRing_u : (x.popRing c ri n).u = x.u := rfl
@[simp] theorem Tile.popRing_spad : (x.popRing c ri n).spad = x.spad := rfl
@[simp] theorem Tile.setRing_u : (x.setRing c ri r).u = x.u := rfl
@[simp] theorem TileCtx.ring_setRing_same (y : TileCtx) : (y.setRing ri r).ring ri = r := Sparse.get_put_same ..
@[simp] theorem TileCtx.queue_setQueue_same (y : TileCtx) (q : Nat) (v : Queue) : (y.setQueue q v).queue q = v := Sparse.get_put_same ..
@[simp] theorem TileCtx.route_setRoute_same (y : TileCtx) (k : Nat) (v : W64) : (y.setRoute k v).route k = v := Sparse.get_put_same ..
@[simp] theorem TileCtx.apt_setApt_same (y : TileCtx) (k : Nat) (v : Aperture) : (y.setApt k v).apt k = v := Sparse.get_put_same ..
@[simp] theorem TileCtx.bind_setBind_same (y : TileCtx) (k : Nat) (v : Binding) : (y.setBind k v).bind k = v := Sparse.get_put_same ..
@[simp] theorem Tile.ring_setRing_same : (x.setRing c ri r).ring c ri = r := by
  unfold Tile.setRing Tile.ring; rw [Tile.ctx_updCtx_same]; exact TileCtx.ring_setRing_same ri r _
/-- What appending leaves of the context: its ring alone differs. -/
theorem Tile.append_ctx : (x.append p c ri bs).ctx c =
    (x.ctx c).setRing ri (((x.ring c ri).reserve p bs.length bs.length).finish (x.ring c ri).nextId) := by
  unfold Tile.append Tile.wrRing
  dsimp only
  rw [Tile.ctx_updCtx_same, Tile.wrWrap_ctx]
  rfl

end

end Sys2Proof.Machine
end

