-- ==== Sys2Proof/Laws/Mesh.lean ====
section
/-! SUPPORT. Laws of the mesh: the way of a token depends on transit entries alone, and what sending a token does. -/
namespace Sys2Proof.Machine

theorem State.leg_congr {s u : State} (h : ∀ j, (u.tile j).transit = (s.tile j).transit) (c tag : Nat) : ∀ n t, u.leg c tag n t = s.leg c tag n t
  | 0, _ => rfl
  | n + 1, t => by
    have e : (u.tile t).transitOf c tag = (s.tile t).transitOf c tag := by unfold Tile.transitOf; rw [h t]
    unfold State.leg
    rw [e]
    dsimp only
    repeat' split
    all_goals first | rfl | exact State.leg_congr h c tag n _

theorem State.backLeg_congr {s u : State} (h : ∀ j, (u.tile j).transit = (s.tile j).transit) (c tag : Nat) : ∀ n t,
    u.backLeg c tag n t = s.backLeg c tag n t
  | 0, _ => rfl
  | n + 1, t => by
    have e : (u.tile t).transitOf c tag = (s.tile t).transitOf c tag := by unfold Tile.transitOf; rw [h t]
    unfold State.backLeg
    rw [e]
    dsimp only
    repeat' split
    all_goals first | rfl | exact State.backLeg_congr h c tag n _

/-- A tile set to one with the same transit entries leaves every way. -/
theorem State.transit_setTile {s : State} {t : Nat} {x : Tile} (h : x.transit = (s.tile t).transit) (j : Nat) :
    ((s.setTile t x).tile j).transit = (s.tile j).transit := by
  by_cases e : j = t
  · subst e; rw [State.tile_setTile_same, h]
  · rw [State.tile_setTile_other _ _ _ e]

theorem State.leg_setTile {s : State} {t : Nat} {x : Tile} (h : x.transit = (s.tile t).transit) (c tag n p : Nat) :
    (s.setTile t x).leg c tag n p = s.leg c tag n p := State.leg_congr (State.transit_setTile h) c tag n p

/-- What `sendToken` does, by the way that the token takes: `x` is the sending tile with the credit and the sequence number taken. -/
theorem State.sendToken_eq (s : State) (t g c r : Nat) (control : Bool) (payload : List Byte) :
    let v := ((s.tile t).ctx c).route r
    let k : Token := ⟨control, c, fld v 14 9, fld v 53 48, (s.sec g c).epoch % 65536, g, payload, false⟩
    let u := s.setTile t ((s.tile t).updCtx c (fun y => y.setRoute r (setFld (setFld v 4 0 (fld v 4 0 - 1)) 53 48 ((fld v 53 48 + 1) % 64))))
    s.sendToken t g c r control payload = match s.leg c (fld v 14 9) maxHops t with
      | .stray d => u.updTile d Tile.stray
      | .home d _ => u.withFlight (s.flight ++ [⟨t, c, r, fld v 43 32, k, d, none, 0⟩])
      | .edge d p => u.withFlight (s.flight ++ [⟨t, c, r, fld v 43 32, k, d, some (d, p), s.nextTurn⟩]) := by
  intro v k u
  have e := State.leg_setTile (s := s) (t := t)
    (x := (s.tile t).updCtx c (fun y => y.setRoute r (setFld (setFld v 4 0 (fld v 4 0 - 1)) 53 48 ((fld v 53 48 + 1) % 64)))) rfl c (fld v 14 9) maxHops t
  unfold State.sendToken
  dsimp only
  show (match u.leg c (fld v 14 9) maxHops t with
    | .stray d => u.updTile d Tile.stray
    | .home d _ => _
    | .edge d p => _) = _
  rw [show u.leg c (fld v 14 9) maxHops t = s.leg c (fld v 14 9) maxHops t from e]
  split <;> rfl

end Sys2Proof.Machine
end

