-- ==== Sys2Proof/Laws/Regs.lean ====
section
/-! SUPPORT. Laws of registers: a read after a write of a register, a field, a bit and a counter, and what a register row answers. -/
namespace Sys2Proof.Machine

/-! ## Fields of a word -/

theorem testBit_putBits (n lo w v i : Nat) :
    (putBits n lo w v).testBit i = if i < lo then n.testBit i else if i < lo + w then v.testBit (i - lo) else n.testBit i := by
  have e : putBits n lo w v = 2 ^ lo * (2 ^ w * (n / 2 ^ (lo + w)) + v % 2 ^ w) + n % 2 ^ lo := by
    unfold putBits
    rw [Nat.mul_add, ← Nat.mul_assoc, ← Nat.pow_add, Nat.mul_comm (n / _), Nat.mul_comm (v % _)]; omega
  rw [e, Nat.testBit_two_pow_mul_add _ (Nat.mod_lt _ (Nat.two_pow_pos _)), Nat.testBit_two_pow_mul_add _ (Nat.mod_lt _ (Nat.two_pow_pos _))]
  simp only [Nat.testBit_mod_two_pow, Nat.testBit_div_two_pow]
  by_cases a : i < lo
  · simp [a]
  · simp only [a, if_false]
    by_cases b : i < lo + w
    · simp [b, show i - lo < w by omega]
    · simp only [b, if_false, show ¬(i - lo < w) by omega]
      congr 1; omega

theorem getLsbD_setFld (x : W64) (hi lo v i : Nat) (h : lo ≤ hi) :
    (setFld x hi lo v).getLsbD i = (decide (i < 64) && if lo ≤ i ∧ i ≤ hi then v.testBit (i - lo) else x.getLsbD i) := by
  unfold setFld
  rw [BitVec.getLsbD_ofNat, testBit_putBits, ← BitVec.testBit_toNat]
  congr 1
  by_cases a : i < lo
  · simp [a, show ¬(lo ≤ i ∧ i ≤ hi) by omega]
  · by_cases b : i ≤ hi
    · simp [a, show i < lo + (hi + 1 - lo) by omega, show lo ≤ i ∧ i ≤ hi by omega]
    · simp [a, show ¬(i < lo + (hi + 1 - lo)) by omega, show ¬(lo ≤ i ∧ i ≤ hi) by omega]

theorem testBit_fld (x : W64) (hi lo i : Nat) : (fld x hi lo).testBit i = (decide (i < hi + 1 - lo) && x.getLsbD (lo + i)) := by
  unfold fld bitsAt
  rw [Nat.testBit_mod_two_pow, Nat.testBit_div_two_pow, ← BitVec.testBit_toNat, Nat.add_comm i lo]

/-- The field that was set reads what was put there. -/
theorem fld_setFld_same (x : W64) {hi lo : Nat} (v : Nat) (h : hi < 64) (hl : lo ≤ hi) : fld (setFld x hi lo v) hi lo = v % 2 ^ (hi + 1 - lo) := by
  apply Nat.eq_of_testBit_eq; intro i
  rw [testBit_fld, getLsbD_setFld _ _ _ _ _ hl, Nat.testBit_mod_two_pow]
  by_cases a : i < hi + 1 - lo
  · simp [a, show lo + i < 64 by omega, show lo + i ≤ hi by omega]
  · simp [a]

/-- A field apart from the one that was set reads as before. -/
theorem fld_setFld_other (x : W64) {hi lo a b : Nat} (v : Nat) (hl : lo ≤ hi) (ha : a < 64) (h : a < lo ∨ hi < b) : fld (setFld x hi lo v) a b = fld x a b := by
  apply Nat.eq_of_testBit_eq; intro i
  rw [testBit_fld, testBit_fld, getLsbD_setFld _ _ _ _ _ hl]
  by_cases c : i < a + 1 - b
  · simp [c, show b + i < 64 by omega, show ¬(lo ≤ b + i ∧ b + i ≤ hi) by omega]
  · simp [c]

theorem bit_setFld_other (x : W64) {hi lo i : Nat} (v : Nat) (hl : lo ≤ hi) (hi64 : i < 64) (h : i < lo ∨ hi < i) : bit (setFld x hi lo v) i = bit x i := by
  unfold bit; rw [getLsbD_setFld _ _ _ _ _ hl]; simp [hi64, show ¬(lo ≤ i ∧ i ≤ hi) by omega]
theorem bit_setBit_same (x : W64) {i : Nat} (b : Bool) (h : i < 64) : bit (setBit x i b) i = b := by
  unfold bit setBit; rw [getLsbD_setFld _ _ _ _ _ (Nat.le_refl i)]; cases b <;> simp [h]
theorem bit_setBit_other (x : W64) {i j : Nat} (b : Bool) (hj : j < 64) (h : j ≠ i) : bit (setBit x i b) j = bit x j :=
  bit_setFld_other x _ (Nat.le_refl i) hj (by omega)
theorem fld_setBit_other (x : W64) {i a b : Nat} (v : Bool) (ha : a < 64) (h : a < i ∨ i < b) : fld (setBit x i v) a b = fld x a b :=
  fld_setFld_other x _ (Nat.le_refl i) ha h

/-! ## Registers -/

@[simp] theorem State.reg_setReg_same (s : State) (o : Nat) (v : W64) : (s.setReg o v).reg o = v := Sparse.get_put_same ..
theorem State.reg_setReg_other (s : State) {o p : Nat} (v : W64) (h : p ≠ o) : (s.setReg o v).reg p = s.reg p := Sparse.get_put_other _ _ _ h
@[simp] theorem State.reg_withRegs_self (s u : State) : (u.withRegs s.regs).reg = s.reg := rfl
theorem State.setReg_only (s : State) (o : Nat) (v : W64) : (s.setReg o v).withRegs s.regs = s := rfl
theorem State.reg_setRf_other (s : State) {o p : Nat} (hi lo v : Nat) (h : p ≠ o) : (s.setRf o hi lo v).reg p = s.reg p := s.reg_setReg_other _ h
theorem State.reg_setRb_other (s : State) {o p : Nat} (i : Nat) (b : Bool) (h : p ≠ o) : (s.setRb o i b).reg p = s.reg p := s.reg_setReg_other _ h
theorem State.reg_count_other (s : State) {o p : Nat} (hi lo n : Nat) (h : p ≠ o) : (s.count o hi lo n).reg p = s.reg p := s.reg_setReg_other _ h

theorem State.rf_setRf_same (s : State) (o v : Nat) {hi lo : Nat} (h : hi < 64) (hl : lo ≤ hi) : (s.setRf o hi lo v).rf o hi lo = v % 2 ^ (hi + 1 - lo) := by
  unfold State.rf State.setRf; rw [State.reg_setReg_same]; exact fld_setFld_same _ v h hl
theorem State.rf_setRf_apart (s : State) (o v : Nat) {hi lo a b : Nat} (hl : lo ≤ hi) (ha : a < 64) (h : a < lo ∨ hi < b) :
    (s.setRf o hi lo v).rf o a b = s.rf o a b := by
  unfold State.rf State.setRf; rw [State.reg_setReg_same]; exact fld_setFld_other _ v hl ha h
theorem State.rf_setRf_other (s : State) {o p : Nat} (hi lo v a b : Nat) (h : p ≠ o) : (s.setRf o hi lo v).rf p a b = s.rf p a b := by
  unfold State.rf; rw [State.reg_setRf_other _ _ _ _ h]
theorem State.rb_setRb_same (s : State) (o : Nat) {i : Nat} (b : Bool) (h : i < 64) : (s.setRb o i b).rb o i = b := by
  unfold State.rb State.setRb; rw [State.reg_setReg_same]; exact bit_setBit_same _ b h
theorem State.rb_setRb_apart (s : State) (o : Nat) {i j : Nat} (b : Bool) (hj : j < 64) (h : j ≠ i) : (s.setRb o i b).rb o j = s.rb o j := by
  unfold State.rb State.setRb; rw [State.reg_setReg_same]; exact bit_setBit_other _ b hj h
theorem State.rb_setRb_other (s : State) {o p : Nat} (i j : Nat) (b : Bool) (h : p ≠ o) : (s.setRb o i b).rb p j = s.rb p j := by
  unfold State.rb; rw [State.reg_setRb_other _ _ _ h]
theorem State.rb_setRf_other (s : State) {o p : Nat} (hi lo v j : Nat) (h : p ≠ o) : (s.setRf o hi lo v).rb p j = s.rb p j := by
  unfold State.rb; rw [State.reg_setRf_other _ _ _ _ h]
theorem State.rf_setRb_other (s : State) {o p : Nat} (i a c : Nat) (b : Bool) (h : p ≠ o) : (s.setRb o i b).rf p a c = s.rf p a c := by
  unfold State.rf; rw [State.reg_setRb_other _ _ _ h]
theorem State.rb_setRf_apart (s : State) (o v : Nat) {hi lo i : Nat} (hl : lo ≤ hi) (hi64 : i < 64) (h : i < lo ∨ hi < i) : (s.setRf o hi lo v).rb o i = s.rb o i := by
  unfold State.rb State.setRf; rw [State.reg_setReg_same]; exact bit_setFld_other _ v hl hi64 h
theorem State.rf_setRb_apart (s : State) (o : Nat) {i a b : Nat} (v : Bool) (ha : a < 64) (h : a < i ∨ i < b) : (s.setRb o i v).rf o a b = s.rf o a b := by
  unfold State.rf State.setRb; rw [State.reg_setReg_same]; exact fld_setBit_other _ v ha h

theorem fld_lt (x : W64) (hi lo : Nat) : fld x hi lo < 2 ^ (hi + 1 - lo) := Nat.mod_lt _ (Nat.two_pow_pos _)
/-- A counter rises and saturates (R16). -/
theorem State.rf_count_same (s : State) (o n : Nat) {hi lo : Nat} (h : hi < 64) (hl : lo ≤ hi) :
    (s.count o hi lo n).rf o hi lo = min (s.rf o hi lo + n) (2 ^ (hi + 1 - lo) - 1) := by
  have p : 0 < 2 ^ (hi + 1 - lo) := Nat.two_pow_pos _
  unfold State.count satAdd
  rw [State.rf_setRf_same _ _ _ h hl]
  exact Nat.mod_eq_of_lt (by omega)

/-! ## Register rows -/

/-- A register row always answers a next state. -/
theorem regRow_next (s : State) (o : Nat) (f : State → Nat × State) : ∃ u, regRow s o f = .next u := by
  unfold regRow; repeat' split
  all_goals exact ⟨_, rfl⟩

/-- What a register row answers for a register that is open. -/
theorem regRow_open {s : State} {o : Nat} (f : State → Nat × State) (hd : s.regDim o = false) (hr : s.regReady o = true) :
    regRow s o f = .next ((f s).2.answer (f s).1) := by
  unfold regRow; simp [hd, hr]

end Sys2Proof.Machine
end

