-- ==== Sys2Proof/Tests/Slice0.lean ====
section
/-! SUPPORT. Tests: the refusals of WellFormed, worked examples of the spec, and states that meet the hypotheses of the statements. -/
namespace Sys2Proof.Tests
set_option Elab.async false
open Sys2Proof Sys2Proof.Machine

/-! ## Small states -/

/-- A word of an opcode with fields at their lowest bits. -/
def word (o : Nat) (fs : List (Nat × Nat)) : W64 := BitVec.ofNat 64 (2 ^ 56 * o + fs.foldl (fun a f => a + f.2 * 2 ^ f.1) 0)
/-- A register value with fields at their lowest bits. -/
def reg (fs : List (Nat × Nat)) : W64 := word 0 fs
/-- An enabled ring at granule `b` of `n` granules, in format `f` and mode `m`, that holds `k` bytes. -/
def ringOf (b n f m k : Nat) : Ring := { Ring.init with cfg := reg [(0, b), (16, n), (32, f), (40, m), (48, 1)], tail := k }
/-- Context 0 with a share of two words. -/
def ctx0 : TileCtx := { TileCtx.init with pstore := reg [(16, 2)], spad := reg [(16, 64)] }
/-- A tile that runs context 0 of region 0 with units `u` and stands at the words `w` and `w2`. -/
def tileOf (w w2 : W64) (y : TileCtx) (u : Units) : Tile :=
  { Tile.init with run := some (0, 0), ctxs := [(0, y)], pstore := [(0, w), (1, w2)], u := { u with issue := .running } }
/-- The chip with that tile as tile 0. -/
def chip (x : Tile) : State := State.reset.setTile 0 x
/-- A tile that stands at `w`, with registers x1 = a, x2 = b. -/
def at2 (w w2 : W64) (a b : W32) : State := chip (tileOf w w2 { ctx0 with x := [(1, a), (2, b)] } Units.init)

/-- An access whose answer is `v`. -/
theorem ok_of_toOption {α : Type} {x : Except Park α} {v : α} (h : x.toOption = some v) : x = .ok v := by
  cases x with
  | ok a => rw [Except.toOption, Option.some.injEq] at h; rw [h]
  | error p => cases h

/-- Tile 0 runs context 0 of region 0 and stands at an instruction of opcode `op` and of `n` words that executes. -/
def stands (s : State) (op n : Nat) : Bool :=
  decide ((s.tile 0).run = some (0, 0)) && decide ((s.tile 0).u.issue = .running) &&
    match (s.tile 0).fetch 0 with
    | .instr w w2 k => decide (k = n) && decide (opOf w = op) && executes ((s.tile 0).ctx 0) w && !reservedSet w w2
    | .exc _ => false

theorem stands_standsAt (s : State) (op n : Nat) (h : stands s op n = true) : ∃ w w2, s.standsAt 0 0 0 op w w2 n := by
  unfold stands at h
  split at h
  · rename_i w w2 k hf
    simp only [Bool.and_eq_true, decide_eq_true_eq, Bool.not_eq_true'] at h
    obtain ⟨⟨h1, h2⟩, ⟨⟨hk, ho⟩, he⟩, hr⟩ := h
    subst hk
    exact ⟨w, w2, ⟨by decide, h1⟩, h2, hf, ho, he, hr⟩
  · simp at h

/-- The next state of a step on a command. -/
def after (c : Instr) (s : State) : State :=
  match exec c s with
  | .next u => u
  | _ => s
/-- The command answers a next state. -/
def goesOn (c : Instr) (s : State) : Bool :=
  match exec c s with
  | .next _ => true
  | _ => false

/-! ## WellFormed: a unit that the package does not hold is refused, and the last one that it holds is not -/

theorem test_wf_refuses_1 : ([
    .pkgnetLinkFail 40 0, .pkgnetLinkFail 0 25, .tileRingCfgWrite 2304 0 0 0, .tileRingCfgWrite 0 8 0 0, .tileRingCfgWrite 0 0 16 0, .tileAptWinWrite 2304 0 0 0, .tileAptWinWrite 0 8 0 0, .tileAptWinWrite 0 0 8 0,
    .tileAptSrcWrite 2304 0 0 0, .tileAptSrcWrite 0 8 0 0, .tileAptSrcWrite 0 0 8 0, .tileCtxPstoreWrite 2304 0 0, .tileCtxPstoreWrite 0 8 0, .tileCtxSpadWrite 2304 0 0, .tileCtxSpadWrite 0 8 0, .tileFpctlWrite 2304 0 0,
    .tileFpctlWrite 0 8 0, .cdTileParkWrite 16 0 0, .cdTileParkWrite 0 3 0, .parkChangeDone 2304, .tileInternalError 2304 0 0, .nop 2304, .add 2304, .sub 2304,
    .and 2304, .or 2304, .xor 2304, .sll 2304, .srl 2304, .sra 2304, .mul 2304, .mins 2304,
    .maxs 2304, .minu 2304, .maxu 2304, .addi 2304, .li 2304, .andi 2304, .ori 2304, .mfs 2304] : List Instr).all (fun i => !i.wf) = true := by decide +kernel
theorem test_wf_refuses_2 : ([
    .ldx 2304, .pcmp 2304, .plog 2304, .pcmpi 2304, .selx 2304, .select 2304 .issue, .mma 2304, .mmaFirstRead 2304,
    .mmaKblockRead 2304, .swap 2304, .swapExecute 2304, .drain 2304, .drainStart 2304, .drainReadout 2304, .fill 2304, .fillStart 2304,
    .fillArrayWrite 2304, .rfu 2304, .rfuRowRead 2304, .push 2304 .issue, .pop 2304 .issue, .rcopy 2304 .issue, .strm 2304, .streamPieceIssue 2304 0,
    .streamPieceArrival 2304 0 [], .streamWritePieceComplete 2304 0, .rearm 2304 .issue, .send 2304, .sendc 2304 .issue, .tokenSend 2304, .tokenArrival 2304 0 0 false, .creditArrival 2304 0 0,
    .recv 2304 .issue, .recvc 2304, .steer 2304 .issue, .steerPairForm 2304, .loop 2304, .openAperture 2304, .closeAperture 2304, .fence 2304] : List Instr).all (fun i => !i.wf) = true := by decide +kernel
theorem test_wf_refuses_3 : ([
    .endInstr 2304, .endReport 2304, .loadSection 16 0 [], .loadSection 0 8 [], .sectionLoaded 16 0, .sectionLoaded 0 8, .startSection 16 0, .startSection 0 8,
    .sectionStart 16 0, .sectionStart 0 8, .sectionEnd 16 0, .sectionEnd 0 8, .sectionFaulted 16 0, .sectionFaulted 0 8, .watchdogFire 16, .spillMove 2304 0 0,
    .reinject 2304 0 0, .prismDoorbell 16 0, .prismJobStart 16, .prismTrigger 16, .prismJobEnd 16 [], .tintDoorbell 16 0, .tintJobStart 16 [], .tintTrigger 16 [],
    .tintCacheFill 16 [], .tintRecordWrite 16 [], .tintRecordRetry 16, .tintDeliveryTimeout 16, .tintJobEnd 16, .tintCtlWrite 16 0, .cdDsCarveWrite 16 0 0, .cdDsCarveWrite 0 16 0,
    .cdT1CarveWrite 16 0 0, .cdT1CarveWrite 0 16 0, .memT2CarveWrite 16 0, .memLoanWrite 64 false 0, .grant 64, .recall 64, .loanGraceExpiry 64, .loanScrubDone 64] : List Instr).all (fun i => !i.wf) = true := by decide +kernel
theorem test_wf_refuses_4 : ([
    .redirectFlush 16 0, .memHometabWrite 2 0, .homeBusyReissue 2304 0, .reclaim 2 0, .setRo 2 0, .clearRo 2 0, .resolve 2 0, .abortOut 2 0,
    .cmdqPost 16 0 0 0, .cmdqPost 0 16 0 0, .cmdqPost 0 0 8 0, .cmdqResume 16 0, .cmdqResume 0 8, .cmdqFlush 16 0, .cmdqFlush 0 8, .setLength 16 0,
    .setLength 0 8, .rearmCommand 16 0, .rearmCommand 0 8, .dispatch 16 0, .dispatch 0 8, .fenceCommand 16 0, .fenceCommand 0 8, .fenceFlagPoll 16 0,
    .fenceFlagPoll 0 8, .signal 16 0, .signal 0 8, .tableSync 16 0, .tableSync 0 8, .tableSyncComplete 16 0, .tableSyncComplete 0 8, .lanternAccess 32 0 ⟨.load 4, .right⟩,
    .evqCfgWrite true 8 0, .evqCfgWrite false 32 0, .cdRegionTilesWrite 16 0 0 0, .cdRegionTilesWrite 0 16 0 0, .cdRegionTilesWrite 0 0 3 0, .hubRegionWrite 16 0, .regionReset 16, .regionResetDone 16] : List Instr).all (fun i => !i.wf) = true := by decide +kernel
theorem test_wf_refuses_5 : ([
    .efnLaneLoss 2, .efnLaneRejoin 2, .ethFrameReceive 288 [] 0 0, .pfcPauseExpiry 288 0, .pfcPauseExpiry 0 8, .pfcRefresh 288 0, .pfcRefresh 0 8, .egressFrameSend 288,
    .portCfgWrite 36 0, .full 36, .portTrainDone 36 false, .fastRetrainTimeout 36, .portLinkUp 288, .portLinkDown 288 .light, .laserFeedLow 36, .laserFeedRestored 36,
    .portSaWrite 288 0 0 0, .portSaWrite 0 20 0 0, .portSaWrite 0 0 8 0, .portSubSecWrite 288 0, .ptpSyncTimer 288, .ptpAnnounceTimer 288, .ptpDelayTimer 288, .helloTimer 272,
    .neighbourTimeout 272, .release 64, .recallDeadline 64, .functionReady 6 0, .functionReady 15 0, .functionReady 100 0, .trainingFailed 6, .trainingFailed 15,
    .trainingFailed 100, .pwrCdClkWrite 16 0, .dvfsChangeDone 16, .scrub 0 0 .clean, .scrub 4 0 .clean, .memEraseClear 16 0, .lightRestored 288, .deviceTimeComparator 32] : List Instr).all (fun i => !i.wf) = true := by decide +kernel
theorem test_wf_refuses_6 : ([
    .registerWrite (.core 32) 0 8 0, .registerWrite (.region 0) 0 8 0, .registerWrite (.chip 0x3FFF) 0 8 0, .rcRead (.region 0) 0 8, .domainStop (.array 16), .domainStop (.dieStore 16), .domainStop (.hbm 16), .domainStop (.ddr 16),
    .domainStop (.mdCore 2), .domainStop (.efnil 2), .domainStop (.odCore 6), .domainStop (.portTx 36), .domainStop (.portRx 288), .domainWake (.array 16)] : List Instr).all (fun i => !i.wf) = true := by decide +kernel
theorem test_wf_accepts_1 : ([
    .pkgnetLinkFail 39 24, .tileRingCfgWrite 2303 7 15 0, .tileAptWinWrite 2303 7 7 0, .tileAptSrcWrite 2303 7 7 0, .tileCtxPstoreWrite 2303 7 0, .tileCtxSpadWrite 2303 7 0, .tileFpctlWrite 2303 7 0, .cdTileParkWrite 15 2 0,
    .parkChangeDone 2303, .tileInternalError 2303 0 0, .nop 2303, .add 2303, .sub 2303, .and 2303, .or 2303, .xor 2303,
    .sll 2303, .srl 2303, .sra 2303, .mul 2303, .mins 2303, .maxs 2303, .minu 2303, .maxu 2303,
    .addi 2303, .li 2303, .andi 2303, .ori 2303, .mfs 2303, .ldx 2303, .pcmp 2303, .plog 2303,
    .pcmpi 2303, .selx 2303, .select 2303 .issue, .mma 2303, .mmaFirstRead 2303, .mmaKblockRead 2303, .swap 2303, .swapExecute 2303] : List Instr).all (fun i => i.wf) = true := by decide +kernel
theorem test_wf_accepts_2 : ([
    .drain 2303, .drainStart 2303, .drainReadout 2303, .fill 2303, .fillStart 2303, .fillArrayWrite 2303, .rfu 2303, .rfuRowRead 2303,
    .push 2303 .issue, .pop 2303 .issue, .rcopy 2303 .issue, .strm 2303, .streamPieceIssue 2303 0, .streamPieceArrival 2303 0 [], .streamWritePieceComplete 2303 0, .rearm 2303 .issue,
    .send 2303, .sendc 2303 .issue, .tokenSend 2303, .tokenArrival 2303 0 0 false, .creditArrival 2303 0 0, .recv 2303 .issue, .recvc 2303, .steer 2303 .issue,
    .steerPairForm 2303, .loop 2303, .openAperture 2303, .closeAperture 2303, .fence 2303, .endInstr 2303, .endReport 2303, .loadSection 15 7 [],
    .sectionLoaded 15 7, .startSection 15 7, .sectionStart 15 7, .sectionEnd 15 7, .sectionFaulted 15 7, .watchdogFire 15, .spillMove 2303 0 0, .reinject 2303 0 0] : List Instr).all (fun i => i.wf) = true := by decide +kernel
theorem test_wf_accepts_3 : ([
    .prismDoorbell 15 0, .prismJobStart 15, .prismTrigger 15, .prismJobEnd 15 [], .tintDoorbell 15 0, .tintJobStart 15 [], .tintTrigger 15 [], .tintCacheFill 15 [],
    .tintRecordWrite 15 [], .tintRecordRetry 15, .tintDeliveryTimeout 15, .tintJobEnd 15, .tintCtlWrite 15 0, .cdDsCarveWrite 15 15 0, .cdT1CarveWrite 15 15 0, .memT2CarveWrite 15 0,
    .memLoanWrite 63 false 0, .grant 63, .recall 63, .loanGraceExpiry 63, .loanScrubDone 63, .redirectFlush 15 0, .memHometabWrite 1 0, .homeBusyReissue 2303 0,
    .reclaim 1 0, .setRo 1 0, .clearRo 1 0, .resolve 1 0, .abortOut 1 0, .cmdqPost 15 15 7 0, .cmdqResume 15 7, .cmdqFlush 15 7,
    .setLength 15 7, .rearmCommand 15 7, .dispatch 15 7, .fenceCommand 15 7, .fenceFlagPoll 15 7, .signal 15 7, .tableSync 15 7, .tableSyncComplete 15 7] : List Instr).all (fun i => i.wf) = true := by decide +kernel
theorem test_wf_accepts_4 : ([
    .lanternAccess 31 0 ⟨.load 4, .right⟩, .evqCfgWrite true 7 0, .evqCfgWrite false 31 0, .cdRegionTilesWrite 15 15 2 0, .hubRegionWrite 15 0, .regionReset 15, .regionResetDone 15, .efnLaneLoss 1,
    .efnLaneRejoin 1, .ethFrameReceive 287 [] 0 0, .pfcPauseExpiry 287 7, .pfcRefresh 287 7, .egressFrameSend 287, .portCfgWrite 35 0, .full 35, .portTrainDone 35 false,
    .fastRetrainTimeout 35, .portLinkUp 287, .portLinkDown 287 .light, .laserFeedLow 35, .laserFeedRestored 35, .portSaWrite 287 19 7 0, .portSubSecWrite 287 0, .ptpSyncTimer 287,
    .ptpAnnounceTimer 287, .ptpDelayTimer 287, .helloTimer 271, .neighbourTimeout 271, .release 63, .recallDeadline 63, .functionReady 5 0, .functionReady 16 0,
    .functionReady 99 0, .trainingFailed 5, .trainingFailed 16, .trainingFailed 99, .pwrCdClkWrite 15 0, .dvfsChangeDone 15, .scrub 1 0 .clean, .scrub 3 0 .clean] : List Instr).all (fun i => i.wf) = true := by decide +kernel
theorem test_wf_accepts_5 : ([
    .memEraseClear 15 0, .lightRestored 287, .deviceTimeComparator 31, .registerWrite (.core 31) 0 8 0, .registerWrite (.chip 0x3FFE) 0 8 0, .rcRead .efnil 0 8, .domainStop (.array 15), .domainStop (.dieStore 15),
    .domainStop (.hbm 15), .domainStop (.ddr 15), .domainStop (.mdCore 1), .domainStop (.efnil 1), .domainStop (.odCore 5), .domainStop (.portTx 35), .domainStop (.portRx 287), .domainWake .hub] : List Instr).all (fun i => i.wf) = true := by decide +kernel

/-! ## Worked examples of the spec -/

/-- After R14, R22: tile t(17, 40) is the tile of index 1,672, of local index 64 on CD11, and its window begins at 0x0C80_0000. -/
theorem test_example_tile : tileDie 1672 = 11 ∧ tileLocal 1672 = 64 ∧ tileAt 11 64 = 1672 ∧ cdOff 11 (0x400000 + 64 * 0x10000) = 0xC800000 := by decide
/-- After R290: byte 8 GiB of HBM[9] on this chip. -/
theorem test_example_address : gaChip 0xFFFC809200000000 = 0x3FFF ∧ gaSpace 0xFFFC809200000000 = 2 ∧ gaOff 0xFFFC809200000000 = 0x9200000000 := by decide
/-- "A narrow K-step pair to an F8E4 result": 10.0 − 4.875 = 5.125, + 0.5 = 5.625; 22.5 becomes 0x63 with NX. -/
theorem test_example_ksteps : kStepFloat .nearEven 3 0x4D 6 0xB 0x41200000 = (0x40A40000, 0) ∧ kStepFloat .nearEven 3 0x38 6 0x2 0x40A40000 = (0x40B40000, 0) ∧
    toFmt 3 .nearEven (f32 0x41B40000) = (0x63, flNX) := by decide +kernel
/-- The same element under drain rounding mode 0b01: 24 when its r is below 16,384. -/
theorem test_example_stochastic : (toFmt 3 (.stoch 16383) (f32 0x41B40000)).1 = 0x64 ∧ (toFmt 3 (.stoch 16384) (f32 0x41B40000)).1 = 0x63 := by decide +kernel
/-- After R54: binary32 0x3F80_0001 in W form. -/
theorem test_example_wform : toW 0 0x3F800001 = [⟨false, 501, 0x800⟩, ⟨false, 489, 1⟩] := by decide +kernel
/-- After R471: a WRITE of 256 B. -/
theorem test_example_header : (ouvHeader 31 2 0 64 0x123 0x456 2 0x2A 0 0xABC 0x1001 0 0x1158809200000000).take 16 =
    toBe 4 0x7E040040 ++ toBe 4 0x048C4562 ++ toBe 4 0x02A00ABC ++ toBe 4 0x1001 := by decide +kernel
/-- "First choices served first": descriptor, entries, scores. -/
def exDesc : List Byte := List.replicate 8 0 ++ [4, 0, 3, 0x12, 2, 0] ++ List.replicate 50 0
def exEnts : List (List Byte) := List.replicate 4 ([3] ++ List.replicate 15 0)
def exSel : List TokenSel := [[0x3F800000, 0x40400000, 0x40000000, 0], [0x40000000, 0x40400000, 0, 0x40000000], [0, 0x40800000, 0x3F800000, 0x3F800000],
  [0x3F000000, 0x40200000, 0, 0x7FC00000]].map (selectToken exDesc exEnts)
theorem test_example_choices : exSel.map (fun s => s.picks.map (·.1)) = [[1, 2], [1, 0], [1, 2], [1, 0]] ∧ exSel.map (·.nan) = [false, false, false, true] ∧
    (allocate exDesc exEnts false exSel).1.map (fun e => (e.accepted, e.overflow)) = [(2, 0), (2, 2), (2, 0), (0, 0)] := by decide +kernel
/-- The check values of CRC-32C and of the Ethernet FCS for the nine digits. -/
theorem test_example_crc : crc32c [0x31, 0x32, 0x33, 0x34, 0x35, 0x36, 0x37, 0x38, 0x39] = 0xE3069283 ∧
    fcs [0x31, 0x32, 0x33, 0x34, 0x35, 0x36, 0x37, 0x38, 0x39] = toLe 4 0xCBF43926 := by decide +kernel
/-! ## Tile instructions -/

theorem test_hyp_ScalarRegisterResults :
    (scalarOps.all fun e => stands (at2 (word e.2.1 [(47, 3), (42, 1), (37, 2)]) 0 1 2) e.2.1 1) = true := by decide +kernel
theorem test_hyp_ScalarImmediateResults :
    (immediateOps.all fun e => stands (at2 (word e.2.1 [(47, 3)]) 5 1 2) e.2.1 2) = true := by decide +kernel
theorem test_hyp_SelxResults : stands (at2 (word 0x1C [(47, 3), (42, 1), (37, 2), (34, 7)]) 0 1 2) 0x1C 1 = true := by decide +kernel
theorem test_add_wraps : ((after (.add 0) (at2 (word 0x01 [(47, 3), (42, 1), (37, 2)]) 0 0xFFFFFFFF 2)).tile 0 |>.ctx 0).xr 3 = 1 := by decide +kernel
theorem test_sra_is_arithmetic : ((after (.sra 0) (at2 (word 0x08 [(47, 3), (42, 1), (37, 2)]) 0 0x80000000 31)).tile 0 |>.ctx 0).xr 3 = 0xFFFFFFFF := by decide +kernel
theorem test_x0_reads_zero : ((after (.li 0) (at2 (word 0x11 []) 5 1 2)).tile 0 |>.ctx 0).xr 0 = 0 := by decide +kernel
/-- A tile that stands at a first word `w`, with ring 1 that holds 96 bytes. -/
def withRing (w : W64) : State := chip (tileOf w 0 { ctx0 with rings := [(1, ringOf 0 2 1 0 96)] } Units.init)
theorem test_hyp_SpecialValuesAndLoads : stands (withRing (word 0x14 [(47, 3), (39, 0x21)])) 0x14 1 = true ∧
    mfsValue (withRing 0) 0 0 0 0x21 = some 96 ∧ stands (withRing (word 0x15 [(47, 3), (43, 1)])) 0x15 1 = true ∧
    stands (at2 0 0 1 2) 0x00 1 = true := by decide +kernel
theorem test_hyp_PredicateResults : stands (at2 (word 0x18 [(49, 1), (44, 1), (39, 2), (36, 5)]) 0 1 2) 0x18 1 = true ∧
    stands (at2 (word 0x1A [(49, 7), (44, 1)]) 0 1 2) 0x1A 2 = true ∧ stands (at2 (word 0x19 [(49, 1), (40, 3)]) 0 1 2) 0x19 1 = true ∧
    stands (at2 (word 0x18 [(49, 1), (36, 6)]) 0 1 2) 0x18 1 = true ∧ stands (at2 (word 0x19 [(49, 1), (40, 4)]) 0 1 2) 0x19 1 = true := by decide +kernel
theorem test_plog_and_not : ((after (.plog 0) (at2 (word 0x19 [(49, 1), (40, 3)]) 0 1 2)).tile 0 |>.ctx 0).pr 1 = false := by decide +kernel

/-- A context with rings 1 and 2, route 3, queues 4 and 5 and stream binding 6, x1 = 64. -/
def ctxU : TileCtx :=
  { ctx0 with
    x := [(1, 64)], rings := [(1, ringOf 0 2 1 0 128), (2, ringOf 2 2 1 0 0)], routes := [(3, reg [(0, 2), (8, 1)])],
    queues := [(4, { Queue.init with cfg := reg [(0, 1)] }), (5, { Queue.init with cfg := reg [(0, 1)] })],
    binds := [(6, { Binding.init with bound := true, rd := true, wr := true, extent := 4096 })] }
theorem test_ctxU : (ctxU.ring 1).on = true ∧ ctxU.routeOn 3 = true ∧ (ctxU.queue 4).on = true ∧ (ctxU.ring 1).used = 128 := by decide +kernel
/-- A tile that stands at `w` with context `ctxU`. -/
def atU (w : W64) : State := chip (tileOf w 0 ctxU Units.init)
theorem test_hyp_MoveInstructionsQueue : ∀ e ∈ moveQueued, ∃ w, stands (atU w) e.op 1 = true ∧ e.ok ((atU w).tile 0) 0 w := by
  simp only [moveQueued, List.mem_cons, List.not_mem_nil, or_false]
  rintro e (rfl | rfl | rfl | rfl | rfl | rfl | rfl)
  · exact ⟨word 0x40 [(48, 2), (43, 24)], by decide +kernel, by dsimp only; decide +kernel⟩
  · exact ⟨word 0x41 [(48, 1), (43, 1)], by decide +kernel, by dsimp only; decide +kernel⟩
  · exact ⟨word 0x42 [(48, 1), (44, 2), (39, 1)], by decide +kernel, by dsimp only; decide +kernel⟩
  · exact ⟨word 0x50 [(48, 1), (44, 3), (39, 1), (38, 1)], by decide +kernel, by dsimp only; decide +kernel⟩
  · exact ⟨word 0x51 [(48, 3), (43, 1)], by decide +kernel, by dsimp only; decide +kernel⟩
  · exact ⟨word 0x52 [(48, 4), (44, 2), (39, 1), (38, 1), (34, 3)], by decide +kernel, by dsimp only; decide +kernel⟩
  · exact ⟨word 0x54 [(48, 4), (44, 5), (39, 1)], by decide +kernel, by dsimp only; decide +kernel⟩
theorem test_hyp_AccumulatorAndStreamInstructionsQueue :
    ∀ e ∈ accQueued ++ streamQueued, ∃ w, stands (atU w) e.op 1 = true ∧ e.ok ((atU w).tile 0) 0 w := by
  simp only [accQueued, streamQueued, List.cons_append, List.nil_append, List.mem_cons, List.not_mem_nil, or_false]
  rintro e (rfl | rfl | rfl | rfl | rfl)
  · exact ⟨word 0x21 [], by decide +kernel, by dsimp only; decide +kernel⟩
  · exact ⟨word 0x22 [(44, 9), (42, 2), (38, 8)], by decide +kernel, by dsimp only; decide +kernel⟩
  · exact ⟨word 0x23 [], by decide +kernel, by dsimp only; decide +kernel⟩
  · exact ⟨word 0x48 [(48, 6), (44, 2), (39, 1), (34, 1), (32, 1), (28, 3)], by decide +kernel, by dsimp only; decide +kernel⟩
  · exact ⟨word 0x49 [(48, 6), (43, 1), (38, 1)], by decide +kernel, by dsimp only; decide +kernel⟩
/-- A context with rings 1 to 4 of 4 KiB in format `f` (ring 4 is STATIC), x2 = 2, x3 = 1, x4 = 64. -/
def ctxR (f : Nat) : TileCtx :=
  { ctx0 with
    x := [(2, 2), (3, 1), (4, 64), (5, 64 + 8 * 65536)],
    rings := [(1, ringOf 0 8 f 0 512), (2, ringOf 8 8 f 0 512), (3, ringOf 16 8 f 0 0), (4, ringOf 24 8 f 1 512)] }
def atR (f : Nat) (w : W64) : State := chip (tileOf w 0 (ctxR f) Units.init)
/-- MMA in format 3 on both sides with its depth in a register, MSRC 2 and POP of both panels; and with the largest depth in its word. -/
def wMma : W64 := word 0x20 [(47, 3), (43, 3), (39, 1), (35, 2), (23, 2), (18, 28), (17, 1), (16, 1), (15, 1), (0, 3)]
def wMma1 : W64 := word 0x20 [(47, 3), (43, 3), (39, 1), (35, 4), (23, 1), (18, 5), (0, 0)]
theorem test_hyp_MmaQueues : (stands (atR 3 wMma) 0x20 1 = true ∧ MmaOk ((atR 3 wMma).tile 0) 0 wMma 1) ∧
    stands (atR 3 wMma1) 0x20 1 = true ∧ MmaOk ((atR 3 wMma1).tile 0) 0 wMma1 1 := by
  refine ⟨⟨by decide +kernel, ?_⟩, by decide +kernel, ?_⟩ <;> constructor <;> decide +kernel
/-- MULADD with a C ring, SMX, and a scan with a lane mask in registers. -/
def wRfu (fn : Nat) (bs sub : Nat) : W64 := word 0x28 [(46, fn), (42, 1), (26, bs), (22, 3), (33, 2), (17, 3), (13, 4), (0, sub)]
theorem test_hyp_RowInstructionsQueue :
    (stands (atR 0 (wRfu 3 1 0)) 0x28 1 = true ∧ RfuOk ((atR 0 (wRfu 3 1 0)).tile 0) 0 (wRfu 3 1 0)) ∧
    (stands (atR 0 (wRfu 0x12 0 1)) 0x28 1 = true ∧ RfuOk ((atR 0 (wRfu 0x12 0 1)).tile 0) 0 (wRfu 0x12 0 1)) ∧
    (stands (atR 0 (wRfu 0x13 0 62)) 0x28 1 = true ∧ RfuOk ((atR 0 (wRfu 0x13 0 62)).tile 0) 0 (wRfu 0x13 0 62)) ∧
    (let w := word 0x1D [(48, 1), (44, 2), (40, 3), (35, 4)]
     stands (atR 0 w) 0x1D 1 = true ∧ SelectOk ((atR 0 w).tile 0) 0 w (ringOf 0 8 0 0 512) (ringOf 8 8 0 0 512) (ringOf 16 8 0 0 0) 64) := by
  refine ⟨⟨by decide +kernel, ?_⟩, ⟨by decide +kernel, ?_⟩, ⟨by decide +kernel, ?_⟩, by decide +kernel, ?_⟩ <;> constructor <;> decide +kernel

/-! ## Moves at their units -/

/-- A tile with context `ctxU` and units `u`. -/
def unitU (u : Units) : State := chip (tileOf 0 0 ctxU u)
theorem test_hyp_RingsAppendAndPop : RingOk (((unitU Units.init).tile 0).ring 0 1) ∧ (((unitU Units.init).tile 0).ring 0 1).used = 128 := by
  refine ⟨?_, by decide +kernel⟩
  constructor <;> decide +kernel
theorem test_hyp_RingInstructionsMoveBytes :
    (let x := (unitU { Units.init with ringQ := [⟨word 0x40 [(48, 1)], 0, 0, 0, []⟩] }).tile 0
     x.run = some (0, 0) ∧ 32 ≤ (x.ring 0 1).room) ∧
    (let x := (unitU { Units.init with ringQ := [⟨word 0x41 [(48, 1)], 0, 128, 0, []⟩] }).tile 0
     x.run = some (0, 0) ∧ 128 ≤ (x.ring 0 1).used) ∧
    (let x := (unitU { Units.init with ringQ := [⟨word 0x42 [(48, 1), (44, 2)], 0, 512, 384, []⟩] }).tile 0
     x.run = some (0, 0) ∧ 128 = min 256 (512 - 384) ∧ 128 ≤ (x.ring 0 2).room ∧ 128 ≤ (x.ring 0 1).used) := by decide +kernel
theorem test_hyp_TokensLeave :
    (let x := (unitU { Units.init with sendQ := [⟨word 0x50 [(48, 1), (44, 3)], 0, 128, 64, []⟩] }).tile 0
     x.run = some (0, 0) ∧ 64 + 64 ≤ (x.ring 0 1).used ∧ (x.ctx 0).routeCredit 3 ≠ 0) ∧
    (((unitU { Units.init with sendQ := [⟨word 0x51 [(48, 3)], 0, 0, 0, []⟩] }).tile 0).ctx 0).routeCredit 3 ≠ 0 := by decide +kernel
/-- A token of 64 bytes that carries `v`, as control token or not. -/
def tok (ctl : Bool) (v : Byte) : Token := ⟨ctl, 0, 0, 5, 0, 0, v :: List.replicate 63 0, false⟩
/-- `ctxU` with a control token in queue 4 and a data token in queue 5. -/
def ctxT (v : Byte) : TileCtx :=
  { ctxU with queues := [(4, { Queue.init with cfg := reg [(0, 1)], entries := [tok true v] }), (5, { Queue.init with cfg := reg [(0, 1)], entries := [tok false 9] })] }
def unitT (v : Byte) (w : W64) (u : Units) : State := chip (tileOf w 0 (ctxT v) u)
theorem test_hyp_TokensAreTaken :
    (let x := (unitT 2 0 { Units.init with recvQ := [⟨word 0x52 [(48, 5), (44, 2), (38, 1), (34, 3)], 0, 64, 0, []⟩] }).tile 0
     ((x.ctx 0).queue 5).head = some (tok false 9) ∧ 64 ≤ (x.ring 0 2).room ∧ (x.ctx 0).routeCredit 3 ≠ 0) ∧
    (let w := word 0x53 [(47, 7), (43, 4)]
     stands (unitT 2 w Units.init) 0x53 1 = true ∧ (((unitT 2 w Units.init).tile 0).ctx 0 |>.queue 4).head = some (tok true 2)) := by decide +kernel
theorem test_recvc_writes_payload :
    ((after (.recvc 0) (unitT 2 (word 0x53 [(47, 7), (43, 4)]) Units.init)).tile 0 |>.ctx 0).xr 7 = 2 := by decide +kernel
def steerQ1 (p : Option Nat) : Units := { Units.init with steerQ := [⟨word 0x54 [(48, 4), (44, 5), (35, 3), (31, 3), (27, 2)], 0, 64, 0, []⟩], pair := p }
theorem test_hyp_SteerPassesPairs :
    let x := (unitT 2 0 (steerQ1 (some 2))).tile 0
    ((x.ctx 0).queue 4).head = some (tok true 2) ∧ ((x.ctx 0).queue 5).head = some (tok false 9) ∧ (tok true 2).seq = (tok false 9).seq ∧
      (x.ctx 0).routeOn 3 = true ∧ (x.ctx 0).routeCredit 3 ≠ 0 ∧ (x.ring 0 2).on = true ∧ (x.ring 0 2).isStream = true ∧ 64 ≤ (x.ring 0 2).room := by
  decide +kernel
theorem test_steer_discards_and_counts : ((after (.steer 0 .unit) (unitT 3 0 (steerQ1 (some 3)))).tile 0).steerDrop = 1 := by decide +kernel

/-! ## Sequencer control and the accumulators -/

/-- The trip counts of the three kinds: from IMM, from x[XT], from a length. -/
theorem test_hyp_LoopsEnterTheirBody : stands (at2 (word 0x58 [(36, 4)]) 3 5 2) 0x58 2 = true ∧
    stands (at2 (word 0x58 [(36, 4095), (48, 1), (21, 1)]) 0 5 2) 0x58 2 = true ∧
    stands (at2 (word 0x58 [(36, 4), (48, 2), (34, 1), (32, 1)]) 9 5 2) 0x58 2 = true ∧
    ((at2 (word 0x58 [(36, 4)]) 3 5 2).tile 0).u.loops = [] := by decide +kernel
theorem test_loop_of_no_trips_goes_past_its_body :
    ((after (.loop 0) (at2 (word 0x58 [(36, 4)]) 0 5 2)).tile 0 |>.ctx 0).pc = 6 := by decide +kernel
/-- Context with a bound aperture 1 that is ring 1 (STREAM, granules 0 and 1) and an unbound one 7. -/
def ctxA : TileCtx :=
  { ctx0 with rings := [(1, ringOf 0 2 1 0 0)], apts := [(1, ⟨reg [(0, 0), (16, 2)], 0, reg [(1, 1), (2, 1)]⟩), (7, ⟨reg [(0, 63), (16, 64)], 0, 0⟩)] }
def atA (w : W64) : State := chip (tileOf w 0 ctxA Units.init)
theorem test_hyp_ApertureFenceEnd :
    (let w := word 0x60 [(49, 1)]
     let a := (((atA w).tile 0).ctx 0).apt 1
     stands (atA w) 0x60 1 = true ∧ a.isBound = true ∧ a.ring = 1 ∧ a.base < a.limit ∧ a.limit = 2 ∧ (ctxA.ring 1).on = true ∧ (ctxA.ring 1).isStream = true) ∧
    (let w := word 0x60 [(49, 7)]
     let a := (((atA w).tile 0).ctx 0).apt 7
     stands (atA w) 0x60 1 = true ∧ a.isBound = false ∧ a.base = 63 ∧ a.limit = fld ctxA.spad 26 16) ∧
    stands (atA (word 0x61 [(49, 7)])) 0x61 1 = true ∧ stands (atA (word 0x68 [(44, 255)])) 0x68 1 = true ∧
    (∀ i, i < 8 → fenceCond ((atA 0).tile 0) 0 0 (44 + i) = true) ∧ stands (atA (word 0x6F [])) 0x6F 1 = true := by decide +kernel
theorem test_hyp_EndIsReported :
    let s := chip { tileOf 0 0 ctx0 Units.init with u := { Units.init with issue := .ended, xcode := 5 } }
    (s.tile 0).run = some (0, 0) ∧ (s.tile 0).u.issue = .ended ∧ ((after (.endReport 0) s).sec 0 0).xcodeOr = 5 := by decide +kernel
def setOf (int sharedA : Bool) : AccSet := ⟨false, int, sharedA, 0, 0, List.replicate 512 0⟩
def mmaOf (st : Bool) : MmaOp := ⟨wMma, 0, 1, 1, 0, 0, BitVec.allOnes 64, BitVec.allOnes 64, false, st, 0⟩
def unitR (u : Units) : State := chip (tileOf 0 0 (ctxR 3) u)
theorem test_hyp_MmaFirstReads :
    (let x := (unitR { Units.init with arrayQ := [mmaOf false], live := setOf false false }).tile 0
     BlockIn x 0 (mmaOf false) 0 ∧ x.u.live.unfilled = false ∧ x.u.live.sharedA = bit wMma 51 ∧ x.u.live.int = false ∧ ¬ IntKind wMma) ∧
    (let x := (unitR { Units.init with arrayQ := [mmaOf false], shadow := setOf true true, shadowSt := .ready, accQ := [⟨.swap, 0, 0, 0⟩] }).tile 0
     (x.u.accQ.filter (fun o => decide (o.kind = .swap ∧ o.seq < (mmaOf false).seq))).length = 1 ∧ x.u.shadowSt = .ready ∧
       x.u.shadow.sharedA ≠ bit wMma 51) := by
  constructor
  · refine ⟨⟨by decide +kernel, by decide +kernel⟩, by decide +kernel, by decide +kernel, by decide +kernel, ?_⟩
    unfold IntKind; decide +kernel
  · decide +kernel
theorem test_hyp_MmaBlocksAccumulate :
    let x := (unitR { Units.init with arrayQ := [mmaOf true], live := setOf false false }).tile 0
    BlockIn x 0 (mmaOf true) 0 ∧ x.u.accQ = [] ∧ x.run = some (0, 0) := ⟨⟨by decide +kernel, by decide +kernel⟩, by decide +kernel, by decide +kernel⟩
def unitAcc (st : Shadow) (k : AccKind) : State :=
  unitR { Units.init with shadowSt := st, live := setOf false false, shadow := setOf true true, accQ := [⟨k, word 0x22 [(20, 1)], 0, 0⟩] }
theorem test_hyp_SwapExchangesTheSets : ((unitAcc .ready .swap).tile 0).u.shadowSt = .ready ∧
    ((after (.swapExecute 0) (unitAcc .ready .swap)).tile 0).u.live.int = true ∧
    ((after (.swapExecute 0) (unitAcc .ready .swap)).tile 0).u.shadowSt = .held := by decide +kernel
theorem test_swap_needs_a_ready_set : ((after (.swapExecute 0) ((unitAcc .empty .swap).setSec 0 0 ((secD 0).withSt .running |>.withTiles [0]))).tile 0).u.issue = .halted := by decide +kernel
/-- Rings 1, 2, 3: STREAM in binary32; 4: STATIC bfloat16 or binary16; 5: STATIC I8; 6: STREAM I32. -/
def ctxD : TileCtx :=
  { ctx0 with rings := [(1, ringOf 0 8 0 0 2048), (2, ringOf 8 8 0 0 2048), (3, ringOf 16 8 0 0 0), (4, ringOf 24 1 1 1 256), (5, ringOf 25 1 7 1 256), (6, ringOf 26 8 9 0 0)] }
def unitD (u : Units) : State := chip (tileOf 0 0 ctxD u)
def wDrain : W64 := word 0x22 [(48, 3), (33, 1), (34, 4), (27, 1), (28, 5), (26, 1), (21, 1), (22, 4)]
def wFill : W64 := word 0x23 [(48, 1), (47, 1), (43, 2), (42, 1), (38, 4), (37, 1)]
def wFillInt : W64 := word 0x23 [(48, 6), (47, 1), (35, 1)]
theorem test_hyp_DrainAndFillStart : DrainOk ((unitD Units.init).tile 0) 0 wDrain ∧ FillOk ((unitD Units.init).tile 0) 0 wFill ∧
    FillOk ((unitD Units.init).tile 0) 0 wFillInt ∧ ((unitAcc .held .drain).tile 0).u.shadowSt = .held ∧
    ((after (.drainStart 0) (unitAcc .held .drain)).tile 0).u.shadowSt = .draining := by
  refine ⟨?_, ?_, ?_, by decide +kernel, by decide +kernel⟩ <;> constructor <;> decide +kernel
theorem test_hyp_DrainReadsOut :
    (let d : DrainRun := ⟨setOf false false, wDrain, 0, 0, none, 0⟩
     let x := (unitD { Units.init with drain := some d, shadowSt := .draining }).tile 0
     (x.ring 0 3).resv = [] ∧ (x.ring 0 3).used + 256 ≤ (x.ring 0 3).size ∧ VectorsIn x 0 d 0) ∧
    (let d : DrainRun := ⟨setOf false false, wDrain, 0, 7, some 4, 0⟩
     VectorsIn ((unitD { Units.init with drain := some d, shadowSt := .draining }).tile 0) 0 d 7) := by
  refine ⟨⟨by decide +kernel, by decide +kernel, ?_⟩, ?_⟩ <;> unfold VectorsIn <;> decide +kernel
theorem test_hyp_FillWritesArrays :
    let x := (unitD { Units.init with fill := some ⟨wFill, 0, 7, []⟩, shadow := setOf false true, shadowSt := .filling }).tile 0
    let lines := outRow (bit wFill 36) 7 7 * recWidth (bit wFill 36) + outChan (bit wFill 36) 7 7 + 1
    x.u.shadow.vals.length = 512 ∧ x.u.drain = none ∧ fmtBytes (x.ring 0 1).fmt lines ≤ (x.ring 0 1).used ∧
      fmtBytes (x.ring 0 2).fmt lines ≤ (x.ring 0 2).used ∧
      fmtBytes (x.ring 0 4).fmt (outChan (bit wFill 36) 7 7 + 1) ≤ (x.ring 0 4).used := by decide +kernel

/-! ## Rows, streams and tokens -/

def rfuOp (w : W64) (n row : Nat) : RfuOp := ⟨false, w, 0, n, row, 0, 0, 0, 0, 0, false, ⟨0, 0, none⟩, ⟨0, 0, none⟩⟩
/-- Rows of FMA (three rings), of SMX with slots and a c ring, and of SUM, whose results fill part of a chunk. -/
theorem test_hyp_RfuReadsRows : RowIn ((unitD Units.init).tile 0) 0 (rfuOp (wRfu 3 1 0) 8 0) ∧
    RowIn ((unitD Units.init).tile 0) 0 (rfuOp (word 0x28 [(46, 0x12), (42, 1), (22, 3), (17, 3), (13, 4), (0, 6)]) 1 0) ∧
    RowIn ((unitD Units.init).tile 0) 0 (rfuOp (wRfu 0x10 0 0) 8 7) := by
  refine ⟨?_, ?_, ?_⟩ <;> unfold RowIn <;> decide +kernel
theorem test_hyp_SelectCopiesTheChosenRing :
    let x := (unitD { Units.init with rfuQ := [⟨true, word 0x1D [(48, 1), (44, 2), (40, 3)], 0, 64, 0, 0, 0, 0, 0, 0, true, ⟨0, 0, none⟩, ⟨0, 0, none⟩⟩] }).tile 0
    64 ≤ (x.ring 0 1).used ∧ 64 ≤ (x.ring 0 2).used ∧ 64 ≤ (x.ring 0 3).room := by decide +kernel
/-- The chip with every function ready, Ouvuth on and a route to chip 5 on egress 0. -/
def live (s : State) : State :=
  s.setReg 0x10000 (BitVec.allOnes 64) |>.setReg 0x10008 (BitVec.allOnes 64) |>.setReg 0xD0008 0 |>.setRb 0x70000 32 true |>.setReg (0x100000 + 8 * 5) (reg [(36, 1)]) |>.setRf 8 13 0 7 |>.withChipInForce 7
def strmU (w : W64) (base : Nat) : State :=
  live (chip (tileOf 0 0 { ctxU with binds := [(6, ⟨true, true, true, 0, base, 4096⟩)] } { Units.init with strmQ := [⟨false, w, 0, 64, 512, 0, 0, 0⟩] }))
/-- A read of 448 bytes to the next 512 B boundary on this chip, a write to another chip. -/
theorem test_hyp_StreamPiecesIssue :
    (let s := strmU (word 0x48 [(48, 6), (44, 2)]) (0x3FFF * 2 ^ 50 + 2 ^ 46)
     let a := (0x3FFF * 2 ^ 50 + 2 ^ 46 + 64) % 2 ^ 64
     s.thisChip (gaChip a) = true ∧ s.redirects (tileDie 0) = [] ∧ s.cdTags (tileDie 0) < 4096 ∧ min 512 (512 - a % 512) = 448 ∧
       448 ≤ ((s.tile 0).ring 0 2).room) ∧
    (let s := strmU (word 0x48 [(48, 6), (44, 1), (33, 1)]) (5 * 2 ^ 50 + 2 ^ 46)
     let a := (5 * 2 ^ 50 + 2 ^ 46 + 64) % 2 ^ 64
     s.thisChip (gaChip a) = false ∧ s.netBlock (gaChip a) (s.partition 0) = none ∧ min (min 128 (4096 - a % 4096)) (min 128 (512 - a % 512) + 512 * (min 8 8 - 1)) = 128 ∧
       128 ≤ ((s.tile 0).ring 0 1).used) ∧ ∀ e, (((strmU 0 0).freeTag e).isSome) = true :=
  ⟨by decide +kernel, by decide +kernel, fun _ => rfl⟩
theorem test_hyp_RearmMovesTheBase :
    let s := unitU { Units.init with strmQ := [⟨true, word 0x49 [(48, 6)], 0, 0, 0, 0, 4096, 0⟩] }
    (((after (.rearm 0 .unit) s).tile 0).ctx 0 |>.bind 6).base = 4096 := by decide +kernel
/-- A piece of 64 bytes of stream 1 into ring 2, with relay on route 3 or not, beyond the extent of its binding or not. -/
def pieceU (wr : Bool) (relay : Option Nat) (off : Nat) : Piece :=
  ⟨1, 0, 0, 0, 1, wr, 2, 0, 6, 0, off, 64, relay, [], 0, ⟨true, true, true, 0, 0, 4096⟩, 0, 0, false, 1, 0⟩
def endsU (p : Piece) : State := chip (tileOf 0 0 { ctxU with rings := [(2, (ringOf 2 2 1 0 0).reserve .stream 64 64)] } { Units.init with pieces := [p] })
/-- The same with the answer of status `st` of the piece's operation. -/
def answered (st : Nat) : State :=
  (endsU (pieceU false none 0)).withNet ((endsU (pieceU false none 0)).net.withOps [⟨9, 5, 0, 0, 1, 0, 64, [], 0, .piece 0 1, 0, 0, some ⟨st, List.replicate 64 7, 0, false⟩⟩])
theorem test_hyp_StreamPiecesEnd :
    (endsU (pieceU false none 4096)).pieceAnswer [] 0 (pieceU false none 4096) = .got ⟨0, [], 0, false⟩ (endsU (pieceU false none 4096)) ∧
    (endsU (pieceU false (some 3) 4096)).pieceAnswer [] 0 (pieceU false (some 3) 4096) = .got ⟨0, [], 0, false⟩ (endsU (pieceU false (some 3) 4096)) ∧
    ((restOf ((endsU (pieceU false (some 3) 4096)).tile 0).u 1).length + 64) / 64 ≤ (((endsU (pieceU false (some 3) 4096)).tile 0).ctx 0).routeCredit 3 ∧
    (endsU (pieceU true none 4096)).pieceAnswer [] 0 (pieceU true none 4096) = .got ⟨0, [], 0, false⟩ (endsU (pieceU true none 4096)) ∧
    (answered 9).pieceAnswer [] 0 (pieceU false none 0) = .got ⟨9, List.replicate 64 7, 0, false⟩ ((answered 9).dropOp 9) ∧
    9 ≠ 0 ∧ 9 ≠ St.homeMoved ∧ 9 ≠ St.homeBusy :=
  ⟨rfl, rfl, by decide +kernel, rfl, rfl, by decide +kernel, by decide +kernel, by decide +kernel⟩
theorem test_a_read_piece_lands : (((after (.streamPieceArrival 0 1 []) (answered 0)).tile 0).rdRing (((after (.streamPieceArrival 0 1 []) (answered 0)).tile 0).ring 0 2) 0 64)
    = List.replicate 64 7 := by decide +kernel
theorem test_hyp_BusyPiecesAreReissued :
    ((live (endsU (pieceU false none 0)))).pieceAway (pieceU false none 0) = true ∧ (pieceU false none 0).below = 64 ∧
    (live (endsU (pieceU false none 0))).netBlock 5 0 = none ∧ ((pieceU true none 4096).withBusy true).below = 0 ∧
    ∀ e, ((live (endsU (pieceU false none 0))).freeTag e).isSome = true := ⟨by decide +kernel, by decide +kernel, by decide +kernel, by decide +kernel, fun _ => rfl⟩
/-- Tile 0 in region 0 with a delivering transit entry of tag 3 into queue 4. -/
def arrives (e : W64) : State :=
  ((State.reset.setTile 0 { Tile.init with ctxs := [(0, { ctxU with queues := [(4, { Queue.init with cfg := reg [(0, 1), (16, 9)] })] })], transit := [(3, e)] }).setReg
    (cdOff 0 0x5000) 1).withFlight [⟨1, 0, 2, 0, ⟨false, 0, 3, 0, 9, 0, List.replicate 64 1, false⟩, 0, none, 0⟩]
theorem test_hyp_TokensArriveInOrder :
    (let s := arrives (reg [(0, 1), (4, 4), (8, 4)])
     let e := (s.tile 0).transitOf 0 3
     bit e 0 = true ∧ fld e 6 4 = 4 ∧ bit (((s.tile 0).ctx 0).queue (fld e 11 8)).cfg 0 = true ∧ fld (((s.tile 0).ctx 0).queue 4).cfg 31 16 = 9 ∧
       s.inRegion 0 0 = true) ∧ bit ((((arrives 0).tile 0)).transitOf 0 3) 0 = false := by decide +kernel
theorem test_a_stray_token_is_counted : ((after (.tokenArrival 1 0 2 false) (arrives 0)).tile 0).qstray = 1 := by decide +kernel
theorem test_hyp_CreditsReturn :
    let s := (chip { tileOf 0 0 ctxU Units.init with transit := [(3, reg [(0, 1), (1, 4), (12, 3)])] }).withCredits [⟨0, 0, 3, 0, 3⟩]
    s.backLeg 0 3 maxHops 0 = some (0, 3) ∧
    (((after (.creditArrival 0 0 3) s).tile 0).ctx 0).routeCredit 3 = 3 := by decide +kernel

/-! ## Tile windows -/

theorem test_hyp_TileWindowWrites :
    (live State.reset).inDim = false ∧ (live State.reset).cdReady (tileDie 2303) = true ∧ ((live State.reset).tile 2303).st = .active ∧
    (live State.reset).tileBusy 2303 = false ∧
    (∃ e ∈ windowWrites (live State.reset) 2303 7 15, ∃ v : W64, ¬e.ok (writeFields e.reg.fields (((live State.reset).tile 2303).winGet 2303 e.reg) v)) ∧
    (∀ e ∈ windowWrites (live State.reset) 2303 7 15, e.ok 0) := by
  refine ⟨by decide +kernel, by decide +kernel, by decide +kernel, by decide +kernel, ⟨_, List.mem_cons_self .., 5, ?_⟩, ?_⟩
  · dsimp only; decide +kernel
  · simp only [windowWrites, List.mem_cons, List.not_mem_nil, or_false]
    rintro e (rfl | rfl | rfl | rfl | rfl | rfl) <;> dsimp only [Apart] <;> decide +kernel
theorem test_hyp_RegisterFieldsTakeWrites : ((WinReg.ringCfg 0 0).fields).Pairwise (fun f g => f.lo + f.w ≤ g.lo ∨ g.lo + g.w ≤ f.lo) ∧
    (∀ f ∈ (WinReg.ringCfg 0 0).fields, f.lo + f.w ≤ 64) := by decide +kernel
theorem test_hyp_TilesPark : RegOpen (live State.reset) (cdOff 15 (0x100 + 8 * 2)) ∧
    ((after (.cdTileParkWrite 15 2 0x8000) (live State.reset)).tile (tileAt 15 143)).parkTo = some true := ⟨⟨by decide +kernel, by decide +kernel⟩, by decide +kernel⟩
theorem test_hyp_ParkChangeDone :
    ((after (.parkChangeDone 9) (State.reset.setTile 9 { Tile.init with parkTo := some true })).tile 9).st = .parked := by decide +kernel
theorem test_hyp_TilesThatFailBecomeDark : (State.reset.tile 9).st ≠ .dark ∧ State.reset.usersOf 9 = [] ∧
    ((after (.tileInternalError 9 0 0) State.reset).tile 9).st = .dark := by decide +kernel
/-- Tile 0 with its apertures 1 and 7 of `ctxA` open. -/
def openA : State := live (chip (tileOf 0 0 { ctxA with apts := [(1, ⟨reg [(0, 0), (16, 2)], reg [(0, 1), (32, 0x3FFF)], reg [(0, 1), (1, 1), (2, 1)]⟩),
  (7, ⟨reg [(0, 63), (16, 64)], reg [(0, 1), (32, 0x3FFF)], 1⟩)] } Units.init))
def writer5 : Writer := ⟨0, 5, none⟩
theorem test_hyp_ApertureWritesLand :
    ApertureTakes openA 0 0 1 writer5 992 32 ∧ ApertureTakes openA 0 0 7 writer5 (512 * 63) 512 ∧
    (after (.apertureWrite writer5 992 (List.replicate 32 6)) openA).reply.status = 0 ∧
    (after (.apertureWrite writer5 1024 (List.replicate 32 6)) openA).reply.status = St.apertureMiss ∧
    (after (.apertureWrite writer5 1000 (List.replicate 32 6)) openA).reply.status = St.apertureAlign := by
  refine ⟨?_, ?_, by decide +kernel, by decide +kernel, by decide +kernel⟩ <;> unfold ApertureTakes
  · refine ⟨by decide +kernel, by decide +kernel, by decide +kernel, .inr (.inl (by decide +kernel))⟩
  · refine ⟨by decide +kernel, by decide +kernel, by decide +kernel, .inr (.inl (by decide +kernel))⟩

/-! ## Sections and command queues -/

/-- A number of fields at byte offsets, as 32 bytes. -/
def rec32 (fs : List (Nat × Nat)) : List Byte := toLe 32 (fs.foldl (fun a f => a + f.2 * 256 ^ f.1) 0)
/-- Bytes at keys from `k` on, in rising order. -/
def cells (k : Nat) (l : List (Nat × Nat)) : List (Nat × Byte) := l.map (fun e => (k + e.1, BitVec.ofNat 8 e.2))
/-- The image of a section of one tile: END alone, x1 = 0x1234, one unit of spill (Tables 6.1 and 6.2; its CRC-32C from outside the model). -/
def imgCells : List (Nat × Nat) :=
  [(0, 49), (1, 67), (2, 69), (3, 83), (4, 1), (6, 1), (16, 1), (24, 72), (25, 2), (32, 64), (56, 44), (57, 142), (58, 253), (59, 118), (66, 1),
   (70, 2), (74, 64), (96, 52), (97, 18), (544, 64), (545, 2), (552, 1), (583, 111)]
/-- Region 0 holds tile 0 and 16 units of the store of CD0. -/
def region0 : State := (live State.reset).setReg (cdOff 0 0x5000) 1 |>.setReg (cdOff 0 0x3800) (reg [(0, 0), (16, 16)])
/-- That region with the image in its carve-out and record `b` in progress on context 0. -/
def doing (b : List Byte) : State := (region0.withMem (cells (memKey 1 0) imgCells)).setCmdq 0 0 { cmdqD 0 with lists := [⟨0, 1, 0, b⟩], cmd := some ⟨b, 0, false⟩ }
def cmdLoad : List Byte := rec32 [(0, 1), (4, 77), (8, 0x3FFF * 2 ^ 50 + 2 ^ 46), (16, 1)]
def loading : State := after (.loadSection 0 0 []) (doing cmdLoad)
theorem test_hyp_LoadsAreJudged : Doing (doing cmdLoad) 0 0 0x01 ⟨cmdLoad, 0, false⟩ ∧ (doing cmdLoad |>.sec 0 0).active = false ∧
    (loading.sec 0 0).spill = [0] := by
  refine ⟨?_, by decide +kernel, by decide +kernel⟩; constructor <;> decide +kernel
/-- The first bytes of the tile record of that image; the others are 0. -/
def raw0 : List Byte := [0, 0, 1, 0, 0, 0, 2, 0, 0, 0, 64, 0] ++ List.replicate 20 0 ++ [0x34, 0x12]
def loading' : State := region0.setSec 0 0 { secD 0 with st := .loading, epoch := 1, image := some ⟨[⟨0, raw0, [word 0x6F []]⟩], [], [], 1⟩, tiles := [0], spill := [0] }
theorem test_hyp_LoadedSectionsHoldTheirImage : (loading'.sec 0 0).st = .loading ∧
    (((after (.sectionLoaded 0 0) loading').tile 0).ctx 0).xr 1 = 0x1234 := by decide +kernel
def loaded : State := region0.setSec 0 0 { secD 0 with st := .loaded, epoch := 1, tiles := [0], spill := [0] }
def cmdStart : List Byte := rec32 [(0, 3), (4, 78), (16, 1)]
def starting : State := after (.startSection 0 0) (loaded.setCmdq 0 0 ((cmdqD 0).withCmd (some ⟨cmdStart, 0, false⟩)))
theorem test_hyp_StartsAreChecked : (starting.sec 0 0).startHeld = true ∧ loaded.ctxTokens 0 0 = false ∧ (loaded.sec 0 0).epoch = 1 := by decide +kernel
def running : State := after (.sectionStart 0 0) (starting.setTile 0 { Tile.init with pstore := [(0, word 0x6F [])], ctxs := [(0, ctx0)] })
theorem test_hyp_SectionsStartAndEnd : (running.sec 0 0).st = .running ∧ (running.tile 0).run = some (0, 0) ∧
    ((after (.sectionEnd 0 0) (after (.endReport 0) (after (.endInstr 0) running))).sec 0 0).st = .loaded := by decide +kernel
/-- A queue of 16 tokens in the spill state with one token in its segment, whose sender, tile 0, waits for credit on route 1. -/
def spillQ (full : Bool) (w : Nat := 0x51) : State :=
  (region0.setSec 0 0 (((secD 0).withSpill [0]).withSt .running |>.withTiles [0])).setTile 0 { Tile.init with
    run := some (0, 0), u := { Units.init with sendQ := if w = 0x51 then [⟨word 0x51 [(48, 1)], 0, 0, 0, [1]⟩] else [], issue := if w = 0x51 then .running else .halted },
    ctxs := [(0, { ctx0 with
      routes := [(1, reg [(8, 1)])],
      queues := [(4, { Queue.init with cfg := reg [(0, 1), (44, 1)], spill := true, seg := [tok false 1], front := if w = 0x51 then none else some (tok false 1), entries := if full then List.replicate 16 (tok false 2) else [] })] })] }
theorem test_hyp_SpilledTokensKeepTheirOrder :
    (let s := spillQ true
     let e := ((s.tile 0).ctx 0).queue 4
     e.entries.length = 16 ∧ e.seg ≠ [] ∧ s.senderWaits 0 0 e = true ∧ s.engineTurn 0 = some 4 ∧ s.regionOf 0 = some 0 ∧ s.spillBlocks (s.sec 0 0) 0 < 32 * (s.sec 0 0).spill.length) ∧
    (((after (.spillMove 0 0 4) (spillQ true)).tile 0).ctx 0 |>.queue 4).seg.length = 2 ∧
    (((after (.reinject 0 0 4) (spillQ false)).tile 0).ctx 0 |>.queue 4).front = some (tok false 1) := by decide +kernel
theorem test_hyp_WatchdogFires : (spillQ true 0).moving 0 = false ∧ ((spillQ true 0).sec 0 0).active = true ∧
    (spillQ true 0).residue ((spillQ true 0).sec 0 0) 0 ≠ 0 ∧ cycleQueues ((spillQ true 0).waitEdges 0) = [] := by decide +kernel
/-- A queue with one list of one record in a DISPATCH's buffer. -/
def listed (b : List Byte) : State := region0.setCmdq 0 0 ((cmdqD 0).withLists [⟨0, 1, 0, b⟩])
theorem test_hyp_CommandsAreTakenInOrder : ∀ e ∈ listCommands, ∃ b : List Byte, leAt b 0 1 = e.2 ∧ operandsOk b = true ∧
    (listed b).readRecord ⟨0, 1, 0, b⟩ = (0, b, listed b) ∧ (listed b).ready 3 = true := by
  simp only [listCommands, List.mem_cons, List.not_mem_nil, or_false]
  rintro e (rfl | rfl | rfl | rfl | rfl | rfl | rfl | rfl)
  · exact ⟨rec32 [(0, 1)], by decide +kernel⟩
  · exact ⟨rec32 [(0, 2), (8, 15)], by decide +kernel⟩
  · exact ⟨rec32 [(0, 3)], by decide +kernel⟩
  · exact ⟨rec32 [(0, 4), (10, 15)], by decide +kernel⟩
  · exact ⟨rec32 [(0, 5), (16, 4096), (18, 2 ^ 14 - 1), (21, 7)], by decide +kernel⟩
  · exact ⟨rec32 [(0, 6), (24, 2)], by decide +kernel⟩
  · exact ⟨rec32 [(0, 7), (24, 0xFF)], by decide +kernel⟩
  · exact ⟨rec32 [(0, 8), (8, 9), (16, 65536)], by decide +kernel⟩
/-- Record `b` in progress of (0, 0) at the head of its list. -/
def doing1 (b : List Byte) : State :=
  region0.setCmdq 0 0 { cmdqD 0 with lists := [⟨0, 1, 0, b⟩], cmd := some ⟨b, 0, false⟩ }
theorem test_hyp_CommandsComplete : ∀ b, b = rec32 [(0, 8), (8, 1), (16, 65536)] → Doing (doing1 b) 0 0 0x08 ⟨b, 0, false⟩ ∧
    ((doing1 b).cmdq 0 0).lists = [⟨0, 1, 0, b⟩] ∧ ((doing1 b).cmdq 0 0).flush = false := by
  rintro _ rfl; refine ⟨?_, by decide +kernel, by decide +kernel⟩; constructor <;> decide +kernel
theorem test_hyp_ListsAreHeld : RegOpen region0 (cdOff 0 (0x4000 + 0x20 * secKey 0 7)) ∧ region0.leadDie 0 = some 0 ∧ region0.ready 3 = true ∧
    region0.glareHolds 0 = false ∧ RegOpen region0 (cdOff 0 (0x4000 + 0x20 * secKey 0 7 + 8)) ∧
    ((after (.cmdqPost 0 0 7 (reg [(32, 4095), (0, 32)])) region0).cmdq 0 7).lists = [⟨32, 4095, 0, []⟩] :=
  ⟨⟨by decide +kernel, by decide +kernel⟩, by decide +kernel, by decide +kernel, by decide +kernel, ⟨by decide +kernel, by decide +kernel⟩, by decide +kernel⟩
/-- Binding 6 on tile 0 of a loaded section. -/
def rearmed (b : List Byte) : State := ((loaded.updTile 0 (fun x => x.updCtx 0 (fun y => y.setBind 6 ⟨true, true, true, 0, 0, 0⟩))).setCmdq 0 0 ((cmdqD 0).withCmd (some ⟨b, 0, false⟩)))
theorem test_hyp_LengthsAndBasesAreRecorded :
    Doing (doing (rec32 [(0, 2), (8, 8), (28, 5)])) 0 0 0x02 ⟨rec32 [(0, 2), (8, 8), (28, 5)], 0, false⟩ ∧
    Sparse.get (fun _ => (0 : W32)) ((after (.setLength 0 0) (doing (rec32 [(0, 2), (8, 8), (28, 5)]))).sec 0 0).lenNext 3 = 5 ∧
    ((after (.rearmCommand 0 0) (rearmed (rec32 [(0, 4), (10, 6), (16, 4096)]))).sec 0 0).rearmNext = [(0, 6, 4096)] := by
  refine ⟨?_, by decide +kernel, by decide +kernel⟩; constructor <;> decide +kernel
def cmdFence (m : Nat) : List Byte := rec32 [(0, 6), (8, 0x3FFF * 2 ^ 50 + 2 ^ 46), (16, 0x0001000153454331), (24, m)]
theorem test_hyp_FencesAndSignals :
    (∀ b ∈ [rec32 [(0, 6)], cmdFence 1, rec32 [(0, 7), (24, 0xFF)], rec32 [(0, 7), (8, 0x3FFF * 2 ^ 50 + 2 ^ 46 + 64), (24, 31)]],
      ((doing b).cmdq 0 0).cmd = some ⟨b, 0, false⟩ ∧ ((doing b).sec 0 0).active = false ∧ ((doing b).cmdq 0 0).dispatches = []) ∧
    ((doing (cmdFence 1)).request (unitReq (doing (cmdFence 1)) 1 (0x3FFF * 2 ^ 50 + 2 ^ 46) 8 [] (some 0)) .none 5).1.map (·.status) = some 0 ∧
    ((doing (cmdFence 1)).request (unitReq (doing (cmdFence 1)) 2 (0x3FFF * 2 ^ 50 + 2 ^ 46 + 64) 8 (toLe 8 7) (some 0)) .none 5).1.map (·.status) = some 0 := by
  decide +kernel
theorem test_a_fence_on_a_flag_ends : ((after (.fenceFlagPoll 0 0) (doing (cmdFence 2))).cmdq 0 0).cmd = none := by decide +kernel
/-- A dispatch of the 32 bytes at offset 0x200 to context 1 of region 0, to mailbox 1, and to chip 5. -/
def cmdDisp (chip q : Nat) : List Byte := rec32 [(0, 5), (8, 0x3FFF * 2 ^ 50 + 2 ^ 46 + 0x240), (16, 32), (18, chip), (20, q)]
theorem test_hyp_DispatchesDeliverLists :
    (let s := doing (cmdDisp 0x3FFF 0x10)
     let r := unitReq s 1 (0x3FFF * 2 ^ 50 + 2 ^ 46 + 0x240) 32 [] (some 0)
     s.memCheck r = 0 ∧ s.hasBad 1 (gaKey (0x3FFF * 2 ^ 50 + 2 ^ 46 + 0x240)) 32 = false ∧ s.leadDie 0 = some 0 ∧ s.ready 3 = true ∧ s.glareHolds 0 = false) ∧
    ((after (.dispatch 0 0) (doing (cmdDisp 0x3FFF 0x10))).cmdq 0 1).lists.length = 1 ∧
    (doing (cmdDisp 5 0)).thisChip 5 = false ∧ (doing (cmdDisp 5 0)).netBlock 5 0 = none ∧ ∀ e, ((doing (cmdDisp 5 0)).freeTag e).isSome = true :=
  ⟨by decide +kernel, by decide +kernel, by decide +kernel, by decide +kernel, fun _ => rfl⟩

/-! ## Prism and tint units -/

/-- Fields at byte offsets, as 64 bytes, and those at key `k`. -/
def bytes64 (fs : List (Nat × Nat)) : List Byte := toLe 64 (fs.foldl (fun a f => a + f.2 * 256 ^ f.1) 0)
def rec64 (k : Nat) (fs : List (Nat × Nat)) : List (Nat × Byte) :=
  (((List.range 64).map (k + ·)).zip (bytes64 fs)).filter (fun e => e.2 != 0)
def ga1 (o : Nat) : Nat := 0x3FFF * 2 ^ 50 + 2 ^ 46 + o
/-- A region 0 whose Prism has a table of one invalid entry, with a job of one token and one expert posted, its descriptor at 0x100; trigger or not. -/
def prismFs (trig : Nat) : List (Nat × Nat) := [(0, ga1 0x200), (8, 1), (11, 1), (12, 4), (14, 1), (24, ga1 0x1000), (36, trig), (44, 5)]
def prism0 (trig : Nat) (st : JobSt) : State :=
  let fs := prismFs trig
  ((region0.withMem (rec64 (memKey 1 0x100) fs)).setReg (cdOff 0 0x3010) 1 |>.setReg (cdOff 0 0x3000) 1).setPrismQ 0
    [⟨ga1 0x100, 0, st, if st = .posted then [] else bytes64 fs, [List.replicate 64 0], 1, 0⟩]
theorem test_hyp_PrismJobsStartInOrder : RegOpen (prism0 0 .posted) (cdOff 0 0x3018) ∧ (prism0 0 .posted).rb (cdOff 0 0x3000) 0 = true ∧
    DescIs (prism0 0 .posted) [] (ga1 0x100) ((prism0 0 .posted).rdMem (memKey 1 0x100) 64) (prism0 0 .posted) ∧
    (prism0 0 .posted).prismDescOk 0 ((prism0 0 .posted).rdMem (memKey 1 0x100) 64) = true ∧
    ((after (.prismJobStart 0) (prism0 0 .posted)).prismQ 0).map (·.st) = [.running] ∧
    ((after (.prismJobStart 0) (prism0 1 .posted)).prismQ 0).map (·.st) = [.waiting] ∧
    ((after (.prismTrigger 0) ((prism0 1 .waiting).withDone [(0, ⟨1, 0, 0⟩)])).prismQ 0).map (·.st) = [.running] ∧
    ((after (.prismTrigger 0) ((prism0 1 .waiting).withDone [(0, ⟨1, 0, 1⟩)])).prismQ 0).map (·.st) = [] := by
  refine ⟨⟨by decide +kernel, by decide +kernel⟩, by decide +kernel, ⟨by decide +kernel, ok_of_toOption (by decide +kernel)⟩, ?_⟩
  decide +kernel
theorem test_hyp_PrismKeepsCapacities : ∀ x ∈ [(⟨[(0, 0)], false⟩ : TokenSel)], ∀ p ∈ x.picks, p.1 < pExperts [] := by decide +kernel
theorem test_hyp_PrismJobsEnd :
    (match (prism0 0 .running).readScores [] (bytes64 (prismFs 0)) with
      | .ok (some rows, v) => rows == [[0]] && v.ready 3 | _ => false) = true ∧
    (after (.prismJobEnd 0 []) (prism0 0 .running)).prismQ 0 = [] := by decide +kernel
/-- A tint job of one token, 8 channels and no adapter, with an aperture-7 delivery of its record of 2 KiB on tile 0; its map entry is `m`. -/
def tintFs : List (Nat × Nat) := [(0, ga1 0x200), (8, 1), (12, 1), (16, 8), (18, 8), (20, ga1 0x300), (28, ga1 0x400)]
def tintJ (st : JobSt) (todo : List (Nat × Nat)) : TintJob :=
  ⟨ga1 0x100, 0, st, if st = .posted then [] else bytes64 tintFs, reg [(0, 1), (16, 20), (32, 1)], [0],
    if todo.isEmpty then [] else [(3, [3, 9, 1, 1])], 0, [], 0, 0, 0, 0, [], todo, [], 0⟩
def tint0 (st : JobSt) (m : Nat) (todo : List (Nat × Nat)) (lines : List TintLine) : State :=
  (openA.setReg (cdOff 0 0x5000) 1 |>.setReg (cdOff 0 0x3800) (reg [(16, 16)]) |>.setReg (cdOff 0 0x3400) (reg [(0, 1), (16, 20), (32, 1)])
    |>.withMem (rec64 (memKey 1 0x100) tintFs ++ rec64 (memKey 1 0x400) [(0, m)])).setTintU 0 { jobs := [tintJ st todo], lines := lines, stale := false }
theorem test_hyp_TintJobsStartInOrder : RegOpen (tint0 .posted 0 [] []) (cdOff 0 0x3418) ∧ RegOpen (tint0 .posted 0 [] []) (cdOff 0 0x3400) ∧
    DescIs (tint0 .posted 0 [] []) [] (ga1 0x100) ((tint0 .posted 0 [] []).rdMem (memKey 1 0x100) 64) (tint0 .posted 0 [] []) ∧
    (tint0 .posted 0 [] []).tintDescOk ((tint0 .posted 0 [] []).rdMem (memKey 1 0x100) 64) = true ∧
    ((after (.tintJobStart 0 []) (tint0 .posted 0 [] [])).tintU 0).jobs.map (·.st) = [.running] ∧ (∃ v : W64, fld v 24 16 + fld v 41 32 = 512) := by
  refine ⟨⟨by decide +kernel, by decide +kernel⟩, ⟨by decide +kernel, by decide +kernel⟩, ⟨by decide +kernel, ok_of_toOption (by decide +kernel)⟩,
    by decide +kernel, by decide +kernel, ⟨reg [(16, 256), (32, 256)], by decide +kernel⟩⟩
theorem test_hyp_TintJobsBegin : ((tint0 .waiting 0 [] []).unitRead [] (ga1 0x300) 4 (some 0)).toOption.map (fun r => (r.1, r.2.1)) = some (0, [0, 0, 0, 0]) := by decide +kernel
theorem test_hyp_TintFactorsAreCached :
    (let l : TintLine := ⟨3, 9, ga1 0, false, []⟩
     [l].find? (fun l => l.is 3 (leAt [3, 9, 1, 1] 1 1) (ga1 0)) = some l) ∧
    ((tint0 .running 0 [(3, ga1 0)] []).unitRead [] (ga1 0) 4096 (some 0)).toOption.map (·.1) = some 0 ∧
    ((after (.tintCacheFill 0 []) (tint0 .running 0 [(3, ga1 0)] [])).tintU 0).jobs.map (·.misses) = [1] := by decide +kernel
def tile0At (o : Nat) : Nat := 0x3FFF * 2 ^ 50 + o
theorem test_hyp_TintRecordsAreDelivered :
    recCount (bytes64 tintFs) = 1 ∧
    ((tint0 .running (tile0At 1024) [] []).unitRead [] (ga1 0x400) 8 (some 0)).toOption.map (fun r => leNat r.2.1) = some (tile0At 1024) ∧
    ((tint0 .running 0 [] []).recordRows [] (tintJ .running []) 0).toOption.map (fun r => (r.1, r.2.1.length)) = some (0, 64) ∧
    ((after (.tintRecordWrite 0 []) (tint0 .running (tile0At 1024) [] [])).tintU 0).jobs.map (fun j => (j.next, j.recs.length)) = [(1, 1)] := by decide +kernel

/-! ## Memory -/

theorem test_hyp_MemoryHoldsWhatIsWritten : State.reset.memOk = true ∧ ((State.reset.wrMem (memKey 3 5) [1, 0, 2]).wrMem (memKey 3 6) [4, 0]).mem = [(memKey 3 5, 1), (memKey 3 6, 4)] := by decide +kernel
theorem test_hyp_MemoryRequestsAct : inside (.core 0) = true ∧ (live State.reset).thisChip (gaChip (ga1 8)) = true ∧
    (∀ e ∈ [(1, 64), (2, 64), (3, 8)], (live State.reset).memCheck (originReq (live State.reset) (.core 0) 0 e.1 (ga1 8) e.2 []) = 0) ∧
    (live State.reset).hasBad 1 (gaKey (ga1 8)) 64 = false ∧ (live State.reset).homeBase 0 = 0 ∧
    atomicLeaves 7 64 (2 ^ 64 - 1) 0 0 = some (2 ^ 64 - 1) := by decide +kernel
theorem test_an_atomic_answers_the_old_value :
    (after (.memoryRequest (.core 0) 0 3 (ga1 8) 8 ([3] ++ List.replicate 14 0 ++ [5]) .clean) ((live State.reset).wrLe (memKey 1 8) 8 37)).reply.data = toBe 8 37 ∧
    (after (.memoryRequest (.core 0) 0 3 (ga1 8) 8 ([3] ++ List.replicate 14 0 ++ [5]) .clean) ((live State.reset).wrLe (memKey 1 8) 8 37)).rdLe (memKey 1 8) 8 = 42 := by
  decide +kernel
def ga2 (o : Nat) : Nat := 0x3FFF * 2 ^ 50 + 2 * 2 ^ 46 + o
theorem test_hyp_MemoryRequestsAreChecked :
    (live State.reset).inSpace 2 0 4 = true ∧ (live State.reset).inSpace 1 (2 ^ 46 - 1) 4 = false ∧ (live State.reset).inDim = false ∧
    ((live State.reset).setRf 0xD0008 2 0 1).inDim = true ∧ ((live State.reset).setReg 0x10000 4).hbmReady 0 = false ∧
    ((live State.reset).setReg 0x51000 5).partition 0 ≠ 0xFFF ∧ (∀ h, h < 16 → (live State.reset).inCarve h 2 0 = false) ∧
    (after (.memoryRequest (.region 0) 0 1 (ga2 0) 4 [] .clean) ((live State.reset).setReg 0x51000 5)).reply.status = St.memDenied ∧
    (after (.memoryRequest (.core 0) 0 1 (ga2 2) 4 [] .clean) (live State.reset)).reply.status = St.addrAlign := by decide +kernel
theorem test_hyp_LostWordsReadAsErrors : (live State.reset).memCheck (originReq (live State.reset) (.core 0) 0 1 (ga1 8) 64 []) = 0 ∧
    gaSpace (ga1 8) = 1 := by decide +kernel
theorem test_hyp_RequestsOfOtherChipsLeave : (live State.reset).thisChip 5 = false ∧ (live State.reset).netBlock 5 0 = none ∧
    ∀ e, ((live State.reset).freeTag e).isSome = true := ⟨by decide +kernel, by decide +kernel, fun _ => rfl⟩
theorem test_hyp_CarveOutsAreJudged : RegOpen region0 (dsCarve 0 1) ∧ RegOpen region0 (t1Carve 15 15) ∧ RegOpen region0 (t2Carve 15) ∧ RegOpen region0 0x40000 ∧
    CarveFree region0 0 ∧ CarveFree region0 1 ∧ region0.t2On = false ∧
    (after (.cdDsCarveWrite 0 1 (reg [(0, 16), (16, 384)])) region0).reply.status = 0 ∧
    (after (.cdDsCarveWrite 0 1 (reg [(0, 15), (16, 512)])) region0).reply.status ≠ 0 := by
  refine ⟨?_, ?_, ?_, ?_, ?_, ?_, by decide +kernel, by decide +kernel, by decide +kernel⟩ <;> refine ⟨?_, ?_⟩ <;> first | decide +kernel | exact ⟨by decide +kernel, by decide +kernel⟩
theorem test_t2_is_configured : (after (.memT2CfgWrite (reg [(0, 3), (24, 32)])) ((live State.reset).setReg 0x10500 32 |>.setReg 0x10508 32)).reg 0x40000 =
    ((live State.reset).setReg 0x40000 (reg [(0, 3), (16, 2), (24, 32)])).reg 0x40000 := by decide +kernel
/-- A copy of 64 bytes within the store of CD0, its descriptor at 0x100. -/
def copy0 : State := (region0.withMem (rec64 (memKey 1 0x100) [(0, ga1 0x200), (8, ga1 0x400), (16, 64), (28, 7)] ++ [(memKey 1 0x200, 5)])).withNet
  (region0.net.withCopies [⟨ga1 0x100, false, false⟩])
theorem test_hyp_CopyJobsRun : RegOpen copy0 0x40018 ∧ (match copy0.unitRead [] (ga1 0x100) 32 none with
      | .ok (0, d, v) => !v.copyBad d && v.copyAddr d == 0 && leAt d 24 1 == 0 | _ => false) = true ∧
    (after (.copyJobEnd []) copy0).net.copies = [] ∧ (after (.copyJobEnd []) copy0).rdMem (memKey 1 0x400) 1 = [5] :=
  ⟨⟨by decide +kernel, by decide +kernel⟩, by decide +kernel, by decide +kernel, by decide +kernel⟩
/-- Loan slot 63 on two granules of tier 1 from granule 4 on, in the T1 carve-out of region 2 of die 0, to chip 5, in state `st`. -/
def loan0 (st : Nat) : State :=
  live State.reset |>.setReg (t1Carve 0 2) (reg [(0, 0), (16, 8)]) |>.setReg (loanReg 63 0) (reg [(0, 4), (24, 2)]) |>.setReg (loanReg 63 8) (reg [(0, 5), (16, 2)]) |>.setReg (loanReg 63 0x10) (reg [(0, st)])
theorem test_hyp_LoansGoThroughTheirStates : RegOpen (loan0 0) (loanReg 63 0) ∧ RegOpen (loan0 0) (loanReg 63 8) ∧ RegOpen (loan0 0) (loanReg 63 0x10) ∧
    (loan0 0).loanState 63 = 0 ∧ (loan0 0).loanInCarve ((loan0 0).loanRegion 63) 0 4 2 = true ∧ (∀ j, j < 63 → (loan0 0).loanState j = 0) ∧
    (loan0 0).thisChip ((loan0 0).loanBorrower 63) = false ∧
    (after (.grant 63) (loan0 0)).loanState 63 = 1 ∧ (after (.recall 63) (loan0 1)).loanState 63 = 2 ∧ (after (.loanGraceExpiry 63) (loan0 2)).loanState 63 = 3 ∧
    (after (.loanScrubDone 63) (loan0 3)).loanState 63 = 0 := by
  refine ⟨⟨by decide +kernel, by decide +kernel⟩, ⟨by decide +kernel, by decide +kernel⟩, ⟨by decide +kernel, by decide +kernel⟩, ?_⟩
  decide +kernel

/-! ## Homes and moves -/

/-- The home tables of T1 at offset 0x100000 and of T2 at 0x80000 of space 2; granule 64 of T1 in state `st`, its peer chip 5; region 2 owns T1 up to granule 128. -/
def homes (st : Nat) : State :=
  let s := live State.reset |>.setReg 0x42000 (BitVec.ofNat 64 (ga2 0x100000)) |>.setReg 0x42008 (BitVec.ofNat 64 (ga2 0x80000)) |>.setReg (t1Carve 0 2) (reg [(0, 0), (16, 128)])
    |>.setReg 0x51020 7
  s.setHome 0 64 ⟨st, false, 0, 5 * 2 ^ 50 + 2 ^ 47, 0⟩
theorem test_hyp_HomeEntriesReadBack : (homes 0).homeBase 0 ≠ 0 ∧ (homes 0).homeBase 1 ≠ 0 ∧ gaKey ((homes 0).homeBase 0) + 32 * 393216 + 32 ≤ 2 ^ 50 ∧
    ((homes 7).home 0 64).st = 7 ∧ ((homes 7).home 0 65).st = 0 := by decide +kernel
theorem test_hyp_HomeCommandsAct : RegOpen (homes 0) 0x42000 ∧ RegOpen (homes 0) 0x42028 ∧ 64 < (homes 0).granules 0 ∧ (homes 0).granules 1 ≤ 0 ∧
    (homes 2).inGlow 0 64 ((homes 2).home 0 64) = false ∧
    ((after (.reclaim 0 64) (homes 2)).home 0 64).st = 0 ∧ ((after (.resolve 0 64) (homes 3)).home 0 64).st = 0 ∧ ((after (.setRo 0 64) (homes 0)).home 0 64).ro = true ∧
    ((after (.abortOut 0 64) (homes 1)).home 0 64).st = 0 ∧ (after (.memHometabWrite 1 0) (homes 0)).homeBase 1 = 0 := by
  refine ⟨⟨by decide +kernel, by decide +kernel⟩, ⟨by decide +kernel, by decide +kernel⟩, ?_⟩
  decide +kernel
/-- A move of granule 64 of T1 to granule 65, or to granule 64 of T1 of chip 5, in slot 0 and phase `ph`. -/
def moveFs (dst : Nat) : List (Nat × Nat) := [(0, ga2 (2 ^ 21 * 64)), (8, dst), (16, 2), (24, 9)]
def moveJ (dst : Nat) (ph : MovePh) (todo out : List Nat) : MoveJob :=
  ⟨0, ga1 0x100, if ph = .posted then [] else toLe 32 ((moveFs dst).foldl (fun a f => a + f.2 * 256 ^ f.1) 0), ph, 0, todo, out, [], [], 0, 0, 0, 0⟩
def moving0 (dst st : Nat) (j : MoveJob) : State :=
  ((homes st).withMem (rec64 (memKey 1 0x100) (moveFs dst) ++ (homes st).mem)).withNet ((homes st).net.withMoves [j])
def here65 : Nat := ga2 (2 ^ 21 * 65)
def far64 : Nat := 5 * 2 ^ 50 + 2 * 2 ^ 46 + 2 ^ 21 * 64
theorem test_hyp_MovesBegin : RegOpen (homes 0) 0x42020 ∧ (moving0 here65 0 (moveJ here65 .posted [] [])).moveCheck ((moving0 here65 0 (moveJ here65 .posted [] [])).rdMem (memKey 1 0x100) 32) = 0 ∧
    (moving0 here65 0 (moveJ here65 .posted [] [])).memCheck (unitReq (moving0 here65 0 (moveJ here65 .posted [] [])) 1 (ga1 0x100) 32 [] none) = 0 ∧
    (moving0 here65 0 (moveJ here65 .posted [] [])).beginStatus here65 7 none = 0 ∧
    (moving0 far64 0 (moveJ far64 .posted [] [])).moveCheck ((moving0 far64 0 (moveJ far64 .posted [] [])).rdMem (memKey 1 0x100) 32) = 0 ∧
    (moving0 far64 0 (moveJ far64 .posted [] [])).thisChip (gaChip far64) = false ∧ (moving0 far64 0 (moveJ far64 .posted [] [])).netBlock 5 0 = none ∧
    ((after (.moveJobStart 0) (moving0 here65 0 (moveJ here65 .posted [] []))).home 0 65).st = 3 ∧
    (∀ e, ((moving0 far64 0 (moveJ far64 .posted [] [])).freeTag e).isSome = true) := by
  refine ⟨⟨by decide +kernel, by decide +kernel⟩, by decide +kernel, by decide +kernel, by decide +kernel, by decide +kernel, by decide +kernel, by decide +kernel, by decide +kernel, fun _ => rfl⟩
/-- The same with an answered operation of a client. -/
def acked (dst : Nat) (j : MoveJob) (c : Client) (status : Nat) : State :=
  let s := moving0 dst 1 j
  s.withNet (s.net.withOps [⟨9, 5, 0, 0, 4, dst, 16, [], 0, c, 0, 0, some ⟨status, [], 0, false⟩⟩])
theorem test_hyp_MoveBeginAck : (match (acked far64 (moveJ far64 .beginning [] []) (.moveBegin 0) St.homeLost).takeOp (fun c => c == Client.moveBegin 0) with
      | some (_, a, _) => a.status == St.homeLost | none => false) = true ∧
    Moving (acked far64 (moveJ far64 .beginning [] []) (.moveBegin 0) 0) 0 (moveJ far64 .beginning [] []) 0 64 ∧
    (after (.moveBeginAck 0) (acked far64 (moveJ far64 .beginning [] []) (.moveBegin 0) St.homeLost)).net.moves = [] :=
  ⟨by decide +kernel, ⟨by decide +kernel, by decide +kernel, by decide +kernel, by decide +kernel⟩, by decide +kernel⟩
theorem test_hyp_MovesCopyAndFlip :
    ((after (.moveCopyAck 0) (acked far64 (moveJ far64 .copying [] [3]) (.moveCopy 0 3) 0)).moveJob 0).map (·.ph) = some .frozen ∧
    ((after (.moveCopyAck 0) (acked far64 (moveJ far64 .copying [] [3, 4]) (.moveCopy 0 3) 0)).moveJob 0).map (·.out) = some [4] ∧
    ((after (.moveFlip 0) (moving0 far64 1 (moveJ far64 .frozen [] []))).home 0 64).st = 2 ∧
    ((after (.moveFlip 0) (moving0 here65 1 (moveJ here65 .frozen [] []))).home 0 64).st = 2 ∧
    (after (.moveCommitAck 0) (acked far64 (moveJ far64 .committing [] []) (.moveCommit 0) 0)).net.moves = [] := by decide +kernel
theorem test_hyp_HomesSettle :
    (let s := (homes 3).setHome 0 64 ⟨3, true, 0, ga2 (2 ^ 21 * 65), 0⟩
     (s.home 0 64).st = 3 ∧ s.thisChip (gaChip (s.home 0 64).peer) = true ∧ (s.home 0 65).st = 0 ∧ ((after (.movingInQuery 0 64) s).home 0 64).st = 0) ∧
    (let s := (endsU (pieceU false none 0)).withNet ((endsU (pieceU false none 0)).net.withOps [⟨9, 5, 0, 0, 1, 0, 64, [], 0, .piece 0 1, 0, 0, none⟩]) |>.withTime (8000000 * 2 ^ 32)
     (after (.operationTimeout 9) s).net.ops.map (fun o => o.done.map (·.status)) = [some St.homeLost]) ∧
    RegOpen (live State.reset) (cdOff 15 0x3910) := ⟨by decide +kernel, by decide +kernel, ⟨by decide +kernel, by decide +kernel⟩⟩
/-- A move whose descriptor lies on chip 5: it is asked for once, and the job waits for the answer. -/
def farMove : State := moving0 far64 0 ⟨0, 5 * 2 ^ 50 + 2 ^ 46 + 0x100, [], .posted, 0, [], [], [], [], 0, 0, 0, 0⟩
theorem test_a_far_descriptor_is_asked_for :
    (let s := after (.moveJobStart 0) farMove
     s.net.ops.map (fun o => (o.chip, o.op, o.len)) = [(5, 1, 32)] ∧ (s.moveJob 0).map (·.ph) = some .posted ∧ (after (.moveJobStart 0) s).net.ops.length = 1) := by decide +kernel

/-! ## Packages and veils -/

/-- A package of one layer, one part of 32 bytes and one section, at 4 MiB of T1 (Tables 12.1 to 12.3). -/
def pkgCells : List (Nat × Byte) :=
  let k := memKey 2 0x400000
  rec64 k [(0, 0x42525031), (4, 1), (6, 1), (8, 77), (12, 3), (16, 8192), (32, 256), (40, 1), (44, 1), (46, 1), (48, 320)] ++
    rec64 (k + 256) [(8, 4096), (16, 32)] ++ rec64 (k + 320) [(0, 4096), (16, 4096)]
def pkgHead : List Byte := slice (bytes64 [(0, 0x42525031), (4, 1), (6, 1), (8, 77), (12, 3), (16, 8192), (32, 256), (40, 1), (44, 1), (46, 1), (48, 320)]) 0 256
def pkgEntry (st : Nat) : List (Nat × Nat) := [(0, 1), (2, 1), (4, 77), (16, ga2 0x640000), (24, ga2 0x800000), (48, st)]
def pkgDesc (op fr nx : Nat) : List (Nat × Nat) := [(0, ga2 0x400000), (20, op), (21, 2), (22, 2), (24, fr), (26, nx)]
def pkgJ (op : Nat) (ph : PkgPh) : PkgJob :=
  if ph = .posted then ⟨ga1 0x100, ph, [], [], [], 0, 0, [], 0, 0, 0, 0, false, 0, 0, 0⟩
  else ⟨ga1 0x100, ph, bytes64 (pkgDesc op 0x3FFF 0x3FFF), bytes64 (pkgEntry 2), pkgHead, 0, 0, [], 0, 0, 0, 0, false, 0, 0, 0⟩
/-- The chip with a model table of one entry, that package, and the job `j` in front; the words of layer 0 read `gen`. -/
def pkg0 (op gen : Nat) (j : PkgJob) (fr : Nat := 0x3FFF) : State :=
  (live State.reset |>.setReg (t1Carve 0 2) (reg [(16, 128)]) |>.setReg 0x30500 (BitVec.ofNat 64 (ga2 0x600000)) |>.setReg 0x30508 1 |>.setReg 0x51020 7
    |>.withMem (rec64 (memKey 1 0x100) (pkgDesc op fr 0x3FFF) ++ pkgCells ++ rec64 (memKey 2 0x600000) (pkgEntry 2) ++ rec64 (memKey 2 0x640000) [(0, gen)])).withPkg
      ((live State.reset).pkg.withJobs [j])
theorem test_hyp_PackageJobsWaitInLine : RegOpen (pkg0 0 0 (pkgJ 0 .posted)) 0x30510 ∧
    (after .pkgJobEnd (pkg0 0 0 (pkgJ 0 .ended))).pkg.jobs = [] ∧ (after .pkgJobEnd (pkg0 0 0 (pkgJ 0 .ended))).rf 0x30518 47 32 = 1 :=
  ⟨⟨by decide +kernel, by decide +kernel⟩, by decide +kernel, by decide +kernel⟩
theorem test_hyp_PackageJobsAreChecked :
    (match (pkg0 0 0 (pkgJ 0 .posted)).unitRead [] (ga1 0x100) 64 none with
      | .ok (0, d, v) => v.pkgDescOk d && d == bytes64 (pkgDesc 0 0x3FFF 0x3FFF) && v.modelEntry 0 == bytes64 (pkgEntry 2) | _ => false) = true ∧
    ((pkg0 0 0 (pkgJ 0 .running)).pkgJudge (pkgJ 0 .running)).toOption.map (·.1) = some 0 ∧ ((pkg0 2 0 (pkgJ 2 .running)).pkgJudge (pkgJ 2 .running)).toOption.map (·.1) = some 0 ∧
    ((pkg0 1 0 (pkgJ 1 .running)).pkgJudge (pkgJ 1 .running)).toOption.map (·.1) = some St.notVerified := by decide +kernel
theorem test_an_install_begins : (after .pkgJobStart (pkg0 0 5 (pkgJ 0 .posted))).genWord (bytes64 (pkgEntry 2)) 0 = 0xFFFFFFFF := by decide +kernel
theorem test_hyp_PackagesAreInstalled :
    (match (pkg0 0 0xFFFFFFFF (pkgJ 0 .running)).pkgCopies 2 ((pkg0 0 0xFFFFFFFF (pkgJ 0 .running)).pkgWork (pkgJ 0 .running)) 0 0 with
      | .ok r => some (r.1, r.2.2.1, r.2.2.2.1) | .error _ => none) = some (0, 1, 96) ∧
    ((pkg0 2 3 (pkgJ 2 .running)).pkgRead (pkgJ 2 .running) 256 7936).toOption.map (·.1) = some 0 := by decide +kernel
theorem test_hyp_LayersAreSwapped :
    (leNat ((after .pkgSwapLayer (pkg0 1 3 (pkgJ 1 .running))).rdMem (memKey 2 0x600000 + 48) 1)) = 2 ∧
    ((pkg0 1 2 (pkgJ 1 .running)).rangeInUse (ga2 0x800000) 32) = false ∧
    (after .pkgSwapLayer (pkg0 1 2 (pkgJ 1 .running))).genWord (bytes64 (pkgEntry 2)) 0 = 3 := by decide +kernel
def chainJ : PkgJob := ⟨ga1 0x100, .running, bytes64 (pkgDesc 2 5 0x3FFF), bytes64 (pkgEntry 2), pkgHead, 0, 0, [], 0, 0, 0, 0, false, 0, 0, 0⟩
theorem test_hyp_ChunksPassAlong : kChain chainJ.desc = true ∧ kOp chainJ.desc = 2 ∧ kFrom chainJ.desc ≠ 0x3FFF ∧
    ((pkg0 2 3 chainJ 5).unitRead [] (kPkg chainJ.desc) 64 (some 2)).toOption.map (·.1) = some 0 ∧
    ((after .chainLost ((pkg0 2 3 chainJ 5).withTime (8000000 * 2 ^ 32))).pkg.jobs.map (·.status)) = [St.chainLost] := by decide +kernel
/-- A veil table of one entry of model 77. -/
def veil0 (st : Nat) : State :=
  ((pkg0 0 0 (pkgJ 0 .posted)).setReg 0x30400 (BitVec.ofNat 64 (ga2 0x610000)) |>.setReg 0x30408 1).withMem
    (rec64 (memKey 2 0x600000) (pkgEntry 2) ++ rec64 (memKey 2 0x610000) [(0, 1), (4, 77), (48, st)])
theorem test_hyp_VeilsArePrimed : RegOpen (veil0 0) 0x30410 ∧ entValid ((veil0 0).veilEntry 0) = true ∧ leAt ((veil0 1).veilEntry 0) 48 1 = 1 ∧
    entValid ((veil0 1).modelEntry 0) = true ∧ leAt ((veil0 1).modelEntry 0) 4 4 = leAt ((veil0 1).veilEntry 0) 4 4 ∧ mState ((veil0 1).modelEntry 0) = 2 ∧
    (after (.veilPrimed 0 0 true) (veil0 1)).rdMem (memKey 2 0x610000 + 48) 1 = [2] :=
  ⟨⟨by decide +kernel, by decide +kernel⟩, by decide +kernel⟩

/-! ## Serving -/

/-- Big-endian fields (offset, width, value) of an n-byte frame. -/
def frame (n : Nat) (fs : List (Nat × Nat × Nat)) : List Byte := toBe n (fs.foldl (fun a f => a + f.2.2 * 256 ^ (n - f.1 - f.2.1)) 0)
def srvHead (t len : Nat) : List (Nat × Nat × Nat) := [(0, 1, 1), (1, 1, t), (2, 2, len), (6, 1, 1), (8, 8, 99)]
/-- A REQUEST of tenant 0 for model 0, greedy, its prompt of one token by reference, one token wanted; a CANCEL and a FETCH of the same pair. -/
def reqFrame : List Byte := frame 128 (srvHead 1 96 ++ [(38, 1, 6), (48, 4, 0x3F800000), (64, 4, 1), (68, 4, 1), (72, 8, 64),
  (96, 4, 0xFFFFFFFF), (100, 4, 0xFFFFFFFF), (104, 4, 0xFFFFFFFF), (108, 4, 0xFFFFFFFF)])
def cancelFrame : List Byte := frame 32 (srvHead 2 0)
def fetchFrame : List Byte := frame 36 (srvHead 3 4)
def inFrame (b : List Byte) : InFrame := ⟨0, 0, 0, none, none, b, 0, 64⟩
/-- The serving engine with tenant, model and destination 0 VALID, frame `b` in front and the echo pairs `e`. -/
def serve0 (en : Bool) (b : List Byte) (e : List Echo) : State :=
  let s := pkg0 0 0 (pkgJ 0 .posted)
  let s := s.setReg 0x30000 (reg [(0, en.toNat), (3, 1)]) |>.setReg 0x30020 (BitVec.ofNat 64 (ga2 0x630000)) |>.setReg 0x30028 (BitVec.ofNat 64 (ga2 0x620000)) |>.setReg 0x30030 1
    |>.setReg 0x30038 (BitVec.ofNat 64 (ga2 0x621000)) |>.setReg 0x30040 1 |>.setReg 0x31000 (reg [(0, 7), (32, 2)])
  let s := (s.withMem (rec64 (memKey 2 0x600000) (pkgEntry 2) ++ rec64 (memKey 2 0x620000) [(0, 1), (2, 1), (16, 2), (32, 5)] ++ rec64 (memKey 2 0x621000) [(0, 5)])).withNet
    (s.net.withSrvIn [inFrame b]) |>.withSrv (s.srv.withEcho e)
  if e.isEmpty then s else s.wrMem (memKey 2 0x630000) (toLe 112
    ([(1, 4), (2, 2), (26, 2), (60, 3), (72, 2 ^ 128 - 1), (104, 2)].foldl (fun (a : Nat) (f : Nat × Nat) => a + f.2 * 256 ^ f.1) 0))
theorem test_hyp_BadFramesAreDropped : (serve0 false reqFrame []).rb 0x30000 0 = false ∧ (serve0 true (frame 32 [(1, 1, 1)]) []).rb 0x30000 0 = true ∧
    srvHeadOk (frame 32 [(1, 1, 1)]) = false ∧ srvHeadOk [] = false := by decide +kernel
theorem test_hyp_RequestsAreTaken : Serving (serve0 true reqFrame []) (inFrame reqFrame) [] 1 ∧ bodyOk (qBody reqFrame) = true ∧
    entValid ((serve0 true reqFrame []).tenant 0) = true ∧ (serve0 true reqFrame []).reqStatus reqFrame = 0 ∧ (serve0 true reqFrame []).freeSeq = some 0 ∧
    bByref (qBody reqFrame) = true ∧ bMask (qBody reqFrame) = 0 ∧ (after .request (serve0 true reqFrame [])).srv.seqs = [0] ∧
    (serve0 true reqFrame [⟨0, 99, 0, 4, none⟩]).echoOf 0 99 = some ⟨0, 99, 0, 4, none⟩ := by
  refine ⟨?_, by decide +kernel⟩; constructor <;> decide +kernel
theorem test_hyp_CancelsAndFetchesAct : Serving (serve0 true cancelFrame [⟨0, 99, 0, 4, none⟩]) (inFrame cancelFrame) [] 2 ∧
    Serving (serve0 true fetchFrame [⟨0, 99, 0, 4, none⟩]) (inFrame fetchFrame) [] 3 ∧ (serve0 true fetchFrame [⟨0, 99, 0, 4, none⟩]).seqF 0 1 1 = 4 ∧
    (serve0 true fetchFrame [⟨0, 99, 0, 4, none⟩]).qMade 0 = 2 ∧
    (after .cancel (serve0 true cancelFrame [⟨0, 99, 0, 4, none⟩])).seqF 0 27 1 = 1 := by
  refine ⟨?_, ?_, by decide +kernel⟩ <;> constructor <;> decide +kernel
theorem test_an_ended_pair_expires : (after (.echoExpiry 0 99) ((serve0 true [] [⟨0, 99, 0, 4, some 0⟩, ⟨0, 98, 0, 4, some 0⟩]).withTime (2 ^ 80))).srv.echo = [⟨0, 98, 0, 4, some 0⟩] := by decide +kernel
theorem test_hyp_HoldFollowsTheHeartbeat : RegOpen (live State.reset) 0x30000 ∧ (live State.reset).ready 5 = true ∧ ((live State.reset).setReg 0x10000 4).ready 5 = false ∧
    RegOpen (live State.reset) 0x30080 ∧ (after .heartbeatTimeout (serve0 true [] [])).srv.holdDue = true ∧
    (after .holdResume ((live State.reset).withSrv ((live State.reset).srv.withBeat (some 0)))).srv.resumeDue = true :=
  ⟨⟨by decide +kernel, by decide +kernel⟩, by decide +kernel, by decide +kernel, ⟨by decide +kernel, by decide +kernel⟩, by decide +kernel, by decide +kernel⟩
theorem test_hyp_StepsBegin : (serve0 true [] []).rb 0x30000 0 = true ∧ (serve0 false [] []).rb 0x30000 0 = false := by decide +kernel
/-- Sequence 0 with a prompt of two tokens inline at its prompt area, 5 and `v`. -/
def prompt0 (v : Nat) : State :=
  let s := serve0 true [] []
  s.withSrv (s.srv.withChunks [⟨0, 2⟩]) |>.wrLe (memKey 2 0x630000 + 88) 4 2
    |>.wrLe (memKey 2 0x630000 + 96) 8 (ga2 0x631000) |>.wrLe (memKey 2 0x631000) 8 (5 + 2 ^ 32 * v)
theorem test_hyp_PrefillRuns : (prompt0 7).qPrompt 0 = 2 ∧ (prompt0 7).qFilled 0 = 0 ∧ (prompt0 7).vocab 0 = 8 ∧
    (after (.prefillChunkStart 2 []) (prompt0 7)).srv.running = [⟨0, 2⟩] ∧ (after (.prefillChunkStart 2 []) (prompt0 8)).srv.running = [] := by decide +kernel
/-- Sequence 0 decodes greedily; the logits 1.0, 2.0, 2.0, 0 … stand at hub offset 0. -/
def decode0 : State :=
  let s := serve0 true [] [⟨0, 99, 0, 4, none⟩]
  (s.wrLe (hubKey 0) 12 (0x3F800000 + 2 ^ 32 * 0x40000000 + 2 ^ 64 * 0x40000000)).withSrv (s.srv |>.withDecode [0] |>.withSeqs [0])
theorem test_hyp_TokensAreSampled : 0 ∈ decode0.srv.decode ∧ decode0.srv.late = [] ∧ decode0.qMask 0 = 0 ∧ decode0.qFlags 0 = 2 ∧ decode0.vocab 0 = 8 := by decide +kernel
theorem test_greedy_takes_the_lowest_of_equals : sampleToken true 0 0 0x3F800000 0 0 [(0, 0x3F800000), (1, 0x40000000), (2, 0x40000000)] = 1 := by decide +kernel
/-- The step under way, its time long over. -/
def stepping : State := (decode0.withSrv (decode0.srv.withGoing true)).withTime (2 ^ 80)
theorem test_hyp_StepsEnd : (serve0 true [] []).srv.running = [] ∧ ((serve0 true [] []).withSrv ((serve0 true [] []).srv.withEntries [⟨0, 0, 99, 0, 0, 1, 0, 5⟩])).srv.entries = [⟨0, 0, 99, 0, 0, 1, 0, 5⟩] ∧
    (after (.stepDeadline [0] true) stepping).srv.decode = [] ∧ (after (.stepDeadline [] true) stepping).srv.late.map (·.1) = [0] := by decide +kernel

/-! ## Registers, regions, cores and the Efnil link -/

theorem test_hyp_RegisterAccesses : RegOpen (live State.reset) 8 ∧ (live State.reset).anyActive = false ∧ debugReg 0x20008 = false ∧ windowOf 0x20008 = none ∧ regDesc 0x20008 = none ∧
    (live State.reset).ready 2 = true ∧ (State.reset).ready 2 = false ∧ RegOpen (live State.reset) 0x30088 ∧ (regDesc 0x30088).isSome = true :=
  ⟨⟨by decide +kernel, by decide +kernel⟩, by decide +kernel, by decide +kernel, by decide +kernel, by decide +kernel, by decide +kernel, by decide +kernel,
    ⟨by decide +kernel, by decide +kernel⟩, by decide +kernel⟩
theorem test_rc_fields_clear : (after (.rcRead .efnil 0x60010 8) ((live State.reset).setReg 0x60010 5)).reply = ⟨0, toLe 8 5⟩ ∧
    (after (.rcRead .efnil 0x60010 8) ((live State.reset).setReg 0x60010 5)).reg 0x60010 = 0 := by decide +kernel
theorem test_hyp_RingsAndMailboxes : RegOpen (live State.reset) (0x50000 + 0x20 * 31) ∧ RegOpen (live State.reset) (0x50500 + 0x10 * 7) ∧
    (after (.evqCfgWrite false 31 (reg [(0, 0x3FF0), (16, 10)])) (live State.reset)).reply.status = 0 ∧
    (after (.evqCfgWrite false 31 (reg [(0, 0x3FF1), (16, 10)])) (live State.reset)).reply.status = St.paramRange ∧
    (after (.evqCfgWrite true 7 (reg [(0, 0x3FFF), (16, 1)])) (live State.reset)).reply.status = 0 :=
  ⟨⟨by decide +kernel, by decide +kernel⟩, ⟨by decide +kernel, by decide +kernel⟩, by decide +kernel, by decide +kernel, by decide +kernel⟩
theorem test_hyp_RegionsTakeTiles : RegOpen region0 (cdOff 0 0x5000) ∧ RegOpen region0 (cdOff 15 (0x5000 + 0x18 * 15 + 16)) ∧ region0.glareHolds 0 = false ∧
    (after (.cdRegionTilesWrite 0 1 0 1) region0).reply.status = St.regionOverlap ∧ (after (.cdRegionTilesWrite 0 0 0 3) region0).reply.status = 0 ∧
    RegOpen region0 (0x51000 + 0x10 * 15) ∧ (after (.hubRegionWrite 15 (reg [(0, 0xFFF), (12, 1)])) region0).reply.status = St.spanNone ∧
    (after (.hubRegionWrite 15 (reg [(0, 0xFFE), (12, 1)])) region0).reply.status = 0 :=
  ⟨⟨by decide +kernel, by decide +kernel⟩, ⟨by decide +kernel, by decide +kernel⟩, by decide +kernel, by decide +kernel, by decide +kernel,
    ⟨by decide +kernel, by decide +kernel⟩, by decide +kernel, by decide +kernel⟩
theorem test_hyp_RegionsReset : RegOpen region0 (0x51008 + 0x10 * 15) ∧ region0.inRegion 0 0 = true ∧ region0.inRegion 0 1 = false :=
  ⟨⟨by decide +kernel, by decide +kernel⟩, by decide +kernel, by decide +kernel⟩
theorem test_hyp_CoresAccess : (live State.reset).ready 2 = true ∧ (live State.reset).hasBad 1 (2 ^ 46 + 2 ^ 29 + 2 ^ 26 - 64) 64 = false ∧
    (after (.lanternAccess 31 (2 ^ 44 + 2 ^ 29 + 2 ^ 26 - 1) ⟨.store [9], .right⟩) (live State.reset)).rdMem (memKey 1 (2 ^ 29 + 2 ^ 26 - 1)) 1 = [9] ∧
    (after (.lanternAccess 0 5 ⟨.load 1, .right⟩) (live State.reset)).reply.status = St.addrSpace ∧
    ((live State.reset).request ⟨1, 0x3FFF * 2 ^ 50 + 2 ^ 46 * 2 + 64, 64, [], 0xFFF, none, none, 64, false, false⟩ (.core 0 (2 ^ 44 * 2 + 64) false) 5).1.map (·.status) = some 0 := by decide +kernel
/-- The chip with the Efnil link up on both lanes. -/
def linked : State := after .efnLinkUp (live State.reset |>.setReg 0x60000 (reg [(0, 8), (24, 3)]))
/-- A received frame of a type, with class, command, payload and LSEQ (Figure 14.1). -/
def efnFrame (t cls cmd : Nat) (p : List Byte) (lseq : Nat) : List Byte :=
  let b := toBe 1 t ++ toBe 1 cls ++ toBe 2 p.length ++ toBe 2 lseq ++ toBe 2 0 ++ toBe 4 cmd ++ toBe 1 0 ++ toBe 1 0xC0 ++ toBe 2 0 ++ p
  b ++ toBe 4 (crc32c b)
def fRead : List Byte := efnFrame 1 0 7 (toBe 8 (0x3FFF * 2 ^ 50 + 2 ^ 49 + 0x50400) ++ [8, 0, 0, 0, 0, 0, 0, 0]) 0
theorem test_hyp_EfnilLink : linked.efnUp = true ∧ efnCrcOk fRead = true ∧ efnLongEnough fRead = true ∧ efnCrcOk (fRead.drop 1) = false ∧ eType fRead = 1 ∧ eLseq fRead = linked.efn.rxNext ∧
    eLseq (efnFrame 1 0 7 [] 1) ≠ linked.efn.rxNext ∧ efnCrcOk (efnFrame 0 0 0 [] 0) = true ∧ efnLongEnough (efnFrame 0 0 0 [] 0) = true ∧ linked.efn.wait = [] ∧
    State.reset.efnUp = false ∧ State.reset.boot.ph = .run ∧ linked.rb 0x60000 24 = true := by decide +kernel
theorem test_hyp_LinkFramesAct :
    (after .efnAckDue (linked.withEfn (linked.efn.withAckDue true))).efn.ackDue = false ∧
    (let s := linked.withEfn (linked.efn.withReplay [⟨0, 15, efnFrame 6 2 0 [] 0⟩])
     (after .efnReplayTimeout s).efn.replay.map (·.replays) = [16]) ∧
    (let s := linked.withEfn (linked.efn.withReplay [⟨0, 16, efnFrame 6 2 0 [] 0⟩])
     (after .efnReplayTimeout s).efnUp = false) ∧
    (let s := linked.withLogs (linked.logs.withForward [List.replicate 64 1])
     0 < s.efn.evCred ∧ (after .event s).logs.forward = []) := by decide +kernel
theorem test_hyp_RequestsAreJudged : (match linked.efnArrive fRead with | .good v => v.efn.opened.isEmpty && v.efn.record.isEmpty && v.efn.rxNext == 1 | _ => false) = true ∧
    eClass fRead = efnClassOf 1 ∧ eCmd fRead = 7 ∧ eLen fRead = 16 ∧ gaSpace (beAt (ePay fRead) 0 8) = 8 ∧
    ((after (.regRead fRead) linked).efn.record.map (fun r => (r.cmd, r.status))) = [(7, 0)] := by decide +kernel
def fBulk (w : Bool) : List Byte :=
  efnFrame (if w then 4 else 3) 1 8 (toBe 8 (0x3FFF * 2 ^ 50 + 2 ^ 47 + 4092) ++ toBe 4 4 ++ toBe 4 0 ++ if w then [1, 2, 3, 4] else []) 0
theorem test_hyp_RequestsArePerformed :
    ((after (.regWrite (efnFrame 2 0 9 (toBe 8 (0x3FFF * 2 ^ 50 + 2 ^ 49 + 0x50400) ++ [8, 0, 0, 0, 0, 0, 0, 0] ++ toBe 8 5) 0)) linked).reg 0x50400) = 5 ∧
    (after (.bulkWrite (fBulk true)) linked).rdMem (memKey 2 4092) 4 = [1, 2, 3, 4] ∧
    ((after (.bulkRead (fBulk false)) linked).efn.record.length ≤ 1) ∧
    (after (.timeSet (efnFrame 7 0 3 (toBe 8 (2 ^ 56) ++ toBe 8 1000) 0)) linked).now = 1000 ∧
    ((after (.bootPush (efnFrame 8 1 3 (toBe 4 0 ++ toBe 4 64 ++ List.replicate 64 7) 0)) linked).efn.record.map (·.status)) = [St.bootClosed] := by decide +kernel

/-! ## Ouvuth -/

/-- Chip 3, its egress 0 up to a KNOWN neighbour, with a route to chip 5 by it; the stream from chip 5 has begun and stands at 10; frame `b` in front. -/
def fabric (b : List Byte) : State :=
  let s := (live State.reset).withChipInForce 3 |>.setReg (t1Carve 0 2) (reg [(16, 128)]) |>.setReg 0x51020 (reg [(0, 7), (12, 1)]) |>.setRb (egSub 0 8) 0 true |>.setRf (egReg 0 0x18) 1 0 2 |>.setRf (egSub 0 0) 13 0 4250 |>.setRx 5 { RxStream.init with inc := some 1, cum := 10 }
  s.withNet ((s.net.withQuiet false).withOuvIn [⟨0, 0, 0, none, none, b, 0, 64⟩])
def fFrame (b : List Byte) : InFrame := ⟨0, 0, 0, none, none, b, 0, 64⟩
/-- A frame from chip 5 to chip `dst` with op, flags, LEN, SPAN, SEQ, address and payload, without its trailer's bytes. -/
def ouvFrame (op flags len dst span seq addr : Nat) (p : List Byte) : List Byte := ouvHeader 4 op flags len 5 dst 0 span 0 9 seq 0 addr ++ p ++ [0, 0, 0, 0]
/-- The frame's state without it, and what its stream makes of it. -/
def popped (b : List Byte) : State := (fabric b).withNet ((fabric b).net.withOuvIn [])
def accepts (b : List Byte) (full : Nat) : Bool := match (popped b).takeNumbered (fFrame b) true full with | .accepted _ => true | _ => false
theorem test_hyp_StreamsTakeInOrder : ((fabric []).rxs 5).inc = some 1 ∧ 11 = seqNext ((fabric []).rxs 5).cum ∧ seqDist 10 10 = 0 ∧
    (4096 < seqDist 10 4107 ∧ seqDist 10 4107 < 2 ^ 31) ∧ seqDist 10 4106 = 4096 ∧ ((fabric []).rxs 6).inc = none ∧ ((fabric []).rxs 6).resyncAt = none := by decide +kernel
/-- One request of each of the eight rows. -/
def reqs : List (Nat × List Byte) :=
  [(1, []), (2, [1, 2, 3, 4]), (3, [3, 0] ++ List.replicate 22 0), (4, [1] ++ List.replicate 15 0), (4, [2] ++ List.replicate 15 0), (4, [3] ++ List.replicate 15 0),
    (4, [4] ++ List.replicate 15 0), (5, List.replicate 32 0)]
def reqOf (r : Nat × List Byte) (addr : Nat) : List Byte := ouvFrame r.1 0 1 3 7 11 addr r.2
theorem test_hyp_FabricRequestsAreJudged : ((requests false).length = reqs.length) ∧ (∀ r ∈ reqs, (fabric (reqOf r 0)).forMe (reqOf r 0) = true ∧ hOp (reqOf r 0) = r.1 ∧
    hResp (reqOf r 0) = false ∧ hSeq (reqOf r 0) = 11 ∧ accepts (reqOf r 0) 32 = true) ∧ ((popped []).freeTag 0).isSome = true ∧ (popped []).assigned = true := by decide +kernel
theorem test_hyp_FabricRequestsArePerformed : (popped []).requestFault (reqOf (1, []) (3 * 2 ^ 50 + 2 ^ 47)) = 0 ∧
    ((popped []).request ⟨2, 3 * 2 ^ 50 + 2 ^ 47, 4, [1, 2, 3, 4], 7, some 5, none, 4096, true, false⟩ .none 5).1.map (·.status) = some 0 ∧
    (popped []).tileUnlit 7 0 = false ∧
    ((popped []).request ⟨1, 3 * 2 ^ 50 + 2 ^ 47, 4, [], 7, some 5, none, 4096, false, false⟩ .none 5).1.map (·.status) = some 0 := by decide +kernel
theorem test_hyp_MoveBeginFromAfar :
    let b := ouvFrame 4 0 4 3 7 11 (3 * 2 ^ 50 + 2 ^ 47 + 2 ^ 21 * 65) ([1, 2] ++ List.replicate 6 0 ++ toBe 8 far64)
    let s := (homes 0).withChipInForce 3 |>.setReg 0x51020 (reg [(0, 7), (12, 1)]) |>.setRx 5 { RxStream.init with inc := some 1, cum := 10 }
    let s := s.withNet (s.net.withOuvIn [fFrame b])
    s.beginStatus (3 * 2 ^ 50 + 2 ^ 47 + 2 ^ 21 * 65) 7 (some 5) = 0 ∧ ((after (.moveBegin true) s).home 0 65) = ⟨3, true, 2, far64, 0⟩ := by decide +kernel
def respFrame : List Byte := ouvFrame 1 32 1 3 0xFFF 11 0 [1, 2, 3, 4]
theorem test_hyp_ResponsesAnswer : hResp respFrame = true ∧ hOp respFrame = 1 ∧ accepts respFrame 32 = true ∧
    (let s := fabric respFrame
     let s := s.withNet (s.net.withOps [⟨9, 5, 0, 9, 1, 0, 4, [], 0, .query 0 0, 0, 0, none⟩])
     (after .ouvResponse s).net.ops.map (fun o => o.done.map (·.data)) = [some [1, 2, 3, 4]]) := by decide +kernel
/-- FIRMWARE-like data of tree 1 to memory; a LOAN_RECALL and a LOAN_RELEASE of slot 63. -/
def castF : List Byte := ouvFrame 6 0 5 3 7 11 (3 * 2 ^ 50 + 2 ^ 47) ([1, 1] ++ List.replicate 14 0 ++ [5, 6, 7, 8])
def noticeF (k : Nat) : List Byte := ouvFrame 7 0 4 3 0xFFF 11 0 (toBe 1 k ++ [63, 0, 0] ++ List.replicate 12 0)
def treeUp (s : State) : State := s.setReg (treeReg 1 0) 1
theorem test_hyp_NoticesAndMulticast : castBad castF = false ∧ (popped castF).fromParent 0 castF = false ∧ (treeUp (popped castF)).fromParent 0 castF = true ∧ accepts castF 32 = true ∧
    (after .mcast (treeUp (fabric castF))).rdMem (memKey 2 0) 4 = [5, 6, 7, 8] ∧
    noticeBad (noticeF 1) = false ∧ noticeKind (noticeF 1) = 1 ∧ accepts (noticeF 1) 48 = true ∧ (popped (noticeF 1)).rb 0x71000 0 = false ∧
    (after .loanRecall (fabric (noticeF 1))).rf 0x71000 7 2 = 63 ∧ noticeBad (noticeF 2) = false := by decide +kernel
theorem test_hyp_Release : RegOpen (popped []) (0x71000 + 0x20 * 63) ∧ ((popped []).setReg (0x71000 + 0x20 * 63) (reg [(0, 1), (16, 5)])).netBlock 5 0xFFF = none ∧
    ((popped []).setReg (0x71000 + 0x20 * 63) (reg [(0, 1), (16, 5)])).rf (0x71000 + 0x20 * 63) 29 16 = 5 ∧ ∀ e, ((popped []).freeTag e).isSome = true :=
  ⟨⟨by decide +kernel, by decide +kernel⟩, by decide +kernel, by decide +kernel, fun _ => rfl⟩
def txOf (n sends last : Nat) : TxFrame := ⟨n, ouvFrame 1 0 1 5 0xFFF n 0 [], 0, sends, last, 0, none, none⟩
def sent0 (b : List Byte) (sends : Nat) : State := (fabric b).setTx 5 { TxStream.init with synced := true, una := [txOf 20 sends 0] }
theorem test_hyp_StreamsRecover : ackCovers 20 (ackRanges []) 20 = true ∧ looseBad (ouvFrame 8 0 0 3 0xFFF 20 0 []) = false ∧
    looseBad (ouvFrame 8 0 1 3 0xFFF 20 0 [0, 0, 0, 0]) = true ∧ looseBad (ouvFrame 9 0 16 3 0xFFF 0 0 (List.replicate 64 0)) = false ∧
    ((after .ack (sent0 (ouvFrame 8 0 0 3 0xFFF 20 0 []) 1)).txs 5).una = [] := by decide +kernel
theorem test_hyp_Retransmit : (let s := (sent0 [] 1).withTime (2 ^ 60)
     (s.txs 5).una = [txOf 20 1 0] ∧ 0 + s.rto ≤ s.now ∧ 1 ≤ s.retries) ∧
    (let s := (sent0 [] 100).withTime (2 ^ 60)
     s.isLost 5 = false ∧ 1 + s.retries ≤ 100 ∧ (after (.retryLimit 5) s).isLost 5 = true) := by decide +kernel
def syncF : List Byte := ouvFrame 0x0A 0 2 3 0xFFF 0 0 (toBe 4 77 ++ toBe 4 1)
theorem test_hyp_SyncAndResync : (popped syncF).bootMode = false ∧ ((popped syncF).rxs 5).inc ≠ some 77 ∧ hOp syncF = 0x0A ∧ looseBad syncF = false ∧
    looseBad (ouvFrame 7 0 4 3 0xFFF 0 0 ([3] ++ List.replicate 15 0)) = false ∧ looseBad (ouvFrame 7 0 4 3 0xFFF 0 0 ([4] ++ List.replicate 15 0)) = false ∧
    hResp (ouvFrame 7 0 4 3 0xFFF 0 0 ([4] ++ List.replicate 15 0)) = false ∧
    beAt (ouvFrame 7 0 4 3 0xFFF 0 0 ([3] ++ List.replicate 15 0)) 32 1 = 3 ∧ (popped []).net.quiet = false := by decide +kernel
/-- A frame for chip 5 that passes this chip. -/
def passF : List Byte := ouvFrame 1 0 1 5 0xFFF 11 0 []
/-- With one usable egress the flow hash does not matter. -/
theorem test_egressFor_one (s : State) (c src addr salt e : Nat) (tr : Bool) (b : List Byte) (h : s.routes c = some [e])
    (u : s.usable e tr false = true) : s.egressFor c src addr salt tr b = some (some e) := by
  simp [State.egressFor, h, u, Nat.mod_one]
theorem test_hyp_TransitFramesPass : (fabric passF).forMe passF = false ∧ hHops passF = 4 ∧ (popped passF).egressFor 5 5 0 0 true passF = some (some 0) :=
  ⟨by decide +kernel, by decide +kernel, test_egressFor_one _ _ _ _ _ _ _ _ (by decide +kernel) (by decide +kernel)⟩
theorem test_hyp_RetransmitEgress : (sent0 [] 1).streamEgress 5 0 1 (setHopsFlags (txOf 20 1 0).bytes 4 Fl.retx) = some 0 := by
  simp only [State.streamEgress]
  rw [if_neg (by decide), test_egressFor_one _ _ _ _ _ 0 _ _ (by decide +kernel) (by decide +kernel)]
  rfl
theorem test_hyp_TransitAge : (let s := (popped []).setSub 0 ((SubPort.init).withEgress [⟨.ouvData, 0, 0, .own, none, 0, passF, some 0⟩])
    let s := s.withTime (400000 * 2 ^ 32)
    400000 + 0 ≤ s.now ∧ ((after (.transitAge 0) s).sub 0).egress = []) ∧ RegOpen (popped []) 0x70040 ∧
    (after (.ouvLostClear 5) ((popped []).setRb 0x74000 5 true)).isLost 5 = false := ⟨by decide +kernel, ⟨by decide +kernel, by decide +kernel⟩, by decide +kernel⟩
theorem test_hyp_LinksAreDiscovered : (popped []).neigh 1 = 0 ∧ (popped []).subUsed 0 = true ∧ (popped []).neigh 0 = 2 ∧ (popped []).ouvRuns = true ∧ (popped []).linkUp 0 = true ∧
    (popped []).seen 0 = false ∧ (after (.neighbourTimeout 0) (popped [])).neigh 0 = 1 ∧ RegOpen (popped []) 0x70010 ∧
    (after (.ouvManifest (reg [(0, 2 ^ 26 - 64), (32, 64)])) (popped [])).rb 0x70010 26 = true ∧
    (after (.ouvManifest (reg [(0, 2 ^ 26 - 64), (32, 65)])) (popped [])).reply.status = St.paramRange :=
  ⟨by decide +kernel, by decide +kernel, by decide +kernel, by decide +kernel, by decide +kernel, by decide +kernel, by decide +kernel, ⟨by decide +kernel, by decide +kernel⟩,
    by decide +kernel, by decide +kernel⟩

/-! ## Ethernet -/

/-- The link of sub-port e is up, its port is on and trained, and serving frames of EtherType 0x88B6 are taken. -/
def eth (e : Nat) : State :=
  let p := e / 8
  live State.reset |>.setRb (egSub e 8) 0 true |>.setRf (egSub e 0) 13 0 4250 |>.setRb (portOff p 0) 2 true |>.setRf (portOff p 8) 19 17 3 |>.setReg 0x30078 (reg [(0, 0x88B6), (32, 1)])
def ethB (tag : List Byte) (type n : Nat) : List Byte := let b := toBe 6 0x011B19000000 ++ toBe 6 9 ++ tag ++ toBe 2 type; b ++ List.replicate (n - b.length) 0
def ethF (type n : Nat) : List Byte := ethB [] type n ++ fcs (ethB [] type n)
theorem test_hyp_FramesAreReceived_plain : (let b := (ethF 0x88B6 60).take ((ethF 0x88B6 60).length - 4)
    4 ≤ (ethF 0x88B6 60).length ∧ fcs b = (ethF 0x88B6 60).drop ((ethF 0x88B6 60).length - 4) ∧ 64 ≤ (ethF 0x88B6 60).length ∧ (ethF 0x88B6 60).length ≤ (eth 272).rf (egSub 272 0) 13 0 ∧ beAt b 12 2 ≠ 0x8100 ∧
    beAt b 0 6 = 0x011B19000000 ∧ (eth 272).vlanOk 272 none = true ∧ beAt b 12 2 = (eth 272).rf 0x30078 15 0 ∧ (eth 272).rb 0x30078 32 = true ∧
    beAt b 12 2 ≠ (eth 272).rf 0x70000 15 0 ∧ (eth 272).rb (egSub 272 0) 16 = false ∧ isServing (272 / 8) = true) ∧
    (eth 272).linkUp 272 = true ∧ (eth 272).subUsed 272 = true ∧ (eth 272).hasRoom 272 ((eth 272).rf (portOff 34 0x20) 14 12) 64 = true ∧ (eth 272).linkUp 0 = false := by decide +kernel
theorem test_the_group_address_is_accepted (s : State) (e : Nat) : s.addrOk e 0x011B19000000 = true := by simp [State.addrOk]
theorem test_hyp_FramesAreReceived_drops : (after (.ethFrameReceive 272 (ethF 0x88B6 59) 5 6) (eth 272)).rf (egSub 272 0x128) 47 0 = 1 ∧
    (after (.ethFrameReceive 272 (ethB [] 0x88B6 64) 5 6) (eth 272)).rf (egSub 272 0x120) 47 0 = 1 ∧
    (let b := ethB [0x81, 0x00, 0, 3] 0x88B6 60
     (eth 272).vlanOk 272 (if beAt b 12 2 = 0x8100 then some (beAt b 14 2) else none) = false) ∧
    ((eth 272).setReg (portOff 34 0x18) (reg [(32, 255)])).hasRoom 272 ((eth 272).rf (portOff 34 0x20) 14 12) 64 = false := by decide +kernel
def solicit : InFrame := ⟨0, 0, 7, none, none, List.replicate 8 0 ++ List.replicate 16 1 ++ List.replicate 40 0, 0, 90⟩
theorem test_hyp_Solicitation : slice solicit.bytes 8 16 ≠ List.replicate 16 0 ∧ (eth 0).linkUp solicit.egress = true ∧ (eth 1).linkUp solicit.egress = false := by decide +kernel
/-- Class 3 of sub-port 0 with PFC on, XOFF 64 and XON 32; a PFC frame for it. -/
def pfcOn0 : State := (eth 0).setReg (portOff 0 0x18) (reg [(0, 64), (16, 32), (32, 8), (40, 4)])
def pfcF (q : Nat) : InFrame := ⟨0, 7, 7, none, none, toBe 2 0x0101 ++ toBe 2 8 ++ (List.range 8).flatMap (fun i => toBe 2 (if i = 3 then q else 0)) ++ List.replicate 26 0, 0, 64⟩
def holds0 (n : Nat) : State := let s := pfcOn0.setSub 0 (SubPort.init.withXoff [(3, 0)]); s.withNet (s.net.withSrvIn [⟨0, 3, 7, none, none, [], 0, n⟩])
theorem test_hyp_PausesHold : pfcOn0.pfcOn 0 3 = true ∧ bitsAt (beAt (pfcF 5).bytes 2 2) 3 1 = 1 ∧ beAt (pfcF 5).bytes (4 + 2 * 3) 2 = 5 ∧ beAt (pfcF 0).bytes (4 + 2 * 3) 2 = 0 ∧
    bitsAt (beAt (pfcF 5).bytes 2 2) 4 1 = 0 ∧ (SubPort.init.withPauses [(3, 5)]).pauses = [(3, 5)] ∧ (pfcOn0.sub 0).xoff = [] ∧
    ((holds0 4096).sub 0).xoff.find? (fun x => x.1 == 3) = some (3, 0) ∧ (holds0 4096).linkUp 0 = true ∧ (holds0 4096).now < (holds0 4096).pauseQns 0 0xFFFF / 2 ∧ (holds0 4096).pfcOn 0 3 = true ∧ (holds0 4096).xonBytes 0 < (holds0 4096).heldBytes 0 3 ∧
    (holds0 64).heldBytes 0 3 ≤ (holds0 64).xonBytes 0 := by decide +kernel
theorem test_a_pause_lasts_its_quanta : ((after .pfc (pfcOn0.withNet (pfcOn0.net.withPfcIn [pfcF 5]))).sub 0).pauses = [(3, ceilDiv (128 * 5) 100)] := by decide +kernel
/-- Queues of sub-port 0: a PFC frame behind frames of classes 2, 6 and 7. -/
def outF (k : OutKind) (c : Nat) : OutFrame := ⟨k, c, 5, .own, none, 0, List.replicate 10 1, none⟩
def outQ (q : List OutFrame) : State := (eth 0).setSub 0 (SubPort.init.withEgress q)
theorem test_hyp_FramesLeaveInOrder : (outQ []).linkUp 0 = true ∧ (outQ []).subUsed 0 = true ∧ (outQ []).feedLow 0 = false ∧ (outQ []).rb (egSub 0 0) 16 = false ∧
    (outQ [outF .nd 7]).queueBytes 0 7 ≤ 4096 * (outQ [outF .nd 7]).rf (egSub 0 0) 55 40 ∧
    ((after (.egressFrameSend 0) (outQ [outF .nd 2, outF .nd 6, outF .nd 7, outF .pfc 7])).sub 0).egress = [outF .nd 2, outF .nd 6, outF .nd 7] ∧
    ((after (.egressFrameSend 0) (outQ [outF .nd 2, outF .nd 6, outF .nd 7])).sub 0).egress = [outF .nd 2, outF .nd 6] ∧
    ((after (.egressFrameSend 0) (outQ [outF .nd 2, outF .nd 6])).sub 0).egress = [outF .nd 2] ∧
    (after (.egressFrameSend 0) (outQ [outF .nd 7])).net.wire.map (fun x => x.2.length) = [64] ∧
    ((after (.egressFrameSend 0) (outQ [outF .nd 7] |>.setRf (egSub 0 0) 13 0 63))).rf (egSub 0 0x158) 47 0 = 1 := by decide +kernel
theorem test_hyp_PortsTrain : RegOpen (live State.reset) (portOff 0 0) ∧ RegOpen (eth 0) (portOff 35 0) ∧ (live State.reset).portOn 35 = false ∧ (eth 0).portOn 0 = true ∧ (eth 0).portMode 0 = 0 ∧
    isServing 35 = true ∧ isServing 0 = false ∧ fld (reg [(0, 1), (2, 1)]) 1 0 = 1 ∧
    (after (.portCfgWrite 0 (reg [(0, 3)])) (live State.reset)).reply.status = St.paramRange ∧ (after (.portCfgWrite 34 (reg [(0, 1)])) (live State.reset)).reply.status = St.paramRange ∧
    (after (.portCfgWrite 0 (reg [(0, 1), (2, 1)])) (eth 0)).reply.status = St.portBusy ∧ (after (.portCfgWrite 0 0) (eth 0)).linkUp 0 = false ∧
    (after (.portTrainDone 0 true) (after (.full 0) (eth 0))).rb (portOff 0 0x10) 8 = true :=
  ⟨⟨by decide +kernel, by decide +kernel⟩, ⟨by decide +kernel, by decide +kernel⟩, by decide +kernel⟩
theorem test_hyp_PortsTrain_fast : (let s := ((eth 0).setRf (portOff 0 8) 19 17 2).setReg 0x10028 1 |>.setRb 0x10000 3 false |>.setSub 0 (SubPort.init.withFails 1)
    s.rf (portOff 0 8) 19 17 = 2 ∧ s.rb 0x10028 0 = true ∧ s.rb 0x10000 3 = false ∧ 1 ≤ (s.sub (8 * 0)).fails) := by decide +kernel
theorem test_hyp_LinksGoUpAndDown : (eth 0).linkUp 0 = true ∧ (eth 0).portOn (0 / 8) = true ∧
    (let s := ((eth 0).setRb (egSub 0 8) 0 false).setRf (portOff 0 8) 15 8 0xFF
     s.linkUp 0 = false ∧ s.subUsed 0 = true ∧ s.portOn (0 / 8) = true ∧ (s.sub 0).dark = false ∧ s.locksAll 0 = true ∧ (after (.portLinkUp 0) s).neigh 0 = 1) ∧
    ((after (.portLinkDown 0 .light) (eth 0)).sub 0).dark = true ∧ ((eth 0).setRb (portOff 0 8) 16 true).feedLow 0 = true ∧ (eth 0).feedLow 0 = false := by decide +kernel
def saOn (e sa : Nat) : State := (eth e).setRb (egSub e (0x400 + 0x40 * sa)) 0 true
theorem test_hyp_AssociationsAreKeyed : RegOpen (eth 0) (egSub 0 (0x400 + 0x40 * 19 + 8 * 7)) ∧ RegOpen (saOn 0 1) (egSub 0 (0x400 + 0x40 * 1)) ∧ RegOpen (eth 0) (egSub 0 0x30) ∧ (eth 0).subUsed 0 = true ∧ (eth 0).subUsed 1 = false ∧
    (saOn 0 1).rb (egSub 0 (0x400 + 0x40 * 1)) 0 = true ∧ (saOn 0 1).rf (egSub 0 0x30) 1 0 = 0 ∧ (saOn 0 1).rf (egSub 0 (0x400 + 0x40 * 1)) 63 32 = 0 ∧
    (after (.portSaWrite 0 1 2 77) (saOn 0 1)).reply.status = St.saInUse ∧ (after (.portSaWrite 0 0 0 0) (saOn 0 0)).reply.status = St.saInUse ∧ (after (.portSaWrite 0 1 0 0) (saOn 0 1)).reply.status = 0 :=
  ⟨⟨by decide +kernel, by decide +kernel⟩, ⟨by decide +kernel, by decide +kernel⟩, ⟨by decide +kernel, by decide +kernel⟩, by decide +kernel⟩

/-! ## Device time and clocks -/

/-- Sub-port 0 of the state `st` of PTP, with peer-to-peer delay or not. -/
def ptpS (st : Nat) (p2p : Bool) : State := ((eth 0).setRf (egSub 0 0) 21 20 st).setRb (egSub 0 0) 19 p2p
theorem test_hyp_MastersSend : (ptpS 1 false).ptpState 0 = 1 ∧ (ptpS 1 false).linkUp 0 = true ∧ (ptpS 2 false).ptpState 0 ≠ 1 ∧ (ptpS 2 true).rb (egSub 0 0) 19 = true ∧ (ptpS 2 false).ptpState 0 = 2 ∧
    (ptpS 1 true).ptpState 0 ≠ 0 ∧ (ptpS 1 false).rb (egSub 0 0) 19 = false := by decide +kernel
/-- A message of type `t`, number 7, with a body that begins with `b`. -/
def ptpF (t : Nat) (b : List Byte) : InFrame := ⟨0, 7, 5, none, none, toBe 1 t ++ [0x12] ++ toBe 2 54 ++ List.replicate 26 0 ++ toBe 2 7 ++ [0, 0] ++ b ++ List.replicate (20 - b.length) 0, 400, 68⟩
def hears (s : State) (f : InFrame) : State := s.withNet (s.net.withPtpIn [f])
theorem test_hyp_DelaysAreMeasured : pType (ptpF 1 []).bytes = 1 ∧ pType (ptpF 2 []).bytes = 2 ∧ 44 ≤ (ptpF 1 []).bytes.length ∧ beAt (ptpF 1 []).bytes 1 1 % 16 = 2 ∧
    beAt (ptpF 1 []).bytes 4 1 = (ptpS 1 false).rf (egSub 0 0) 31 24 ∧ pType (ptpF 8 []).bytes ≠ 1 := by decide +kernel
theorem test_a_master_answers_a_delay_request : ((after .ptpDelayReq (hears (ptpS 1 false) (ptpF 1 []))).sub 0).egress.map (fun g => (pType g.body, slice g.body 34 10)) = [(9, toBe 6 0 ++ toBe 4 100)] := by decide +kernel
/-- The SLAVE holds Sync 7 that came at 400 qns; its delay is 30; the Follow_Up says that it left at `t` ns. -/
def slave0 (t2 t : Nat) (ever : Bool) : State :=
  let s := (ptpS 2 false).setSub 0 (SubPort.init.withPtp (SubPort.init.ptp |>.withSyncSeq 7 |>.withSyncAt (some t2) |>.withDelay (some 30)))
  (hears s (ptpF 8 (toBe 6 0 ++ toBe 4 t))).setRb 0x90018 33 ever
theorem test_hyp_TimeIsDisciplined : (let s := slave0 400 5 true
    let f := ptpF 8 (toBe 6 0 ++ toBe 4 5)
    s.net.ptpIn = [f] ∧ 44 ≤ f.bytes.length ∧ beAt f.bytes 1 1 % 16 = 2 ∧ beAt f.bytes 4 1 = s.rf (subCfg 0) 31 24 ∧ pType f.bytes = 8 ∧ s.ptpState 0 = 2 ∧
      (s.sub 0).ptp.syncAt = some 400 ∧ pSeq f.bytes = (s.sub 0).ptp.syncSeq ∧ (s.sub 0).ptp.delay = some 30 ∧
      (400 : Int) * 2 ^ 14 - ((((beAt f.bytes 34 6 * 1000000000 + beAt f.bytes 40 4) * 4 : Nat) : Int) * 2 ^ 14 + (s.sub 0).ptp.syncCorr + sext 64 (beAt f.bytes 8 8)) = 380 * 2 ^ 14) ∧
    (slave0 8000 5 false).rb 0x90018 33 = false ∧ ¬((8000 - 20 - 30 : Int).natAbs ≤ 4000) := by decide +kernel
/-- An offset of 7950 qns before the first lock steps device time back. -/
theorem test_a_large_offset_steps : (after .ptpSync ((slave0 8000 5 false).withTime (2 ^ 32 * 10000))).time = 2 ^ 32 * (10000 - 7950) := by decide +kernel
theorem test_hyp_LossOfLockIsLogged : (let s := ((eth 0).setRb 0x90018 32 true).withTime (2 ^ 32 * (4 * 4000000000))
    s.rb 0x90018 32 = true ∧ sext 4 (s.rf 0x90010 3 0) = -3 ∧ (s.withPtp (s.ptp.withLastSync (some 5))).ptp.lastSync = some 5 ∧ 5 + 4 * (4000000000 / 2 ^ 3) ≤ s.now ∧ ¬s.now < 5 + 4 * (4000000000 / 2 ^ 3)) ∧
    (eth 0).rb 0x90018 32 = false ∧ (eth 0).now < 5 + 4 * (4000000000 / 2 ^ 3) := by decide +kernel
theorem test_hyp_DomainsStopAndWake : realDomain (.array 16) = false ∧ realDomain (.ddr 15) = true ∧ realDomain .hub = true ∧ ClockDomain.ddr 15 ∉ (eth 0).pwr.stopped ∧
    StopsWhen ((eth 0).setRf 0xD0008 2 0 4) .hub ∧ ¬StopsWhen (eth 0) .hub ∧ StopsWhen (((eth 0).setRf 0xD0008 2 0 1)) (.ddr 15) ∧ StopsWhen (eth 0) (.portTx 1) ∧ StopsWhen (eth 0) (.portRx 1) ∧
    ¬StopsWhen (eth 0) (.portTx 0) := by
  unfold StopsWhen; decide +kernel
theorem test_hyp_StaysStopped : StaysStopped ((eth 0).setRf 0xD0008 2 0 1) (.array 0) ∧ ¬StaysStopped ((eth 0).setRf 0xD0008 2 0 1) (.hbm 0) ∧
    StaysStopped ((eth 0).setRf 0xD0008 2 0 1) (.hbm 1) ∧ ¬StaysStopped ((eth 0).setRf 0xD0008 2 0 2) (.array 0) ∧ StaysStopped ((eth 0).setRf 0xD0008 2 0 4) .hub := by
  unfold StaysStopped; decide +kernel
theorem test_hyp_ArrayClocks : RegOpen (live State.reset) (0xD0100 + 8 * 15) ∧ fld (reg [(0, 31)]) 7 0 < 32 ∧ 132 < fld (reg [(0, 133)]) 7 0 ∧ 32 ≤ fld (reg [(0, 32)]) 7 0 ∧ fld (reg [(0, 132)]) 7 0 ≤ 132 ∧
    (let s := (live State.reset).withPwr ((live State.reset).pwr.withChanging [15])
     15 ∈ s.pwr.changing ∧ s.rf 0xD0008 2 0 = 0 ∧ s.glare.run = none ∧ 14 ∉ s.pwr.changing) :=
  ⟨⟨by decide +kernel, by decide +kernel⟩, by decide +kernel⟩

/-! ## Resets, bring-up, power and temperature -/

def asked (c : Bool) (n : Nat) (s : State) : State := s.withBoot (s.boot.withReset (some (c, n)))
theorem test_hyp_ResetsAreAskedFor : RegOpen (live State.reset) 0x10020 ∧ State.reset.rf 0xD0008 2 0 ≠ 4 ∧ State.reset.boot.ph ≠ .off ∧ State.reset.boot.reset = none ∧
    (asked true 1 State.reset).boot.reset = some (true, 1) ∧ (State.reset.setRf 0xD0008 2 0 4).rf 0xD0008 2 0 = 4 ∧
    (after .hubResetWarm (asked true 1 (live State.reset))).boot.reset = some (true, 1) ∧ (after .hubResetCold (asked false 2 (live State.reset))).boot.reset = some (true, 3) :=
  ⟨⟨by decide +kernel, by decide +kernel⟩, by decide +kernel⟩
theorem test_hyp_ResetsComeAbout : (State.reset.rb 0x10028 4 = false) ∧ (State.reset.setRb 0x10028 4 true).rb 0x10028 4 = true ∧ (∀ n, n < 16 → State.reset.rf (0xD0200 + 8 * n) 7 0 < 85) ∧
    (∀ i, i < 4 → State.reset.rf 0xD0280 (8 * i + 7) (8 * i) < 85) ∧ ¬(State.reset.setRf 0xD0280 31 24 85).rf 0xD0280 (8 * 3 + 7) (8 * 3) < 85 ∧
    State.reset.rb 0xC0050 16 = false ∧ State.reset.trust.floor = none ∧ (∀ t ∈ State.reset.fused, t < tileCount) ∧ State.reset.glare.run = none := by decide +kernel
/-- A warm reset keeps T1 and not hub SRAM, and a suspect tile. -/
theorem test_a_warm_reset_keeps_memory :
    let s := (asked false 2 State.reset).setRb 0x10028 4 true |>.withMem [(memKey 1 0x100, 5), (memKey 2 0x100, 7)] |>.setTile 9 (Tile.init.withSuspect true)
    (after .warmReset s).rdMem (memKey 1 0x100) 1 = [0] ∧ (after .warmReset s).rdMem (memKey 2 0x100) 1 = [7] ∧ ((after .warmReset s).tile 9).suspect = true ∧ (after .warmReset s).boot.ph = .held := by decide +kernel
theorem test_hyp_WarmBringupBegins : (State.reset.withBoot (BootSt.init.withPh .held)).boot.ph = .held ∧ State.reset.boot.ph ≠ .held ∧ State.reset.boot.ph ≠ .off ∧
    (after .warmBringup ((State.reset.withBoot (BootSt.init.withPh .held)).setRf (0x41010 + 0x20 * 63) 1 0 2)).rf (0x41010 + 0x20 * 63) 1 0 = 3 := by decide +kernel
/-- EFNIL is ready, and nothing else; APPLY was written. -/
def early : State := State.reset.setRb 0x10000 0 true |>.setRb 0x10040 1 true
theorem test_hyp_FunctionsBecomeReady : early.boot.ph = .run ∧ early.rf 0xD0008 2 0 ≠ 4 ∧ early.rb 0x10000 0 = true ∧ early.isReady 2 = false ∧ early.hasFailed 99 = false ∧ early.rb 0x10040 1 = true ∧ State.reset.rb 0x10000 0 = false ∧
    (after (.functionReady 63 2048) early).rf 0x10578 9 0 = 0 ∧ (after (.functionReady 63 512) early).rf 0x10578 9 0 = 512 ∧ (after (.functionReady 2 0) early).rf 0x10030 2 0 = 1 ∧
    (after (.functionReady 16 0) (early.setRb 0x10040 1 false)).isReady 16 = false ∧ (after (.functionReady 16 0) early).isReady 16 = true ∧ (after (.trainingFailed 16) early).hasFailed 32 = true ∧
    (after (.functionReady 47 0) (early.setReg 0x10000 (reg [(0, 9), (16, 2 ^ 31 - 1)]))).rb 0x10028 4 = true := by decide +kernel
theorem test_hyp_ImagesAreVerified :
    (let s := (early.setRf 0x10030 2 0 3 |>.setRb 0x10000 1 true).withBoot (BootSt.init.withTotal (some 512))
     s.boot.total = some 512 ∧ s.rf 0x10030 2 0 = 3 ∧ s.rb 0x10000 1 = true ∧ (s.judgeImageArea 512).isLeft = true ∧ (after .imageVerify s).rf 0x10030 7 5 = 1) ∧
    RegOpen (live State.reset) 0x10038 ∧ (live State.reset).boot.opened = false ∧ ((live State.reset).withBoot (BootSt.init.withOpened true)).boot.opened = true :=
  ⟨by decide +kernel, ⟨by decide +kernel, by decide +kernel⟩, by decide +kernel, by decide +kernel⟩
theorem test_hyp_DarkListIsApplied : RegOpen (live State.reset) 0x10040 ∧ (State.reset.setRb (0x10100 + 2303 / 64 * 8) (2303 % 64) true).rb (0x10100 + 2303 / 64 * 8) (2303 % 64) = true ∧
    State.reset.rb 0x10100 0 = false := ⟨⟨by decide +kernel, by decide +kernel⟩, by decide +kernel, by decide +kernel⟩

theorem test_hyp_PowerTargets : RegOpen (live State.reset) 0xD0000 ∧ (live State.reset).rf 0xD0008 2 0 = 0 ∧ RegOpen ((live State.reset).setRf 0xD0008 2 0 1) 0xD0000 ∧
    DimWaits ((live State.reset).setRb 0x30000 0 true) ∧ (after .pwrTargetDim ((live State.reset).setRb 0x30000 0 true)).reply.status = St.pwrBusy ∧ ¬DimWaits (live State.reset) ∧
    (after .pwrTargetLit ((live State.reset).setRf 0xD0008 2 0 2)).pwr.wantLit = true :=
  ⟨⟨by decide +kernel, by decide +kernel⟩, by decide +kernel, ⟨by decide +kernel, by decide +kernel⟩, .inr (.inr (.inr (.inr (.inr (.inl (by decide +kernel)))))), by decide +kernel,
    by
      unfold DimWaits
      rintro (⟨g, c, hg, hc, h⟩ | ⟨n, hn, h⟩ | h)
      · have : ∀ g, g < 16 → ∀ c, c < 8 → ¬(((live State.reset).sec g c).active = true ∨ ((live State.reset).sec g c).st = .loading) := by decide +kernel
        exact this g hg c hc h
      · have : ∀ n, n < 16 → ¬((live State.reset).prismQ n ≠ [] ∨ ((live State.reset).tintU n).jobs ≠ []) := by decide +kernel
        exact this n hn h
      · revert h
        decide +kernel, by decide +kernel⟩
theorem test_hyp_DimBeginsAndEnds : (State.reset.setRf 0xD0008 2 0 2).rf 0xD0008 2 0 = 2 ∧ (State.reset.setRf 0xD0008 2 0 3).rf 0xD0008 2 0 = 3 ∧ State.reset.rf 0xD0008 2 0 ≠ 2 ∧
    (after .dimEntered ((State.reset.setRf 0xD0008 2 0 2).withPwr (PwrSt.init.withWantLit true))).rf 0xD0008 2 0 = 3 := by decide +kernel
theorem test_hyp_PinsAreNoted : State.reset.rb 0xD0008 3 = false ∧ (State.reset.setRb 0xD0008 3 true).rb 0xD0008 3 = true ∧ State.reset.boot.ph ≠ .off ∧ State.reset.glare.run = none := by decide +kernel
/-- At the cap of 100 W: samples of 90 W and 110 W average 100. -/
def capped : State := (live State.reset).setReg 0xD0010 (reg [(0, 100), (16, 50)]) |>.withPwr (PwrSt.init.withSamples [90])
theorem test_hyp_PowerIsSampled : capped.boot.ph ≠ .off ∧ capped.rf 0xD0010 12 0 = 100 ∧ capped.rf 0xD0008 2 0 = 0 ∧ capped.glare.run = none ∧ 15 ∉ capped.pwr.changing ∧ (∀ t, (15, t) ∉ capped.pwr.hot) ∧
    capped.pwr.hotOther = false ∧ capped.rb 0xD0008 6 = false ∧ ((List.replicate 100 300)[99]? = some 300) ∧
    (capped.withPwr (PwrSt.init.withHistory (List.replicate 100 3000))).pwr.history[99]? = some 3000 := ⟨by decide +kernel, by decide +kernel, by decide +kernel, by decide +kernel, by decide +kernel, fun _ => List.not_mem_nil, by decide +kernel, by decide +kernel, by decide +kernel, by decide +kernel⟩
/-- Readings of 60 °C, but those of die 3 and its stack. -/
def temps (d h : Nat) : Temps := ⟨(List.replicate 16 60).set 3 d, (List.replicate 16 60).set 3 h, 60, 60, 60, 60, List.replicate 16 50⟩
theorem test_hyp_TemperaturesAct : State.reset.boot.ph ≠ .off ∧ State.reset.rf 0xD0008 2 0 ≠ 4 ∧ (State.reset.setRf 0xD0008 2 0 4).rf 0xD0008 2 0 = 4 ∧ 120 ≤ (temps 120 60).cd.getD 3 0 ∧ 105 ≤ (temps 60 105).hbm.getD 3 0 ∧
    (∀ x ∈ [(temps 106 60).hd, (temps 106 60).md0, (temps 106 60).md1, (temps 106 60).od], x < 105) ∧ (∀ n, n < 16 → (temps 106 96).cd.getD n 0 < 120 ∧ (temps 106 96).hbm.getD n 0 < 105) ∧
    105 ≤ (temps 105 60).cd.getD 3 0 ∧ 103 < (temps 104 60).cd.getD 3 0 ∧ State.reset.pwr.hotOther = false ∧
    ((State.reset.withPwr (PwrSt.init.withHot [(3, 7)])).pwr.hot.find? (fun h => h.1 == 3)) = some (3, 7) := by decide +kernel
theorem test_hyp_SensorsAnswer : (after (.i3cRequest (.reading 20)) (State.reset.setReg 0xD0280 (reg [(0, 40), (8, 41), (16, 39), (24, 30)]))).pwr.i3c = [(.reading 20, some 41)] ∧
    (after (.i3cRequest (.reading 54)) State.reset).pwr.i3c = [(.reading 54, none)] := by decide +kernel

/-! ## Errors, glare, trust, steps -/

/-- The error log of two records at the start of T1. -/
def logOn : State := (live State.reset).setReg (t1Carve 0 2) (reg [(16, 128)]) |>.setReg 0xB0000 (BitVec.ofNat 64 (0x3FFF * 2 ^ 50 + 2 ^ 47)) |>.setReg 0xB0008 (reg [(0, 1), (5, 1)])
def recOf (c n : Nat) (t : Nat) : List Byte := toLe 8 t ++ toLe 1 c ++ [5, 0, 0] ++ toLe 2 n ++ List.replicate 50 0
theorem test_hyp_WordsAreScrubbed : (live State.reset).inSpace 1 64 1 = true ∧ (live State.reset).memReady 1 64 = true ∧ (live State.reset).rf 0xD0008 2 0 ≠ 1 ∧ (live State.reset).inSpace 2 (2 ^ 36 - 1) 1 = false ∧
    (live State.reset).inSpace 2 64 1 = true ∧ 2 ^ 46 * 1 + 64 ∉ (live State.reset).bad ∧ 2 ^ 46 * 1 + 64 ∈ ((live State.reset).withBad [2 ^ 46 + 64]).bad ∧
    (after (.scrub 1 (2 ^ 29 + 40) .lost) (live State.reset)).rb 0x10000 3 = false ∧ (live State.reset).logs.opened = [] ∧
    ((after (.scrub 2 64 (.fixed 1 0)) (after (.scrub 2 64 (.fixed 1 0)) (live State.reset))).logs.opened.map (fun x => leAt x 12 2)) = [2] := by decide +kernel
theorem test_hyp_DeviceIsErased : (let s := (live State.reset).setReg 0x40000 (reg [(0, 1), (16, 5)])
    let s := s.withNet (s.net.withEcc ((List.range 15).map (fun i => ⟨0, 0, 3, 2 ^ 46 * 3 + 4096 + 64 * i, 0⟩)))
    s.rb (0xB0300 + s.t2Chan 0 * 8) 4 = false ∧ 15 ≤ (s.net.ecc.filter (fun h => decide (s.now - h.time ≤ 4000000000 ∧ h.chan = s.t2Chan 0 ∧ h.sub = 0 ∧ h.dev = 3 ∧ h.word ≠ 2 ^ 46 * 3))).length) := by decide +kernel
theorem test_hyp_OpenRecordsAreWritten : leAt (recOf 0 0xFFFF 0) 12 2 = 0xFFFF ∧ leAt (recOf 0 1 5) 0 8 = 5 ∧ ¬(4000000 + leAt (recOf 0 1 5) 0 8 ≤ logOn.now) ∧
    (after .correctedRecordFlush (logOn.withLogs ⟨[], [recOf 0 1 0, recOf 0 0xFFFF 0], 0, [], []⟩)).logs.opened = [recOf 0 1 0] := by decide +kernel
theorem test_hyp_StoreIsDrained : logOn.logUsable = true ∧ (live State.reset).logUsable = false ∧ logOn.ringHeld 0xB0010 + 2 ≤ 2 ^ logOn.rf 0xB0008 4 0 ∧ logOn.rb 0xB0008 7 = false ∧
    (recOf 1 1 0).length = 64 ∧ ¬(logOn.setRf 0xB0010 63 32 2).ringHeld 0xB0010 < 2 ^ logOn.rf 0xB0008 4 0 ∧
    (after .errorStoreDrain (logOn.withLogs ⟨[recOf 1 1 0, recOf 2 1 0], [], 7, [], []⟩)).logs.seq = 9 ∧
    (List.replicate 32 (recOf 1 1 0)).length = 32 := by decide +kernel
theorem test_hyp_FirmwareRecords : RegOpen (live State.reset) 0xB0020 ∧
    (let s := logOn.withMem ((memKey 1 (2 ^ 29 + 64 + 8), 2) :: (memKey 1 (2 ^ 29 + 64 + 9), 0x0E) :: [])
     leAt (s.rdMem (2 ^ 46 + 2 ^ 29 + 64) 64) 9 1 = 0x0E ∧ (after (.hubErrInject 64) s).rf 0xB0018 39 32 = 1) ∧ (after (.hubErrInject (BitVec.ofNat 64 (2 ^ 26 - 63))) logOn).reply.status = St.paramRange :=
  ⟨⟨by decide +kernel, by decide +kernel⟩, by decide +kernel, by decide +kernel⟩
theorem test_hyp_ErasuresEnd : RegOpen (live State.reset) (0xB0300 + 15 * 8) ∧ bit (reg [(12, 1)]) 12 = true ∧ bit (reg [(0, 5)]) 4 = false ∧ bit (reg [(0, 5)]) 12 = false :=
  ⟨⟨by decide +kernel, by decide +kernel⟩, by decide +kernel, by decide +kernel, by decide +kernel⟩

/-- A READY glare package of one point (DF 5, TJ 80, REPEAT 1, template 0) and one template. -/
def glareCells : List (Nat × Byte) :=
  let k := memKey 1 (2 ^ 29 + 2 ^ 25)
  [(k + 8, 0), (k + 12, 1), (k + 14, 1), (k + 257, 5), (k + 258, 80), (k + 259, 1), (k + 260, 1)].filter (fun e => e.2 != 0)
def glare0 : State := ((live State.reset).setRf 0xB1008 2 0 3).withMem glareCells
def run0 (ph : GlarePh) : GlareRun := ⟨1, 0, ph, [0], true, [0], [], [], [], [], [(0, 120)], 0, 0, 0⟩
def gs (ph : GlarePh) : State := glare0.withGlare (GlareSt.init.withRun (some (run0 ph)))
/-- Region 0 holds tile 0, whose context 7 runs; with a fault or not. -/
def busyG (s : State) (f : Option SecFault) : State := s.setSec 0 7 { s.sec 0 7 with st := .running, tiles := [0], fault := f }
theorem test_hyp_GlarePackages : (let s := ((live State.reset).setRf 0xB1008 2 0 2).withGlare (GlareSt.init.withTotal (some 4896))
     s.glare.total = some 4896 ∧ s.rf 0xB1008 2 0 = 2 ∧ s.rb 0x10000 1 = true ∧ (after .glarePackageVerify s).rf 0xB1008 5 3 = 1) ∧ (live State.reset).glare.total = none := by decide +kernel
theorem test_hyp_GlareRunsStart : RegOpen (live State.reset) 0xB1000 ∧ (gs .verdict).glare.run ≠ none ∧ glare0.glare.run = none ∧ glare0.rf 0xB1008 2 0 = 3 ∧ (live State.reset).rf 0xB1008 2 0 ≠ 3 ∧
    (after (.glareStart (reg [(0, 1)])) (busyG glare0 none)).reply.status = St.glareScope ∧ (after (.glareStart (reg [(0, 1)])) (gs .verdict)).reply.status = St.glareActive ∧
    (after (.glareStart (reg [(0, 1)])) (live State.reset)).reply.status = St.glarePkg :=
  ⟨⟨by decide +kernel, by decide +kernel⟩, by decide +kernel⟩
theorem test_hyp_PointsAreHeatedAndRun : (gs .settling).glare.run = some (run0 .settling) ∧ pointByte (gs .settling) 0 2 ≠ 0 ∧ pointByte (gs .settling) 0 3 = 1 ∧
    (List.range (leAt ((gs .settling).rdMem (2 ^ 46 + 2 ^ 29 + 2 ^ 25 + 14) 2) 0 2)).filter (fun k => decide (bitsAt (pointByte (gs .settling) 0 4 + 256 * pointByte (gs .settling) 0 5) k 1 = 1)) = [0] ∧
    (gs .dwelling).glareBusy (run0 .dwelling) = false ∧ (busyG (gs .dwelling) none).glareBusy (run0 .dwelling) = true ∧ (after .glareTjReached ((gs .heating).setRf 0xD0200 7 0 80)).glare.run = some (run0 .dwelling) := by decide +kernel
theorem test_hyp_TemplateRunsEnd : (run0 .verdict).counts = true ∧ (run0 .verdict).todo.length = 1 ∧ (run0 .verdict).point < 64 ∧ (busyG (gs .verdict) none).glareBusy (run0 .verdict) = true ∧
    ((busyG (gs .verdict) none).sec 0 7).active = true ∧ 0 ∈ ((busyG (gs .verdict) none).sec 0 7).tiles ∧ ((busyG (gs .verdict) none).sec 0 7).reported.contains 0 = false ∧ (run0 .verdict).point + 1 = (gs .verdict).glarePoints := by decide +kernel
theorem test_hyp_GlareRunsEnd : (gs .restoring).glare.run = some (run0 .restoring) ∧ (run0 .restoring).former.map (·.1) = [0] ∧ bitsAt (run0 .restoring).regions 0 1 = 1 := by decide +kernel

/-- The fuses and the state of SEC read `v`. -/
def sec0 (v : W64) : State :=
  let s := live State.reset
  s.withRegs (s.regs.filter (fun e => decide (e.1 < 0xC0000)) ++ (0xC0000, v) :: s.regs.filter (fun e => decide (0xC0000 < e.1)))
theorem test_hyp_ReportsAreMade : RegOpen (sec0 0) 0xC0008 ∧ (sec0 0).rb 0xC0000 2 = false ∧ (sec0 0).rb 0x10000 1 = true ∧
    fld (reg [(0, 2 ^ 26 - 5184)]) 25 0 % 64 = 0 ∧ fld (reg [(0, 2 ^ 26 - 5184)]) 25 0 + 5152 ≤ 2 ^ 26 ∧ ¬(2 ^ 26 - 5120 + 5152 ≤ 2 ^ 26) ∧ (sec0 4).rb 0xC0000 2 = true ∧
    ((sec0 4).withTrust ((sec0 4).trust.withReport (some (0x3000000, [1])))).trust.report = some (0x3000000, [1]) ∧ (sec0 0).trust.report = none :=
  ⟨⟨by decide +kernel, by decide +kernel⟩, by decide +kernel, by decide +kernel, by decide +kernel, by decide +kernel, by decide +kernel, by decide +kernel, by rfl, by decide +kernel⟩
theorem test_hyp_DebugIsClosed : RegOpen (sec0 0) 0xC0050 ∧ RegOpen (sec0 0) 0xC0058 ∧ fld (reg [(0, 1), (8, 0xD5)]) 15 8 = 0xD5 ∧ bit (reg [(0, 1), (8, 0xD5)]) 0 = true ∧
    (after (.blow (.core 0) (reg [(0, 1), (8, 0xD5)])) (sec0 0)).reply.status = St.regDenied ∧ (after (.blow .efnil (reg [(0, 1), (8, 0xD5)])) (sec0 0)).trust.closed = true :=
  ⟨⟨by decide +kernel, by decide +kernel⟩, ⟨by decide +kernel, by decide +kernel⟩, by decide +kernel, by decide +kernel, by decide +kernel, by decide +kernel⟩
theorem test_hyp_DebugIsReached : (sec0 0).rb 0xC0000 0 = false ∧ (sec0 1).rb 0xC0000 0 = true := by decide +kernel
theorem test_hyp_FloorsRise : (let s := (sec0 (reg [(8, 2)])).withTrust ((sec0 0).trust.withFwver (2 ^ 16 * 3))
    s.rf 0xC0000 15 8 < 3 ∧ 3 ≤ s.trust.fwver / 2 ^ 16 % 2 ^ 16 ∧ (after (.secFloorCtlWrite (.core 0) (reg [(0, 3), (8, 0xD5)])) s).trust.floor = some 3 ∧
      (after (.secFloorCtlWrite (.core 0) (reg [(0, 4), (8, 0xD5)])) s).reply.status = St.paramRange ∧
      (after (.secFloorCtlWrite (.core 0) (reg [(0, 2), (8, 0xD5)])) s).reply.status = St.paramRange) := by decide +kernel

theorem test_hyp_Steps : (State.reset.withPending [Instr.eject]).pending = Instr.eject :: [] ∧ (State.reset.withPending [Instr.eject, Instr.nop 2303]).queueOk = true ∧ State.reset.memOk = true ∧
    (State.reset.withPending [Instr.nop 2304]).queueOk = false := by decide +kernel
def runs0 (s : State) : Bool := decide ((s.tile 0).run = some (0, 0)) && decide ((s.tile 0).u.issue = .running)
/-- Beyond the share, an opcode that no table lists, a two-word instruction at its end, beyond a body, a false predicate, a reserved bit. -/
theorem test_hyp_InstructionsAreGated : runs0 (at2 0 0 0 0) = true ∧
    (let y := { ctx0 with pc := 2 }
     ¬(y.pc + 0 < fld y.pstore 28 16) ∧ ({ ctx0 with pc := 1 } : TileCtx).pc + 0 < fld ctx0.pstore 28 16 ∧ ¬(({ ctx0 with pc := 1 } : TileCtx).pc + 1 < fld ctx0.pstore 28 16)) ∧
    0x0E ∉ tileOps.map (·.2) ∧ 0x11 ∈ tileOps.map (·.2) ∧ fld (word 0x11 [(52, 1)]) 63 56 = 0x11 ∧ bit (word 0x11 [(52, 1)]) 52 = true ∧ reservedSet (word 0x01 [(0, 1)]) 0 = true ∧ tileOps.length = 45 ∧
    ((after (.endInstr 0) (at2 (word 0x0E []) 0 1 2)).sec 0 0).st = .empty := by decide +kernel
/-- Region 0 runs its context 0 on tiles 0 and 1. -/
def pair0 (w : W64) : State :=
  let s := (at2 w 0 1 2).setTile 1 (tileOf 0 0 ctx0 Units.init)
  s.setSec 0 0 { s.sec 0 0 with st := .running, tiles := [0, 1] }
theorem test_hyp_ExceptionsFaultTheSection : runs0 (pair0 0) = true ∧ ((pair0 0).sec 0 0).active = true ∧ ((pair0 0).sec 0 0).fault = none ∧
    ((after (.add 0) (pair0 (word 0x0E []))).sec 0 0).fault = some ⟨1, Exc.illegalOp, 0⟩ ∧ ((after (.add 0) (pair0 (word 0x0E []))).tile 1).u.issue = .halted := by decide +kernel

/-! ## What the completion statements and the times of the rules suppose -/

/-- Everything that `Readable` asks, as one computation. -/
def readable (s : State) (g : Option Nat) (a n : Nat) : Bool :=
  s.thisChip (gaChip a) && decide (0 < n ∧ a % 4096 + n ≤ 4096) && decide (s.homeBase 0 = 0 ∧ s.homeBase 1 = 0) && decide (s.bad = [] ∧ s.net.unitAns = [] ∧ s.net.busy = []) &&
    decide (s.net.moves = [] ∧ s.net.ops = []) && decide (s.memCheck (unitReq s 1 a n [] g) = 0)
theorem readable_readable (s : State) (g : Option Nat) (a n : Nat) (h : readable s g a n = true) : Readable s g a n := by
  simp only [readable, Bool.and_eq_true, decide_eq_true_eq] at h
  obtain ⟨⟨⟨⟨⟨h1, h2, h3⟩, h4, h5⟩, h6, h7, h8⟩, h9, h10⟩, h11⟩ := h
  exact ⟨h1, h2, h3, h4, h5, h6, h7, h8, h9, h10, h11⟩
theorem test_hyp_PackageJobsComplete :
    (let s := pkg0 2 0 (pkgJ 2 .posted)
     let d := s.rdMem (gaKey (ga1 0x100)) 64
     readable s none (ga1 0x100) 64 = true ∧ s.pkgDescOk d = true ∧ kOp d = 2 ∧ readable s (some (kRegion d)) (kPkg d) 256 = true ∧ kPkg d ≠ 0) ∧
    (let s := pkg0 2 0 (pkgJ 2 .running)
     (s.pkgJudge (pkgJ 2 .running)).toOption = some (0, s)) ∧ (pkg0 0 0 (pkgJ 0 .ended)).pkg.jobs = [pkgJ 0 .ended] := by decide +kernel
/-- An INSTALL, VERIFY or SWAP of a package of 512 bytes without layers, parts and sections. -/
def bareJ (op : Nat) : PkgJob := (pkgJ op .running).withHeader (slice (bytes64 [(16, 512)]) 0 256)
theorem test_hyp_PackagesComplete : ∀ op, op < 3 → (let s := pkg0 op 0 (bareJ op)
    kChain (bareJ op).desc = false ∧ kOp (bareJ op).desc = op ∧ s.pkgWork (bareJ op) = [] ∧ hBytes (bareJ op).header - 256 = 256 ∧
      readable s (some (kRegion (bareJ op).desc)) (kPkg (bareJ op).desc + 256) 256 = true ∧ hLayers (bareJ op).header = 0 ∧ kModel (bareJ op).desc < s.rf 0x30508 10 0 ∧
      s.homeBase 0 = 0 ∧ s.homeBase 1 = 0 ∧ s.bad = [] ∧ s.memCheck (unitReq s 2 (s.modelBase.toNat + 64 * kModel (bareJ op).desc) 64 [] none) = 0) := by decide +kernel
/-- The last chunk, of 512 bytes, of a VERIFY at the end of its chain. -/
def lastJ : PkgJob := (bareJ 2).withDesc (bytes64 [(20, 2), (21, 2), (22, 2), (24, 5), (26, 0x3FFF), (8, ga2 0x400000)])
theorem test_hyp_ChainsComplete : (let s := pkg0 2 0 lastJ
    kFrom lastJ.desc = 5 ∧ kOp lastJ.desc = 2 ∧ kPkg lastJ.desc = 0 ∧ kNext lastJ.desc = 0x3FFF ∧ hBytes lastJ.header = 512 ∧ kSlots lastJ.desc = 2 ∧
      readable s (some (kRegion lastJ.desc)) (kStage lastJ.desc) 512 = true ∧ s.chainLate (lastJ.withSeen (s.rdMem (gaKey (kStage lastJ.desc)) 512)) 0 512 = 0) := by decide +kernel
theorem test_hyp_VeilsComplete : (let s := veil0 1
    s.homeBase 0 = 0 ∧ s.homeBase 1 = 0 ∧ s.bad = [] ∧ s.memCheck (unitReq s 2 (s.veilBase.toNat + 64 * 0) 64 [] none) = 0) := by decide +kernel
theorem test_hyp_TintJobsComplete :
    readable (tint0 .posted 0 [] []) none (ga1 0x100) 64 = true ∧ readable (tint0 .waiting 0 [] []) (some 0) (ga1 0x300) 4 = true ∧
    (tint0 .waiting 0 [] []).rdLe (gaKey (ga1 0x300)) 4 = 0 ∧ readable (tint0 .running 0 [(3, ga1 0)] []) (some 0) (ga1 0) 4096 = true ∧
    (tint0 .running 0 [(3, ga1 0)] []).pkg.placed = [] ∧ readable (tint0 .running 7 [] []) (some 0) (ga1 0x400) 8 = true := by decide +kernel
/-- A plain copy of 64 bytes from 0x200 to 0x800 of the die store, for Cavor. -/
def plain0 : State :=
  let s := region0.withMem (rec64 (memKey 1 0x100) [(0, ga1 0x200), (8, ga1 0x800), (16, 64), (25, 16), (28, 7)] ++ [(memKey 1 0x200, 9)])
  s.withNet (s.net.withCopies [⟨ga1 0x100, false, false⟩])
theorem test_hyp_OperationsComplete :
    (let d := plain0.rdMem (gaKey (ga1 0x100)) 32
     readable plain0 none (ga1 0x100) 32 = true ∧ plain0.copyBad d = false ∧ plain0.copyAddr d = 0 ∧ leAt d 24 1 = 0 ∧ copyFor d = none ∧
       readable plain0 none (ga1 0x200) 64 = true ∧ plain0.memCheck (unitReq plain0 2 (ga1 0x800) 64 (plain0.rdMem (gaKey (ga1 0x200)) 64) none) = 0 ∧
       (after (.copyJobEnd []) plain0).rdMem (memKey 1 0x800) 1 = [9]) ∧
    (let s := doing (rec32 [(0, 6), (8, ga1 0x800), (24, 1)])
     readable s (some 0) (ga1 0x800) 8 = true ∧ s.rdLe (gaKey (ga1 0x800)) 8 = 0 ∧ (s.sec 0 0).active = false ∧ (s.cmdq 0 0).dispatches = []) ∧
    (let s := doing (rec32 [(0, 7), (8, ga1 0x800), (16, 5), (24, 0xFF)])
     s.memCheck (unitReq s 2 (ga1 0x800) 8 (toLe 8 5) (some 0)) = 0 ∧ (after (.signal 0 0) s).rdMem (memKey 1 0x800) 1 = [5]) := by decide +kernel
/-- A mark, a Sync, a heated and a timed glare point, a fast training and a reset are due, each at its boundary; a domain with a token on its mesh is not idle. -/
theorem test_hyp_times : (ptpS 1 false).ptpDue 0 0 (secondsLog ((ptpS 1 false).ptpLog 0)) = true ∧
    (let s := (ptpS 1 false).setSub 0 (((ptpS 1 false).sub 0).withPtpAt [(0, 0)])
     s.ptpDue 0 0 (secondsLog (s.ptpLog 0)) = false) ∧
    (after .timeMark ((live State.reset).withPtp ((live State.reset).ptp.withTicks 160))).ptp.ticks = 0 ∧
    (after .timeMark ((live State.reset).withPtp ((live State.reset).ptp.withTicks 159))).ptp.ticks = 159 ∧
    (∀ e ∈ (run0 .heating).former, pointByte ((gs .heating).setRf 0xD0200 7 0 80) 0 2 ≤ ((gs .heating).setRf 0xD0200 7 0 80).rf (0xD0200 + 8 * e.1) 7 0) ∧
    ¬(pointByte (gs .heating) 0 2 ≤ (gs .heating).rf 0xD0200 7 0) ∧ (run0 .dwelling).since + 4000000 * pointField (gs .dwelling) 0 6 2 ≤ (gs .dwelling).now ∧
    (run0 .verdict).runAt + 4000 * pointField (gs .verdict) 0 8 4 ≤ (gs .verdict).now ∧ ¬((run0 .settling).since + 400000 ≤ (gs .settling).now) ∧
    (((eth 0).withTime (20000000 * 2 ^ 32)).sub 0).trainAt + 20000000 ≤ ((eth 0).withTime (20000000 * 2 ^ 32)).now ∧
    ((after .resetColdN (live State.reset)).boot.reset = some (true, 1) ∧ (after .resetColdN (live State.reset)).boot.due = 0) ∧
    (live State.reset).noTags = false ∧ (live State.reset).net.recalls = [] ∧ (arrives 0).flight.map (fun f => tileDie f.pos) = [0] := by decide +kernel

end Sys2Proof.Tests
end

section
/-! PROOFS. Which tile instructions execute or raise an exception, and what the scalar instructions write (R124-R129, R155, R161, R216). -/
namespace Sys2Proof.Machine

/-! ## Opcodes -/

/-- A fetch takes for legal the opcodes of Tables 4.4 and 5.2. -/
theorem legalOp_iff {o : Nat} (h : o < 256) : legalOp o = true ↔ o ∈ tileOps.map (·.2) := by
  revert o; decide +kernel

theorem legalOp_opOf_iff (w : W64) : legalOp (opOf w) = true ↔ fld w 63 56 ∈ tileOps.map (·.2) := legalOp_iff (fld_lt w 63 56)

theorem twoWords_iff {o : Nat} : twoWords o = true ↔ o ∈ [0x10, 0x11, 0x12, 0x13, 0x1A, 0x58] := List.contains_iff_mem

theorem legalOp_of_twoWords {o : Nat} (h : twoWords o = true) : legalOp o = true := by
  have hall : ∀ k ∈ [0x10, 0x11, 0x12, 0x13, 0x1A, 0x58], legalOp k = true := by decide
  exact hall o (twoWords_iff.mp h)

/-- The command issues an instruction of opcode `op`: it is `issueOp` of what the instruction does. -/
def IssuesAs (i : Nat → Instr) (op : Nat) : Prop :=
  ∀ t : Nat, ∃ f : State → Nat → Nat → W64 → W64 → Issued, ∀ s : State, exec (i t) s = issueOp op t s f

theorem issuesAs_of_mem_tileOps : ∀ e ∈ tileOps, IssuesAs e.1 e.2 := by
  simp only [tileOps, List.forall_mem_cons, List.not_mem_nil, false_implies, implies_true, and_true]
  repeat' apply And.intro
  all_goals
    intro t
    apply Exists.intro
    intro s
    dsimp only [exec, execNop, execAdd, execSub, execAnd, execOr, execXor, execSll, execSrl, execSra, execMul, execMins, execMaxs, execMinu, execMaxu,
      scalarReg, execAddi, execLi, execAndi, execOri, scalarImm, execMfs, execLdx, execPcmp, execPlog, execPcmpi, execSelx, execSelect, execMma,
      execSwap, execDrain, execFill, execRfu, execPush, execPop, execRcopy, execStrm, execRearm, execSend, execSendc, execRecv, execRecvc, execSteer,
      execLoop, execOpenAperture, execCloseAperture, execFence, execEnd]

/-! ## What a fetch gives (R111, R124, R125, R127, R180) -/

/-- The word of the program store at `pc` of the context's share, wherever the share ends; `Tile.word_inside` ties it to `Tile.word`. -/
def Tile.storeWord (x : Tile) (c pc : Nat) : W64 := Sparse.get (fun _ => 0) x.pstore (fld (x.ctx c).pstore 11 0 + pc)

section
variable {x : Tile} {c : Nat} {w w2 : W64}

theorem Tile.word_inside {pc : Nat} (h : pc < fld (x.ctx c).pstore 28 16) : x.word c pc = some (x.storeWord c pc) := if_pos h

theorem Tile.word_outside {pc : Nat} (h : ¬pc < fld (x.ctx c).pstore 28 16) : x.word c pc = none := if_neg h

theorem Tile.fetch_outside (h : x.word c (x.ctx c).pc = none) : x.fetch c = .exc Exc.pcRange := by
  simp [Tile.fetch, h]

theorem Tile.fetch_illegal (h : x.word c (x.ctx c).pc = some w) (hl : legalOp (opOf w) = false) : x.fetch c = .exc Exc.illegalOp := by
  simp [Tile.fetch, h, hl]

theorem Tile.fetch_one (h : x.word c (x.ctx c).pc = some w) (hl : legalOp (opOf w) = true) (h2 : twoWords (opOf w) = false) :
    x.fetch c = .instr w 0 1 := by
  simp [Tile.fetch, h, hl, h2]

variable (h : x.word c (x.ctx c).pc = some w) (hl : legalOp (opOf w) = true) (h2 : twoWords (opOf w) = true)
include h hl h2

theorem Tile.fetch_second_outside (h' : x.word c ((x.ctx c).pc + 1) = none) : x.fetch c = .exc Exc.pcRange := by
  simp [Tile.fetch, h, hl, h2, h']

theorem Tile.fetch_beyond_body (h' : x.word c ((x.ctx c).pc + 1) = some w2) {f : LoopFrame} (hf : x.u.loops.head? = some f)
    (hs : f.stop < (x.ctx c).pc + 2) : x.fetch c = .exc Exc.loopNest := by
  obtain ⟨fs, hfs⟩ := List.head?_eq_some_iff.mp hf
  simp [Tile.fetch, h, hl, h2, h', hfs, hs]

theorem Tile.fetch_two (h' : x.word c ((x.ctx c).pc + 1) = some w2) (hs : ∀ f, x.u.loops.head? = some f → (x.ctx c).pc + 2 ≤ f.stop) :
    x.fetch c = .instr w w2 2 := by
  cases hq : x.u.loops with
  | nil => simp [Tile.fetch, h, hl, h2, h', hq]
  | cons f fs =>
    have hf : (x.ctx c).pc + 2 ≤ f.stop := hs f (by simp [hq])
    simp [Tile.fetch, h, hl, h2, h', hq, hf]

end

/-- The instruction in front of the sequencer is whole: it lies in the share, its opcode is listed, and so does its second word, which no body of a loop
cuts off. -/
def Tile.whole (x : Tile) (c : Nat) : Prop :=
  (x.ctx c).pc < fld (x.ctx c).pstore 28 16 ∧ legalOp (opOf (x.storeWord c (x.ctx c).pc)) = true ∧
    (twoWords (opOf (x.storeWord c (x.ctx c).pc)) = true →
      (x.ctx c).pc + 1 < fld (x.ctx c).pstore 28 16 ∧ ∀ f, x.u.loops.head? = some f → (x.ctx c).pc + 2 ≤ f.stop)

/-- A whole instruction is fetched with the second word that its opcode asks for, 0 where it has none. -/
theorem Tile.fetch_whole {x : Tile} {c : Nat} (h : x.whole c) :
    x.fetch c = .instr (x.storeWord c (x.ctx c).pc)
      (if twoWords (opOf (x.storeWord c (x.ctx c).pc)) = true then x.storeWord c ((x.ctx c).pc + 1) else 0)
      (if twoWords (opOf (x.storeWord c (x.ctx c).pc)) = true then 2 else 1) := by
  obtain ⟨hshare, hlegal, hsecond⟩ := h
  by_cases ht : twoWords (opOf (x.storeWord c (x.ctx c).pc)) = true
  · obtain ⟨hshare2, hbody⟩ := hsecond ht
    rw [if_pos ht, if_pos ht]
    exact Tile.fetch_two (Tile.word_inside hshare) hlegal ht (Tile.word_inside hshare2) hbody
  · rw [if_neg ht, if_neg ht]
    exact Tile.fetch_one (Tile.word_inside hshare) hlegal (eq_false_of_ne_true ht)

/-- A fetched instruction has two words when its opcode says so, and one otherwise (R125). -/
theorem Tile.fetch_words {x : Tile} {c n : Nat} {w w2 : W64} (h : x.fetch c = .instr w w2 n) : n = if twoWords (opOf w) = true then 2 else 1 := by
  cases hw : x.word c (x.ctx c).pc with
  | none => rw [Tile.fetch_outside hw] at h; cases h
  | some v =>
    cases hl : legalOp (opOf v) with
    | false => rw [Tile.fetch_illegal hw hl] at h; cases h
    | true =>
      cases ht : twoWords (opOf v) with
      | false => rw [Tile.fetch_one hw hl ht] at h; cases h; simp [ht]
      | true =>
        cases hw2 : x.word c ((x.ctx c).pc + 1) with
        | none => rw [Tile.fetch_second_outside hw hl ht hw2] at h; cases h
        | some v2 =>
          by_cases hs : ∀ f, x.u.loops.head? = some f → (x.ctx c).pc + 2 ≤ f.stop
          · rw [Tile.fetch_two hw hl ht hw2 hs] at h; cases h; simp [ht]
          · obtain ⟨f, hf⟩ := Classical.not_forall.mp hs
            obtain ⟨hhead, hstop⟩ := Classical.not_imp.mp hf
            rw [Tile.fetch_beyond_body hw hl ht hw2 hhead (Nat.lt_of_not_le hstop)] at h; cases h

/-! ## What `issueOp` answers when the instruction takes no effect -/

section
variable {s : State} {op t g c n : Nat} {w w2 : W64} {f : State → Nat → Nat → W64 → W64 → Issued}

theorem issueOp_noSuchTile (h : tileCount ≤ t) : issueOp op t s f = .fault (.noSuchUnit "tile") := if_pos h

/-- A tile that runs no section, or whose sequencer does not run, takes no instruction. -/
theorem issueOp_idle (h : t < tileCount) (hi : (s.tile t).run = none ∨ (s.tile t).u.issue ≠ .running) : issueOp op t s f = .next s := by
  unfold issueOp
  rw [if_neg (by omega)]
  rcases hi with hrun | hissue
  · simp [hrun]
  · cases hr : (s.tile t).run with
    | none => simp [hr]
    | some gc => simp [hr, hissue]

variable (hr : s.runs t g c) (hi : (s.tile t).u.issue = .running)
include hr hi

theorem issueOp_fetchExc {code : Nat} (hf : (s.tile t).fetch c = .exc code) :
    issueOp op t s f = .next (s.tileExc t ((s.tile t).ctx c).pc code) := by
  obtain ⟨ht, hrun⟩ := hr
  unfold issueOp
  rw [if_neg (by omega)]
  simp [hrun, hi, hf]

variable (hf : (s.tile t).fetch c = .instr w w2 n)
include hf

theorem issueOp_otherOp (ho : opOf w ≠ op) : issueOp op t s f = .next s := by
  obtain ⟨ht, hrun⟩ := hr
  unfold issueOp
  rw [if_neg (by omega)]
  simp [hrun, hi, hf, ho]

theorem issueOp_notExecuted (ho : opOf w = op) (he : executes ((s.tile t).ctx c) w = false) :
    issueOp op t s f = .next (s.updTile t (fun x => x.goTo c (((s.tile t).ctx c).pc + n))) := by
  obtain ⟨ht, hrun⟩ := hr
  unfold issueOp
  rw [if_neg (by omega)]
  simp [hrun, hi, hf, ho, he]

theorem issueOp_reserved (ho : opOf w = op) (he : executes ((s.tile t).ctx c) w = true) (hc : reservedSet w w2 = true) :
    issueOp op t s f = .next (s.tileExc t ((s.tile t).ctx c).pc Exc.illegalField) := by
  obtain ⟨ht, hrun⟩ := hr
  unfold issueOp
  rw [if_neg (by omega)]
  simp [hrun, hi, hf, ho, he, hc]

end

/-- What an instruction that does not execute leaves: the sequencer goes on at the next word. -/
theorem issueOp_skips {s : State} {op t g c n : Nat} {w w2 : W64} {f : State → Nat → Nat → W64 → W64 → Issued} (hr : s.runs t g c)
    (hi : (s.tile t).u.issue = .running) (hf : (s.tile t).fetch c = .instr w w2 n) (ho : opOf w = op) (he : executes ((s.tile t).ctx c) w = false) :
    ∃ u : State, issueOp op t s f = .next u ∧ OnlyTile s u t ∧ OnlyRegs (s.tile t) (u.tile t) c ∧
      GoesOn (s.tile t) (u.tile t) c (((s.tile t).ctx c).pc + n) ∧ (∀ j, ((u.tile t).ctx c).xr j = ((s.tile t).ctx c).xr j) ∧
      ∀ j, ((u.tile t).ctx c).pr j = ((s.tile t).ctx c).pr j := by
  refine ⟨_, issueOp_notExecuted hr hi hf ho he, OnlyTile.updTile .., ?_⟩
  rw [State.tile_updTile_same]
  exact ⟨Tile.goTo_regs .., Tile.goTo_on _ _ _, fun _ => Tile.goTo_xr .., fun _ => Tile.goTo_pr ..⟩

/-! ## Raising an error leaves tiles and sections alone -/

/-- State `u` holds the tiles and the sections of `s`. -/
structure State.SameUnits (s u : State) : Prop where
  tiles : u.tiles = s.tiles
  secs : u.secs = s.secs

namespace State.SameUnits

theorem refl (s : State) : s.SameUnits s := ⟨rfl, rfl⟩

section
variable {s u : State} (h : s.SameUnits u)
include h

theorem withLogs (v : Logs) : s.SameUnits (u.withLogs v) := ⟨(withLogs_tiles u v).trans h.tiles, (withLogs_secs u v).trans h.secs⟩
theorem wrMem (k : Nat) (bs : List Byte) : s.SameUnits (u.wrMem k bs) := ⟨(wrMem_tiles u k bs).trans h.tiles, (wrMem_secs u k bs).trans h.secs⟩
theorem setReg (o : Nat) (v : W64) : s.SameUnits (u.setReg o v) := ⟨(setReg_tiles u o v).trans h.tiles, (setReg_secs u o v).trans h.secs⟩
theorem setRf (o hi lo v : Nat) : s.SameUnits (u.setRf o hi lo v) := h.setReg o _
theorem setRb (o i : Nat) (b : Bool) : s.SameUnits (u.setRb o i b) := h.setReg o _
theorem count (o hi lo n : Nat) : s.SameUnits (u.count o hi lo n) := h.setRf o hi lo _

theorem foldl_setReg (o : Nat → Nat) (v : Nat → W64) (l : List Nat) : s.SameUnits (l.foldl (fun s w => s.setReg (o w) (v w)) u) := by
  induction l generalizing u with
  | nil => exact h
  | cons a l ih => exact ih (h.setReg (o a) (v a))

theorem postEntry (k : Nat) (entry : Nat → List Byte) : s.SameUnits (u.postEntry k entry) := by
  unfold State.postEntry
  split
  · dsimp only
    split
    · exact (((h.withLogs _).wrMem ..).setRf ..).withLogs _
    · exact ((h.withLogs _).wrMem ..).setRf ..
  · exact (h.count ..).setRb ..

theorem appendRecord (r : List Byte) : s.SameUnits (u.appendRecord r) := by
  unfold State.appendRecord
  split
  · dsimp only
    split <;> split
    · exact ((((h.wrMem ..).setRf ..).withLogs _).postEntry ..).withLogs _
    · exact (((h.wrMem ..).setRf ..).withLogs _).postEntry ..
    · exact (((h.wrMem ..).setRf ..).withLogs _).withLogs _
    · exact ((h.wrMem ..).setRf ..).withLogs _
  · exact (h.count ..).setRb ..

theorem storeRecord (r : List Byte) : s.SameUnits (u.storeRecord r) := by
  unfold State.storeRecord
  split
  · exact h.withLogs _
  · dsimp only
    split
    · exact (h.count ..).withLogs _
    · exact h.count ..

theorem logRecord (r : List Byte) : s.SameUnits (u.logRecord r) := by
  unfold State.logRecord
  dsimp only
  split
  · split
    · exact (h.count ..).appendRecord r
    · exact (h.count ..).storeRecord r
  · split
    · exact (h.count ..).appendRecord r
    · exact (h.count ..).storeRecord r
  · split
    · exact ((h.count ..).foldl_setReg ..).appendRecord r
    · exact ((h.count ..).foldl_setReg ..).storeRecord r

theorem raiseError (e : ErrInfo) : s.SameUnits (u.raiseError e) := h.logRecord _

end
end State.SameUnits

/-! ## What a fault of a section leaves (R155, R216) -/

/-- The tiles of the list stop issuing for the section of context c of region g. -/
def State.haltTiles (s : State) (g c : Nat) (l : List Nat) : State := l.foldl (fun s t => s.updTile t (fun y => y.haltFor g c)) s

theorem Tile.haltFor_run (x : Tile) (g c : Nat) : (x.haltFor g c).run = x.run := by
  unfold Tile.haltFor; split <;> rfl

theorem Tile.haltFor_ctxs (x : Tile) (g c : Nat) : (x.haltFor g c).ctxs = x.ctxs := by
  unfold Tile.haltFor; split <;> rfl

theorem Tile.haltFor_issue {x : Tile} {g c : Nat} (h : x.run = some (g, c)) : (x.haltFor g c).u.issue = .halted := by
  unfold Tile.haltFor; rw [if_pos h]; rfl

section
variable (g c : Nat)

theorem State.haltTiles_secs (l : List Nat) (s : State) : (s.haltTiles g c l).secs = s.secs := by
  induction l generalizing s with
  | nil => rfl
  | cons a l ih => exact (ih _).trans (State.updTile_secs ..)

theorem State.haltTiles_other {j : Nat} {l : List Nat} (h : j ∉ l) (s : State) : (s.haltTiles g c l).tile j = s.tile j := by
  induction l generalizing s with
  | nil => rfl
  | cons a l ih =>
    have ha : j ≠ a := fun e => h (e ▸ List.mem_cons_self)
    have hl : j ∉ l := fun hj => h (List.mem_cons_of_mem a hj)
    exact (ih hl _).trans (State.tile_updTile_other s a _ ha)

/-- A tile may stand in the list twice: halting it again changes neither what it runs nor its contexts. -/
theorem State.haltTiles_keeps (j : Nat) (l : List Nat) (s : State) :
    ((s.haltTiles g c l).tile j).run = (s.tile j).run ∧ ((s.haltTiles g c l).tile j).ctxs = (s.tile j).ctxs := by
  induction l generalizing s with
  | nil => exact ⟨rfl, rfl⟩
  | cons a l ih =>
    obtain ⟨hr, hc⟩ := ih (s.updTile a (fun y => y.haltFor g c))
    have ha : ((s.updTile a (fun y => y.haltFor g c)).tile j).run = (s.tile j).run ∧ ((s.updTile a (fun y => y.haltFor g c)).tile j).ctxs = (s.tile j).ctxs := by
      by_cases h : j = a
      · subst h; rw [State.tile_updTile_same]; exact ⟨Tile.haltFor_run .., Tile.haltFor_ctxs ..⟩
      · rw [State.tile_updTile_other s a _ h]; exact ⟨rfl, rfl⟩
    exact ⟨hr.trans ha.1, hc.trans ha.2⟩

theorem State.haltTiles_issue {j : Nat} {l : List Nat} (h : j ∈ l) (s : State) (hr : (s.tile j).run = some (g, c)) :
    ((s.haltTiles g c l).tile j).u.issue = .halted := by
  induction l generalizing s with
  | nil => cases h
  | cons a l ih =>
    by_cases hl : j ∈ l
    · refine ih hl (s.updTile a (fun y => y.haltFor g c)) ?_
      exact (State.haltTiles_keeps g c j [a] s).1.trans hr
    · obtain rfl : j = a := (List.mem_cons.mp h).resolve_right hl
      have hj : (s.haltTiles g c (j :: l)).tile j = (s.tile j).haltFor g c :=
        (State.haltTiles_other g c hl _).trans (State.tile_updTile_same ..)
      rw [hj]
      exact Tile.haltFor_issue hr

end

/-- The first fault of an active section: it is noted, the section's tiles halt, and a record is raised. -/
theorem State.faultSection_first {s : State} {g c : Nat} (f : SecFault) (pc status : Nat) (ha : (s.sec g c).active = true) (hf : (s.sec g c).fault = none) :
    ∃ e, s.faultSection g c f pc status = ((s.setSec g c ((s.sec g c).withFault (some f))).haltTiles g c (s.sec g c).tiles).raiseError e := by
  unfold State.faultSection
  dsimp only
  rw [if_pos (by simp [ha, hf])]
  exact ⟨_, rfl⟩

/-- A section that does not run, or has faulted before, takes no fault. -/
theorem State.faultSection_again {s : State} {g c : Nat} (f : SecFault) (pc status : Nat) (h : (s.sec g c).active = false ∨ (s.sec g c).fault ≠ none) :
    s.faultSection g c f pc status = s := by
  unfold State.faultSection
  dsimp only
  rw [if_neg]
  rcases h with h | h <;> simp [h]

theorem State.tileExc_runs {s : State} {t g c : Nat} (h : s.runs t g c) (pc code : Nat) : s.tileExc t pc code = s.faultSection g c ⟨1, code, t⟩ pc := by
  unfold State.tileExc
  rw [h.2]

theorem State.tile_congr {s u : State} (h : u.tiles = s.tiles) (j : Nat) : u.tile j = s.tile j := by
  unfold State.tile; rw [h]

/-! ## Which instructions execute, and which raise an exception (R124-R127, R155, R161, R216) -/

theorem instructionsAreGated : InstructionsAreGated := by
  intro e he s t g c hr hi
  obtain ⟨f, hexec⟩ := issuesAs_of_mem_tileOps e he t
  simp only [hexec, ← twoWords_iff, ← legalOp_opOf_iff]
  refine ⟨rfl, rfl, fun h => ?_, fun h hl => ?_, fun h ht h1 => ?_, fun f h ht h1 hf hs => ?_, fun h ho => ?_, fun h ho hx => ?_, fun h ho hx hres => ?_⟩
  · exact issueOp_fetchExc hr hi (Tile.fetch_outside (Tile.word_outside h))
  · exact issueOp_fetchExc hr hi (Tile.fetch_illegal (Tile.word_inside h) (eq_false_of_ne_true hl))
  · exact issueOp_fetchExc hr hi (Tile.fetch_second_outside (Tile.word_inside h) (legalOp_of_twoWords ht) ht (Tile.word_outside h1))
  · exact issueOp_fetchExc hr hi (Tile.fetch_beyond_body (Tile.word_inside h) (legalOp_of_twoWords ht) ht (Tile.word_inside h1) hf hs)
  · exact issueOp_otherOp hr hi (Tile.fetch_whole h) ho
  · exact issueOp_skips hr hi (Tile.fetch_whole h) ho (eq_false_of_ne_true hx)
  · exact issueOp_reserved hr hi (Tile.fetch_whole h) ho hx hres

theorem exceptionsFaultTheSection : ExceptionsFaultTheSection := by
  intro s t g c pc code
  refine ⟨fun hr ha hf => ?_, fun hr h => ?_, fun e he => ?_⟩
  · obtain ⟨e, he⟩ := State.faultSection_first ⟨1, code, t⟩ pc 0 ha hf
    have hu : (s.setSec g c ((s.sec g c).withFault (some ⟨1, code, t⟩))).haltTiles g c (s.sec g c).tiles |>.SameUnits (s.tileExc t pc code) := by
      rw [State.tileExc_runs hr, he]
      exact (State.SameUnits.refl _).raiseError e
    have hsecs := hu.secs.trans (State.haltTiles_secs ..)
    refine ⟨?_, fun j hj hrun => ?_, fun j hj => ?_, fun k hk => ?_⟩
    · unfold State.sec
      rw [hsecs]
      exact congrArg Section.fault (Sparse.get_put_same ..)
    · rw [State.tile_congr hu.tiles]
      exact ⟨State.haltTiles_issue g c hj _ hrun, (State.haltTiles_keeps g c j _ _).2⟩
    · rw [State.tile_congr hu.tiles]
      exact State.haltTiles_other g c hj _
    · rw [hsecs]
      exact Sparse.get_put_other _ _ _ hk
  · exact (State.tileExc_runs hr ..).trans (State.faultSection_again _ _ _ h)
  · obtain ⟨f, hf⟩ := issuesAs_of_mem_tileOps e he t
    rw [hf]
    exact ⟨issueOp_noSuchTile, issueOp_idle⟩

/-- Settles O5: every instruction is `issueOp` of its opcode, whose answer the fetch and the predicate decide; an exception faults the section. -/
theorem instructionsExecuteOrRaise : Obligations.InstructionsExecuteOrRaise := ⟨instructionsAreGated, exceptionsFaultTheSection⟩

/-! ## The results of R129 as the words' own operations -/

theorem ofInt_toInt_sub (a b : W32) : BitVec.ofInt 32 (a.toInt - b.toInt) = a - b := by
  apply BitVec.eq_of_toInt_eq
  rw [BitVec.toInt_ofInt, BitVec.toInt_sub]

theorem ofNat_toNat_mul (a b : W32) : BitVec.ofNat 32 (a.toNat * b.toNat) = a * b := by
  rw [BitVec.ofNat_mul, BitVec.ofNat_toNat, BitVec.ofNat_toNat, BitVec.setWidth_eq, BitVec.setWidth_eq]

theorem ofNat_mul_two_pow (a : W32) (k : Nat) : BitVec.ofNat 32 (a.toNat * 2 ^ k) = a <<< k := by
  apply BitVec.eq_of_toNat_eq
  rw [BitVec.toNat_ofNat, BitVec.toNat_shiftLeft, Nat.shiftLeft_eq]

theorem ofNat_div_two_pow (a : W32) (k : Nat) : BitVec.ofNat 32 (a.toNat / 2 ^ k) = a >>> k := by
  rw [← Nat.shiftRight_eq_div_pow, ← BitVec.toNat_ushiftRight, BitVec.ofNat_toNat, BitVec.setWidth_eq]

theorem ofInt_div_two_pow (a : W32) (k : Nat) : BitVec.ofInt 32 (a.toInt / 2 ^ k) = a.sshiftRight k := by
  have hp : ((2 ^ k : Nat) : Int) = 2 ^ k := Int.natCast_pow 2 k
  rw [← hp, ← Int.shiftRight_eq_div_pow, ← BitVec.toInt_sshiftRight, BitVec.ofInt_toInt]

theorem ofInt_min (a b : W32) : BitVec.ofInt 32 (min a.toInt b.toInt) = if a.slt b then a else b := by
  by_cases h : a.toInt < b.toInt
  · have hm : min a.toInt b.toInt = a.toInt := by omega
    rw [hm, BitVec.ofInt_toInt, BitVec.slt_eq_decide, if_pos (decide_eq_true h)]
  · have hm : min a.toInt b.toInt = b.toInt := by omega
    rw [hm, BitVec.ofInt_toInt, BitVec.slt_eq_decide, if_neg (fun hd => h (of_decide_eq_true hd))]

theorem ofInt_max (a b : W32) : BitVec.ofInt 32 (max a.toInt b.toInt) = if a.slt b then b else a := by
  by_cases h : a.toInt < b.toInt
  · have hm : max a.toInt b.toInt = b.toInt := by omega
    rw [hm, BitVec.ofInt_toInt, BitVec.slt_eq_decide, if_pos (decide_eq_true h)]
  · have hm : max a.toInt b.toInt = a.toInt := by omega
    rw [hm, BitVec.ofInt_toInt, BitVec.slt_eq_decide, if_neg (fun hd => h (of_decide_eq_true hd))]

theorem ofNat_min (a b : W32) : BitVec.ofNat 32 (min a.toNat b.toNat) = if a.ult b then a else b := by
  by_cases h : a.toNat < b.toNat
  · have hm : min a.toNat b.toNat = a.toNat := by omega
    rw [hm, BitVec.ofNat_toNat, BitVec.setWidth_eq, BitVec.ult_eq_decide, if_pos (decide_eq_true h)]
  · have hm : min a.toNat b.toNat = b.toNat := by omega
    rw [hm, BitVec.ofNat_toNat, BitVec.setWidth_eq, BitVec.ult_eq_decide, if_neg (fun hd => h (of_decide_eq_true hd))]

theorem ofNat_max (a b : W32) : BitVec.ofNat 32 (max a.toNat b.toNat) = if a.ult b then b else a := by
  by_cases h : a.toNat < b.toNat
  · have hm : max a.toNat b.toNat = b.toNat := by omega
    rw [hm, BitVec.ofNat_toNat, BitVec.setWidth_eq, BitVec.ult_eq_decide, if_pos (decide_eq_true h)]
  · have hm : max a.toNat b.toNat = a.toNat := by omega
    rw [hm, BitVec.ofNat_toNat, BitVec.setWidth_eq, BitVec.ult_eq_decide, if_neg (fun hd => h (of_decide_eq_true hd))]

/-! ## What the two shapes of scalar instruction write -/

/-- A register instruction writes its result to x[DST] (R128, R129). -/
theorem scalarReg_writes {s : State} {op t g c n : Nat} {w w2 : W64} (f : W32 → W32 → W32) (h : s.standsAt t g c op w w2 n) :
    ∃ u, scalarReg op t s f = .next u ∧
      WroteX s u t c n (fld w 51 47) (f (((s.tile t).ctx c).xr (fld w 46 42)) (((s.tile t).ctx c).xr (fld w 41 37))) :=
  issueOp_writeX h rfl

/-- An immediate instruction writes its result to x[DST] (R125, R128, R129). -/
theorem scalarImm_writes {s : State} {op t g c n : Nat} {w w2 : W64} (f : W32 → W32 → W32) (h : s.standsAt t g c op w w2 n) :
    ∃ u, scalarImm op t s f = .next u ∧
      WroteX s u t c n (fld w 51 47) (f (((s.tile t).ctx c).xr (fld w 46 42)) (w2.setWidth 32)) :=
  issueOp_writeX h rfl

theorem scalarReg_congr {op t : Nat} {s : State} {f f' : W32 → W32 → W32} (h : ∀ a b, f a b = f' a b) :
    scalarReg op t s f = scalarReg op t s f' := by
  rw [show f = f' from funext fun a => funext (h a)]

/-- Each register operation of Table 4.4 is a `scalarReg` of its opcode and its result. -/
theorem exec_scalarOps : ∀ e ∈ scalarOps, ∀ (t : Nat) (s : State), exec (e.1 t) s = scalarReg e.2.1 t s e.2.2 := by
  simp only [scalarOps, List.forall_mem_cons, List.not_mem_nil, false_implies, implies_true, and_true]
  dsimp only [exec, execAdd, execSub, execMul, execAnd, execOr, execXor, execSll, execSrl, execSra, execMins, execMaxs, execMinu, execMaxu]
  exact ⟨fun _ _ => scalarReg_congr fun a b => BitVec.add_def a b,
    fun _ _ => scalarReg_congr fun a b => (ofInt_toInt_sub a b).symm,
    fun _ _ => scalarReg_congr fun a b => (ofNat_toNat_mul a b).symm,
    fun _ _ => rfl,
    fun _ _ => rfl,
    fun _ _ => rfl,
    fun _ _ => scalarReg_congr fun a b => (ofNat_mul_two_pow a (b.toNat % 32)).symm,
    fun _ _ => scalarReg_congr fun a b => (ofNat_div_two_pow a (b.toNat % 32)).symm,
    fun _ _ => scalarReg_congr fun a b => (ofInt_div_two_pow a (b.toNat % 32)).symm,
    fun _ _ => scalarReg_congr fun a b => (ofInt_min a b).symm,
    fun _ _ => scalarReg_congr fun a b => (ofInt_max a b).symm,
    fun _ _ => scalarReg_congr fun a b => (ofNat_min a b).symm,
    fun _ _ => scalarReg_congr fun a b => (ofNat_max a b).symm⟩

theorem scalarImm_congr {op t : Nat} {s : State} {f f' : W32 → W32 → W32} (h : ∀ a i, f a i = f' a i) :
    scalarImm op t s f = scalarImm op t s f' := by
  rw [show f = f' from funext fun a => funext (h a)]

/-- Each immediate operation of Table 4.4 is a `scalarImm` of its opcode and its result. -/
theorem exec_immediateOps : ∀ e ∈ immediateOps, ∀ (t : Nat) (s : State), exec (e.1 t) s = scalarImm e.2.1 t s e.2.2 := by
  simp only [immediateOps, List.forall_mem_cons, List.not_mem_nil, false_implies, implies_true, and_true]
  dsimp only [exec, execAddi, execLi, execAndi, execOri]
  exact ⟨fun _ _ => scalarImm_congr fun a i => BitVec.add_def a i, fun _ _ => rfl, fun _ _ => rfl, fun _ _ => rfl⟩

/-! ## Scalar instructions (R125, R128, R129) -/

theorem scalarRegisterResults : ScalarRegisterResults := by
  intro e he s t g c w w2 n h
  rw [exec_scalarOps e he]
  exact scalarReg_writes e.2.2 h

theorem immediateOps_twoWords : ∀ e ∈ immediateOps, twoWords e.2.1 = true := by
  simp [immediateOps, twoWords]

theorem scalarImmediateResults : ScalarImmediateResults := by
  intro e he s t g c w w2 n h
  have hn : n = 2 := by
    rw [Tile.fetch_words h.fetched, h.opcode, immediateOps_twoWords e he, if_pos rfl]
  subst hn
  rw [exec_immediateOps e he]
  exact ⟨rfl, scalarImm_writes e.2.2 h⟩

theorem selxResults : SelxResults := by
  intro s t g c w w2 n h
  dsimp only [exec, execSelx]
  exact issueOp_writeX h rfl

/-- Settles O6: each scalar instruction is `scalarReg` or `scalarImm` of its result, and these write x[DST] alone. -/
theorem scalarInstructionsWriteResults : Obligations.ScalarInstructionsWriteResults :=
  ⟨scalarRegisterResults, scalarImmediateResults, selxResults⟩

end Sys2Proof.Machine
end
